-- ==== Sys2Proof/Word.lean ====
section
/-!
DEFINITION. The word types of the model: bit vectors only where the spec treats a value as bits (R4, R5).
-/

namespace Sys2Proof

/-- A byte of memory. -/
abbrev Byte := BitVec 8
/-- A 32-bit unit: a lane's register word, an instruction unit. -/
abbrev Word := BitVec 32
/-- A 64-bit scalar (R168). -/
abbrev DWord := BitVec 64
/-- A 57-bit global virtual address or PC (R15, R132). -/
abbrev VAddr := BitVec 57
/-- One, two or three instruction units, word 0 lowest (R164). -/
abbrev IWord := BitVec 96

end Sys2Proof
end

