-- ==== Sys2Proof/Syntax.lean ====
section
/-!
DEFINITION. The instructions and events of the Chokor CK40, one constructor of `Instr` per row of
spec/opcode_table.json. Operands are typed: a scalar register is a `BitVec 7`, a vector register a `BitVec 11`,
a predicate a `BitVec 4`; what the types do not say is in `WellFormed`.
-/

namespace Sys2Proof

/-- Guard of a long format (R169): active where pred(gp) XOR gn. -/
structure Guard where
  gp : BitVec 4
  gn : Bool
deriving DecidableEq, Repr

/-- Type list S of R170. -/
inductive STy | s64 | n64 | s32 | n32
deriving DecidableEq, Repr
/-- Type list I of R170. -/
inductive ITy | s32 | n32 | s64 | n64 | s16x2 | n16x2 | s8x4 | n8x4
deriving DecidableEq, Repr
/-- Type list F of R170. -/
inductive FTy | f32 | f64 | f16x2 | bf16x2 | f16 | bf16
deriving DecidableEq, Repr
/-- Type list B of R170. -/
inductive BTy | b32 | b64
deriving DecidableEq, Repr
/-- Width list W of R170: 1, 2, 4, 8, 16 bytes. -/
inductive Width | w8 | w16 | w32 | w64 | w128
deriving DecidableEq, Repr
/-- Rounding field of R155; `dyn` is 0b000, the mode in FMODE.RM. -/
inductive Rm | dyn | rne | rtz | up | dn | rna | sr
deriving DecidableEq, Repr
/-- Ordering field of R171. -/
inductive Ord | plain | acq | rel | acqRel
deriving DecidableEq, Repr
/-- Integer relations of SCMP and VCMP (R188, R212), in the order of the function numbers. -/
inductive Rel | eq | ne | lt | le | gt | ge
deriving DecidableEq, Repr
/-- Relations of VFCMP (R215). -/
inductive FRel | eq | ne | lt | le | gt | ge | un
deriving DecidableEq, Repr
/-- Paths of R92. -/
inductive Path | g | t | k | c | m
deriving DecidableEq, Repr
/-- Operations of ATOM and ATOM.H (R229), in the order of FN4. -/
inductive AtomOp | add | min | max | and | or | xor | xchg | cas | fadd | minu | maxu
deriving DecidableEq, Repr
/-- Hints of MEMHINT (R228). -/
inductive Hint | none | cold | warm | hot | repl
deriving DecidableEq, Repr
/-- Integer functions of VRED and VSCAN (R223). -/
inductive RedFn | add | min | max | and | or | xor
deriving DecidableEq, Repr
/-- Floating functions of VRED and VSCAN (R223). -/
inductive FRedFn | fadd | fmin | fmax
deriving DecidableEq, Repr

/-- Function and type of VRED and VSCAN: functions 0 to 5 take list I, 6 to 8 list F (R223). -/
inductive RedOp | int (f : RedFn) (ty : ITy) | flt (f : FRedFn) (ty : FTy)
deriving DecidableEq, Repr

/-- Second source of a scalar LR or LI word: a register, the literal of a 96-bit LR, IMM16, or the literal of a 96-bit LI. -/
inductive SSrc | reg (b : BitVec 7) | rlit (x : Word) | imm (x : BitVec 16) | ilit (x : Word)
deriving DecidableEq, Repr
/-- Second source of a vector LR or LI word. -/
inductive VSrc | reg (b : BitVec 11) | rlit (x : Word) | imm (x : BitVec 16) | ilit (x : Word)
deriving DecidableEq, Repr
/-- Slot b of a scalar LQ or LR word that has no LI form. -/
inductive SLit | reg (b : BitVec 7) | lit (x : Word)
deriving DecidableEq, Repr
/-- Slot b of a vector LQ or LR word that has no LI form. -/
inductive VLit | reg (b : BitVec 11) | lit (x : Word)
deriving DecidableEq, Repr
/-- An LI immediate: IMM16 or the literal (R167). -/
inductive Imm | i16 (x : BitVec 16) | i32 (x : Word)
deriving DecidableEq, Repr
/-- Source of SMOV. -/
inductive SMov | reg (a : BitVec 7) | imm (i : Imm)
deriving DecidableEq, Repr
/-- Source of VMOV. -/
inductive VMov | reg (a : BitVec 11) | imm (i : Imm)
deriving DecidableEq, Repr
/-- The uniform operand of R379: a scalar, a vector register (.vu), or the literal of a 96-bit LR. -/
inductive USrc | reg (b : BitVec 7) | vu (b : BitVec 11) | lit (x : Word)
deriving DecidableEq, Repr
/-- The uniform operand of VBCAST, which also has an LI form. -/
inductive BcSrc | reg (b : BitVec 7) | vu (b : BitVec 11) | rlit (x : Word) | imm (x : BitVec 16) | ilit (x : Word)
deriving DecidableEq, Repr
/-- The stream operand of VRAND (R220, R379). -/
inductive RandSrc | reg (a : BitVec 7) | vu (a : BitVec 11)
deriving DecidableEq, Repr
/-- The operand of VRSEED (R220). -/
inductive SeedSrc | reg (a : BitVec 7) | imm (i : Imm)
deriving DecidableEq, Repr

/-- SR word of three registers. -/
structure SR3 where
  d : BitVec 7
  a : BitVec 7
  b : BitVec 7
deriving DecidableEq, Repr
/-- Scalar two-source operation (R186). -/
structure SBin where
  ty : STy
  d : BitVec 7
  a : BitVec 7
  b : SSrc
deriving DecidableEq, Repr
/-- Scalar one-source operation. -/
structure SUn where
  ty : STy
  d : BitVec 7
  a : BitVec 7
deriving DecidableEq, Repr
/-- Predicate operation (R192). -/
structure P3 where
  g : Guard
  d : BitVec 4
  a : BitVec 4
  b : BitVec 4
deriving DecidableEq, Repr
/-- Vector two-source integer operation (R207, R209). -/
structure VBin where
  g : Guard
  ty : ITy
  d : BitVec 11
  a : BitVec 11
  b : VSrc
deriving DecidableEq, Repr
/-- Vector one-source integer operation. -/
structure VUn where
  g : Guard
  ty : ITy
  d : BitVec 11
  a : BitVec 11
deriving DecidableEq, Repr
/-- Vector three-source integer operation (LQ). -/
structure VTri where
  g : Guard
  ty : ITy
  d : BitVec 11
  a : BitVec 11
  b : VLit
  c : BitVec 11
deriving DecidableEq, Repr
/-- Vector two-source bit operation (list B). -/
structure BBin where
  g : Guard
  ty : BTy
  d : BitVec 11
  a : BitVec 11
  b : VSrc
deriving DecidableEq, Repr
/-- Vector one-source bit operation. -/
structure BUn where
  g : Guard
  ty : BTy
  d : BitVec 11
  a : BitVec 11
deriving DecidableEq, Repr
/-- Vector compare to a predicate. -/
structure VCmp where
  g : Guard
  ty : ITy
  d : BitVec 4
  a : BitVec 11
  b : VSrc
deriving DecidableEq, Repr
/-- Vector two-source floating operation with a rounding field (R213). -/
structure FBin where
  g : Guard
  rm : Rm
  ty : FTy
  d : BitVec 11
  a : BitVec 11
  b : VSrc
deriving DecidableEq, Repr
/-- Vector one-source floating operation with a rounding field. -/
structure FUn where
  g : Guard
  rm : Rm
  ty : FTy
  d : BitVec 11
  a : BitVec 11
deriving DecidableEq, Repr
/-- Fused multiply-add (LQ). -/
structure FTri where
  g : Guard
  rm : Rm
  ty : FTy
  d : BitVec 11
  a : BitVec 11
  b : VLit
  c : BitVec 11
deriving DecidableEq, Repr
/-- Floating compare to a predicate. -/
structure FCmp where
  g : Guard
  ty : FTy
  d : BitVec 4
  a : BitVec 11
  b : VSrc
deriving DecidableEq, Repr
/-- Cross-lane shuffle with a uniform count (R222, R379). -/
structure Shuf where
  g : Guard
  ty : BTy
  d : BitVec 11
  a : BitVec 11
  b : USrc
deriving DecidableEq, Repr
/-- Offset of an LM word: OFF8 (scaled by the width) or the literal of the 96-bit form (R172). -/
inductive Off | o8 (x : BitVec 8) | o32 (x : Word)
deriving DecidableEq, Repr
/-- Addressing mode with the registers it uses (R172). -/
inductive Addr
  | base (b : BitVec 7)
  | zx (b : BitVec 7) (x : BitVec 11)
  | sx (b : BitVec 7) (x : BitVec 11)
  | vec (x : BitVec 11)
  | spill
deriving DecidableEq, Repr
/-- A memory operand with its guard, ordering, width and data register (R225). -/
structure Mem where
  g : Guard
  ord : Ord
  w : Width
  d : BitVec 11
  ad : Addr
  off : Off
deriving DecidableEq, Repr
/-- A page operand of SEAL and TAILRD (R233). -/
structure PageOp where
  d : BitVec 7
  base : BitVec 7
  off : Off
deriving DecidableEq, Repr
/-- The operand of APND (R232). -/
structure ApndOp where
  g : Guard
  w : Width
  d : BitVec 11
  base : BitVec 7
  st : BitVec 7
  pf : BitVec 4
  cnt : BitVec 4
  off : Off
deriving DecidableEq, Repr
/-- The operand of the MMA family (R235). -/
structure MmaOp where
  z : Bool
  d : BitVec 6
  gang : BitVec 2
  a : BitVec 7
  b : BitVec 7
deriving DecidableEq, Repr

/-- Kind of a Nolelavin access. -/
inductive NKind | load | store
deriving DecidableEq, Repr
/-- How a fault-service thread resolves a record (R116). -/
inductive Resolve
  | promote (leaf : DWord)
  | replay
  | forward
  | deliver
deriving DecidableEq, Repr
/-- Host's answer to a forwarded fault (R116). -/
inductive FaultAnswer | entry (leaf : DWord) | refusal
deriving DecidableEq, Repr
/-- The steps of a page move (R44). -/
inductive MoveStep | clear (rs : Bool) | copy (toFrame : BitVec 40) | write (leaf : DWord)
deriving DecidableEq, Repr
/-- Nolelavin's write of a range-table entry (R37). -/
inductive RangeWrite | move (die : BitVec 2) (seg : BitVec 14) | release
deriving DecidableEq, Repr
/-- Frozen items of R354 that a write may touch. -/
inductive FrozenItem | command | bar0 | bar2 | msix | ide | record | decoder | importEntry
deriving DecidableEq, Repr
/-- An incoming remote-class access (R347). -/
inductive RemoteOp | read | write (data : List Byte) | atom (op : AtomOp) (wide : Bool) (x y : DWord)
deriving DecidableEq, Repr
/-- What the debug service does (R287, R291). -/
inductive DebugOp
  | bpm (i : BitVec 3) (v : DWord)
  | ctl (v : DWord)
  | writeS (team : Nat) (q : Nat) (r : BitVec 7) (v : DWord)
  | writeV (team : Nat) (q : Nat) (lane : BitVec 6) (r : BitVec 11) (v : Word)
  | writePc (team : Nat) (q : Nat) (lane : BitVec 6) (pc : VAddr)
  | writeP (team : Nat) (q : Nat) (r : BitVec 4) (v : DWord)
  | writeJ (team : Nat) (q : Nat) (r : BitVec 3) (v : DWord)
  | writeXm (team : Nat) (q : Nat) (v : DWord)
  | writeFmode (team : Nat) (q : Nat) (v : Word)
  | writeTile (team : Nat) (tile row col : Nat) (v : Word)
  | writeSc (team : Nat) (q : Nat) (v : BitVec 16)
  | writeTeam (team : Nat) (addr : BitVec 20) (data : List Byte)
  | resume
deriving DecidableEq, Repr
/-- Device registers with no behaviour of their own (R7, R357, R358). -/
inductive CtlReg | hbcfg | hbtctl | hbscrub | lkctl | lkide | dumpPtr
deriving DecidableEq, Repr
/-- A partition's set-up record (R352, R296, R297). -/
structure PartRec where
  cores : List DWord
  sched : BitVec 128
  classes : List (BitVec 128)
  frames : List (Nat × Nat)
  slots : DWord
  queues : List Nat
  fwd : Bool
  pool : List Nat
  ring : Nat
deriving DecidableEq, Repr

/-- One constructor per row of spec/opcode_table.json, in the table's order but for eight rows that the machine itself asks
for, which stand after the custom instructions. -/
inductive Instr
  | nop
  | braSb (disp : BitVec 23)
  | bra (disp : BitVec 33)
  | brc (a : BitVec 7) (disp : BitVec 33)
  | brcZ (a : BitVec 7) (disp : BitVec 33)
  | brcLt (a : BitVec 7) (disp : BitVec 33)
  | brcGe (a : BitVec 7) (disp : BitVec 33)
  | brx (g : Guard) (disp : BitVec 33)
  | jset (g : Guard) (d : BitVec 3)
  | jsetSc (d : BitVec 3) (a : BitVec 7)
  | join (a : BitVec 3) (disp : BitVec 33)
  | callSb (disp : BitVec 23)
  | call (g : Guard) (a : BitVec 11) (disp : BitVec 33)
  | callStub (g : Guard) (a : BitVec 11) (n : BitVec 33)
  | callx (g : Guard) (d a : BitVec 11)
  | retSr (a : BitVec 7)
  | ret (g : Guard) (a : BitVec 11)
  | exitSr
  | exit (g : Guard)
  | exitchain (g : Guard) (a : BitVec 7) (b : SLit)
  | yield
  | xmrd (d : BitVec 7)
  | xmwr (a : BitVec 7)
  | saddSr (sat : Bool) (r : SR3)
  | saddSi (sat : Bool) (d : BitVec 7) (imm : BitVec 14)
  | sadd (sat : Bool) (x : SBin)
  | ssubSr (sat : Bool) (r : SR3)
  | ssub (sat : Bool) (x : SBin)
  | smulSr (sat : Bool) (r : SR3)
  | smul (sat : Bool) (x : SBin)
  | sdiv (sat : Bool) (x : SBin)
  | sandSr (r : SR3)
  | sorSr (r : SR3)
  | sxorSr (r : SR3)
  | sandnSr (r : SR3)
  | sand (x : SBin)
  | sor (x : SBin)
  | sxor (x : SBin)
  | sandn (x : SBin)
  | sshlSr (r : SR3)
  | sshrSr (r : SR3)
  | ssraSr (r : SR3)
  | srotSr (r : SR3)
  | sshl (x : SBin)
  | sshr (x : SBin)
  | ssra (x : SBin)
  | srot (x : SBin)
  | smin (x : SBin)
  | smax (x : SBin)
  | scmp (x : SBin)
  | scmpRel (r : Rel) (x : SBin)
  | ssel (d a : BitVec 7) (b : SLit) (c : BitVec 7)
  | slea (d a : BitVec 7) (i : Imm)
  | sliSi (d : BitVec 7) (imm : BitVec 16)
  | sli (d a : BitVec 7) (i : Imm)
  | sliW (d a : BitVec 7) (i : Imm)
  | smovSr (d a : BitVec 7)
  | smov (ty : STy) (d : BitVec 7) (x : SMov)
  | sbit (x : SUn)
  | sbitClz (x : SUn)
  | sbitCtz (x : SUn)
  | sbitRev (x : SUn)
  | sbfx (x : SBin)
  | sbfxIns (x : SBin)
  | pand (x : P3)
  | por (x : P3)
  | pxor (x : P3)
  | pnot (g : Guard) (d a : BitVec 4)
  | pmov (g : Guard) (d a : BitVec 4)
  | pmovS2p (g : Guard) (d : BitVec 4) (a : BitVec 7)
  | pmovP2s (g : Guard) (d : BitVec 7) (a : BitVec 4)
  | pmovImm (g : Guard) (d : BitVec 4) (i : Imm)
  | vaddSr (sat : Bool) (r : SR3)
  | vadd (sat : Bool) (x : VBin)
  | vsubSr (sat : Bool) (r : SR3)
  | vsub (sat : Bool) (x : VBin)
  | vmulSr (fn : BitVec 2) (r : SR3)
  | vmul (sat : Bool) (x : VBin)
  | vmulHi (x : VBin)
  | vmad (x : VTri)
  | vdiv (x : VBin)
  | vdivRem (x : VBin)
  | vmin (x : VBin)
  | vmax (x : VBin)
  | vabs (x : VUn)
  | vneg (x : VUn)
  | vandSr (r : SR3)
  | vand (x : BBin)
  | vorSr (r : SR3)
  | vor (x : BBin)
  | vxorSr (r : SR3)
  | vxor (x : BBin)
  | vnot (x : BUn)
  | vandn (x : BBin)
  | vshlSr (r : SR3)
  | vshl (x : VBin)
  | vshrSr (r : SR3)
  | vshr (x : VBin)
  | vrot (x : VBin)
  | vbit (x : VUn)
  | vbitClz (x : VUn)
  | vbitCtz (x : VUn)
  | vbitRev (x : VUn)
  | vbfx (x : VBin)
  | vbfxIns (x : VBin)
  | vsel (g : Guard) (ty : BTy) (d a : BitVec 11) (b : VLit) (c : BitVec 4)
  | vcmp (r : Rel) (x : VCmp)
  | vmovSr (d a : BitVec 7)
  | vmov (g : Guard) (ty : BTy) (d : BitVec 11) (x : VMov)
  | vmovS2v (g : Guard) (ty : BTy) (d : BitVec 11) (a : BitVec 7)
  | vdot (x : VTri)
  | vfaddSr (r : SR3)
  | vfadd (x : FBin)
  | vfsubSr (r : SR3)
  | vfsub (x : FBin)
  | vfmulSr (r : SR3)
  | vfmul (x : FBin)
  | vfma (x : FTri)
  | vfmin (x : FBin)
  | vfmax (x : FBin)
  | vfcmp (r : FRel) (x : FCmp)
  | vfclass (x : FUn)
  | vfdiv (x : FBin)
  | vfsqrt (x : FUn)
  | vfabs (x : FUn)
  | vfneg (x : FUn)
  | vfsgn (g : Guard) (ty : FTy) (d a : BitVec 11) (b : VLit)
  | vrcp (x : FUn)
  | vrsqrt (x : FUn)
  | vexp2 (x : FUn)
  | vlog2 (x : FUn)
  | vsin (x : FUn)
  | vcos (x : FUn)
  | vtanh (x : FUn)
  | vsigm (x : FUn)
  | vcvt (g : Guard) (rm : Rm) (sat : Bool) (part : BitVec 2) (dst src : BitVec 6) (d a : BitVec 11)
  | vrand (g : Guard) (d : BitVec 11) (a : RandSrc)
  | vrandUnif (g : Guard) (d : BitVec 11) (a : RandSrc)
  | vrseed (x : SeedSrc)
  | vshuf (x : Shuf)
  | vshufUp (x : Shuf)
  | vshufDn (x : Shuf)
  | vshufRot (x : Shuf)
  | vperm (g : Guard) (ty : BTy) (d a : BitVec 11) (b : VLit)
  | vbcast (g : Guard) (ty : BTy) (d a : BitVec 11) (b : BcSrc)
  | vred (o : RedOp) (g : Guard) (rm : Rm) (d a : BitVec 11)
  | vscan (o : RedOp) (g : Guard) (rm : Rm) (d a : BitVec 11)
  | vscanEx (o : RedOp) (g : Guard) (rm : Rm) (d a : BitVec 11)
  | vballot (g : Guard) (d : BitVec 7) (a : BitVec 4)
  | vballotCnt (g : Guard) (d : BitVec 7) (a : BitVec 4)
  | vlane (ty : BTy) (d : BitVec 7) (a : BitVec 11) (b : USrc)
  | vlaneId (g : Guard) (d : BitVec 11)
  | ld (sx : Bool) (m : Mem)
  | st (m : Mem)
  | lds (sx : Bool) (m : Mem)
  | sts (m : Mem)
  | ldk (sx : Bool) (m : Mem)
  | stk (m : Mem)
  | ldnr (pf : BitVec 4) (m : Mem)
  | pgreq (g : Guard) (ad : Addr) (off : Off)
  | pref (g : Guard) (ad : Addr) (off : Off)
  | prefL2 (g : Guard) (ad : Addr) (off : Off)
  | memhint (h : Hint) (g : Guard) (ad : Addr) (off : Off)
  | atom (op : AtomOp) (m : Mem)
  | atomH (op : AtomOp) (m : Mem)
  | fence
  | fenceA
  | fenceR
  | waitc (p : Path) (a : BitVec 7)
  | apnd (x : ApndOp)
  | seal (x : PageOp)
  | tailrd (x : PageOp)
  | gangset (d : BitVec 2) (a : BitVec 7)
  | mma (x : MmaOp)
  | mmas (x : MmaOp)
  | mmag (x : MmaOp)
  | latchComplete (job team : Nat) (mask : DWord)
  | slabCommit (job team i : Nat)
  | bload (a b : BitVec 7)
  | bloadg (a b : BitVec 7)
  | brel (a : BitVec 7)
  | accz (d : BitVec 6) (n : BitVec 5)
  | accrd (g : Guard) (d : BitVec 11) (a : BitVec 6) (b : BitVec 7)
  | accwr (g : Guard) (d : BitVec 6) (a : BitVec 11) (b : BitVec 7)
  | qntz (rm : Rm) (sat : Bool) (a b : BitVec 7)
  | dqnt (rm : Rm) (a b : BitVec 7)
  | bcopy (d : BitVec 4) (a : BitVec 7)
  | bcopy2d (d : BitVec 4) (a b : BitVec 7)
  | bapnd (d : BitVec 4) (a b : BitVec 7)
  | bchk (d : BitVec 4) (a b : BitVec 7)
  | bchkin (d : BitVec 4) (b : BitVec 7)
  | copyLinePerformed (i : Nat)
  | barinit (d : BitVec 4) (a : BitVec 7)
  | barexp (d : BitVec 4) (a : BitVec 7)
  | bararr (d : BitVec 7) (a : BitVec 4)
  | barwait (a : BitVec 4) (b : BitVec 7)
  | bartry (d : BitVec 7) (a : BitVec 4) (b : BitVec 7)
  | tbar
  | cbar
  | tileget (d : BitVec 7)
  | tilestat (d : BitVec 7)
  | trap (code : BitVec 16)
  | tret
  | csrrd (d : BitVec 7) (n : BitVec 16)
  | csrwr (n : BitVec 16) (a : BitVec 7)
  | clock (d : BitVec 7)
  | clockC (d : BitVec 7)
  | sleep (a : BitVec 7)
  | sleepImm (i : Imm)
  | sleepWake (grp : Nat)
  | evsig (a b : BitVec 7)
  | ckopen (d : BitVec 7)
  | ckclose (d a : BitVec 7)
  | ckcost (d : BitVec 7)
  | dbgbrk
  | dbgstep (a : BitVec 7)
  | perfrd (d a : BitVec 7)
  | accessComplete (grp : Nat) (p : Path)
  | waitpkt (rd rs1 : BitVec 5)
  | evwake (rs1 : BitVec 5)
  | crc32c (rd rs1 rs2 : BitVec 5)
  | illegalOpcode (w : IWord)
  | jsbUpdate (job : Nat)
  | coreFree (die core : Nat)
  | hostSnpdata (la : Nat)
  | hostSnpinv (la : Nat)
  | hostCxlMemRead (addr : Nat) (cache : Bool)
  | hostCxlMemWrite (addr : Nat) (data : BitVec 1024)
  | remoteAccessIn (dev part : Nat) (addr : BitVec 39) (w : Nat) (op : RemoteOp)
  | nwdogWrite (thread : Nat) (v : DWord)
  | nevpendWrite (thread : Nat) (v : DWord)
  | watchdogExpiry (thread : Nat)
  | registerWrite (r : CtlReg) (unit : Nat) (v : DWord)
  | gets (k : Nat)
  | getx (k : Nat)
  | tok (k : Nat)
  | preq (k : Nat)
  | act (k : Nat)
  | actack (k : Nat)
  | done (k : Nat)
  | deact (k : Nat)
  | deactack (k : Nat)
  | hrsp (k : Nat)
  | srd (k : Nat)
  | srsp (k : Nat)
  | wb (k : Nat)
  | wback (k : Nat)
  | invalidMessageType (k : Nat)
  | transientReissue (r : Nat)
  | transientEscalation (r : Nat)
  | heldEscalationSend (die home : Nat)
  | lineEviction (die la : Nat)
  | hopAtomic (k : Nat)
  | arsv (k : Nat)
  | arsvRetry (h : Nat)
  | adat (k : Nat)
  | hopSeal (k : Nat)
  | hopTailrd (k : Nat)
  | ard (k : Nat)
  | freeRequest (home rec : Nat)
  | freeService (home rec : Nat)
  | replicaCreate (die home rec : Nat)
  | checkoutRegister (i : Nat)
  | checkoutWaitExpiry (i : Nat)
  | segmentFillDone (i : Nat)
  | segmentWritebackDone (i : Nat)
  | rangeTableWrite (home idx : Nat) (w : RangeWrite)
  | walkComplete (die : Nat) (rtag : Nat) (va : VAddr) (write : Bool)
  | tlbInvalidate (rtag : Nat) (page : Option VAddr)
  | tlbInvalidateComplete (i : Nat)
  | faultServiceResolve (die i : Nat) (how : Resolve)
  | hostFaultAnswer (die i : Nat) (ans : FaultAnswer)
  | pageMove (rtag : Nat) (va : VAddr) (step : MoveStep)
  | scrubPass (die : Nat) (corrected : List Nat) (bad : List Nat)
  | fatalError (kind die : Nat)
  | keySlotLoad (slot : BitVec 6) (part : BitVec 4) (key : BitVec 512)
  | keySlotClear (slot : BitVec 6)
  | codeObjectLoad (job : Nat) (base : VAddr) (image : List Byte) (frame : BitVec 40) (kid : BitVec 6)
  | textRewrite (job : Nat) (va : VAddr) (words : List Word) (stubs : List (Nat × VAddr))
  | debugPrivateBreakpoint (job : Nat) (va : VAddr) (frame : BitVec 40)
  | stopRequest (job cl : Nat)
  | stopComplete (job cl : Nat)
  | saveComplete (job cl : Nat)
  | resume (job : Nat) (die half : Nat) (mask : DWord)
  | checkpointTimer (job : Nat)
  | closeStop (job : Nat)
  | unitStreamed (job : Nat)
  | recordComplete (job : Nat)
  | recordFailed (job : Nat)
  | move (job : Nat)
  | deadlineAccept (job : Nat)
  | distributorTimeUnit (die : Nat)
  | deadlineOverrun (job : Nat)
  | teamEnd (job team : Nat)
  | packetNop (q : Nat)
  | packetJob (q : Nat)
  | packetCall (q : Nat)
  | packetRet (q : Nat)
  | packetJoin (q : Nat)
  | packetWaitv (q : Nat)
  | waitvTimeout (q : Nat)
  | packetSigv (q : Nat)
  | packetCkpt (q : Nat)
  | packetPreempt (q : Nat)
  | packetHalt (q : Nat)
  | qcbRewrite (q : Nat) (words : List DWord)
  | doorbellWrite (fn slot : Nat) (v : Word)
  | eventRecordPost (part ring : Nat)
  | hostPermissionGrant (la : Nat) (excl : Bool)
  | birsp (la : Nat) (data : Option (BitVec 1024))
  | poolCompletion (i : Nat) (data : Option (BitVec 1024))
  | lockInterfaceRequest (part : Nat)
  | startInterfaceRequest (part : Nat) (nonce : BitVec 256)
  | stopInterfaceRequest (part : Nat)
  | getDeviceInterfaceReport (part : Nat)
  | frozenItemWrite (part : Nat) (item : FrozenItem) (v : DWord)
  | getMeasurements
  | partitionSetup (part : Nat) (r : PartRec)
  | fcCommit
  | reset
  | recoveryGo (svn : Nat) (image : List Byte)
  | hbmTraining (die : Nat) (ok : Bool)
  | linkTraining (port : Nat) (ok : Bool) (ddn : Option Nat)
  | d3hotRequest
  | dieIdle (die : Nat)
  | mailboxReset
  | deviceIoAnswer (i : Nat) (data : BitVec 128)
  | remoteAccessAnswer (i : Nat) (data : Option (BitVec 128)) (line : Option (BitVec 1024))
  | sealedLineInvalidate (base : BitVec 40) (frames : Nat)
  | debugServiceRequest (job : Nat) (op : DebugOp)
  | spdmSecureSession
  | ideKeyProgramming (stream : Nat)
  | nolelavinLoadStore (thread : Nat) (kind : NKind) (addr : DWord) (w : Nat) (reg : BitVec 5)
  | nolelavinIllegalInstruction (thread : Nat)
  | pageRecordCreate (home rec : Nat) (frame : BitVec 40) (ps : BitVec 2) (part : BitVec 4) (kid : BitVec 6)
deriving DecidableEq, Repr

end Sys2Proof
end

