-- ==== Sys2Proof/Machine/Bits.lean ====
section
/-!
DEFINITION. Bit, lane-mask and integer helpers (R5, R176, R186), and the sparse maps of the state.
-/

namespace Sys2Proof.Machine

/-! ## Sparse maps -/

/-- The value listed at a key. -/
def lookup {α : Type} : List (Nat × α) → Nat → Option α
  | [], _ => none
  | (a, v) :: t, k => if a = k then some v else lookup t k

/-- List a value at a key, keys rising. -/
def mapInsert {α : Type} : List (Nat × α) → Nat → α → List (Nat × α)
  | [], k, v => [(k, v)]
  | (a, x) :: t, k, v => if k < a then (k, v) :: (a, x) :: t else if a = k then (k, v) :: t else (a, x) :: mapInsert t k v

/-- Remove a key. -/
def remove {α : Type} : List (Nat × α) → Nat → List (Nat × α)
  | [], _ => []
  | (a, x) :: t, k => if a = k then remove t k else (a, x) :: remove t k

/-- Read with a default. -/
def getD {α : Type} (d : α) (m : List (Nat × α)) (k : Nat) : α := (lookup m k).getD d

/-- Write with a default: the default itself is not listed. -/
def setD {α : Type} [DecidableEq α] (d : α) (m : List (Nat × α)) (k : Nat) (v : α) : List (Nat × α) :=
  if v = d then remove m k else mapInsert m k v

/-- Every key of a list is above `k`. -/
def above {α : Type} (k : Nat) : List (Nat × α) → Bool
  | [] => true
  | (a, _) :: _ => decide (k < a)

/-- Keys strictly rising and no entry equal to the default: the canonical form. -/
def mapWf {α : Type} [DecidableEq α] (d : α) : List (Nat × α) → Bool
  | [] => true
  | (a, v) :: t => decide (v ≠ d) && above a t && mapWf d t

/-! ## Lists -/

/-- Replace element `i`. -/
def setAt {α : Type} (l : List α) (i : Nat) (x : α) : List α := l.set i x
/-- Remove element `i`. -/
def dropAt {α : Type} (l : List α) (i : Nat) : List α := l.take i ++ l.drop (i + 1)

/-! ## Bits -/

/-- Bit `i` of a number. -/
def bitAt (x i : Nat) : Bool := x.testBit i
/-- Bits [pos + len - 1 : pos]. -/
def field (x pos len : Nat) : Nat := (x >>> pos) % 2 ^ len
/-- The integer of the low `n` bits, two's complement. -/
def toSigned (n x : Nat) : Int := if 2 * (x % 2 ^ n) < 2 ^ n then (x % 2 ^ n : Nat) else ((x % 2 ^ n : Nat) : Int) - (2 ^ n : Nat)
/-- The low `n` bits of an integer. -/
def wrap (n : Nat) (r : Int) : Nat := (r % (2 ^ n : Nat)).toNat
/-- Ones among the low `n` bits. -/
def popcount (n x : Nat) : Nat := ((List.range n).filter (bitAt x)).length
/-- Zeros above the highest one of the low `n` bits; `n` if there is none. -/
def clz (n x : Nat) : Nat := if x % 2 ^ n = 0 then n else n - 1 - Nat.log2 (x % 2 ^ n)
/-- Zeros below the lowest one of the low `n` bits; `n` if there is none. -/
def ctz (n x : Nat) : Nat := ((List.range n).find? (bitAt x)).getD n
/-- The low `n` bits in reverse order. -/
def revBits (n x : Nat) : Nat := (List.range n).foldl (fun r i => r * 2 + (x >>> i) % 2) 0
/-- Arithmetic shift right of an `n`-bit pattern. -/
def sar (n x c : Nat) : Nat := wrap n (toSigned n x / (2 ^ c : Nat))
/-- Rotate right by `c`, `c < n`. -/
def rotr (n x c : Nat) : Nat := ((x % 2 ^ n) >>> c) ||| (((x % 2 ^ n) <<< (n - c)) % 2 ^ n)
/-- Element `i` of width `n` (R143). -/
def elem (x i n : Nat) : Nat := field x (i * n) n
/-- `x` with element `i` of width `n` replaced (R143). -/
def putElem (x i n e : Nat) : Nat := x - (elem x i n) * 2 ^ (i * n) + (e % 2 ^ n) * 2 ^ (i * n)
/-- Extend an `n`-bit pattern to 64 bits by its sign. -/
def sext64 (n x : Nat) : BitVec 64 := BitVec.ofInt 64 (toSigned n x)
/-- Extend an `n`-bit pattern to 64 bits by zeros. -/
def zext64 (n x : Nat) : BitVec 64 := BitVec.ofNat 64 (x % 2 ^ n)

/-! ## Lane masks -/

/-- The lanes of a mask, lowest first. -/
def lanesOf (m : BitVec 64) : List Nat := (List.range 64).filter (fun i => m.getLsbD i)
/-- The mask of one lane. -/
def laneBit (i : Nat) : BitVec 64 := (1 : BitVec 64) <<< i
/-- The mask of a list of lanes. -/
def maskOf (l : List Nat) : BitVec 64 := l.foldl (fun m i => m ||| laneBit i) 0
/-- The mask of the lanes below `w`. -/
def maskBelow (w : Nat) : BitVec 64 := maskOf (List.range w)

/-! ## Bytes -/

/-- The `n` bytes of a number, lowest first (R5). -/
def toBytes (n x : Nat) : List Byte := (List.range n).map (fun i => BitVec.ofNat 8 (x >>> (8 * i)))
/-- The number of a list of bytes, lowest first. -/
def ofBytes (l : List Byte) : Nat := l.foldr (fun b r => b.toNat + 256 * r) 0
def zeros (n : Nat) : List Byte := List.replicate n 0
/-- The least multiple of `k` from `n` upward. -/
def ceilTo (n k : Nat) : Nat := (n + k - 1) / k * k

end Sys2Proof.Machine
end

