-- ==== Sys2Proof/Config.lean ====
section
/-!
DEFINITION. Free values: constants with no body, so that a statement holds whatever they are. Each is applied to the
operands it depends on or to the plain counter `State.free`. notes/assumptions says what each stands for.
-/

namespace Sys2Proof.Config

/-- Which of several enabled things happens next (R52, R98, R127, R308, R309): any value of the counter. -/
opaque choice : Nat → Nat
/-- How many ticks of the device timer, or cycles, pass before an observation (R279, R292). -/
opaque ticks : Nat → Nat
/-- A 64-bit value the spec leaves open. -/
opaque free64 : Nat → BitVec 64
/-- Bytes of a line read under a key id other than the one it was written under (R45): key read, key written, address, byte. -/
opaque foreignByte : BitVec 6 → BitVec 6 → Nat → BitVec 8 → BitVec 8
/-- Bytes of a line read under a slot whose key is not the one it was written under (R45, R46): key now, key then, address, byte. -/
opaque oldKeyByte : BitVec 512 → BitVec 512 → Nat → BitVec 8 → BitVec 8
/-- What the host has left in a line of device memory that it may write, H0 holding every token for it (R68): line, counter. -/
opaque hostLine : Nat → Nat → BitVec 1024
/-- Index of a line in H0's away table (R53). -/
opaque awaySet : Nat → Nat
/-- A byte of memory outside the device that nothing here has written: host memory (R16, R67). -/
opaque hostByte : Nat → BitVec 8
/-- The bits [63:32] of the literal of a 96-bit EXITCHAIN, for which the spec states no extension (R167, R204). -/
opaque exitchainHigh : BitVec 32 → BitVec 32
/-- FIADDR of a PROTECTION that names no virtual address: a link word that returns nowhere, a PC in no code object (R202, R271). -/
opaque faultAddr : BitVec 64 → BitVec 64
/-- Rounded value of a special function whose bits the exact evaluation did not settle: function, format, mode, operand. -/
opaque special : Nat → Nat → Nat → BitVec 64 → BitVec 64
/-- The device key that the boot ROM draws at a reset (R47). -/
opaque deviceKey : Nat → BitVec 512
/-- Digests the boot ROM extends (R349): the ROM, the image, by index. -/
opaque bootDigest : Nat → BitVec 256
/-- ML-DSA-65 verification of an image's signature under the fused key (R349). -/
opaque signatureOk : List (BitVec 8) → Bool
/-- Security version of the shipped image (R349). -/
opaque shippedSvn : Nat
/-- Contents of the sections of a dump whose layout the spec does not give (R343): section type, dump number. -/
opaque dumpBytes : Nat → Nat → List (BitVec 8)
/-- A start nonce (R353). -/
opaque nonce : Nat → BitVec 256
/-- Old or new translation entry before an invalidation has completed, or which entry of a differing run (R20, R27). -/
opaque entryChoice : Nat → Nat

end Sys2Proof.Config
end

