-- ==== Sys2Proof/Machine/State.lean ====
section
/-!
DEFINITION. The state of the machine as plain data: every piece of state that the spec names (INVENTORY.md), the fault and
refusal reasons, and the state after reset. Tables and register files are sparse maps in one canonical form; what an
unlisted key reads as is the default that the reading operation names.
-/

namespace Sys2Proof.Machine

/-- A sparse map: keys strictly rising, no entry equal to its default (`SMap.wf`). -/
abbrev SMap (α : Type) := List (Nat × α)

/-! ## Lanes and groups (R121, R126, R132) -/

inductive LaneStatus | run | sl | jw | bw | pk | ex
deriving DecidableEq, Repr

/-- What a BW lane waits for: a barrier's phase, the team, or the cluster (R132). -/
inductive BwKind | none | bar (b : BitVec 4) | team | cluster
deriving DecidableEq, Repr

/-- One lane (R132). `nxt` is where a JW, SL or BW lane goes when its wait ends; `jr` names a JW lane's rejoin mask. -/
structure Lane where
  pc : VAddr
  cc : Word
  depth : BitVec 8
  st : LaneStatus
  jr : BitVec 3
  nxt : VAddr
  wake : DWord
  bw : BwKind
deriving DecidableEq, Repr

/-- A register that a counted instruction has yet to write: the scoreboard's entry. -/
inductive Reg | v (n : Nat) | s (n : Nat) | p (n : Nat)
deriving DecidableEq, Repr

/-- What an access that has performed leaves for its lane, written when its whole instruction has performed (R93, R104): the
register, the offset in the operand, the width (0 for a store), sign extension, the value, and LDNR's flag with its predicate. -/
structure LaneVal where
  lane : Nat
  d : Nat
  off : Nat
  w : Nat
  sx : Bool
  val : Nat
  flag : Option (Nat × Bool)
deriving DecidableEq, Repr

/-- A counted instruction in flight (R93): its path, its number, whether it is complete, whether it is a load, atomic or mill
read for FENCE.A (R99), the registers it still writes, the issue state that issued it (PC, lanes, length, CC, depth: R272), and
what its accesses that have performed leave. -/
structure Flight where
  path : Path
  id : Nat
  done : Bool
  isLoad : Bool
  dst : List Reg
  pc : VAddr
  lanes : DWord
  len : Nat
  cc : Word
  depth : BitVec 8
  vals : List LaneVal
deriving DecidableEq, Repr

/-- A store or atomic of a lane that performed before its instruction trapped: it does not perform again (R104). -/
structure Kept where
  pc : VAddr
  val : LaneVal
deriving DecidableEq, Repr

/-- An access recorded as outstanding at a stop (R311, R316): its address, its lane, its destination register and its result. -/
structure Outst where
  va : VAddr
  lane : Nat
  reg : Nat
  flight : Nat
  res : Option Nat
deriving DecidableEq, Repr

/-- The five in-flight counters (R93). -/
structure Counters where
  g : BitVec 8
  t : BitVec 8
  k : BitVec 8
  c : BitVec 8
  m : BitVec 8
deriving DecidableEq, Repr

/-- Fault information registers (R271). -/
structure FaultInfo where
  cause : DWord
  pc : DWord
  info : DWord
  addr : DWord
  lm : DWord
  cc : DWord
deriving DecidableEq, Repr

/-- Why a whole group issues nothing (R117, R242, R232, R284). -/
inductive GroupWait
  | none
  /-- joined to a record of a die's fault queue -/
  | fault (die : Nat) (id : Nat)
  /-- arrived at the rendezvous latch of a place mask -/
  | latch (mask : DWord)
  /-- waiting for the answer of a home operation -/
  | hop (id : Nat)
  /-- waiting for an ordered access to perform -/
  | access (id : Nat)
  /-- holding at a CKCLOSE -/
  | close
  /-- no lane left: waiting for R108 -/
  | ending
deriving DecidableEq, Repr

/-- Place of a group on the chip (R122). -/
structure Place where
  die : Nat
  core : Nat
  sail : Nat
deriving DecidableEq, Repr

/-- A group (R121, R126, R135, R271, R272, R290, R292); `slot`: its group slot in its sail (R115, R122); `skip`: its next issue matches no
breakpoint (R288, R293). -/
structure Group where
  live : Bool
  job : Nat
  team : Nat
  q : Nat
  place : Place
  slot : Nat
  width : Nat
  vr : Nat
  lanes : List Lane
  xm : DWord
  v : SMap Word
  s : SMap DWord
  p : SMap DWord
  j : SMap DWord
  g : SMap DWord
  fmode : Word
  draw : BitVec 48
  cnt : Counters
  flights : List Flight
  rp : Nat
  run : Nat
  last : Nat
  ccnt : DWord
  fi : FaultInfo
  tm : Bool
  sk : Bool
  sc : BitVec 16
  stepPend : Bool
  skip : Bool
  hand : Option (BitVec 48)
  perf : SMap DWord
  wait : GroupWait
  age : Nat
  dirtyV : SMap Bool
  kept : List Kept
  outs : List Outst
deriving DecidableEq, Repr

/-! ## Teams (R121, R126, R204, R246, R251, R263) -/

/-- An async barrier word (R263). -/
structure Barrier where
  rv : DWord
  ac : BitVec 16
  ec : BitVec 16
  ph : Bool
  pb : DWord
deriving DecidableEq, Repr

/-- A stone's record (R251). -/
structure StoneRec where
  fva : VAddr
  lva : VAddr
  shw : BitVec 12
  vl : Bool
  rl : Bool
  fcb : BitVec 6
  spn : BitVec 3
  ki : BitVec 3
  ni : BitVec 3
  hf : Bool
  ssd : Word
deriving DecidableEq, Repr

/-- A stone (R246): integers, classes and exponents by stored row and column (key 128 k + c; exponent key 256 c + j). -/
structure Stone where
  rcd : StoneRec
  ints : SMap Byte
  starts : SMap Bool
  classes : SMap (BitVec 2)
  exps : SMap (BitVec 16)
deriving DecidableEq, Repr

/-- An arrival at a rendezvous latch (R242). -/
structure Arrival where
  q : Nat
  opc : Nat
  z : Bool
  hb : DWord
  hs : DWord
  a : DWord
  tile : Nat
  pc : VAddr
  len : Nat
  lanes : DWord
  id : Nat
deriving DecidableEq, Repr

/-- A latch of the team's core for one place mask (R242). -/
structure Latch where
  mask : DWord
  arr : List Arrival
deriving DecidableEq, Repr

/-- What a mill operation is: a matrix operation, BLOAD or BLOADG (`g`), QNTZ, DQNT. -/
inductive MillKind | mma | load (g : Bool) | qntz | dqnt
deriving DecidableEq, Repr

/-- A mill operation under way (R245, R249, R254, R257, R316): format block, group table, next slab, stone or row; `pin` names its pins, `buf`
holds words that it has read for that part already (R94), `fl` the flags gathered, `free` the counter value at its issue. -/
structure MillOp where
  kind : MillKind
  opc : Nat
  z : Bool
  mask : DWord
  mem : List Arrival
  fb : BitVec 512
  gt : List (BitVec 16)
  shape : DWord
  kb : Nat
  slab : Nat
  side : List (Nat × BitVec 3)
  pin : Nat
  buf : SMap DWord
  fl : Nat
  mode : Nat
  sat : Bool
  free : Nat
deriving DecidableEq, Repr

/-- The chain record (R204). -/
structure Chain where
  v : Bool
  e : VAddr
  a : DWord
deriving DecidableEq, Repr

/-- A team. Team memory is a canonical byte list; bit 19 of an address is the half (R12). -/
structure Team where
  live : Bool
  die : Nat
  core : Nat
  mem : List Host.Cell
  poison : SMap Bool
  bars : SMap Barrier
  acc : SMap Word
  stones : SMap Stone
  chain : Chain
  latches : List Latch
  mill : List MillOp
  dirtyM : SMap Bool
  dirtyT : SMap Bool
  dirtyS : SMap Bool
deriving DecidableEq, Repr

/-! ## Jobs (R123, R282, R287, R314, R320) -/

/-- The job descriptor (R123). -/
structure JobDesc where
  entry : VAddr
  argp : VAddr
  seed : DWord
  trapv : VAddr
  jsb : VAddr
  wd : BitVec 2
  vr : Nat
  gpt : Nat
  pr : Bool
  cs : Nat
  tmk : Nat
  atl : Nat
  stn : Nat
  mtc : Nat
  xe : BitVec 48
  ye : BitVec 24
  ze : BitVec 24
  sps : Nat
  spb : BitVec 45
  rmask : DWord
  rdie : Nat
  rhalf : Nat
  pri : Nat
  dc : Nat
  ckw : Nat
  nw : Nat
  brt : Nat
  ckp : BitVec 2
  cki : Nat
  fmi : Word
deriving DecidableEq, Repr

/-- Job state of the job status block (R320). -/
inductive JState | queued | running | stopping | stopped | ended | failed
deriving DecidableEq, Repr

/-- State of a cluster (R294, R306, R311). -/
inductive ClState | waiting | placed | stopping | halted | saved | ended
deriving DecidableEq, Repr

/-- A cluster of a job: its state, its entry time (R295, R306), and the time of its placement (R303), as device timer values. -/
structure Cluster where
  st : ClState
  entry : Nat
  placedAt : Nat
deriving DecidableEq, Repr

/-- An entry of the code-object table (R183). -/
structure CodeObj where
  base : VAddr
  size : Nat
deriving DecidableEq, Repr

/-- A comb segment's tag (R38). -/
structure SegTag where
  st : BitVec 2
  td : Bool
  md : Bool
  hm : BitVec 3
  gva : BitVec 45
  ix : BitVec 12
deriving DecidableEq, Repr

/-- A group that holds at a CKCLOSE: its issue state and the register it writes (R284). -/
structure Joiner where
  grp : Nat
  d : BitVec 7
  lanes : DWord
  pc : VAddr
  len : Nat
deriving DecidableEq, Repr

/-- A close of a checkpoint interval under way (R284, R285, R322, R327); `asked`: its stop has been requested; `halted`: every group stands at
its restart point. -/
structure Close where
  n : Word
  stop : Bool
  isMove : Bool
  asked : Bool
  halted : Bool
  joined : List Joiner
deriving DecidableEq, Repr

/-! ## Coherence (R51 to R66) -/

/-- A token holding of an L2 line, or of H0 for the host, with its data (R53); `way`: the way of its set that an L2 line lies in (R41); `wb`:
at an L2 a WB is under way (R57), at H0 the host may hold the line (R68). -/
structure Line where
  tc : Nat
  ow : Bool
  dv : Bool
  dt : Bool
  pz : Bool
  kid : BitVec 6
  data : BitVec 1024
  wb : Bool
  isSealed : Bool
  way : Nat
deriving DecidableEq, Repr

/-- A home's holding (R53). -/
structure Holding where
  tc : Nat
  ow : Bool
deriving DecidableEq, Repr

/-- Host permission of a host line (R67). -/
inductive HostPerm | none | shared | excl
deriving DecidableEq, Repr

/-- A coherence message in flight (R57); `mask`: the byte mask in the data beats of an ADAT (R76) and of the answer to an ARD (R78). -/
structure Msg where
  ty : BitVec 5
  src : BitVec 4
  dst : BitVec 4
  la : Nat
  tc : Nat
  ow : Bool
  d : Bool
  dt : Bool
  pz : Bool
  kid : BitVec 6
  pe : Nat
  pk : Bool
  at_ : BitVec 2
  rid : Nat
  op : BitVec 6
  data : BitVec 1024
  mask : BitVec 128
deriving DecidableEq, Repr

/-- A transient request of an agent (R60, R62). -/
structure Req where
  agent : Nat
  la : Nat
  write : Bool
  attempt : Nat
  rid : Nat
  kid : BitVec 6
  esc : Bool
  heldEsc : Bool
deriving DecidableEq, Repr

/-- State of a persistent-request entry (R62). -/
inductive PState | waiting | activating | active | deactivating
deriving DecidableEq, Repr

/-- A persistent-request table entry (R62); `done` records a DONE held until ST = active. -/
structure PEntry where
  home : Nat
  idx : Nat
  st : PState
  kd : Bool
  rq : Nat
  ld : Nat
  ak : List Nat
  seq : BitVec 16
  hm : Bool
  la : Nat
  rid : Nat
  kid : BitVec 6
  done : Bool
deriving DecidableEq, Repr

/-- An activation that an agent has recorded (R64). -/
structure Activation where
  agent : Nat
  home : Nat
  idx : Nat
  la : Nat
  kd : Bool
  rq : Nat
deriving DecidableEq, Repr

/-- An operation for which the home of a line, or H0 for the host, collects its tokens (R53, R67, R68). -/
structure Want where
  agent : Nat
  la : Nat
  write : Bool
deriving DecidableEq, Repr

/-- What H0 has sent to the host and what stands there: a CXL.cache request, a BISnp (until answered), or the answer to a snoop with the
line's data if it was dirty (R67, R68). -/
inductive HostMsg
  | rdShared (la : Nat)
  | rdOwn (la : Nat)
  | bisnp (la : Nat)
  | snpRsp (la : Nat) (data : Option (BitVec 1024))
deriving DecidableEq, Repr

/-- The response to another device's access (R89, R347, R348): device, address, bytes, what they held (`none`: refused), poison, and the line of
a sealed page. -/
structure RemoteRsp where
  dev : Nat
  addr : BitVec 39
  w : Nat
  data : Option Nat
  pz : Bool
  line : Option (BitVec 1024)
deriving DecidableEq, Repr

/-- What a waiting access does when it performs (R94). -/
inductive AccOp
  | load (sx : Bool) (d : BitVec 11)
  | store (data : BitVec 128)
  | atom (op : AtomOp) (d : BitVec 11) (x y : DWord)
deriving DecidableEq, Repr

/-- Where an unperformed access goes: a coherent line, an unsealed append-seal line, device I/O, a remote device, the home of a
coherent line (ATOM.H), team memory, or the comb window. -/
inductive AccKind | coherent | appendSeal | deviceIo | remote | home | team | comb
deriving DecidableEq, Repr

/-- A lane access that has not performed (R31, R93, R104). -/
structure Access where
  id : Nat
  grp : Nat
  flight : Nat
  die : Nat
  core : Nat
  lane : BitVec 6
  pa : Nat
  w : Nat
  kid : BitVec 6
  kind : AccKind
  op : AccOp
  off : Nat
  va : VAddr
  order : Bool
  dep : Option (BitVec 4)
deriving DecidableEq, Repr

/-- A HOP that waits at its home for tokens (R66), or its sender's record (APND, BAPND, SEAL, TAILRD); `va`: the page's or access's address. -/
structure Hop where
  id : Nat
  grp : Nat
  die : Nat
  flight : Nat
  home : Nat
  la : Nat
  op : BitVec 6
  pa : Nat
  kid : BitVec 6
  len : Nat
  data : List Byte
  st : BitVec 7
  pf : BitVec 4
  lanes : DWord
  start : Option Nat
  copy : Option Nat
  retry : Bool
  va : VAddr
deriving DecidableEq, Repr

/-! ## Append-seal pages (R71, R75, R87, R89, R90) -/

/-- A page record (R71). -/
structure PageRec where
  v : Bool
  sl : Bool
  sp : Bool
  fr : Bool
  ps : BitVec 2
  rt : Nat
  ct : Nat
  kid : BitVec 6
  na : Nat
  bfn : BitVec 40
  pt : BitVec 4
  rm : BitVec 4
  xb : Bool
  retire : Bool
deriving DecidableEq, Repr

/-- An append-table entry (R75), in reservation order. -/
structure Append where
  home : Nat
  rcd : Nat
  ce : Bool
  src : Nat
  rid : Nat
  st : Nat
  ln : Nat
  rb : Nat
  job : Nat
deriving DecidableEq, Repr

/-- A replica-map entry of a die (R87). -/
structure Replica where
  die : Nat
  ps : BitVec 2
  pt : BitVec 4
  sfn : BitVec 40
  rfn : BitVec 40
deriving DecidableEq, Repr

/-- A free service under way (R90): the step to take next, the replica frames that it holds until its last step, with their dies, and the
devices that have yet to acknowledge step 5. -/
structure FreeJob where
  home : Nat
  rcd : Nat
  step : Nat
  frames : List (Nat × BitVec 40)
  acks : List Nat
deriving DecidableEq, Repr

/-! ## Translation (R110 to R115) -/

/-- A leaf held by a TLB (R111): root tag, first page address and size, leaf, and the first entry of its run, with its address, as the
walker read it (R26). -/
structure TlbEntry where
  die : Nat
  rtag : Nat
  va : VAddr
  size : Nat
  leaf : DWord
  first : Nat
  seen : DWord
deriving DecidableEq, Repr

/-- A table entry held by a walk cache (R111): root tag, level, the address bits that lead to it, the entry. -/
structure WalkEnt where
  die : Nat
  rtag : Nat
  level : Nat
  pre : Nat
  e : DWord
deriving DecidableEq, Repr

/-- An invalidation under way (R112). -/
structure Inval where
  rtag : Nat
  page : Option VAddr
deriving DecidableEq, Repr

/-- A group joined to a fault record: its faulting issue state, and what its fault would report (R116, R271). -/
structure FaultJoin where
  grp : Nat
  lanes : DWord
  act : DWord
  pc : VAddr
  len : Nat
  lane : Nat
  at_ : Nat
  addr : DWord
deriving DecidableEq, Repr

/-- A fault service record with the page it is for (`base`, `size`) and its joined groups and engine operations (R115). `id` names it to
the groups. -/
structure FaultRec where
  id : Nat
  cause : BitVec 6
  va : VAddr
  base : Nat
  size : Nat
  rsn : BitVec 4
  acc : BitVec 3
  die : Nat
  core : Nat
  sail : Nat
  gs : Nat
  js : Nat
  pt : Nat
  rtag : Nat
  wait : Nat
  joined : List FaultJoin
  engines : List Nat
  forwarded : Bool
deriving DecidableEq, Repr

/-- A range-table entry of a home (R37). -/
structure RangeEnt where
  home : Nat
  idx : Nat
  md : Bool
  hd : Nat
  bfn : BitVec 40
  len : Nat
  pt : Nat
  js : Nat
  seg : Nat
  hc : Nat
deriving DecidableEq, Repr

/-- A page under a move (R44): root tag, the address that names it, its page and leaf as they stood, and the frame filled for it. -/
structure Move where
  rtag : Nat
  va : VAddr
  base : Nat
  size : Nat
  old : DWord
  copied : Option (BitVec 40)
deriving DecidableEq, Repr

/-- A pinned page of an engine operation (R110): its translation, held until the engine has finished with it. -/
structure Pin where
  die : Nat
  rtag : Nat
  va : Nat
  size : Nat
  leaf : DWord
  copy : Nat
deriving DecidableEq, Repr

/-! ## Copies (R258 to R262, R316) -/

inductive CopyKind | bcopy | bcopy2d | bapnd | bchk | bchkin
deriving DecidableEq, Repr
inductive Space | global | team | comb
deriving DecidableEq, Repr

/-- A run of a check-out: home, first frame, frames, first segment, its range-table index once granted (R35). -/
structure Run where
  home : Nat
  bfn : BitVec 40
  len : Nat
  seg : Nat
  granted : Option Nat
  asked : Bool
deriving DecidableEq, Repr

/-- A copy, append or check-out in flight with its restart point (R259 to R262); `buf`: bytes read and not yet written, with their poison
mark; `wants`: lines it has asked tokens for, and whether to write. -/
structure Copy where
  id : Nat
  kind : CopyKind
  grp : Nat
  flight : Nat
  die : Nat
  bar : BitVec 4
  ss : Space
  ds : Space
  src : DWord
  dst : DWord
  len : Nat
  rows : Nat
  sstr : Nat
  dstr : Nat
  row : Nat
  off : Nat
  ws : Nat
  cnt : Nat
  excl : Bool
  runs : List Run
  filling : Bool
  stopped : Bool
  pc : VAddr
  tw : DWord
  hop : Option Nat
  buf : List Byte
  bufPz : Bool
  wants : List (Nat × Bool)
deriving DecidableEq, Repr

/-! ## Saved contexts and jobs -/

/-- The context of a group, a team and the job as sections hold it (R314 to R318). -/
structure Image where
  groups : List (Nat × Group)
  teams : List (Nat × Team)
  comb : List Host.Cell
  tags : SMap SegTag
  next : Nat
  iv : Word
  opn : Bool
  tlast : DWord
  bpm : SMap DWord
  dbgctl : DWord
  cot : List CodeObj
  ckdig : BitVec 256
  jd : JobDesc
  clusters : List Cluster
  copies : List Copy
  hops : List Hop
  pend : List Access
deriving DecidableEq, Repr

/-- A leaf of a checkpoint set's map (R324): first address, leaf, size of the page. -/
structure MapEnt where
  va : Nat
  leaf : DWord
  size : Nat
deriving DecidableEq, Repr

/-- A checkpoint record (R324): its header, context, map, and units in the order of the stream; `bad`: lines whose data was poisoned (R49); `keys`:
the page records of its log pages (R91). -/
structure Record where
  iv : Word
  kind : BitVec 2
  pred : BitVec 256
  dig : BitVec 256
  img : Image
  ctx : List Byte
  pages : List MapEnt
  units : List (Nat × List Byte)
  bad : List Nat
  keys : List Nat
  complete : Bool
deriving DecidableEq, Repr

/-- A job (R123, R279, R281, R282, R287, R314, R320); `saveAt`: its save region in HBM, and `saved`: where
the image of each saved cluster stands, and its bytes as written (R313). -/
structure Job where
  live : Bool
  jd : JobDesc
  part : Nat
  queue : Nat
  tag : Word
  root : BitVec 40
  rtag : Nat
  st : JState
  clusters : List Cluster
  admitted : Nat
  accepted : Bool
  standing : Bool
  held : Bool
  next : Nat
  iv : Word
  opn : Bool
  close : Option Close
  full : Bool
  stream : Option Record
  todo : List Nat
  log : List Record
  image : Option Image
  saveAt : Option Nat
  saved : SMap (Nat × List Byte)
  tlast : DWord
  toff : DWord
  bpm : SMap DWord
  dbgctl : DWord
  cot : List CodeObj
  ckdig : BitVec 256
  ovr : Bool
  ckf : Bool
  liv : Word
  ldig : BitVec 256
  combSegs : List Nat
  tags : SMap SegTag
  segKid : SMap (BitVec 6)
  comb : List Host.Cell
  combPoison : SMap Bool
  dirtyC : SMap Bool
  evbuf : List (Word × DWord × Nat × Nat)
  priv : List (VAddr × DWord)
deriving DecidableEq, Repr

/-! ## Firmware, queues, events (R331 to R343) -/

/-- A Nolelavin thread (R331, R333). `on`: it executes code that stands in memory (log 8); `resv`: what a load-reserved of it has
read, with the address and the width. -/
structure Thread where
  x : SMap DWord
  pc : DWord
  blocked : Option (BitVec 5 × DWord)
  nqmap : DWord
  nwdcnt : Word
  nwdog : DWord
  wleft : DWord
  nevpend : Bool
  nentry : DWord
  mstatus : DWord
  mtvec : DWord
  mepc : DWord
  mcause : DWord
  mtval : DWord
  mscratch : DWord
  mie : DWord
  mip : DWord
  mcycle : DWord
  minstret : DWord
  on : Bool
  resv : Option (DWord × Nat × DWord)
deriving DecidableEq, Repr

/-- State of a queue (R339). -/
inductive QState | idle | running | halted | error
deriving DecidableEq, Repr

/-- A queue: the two QCB slots as stored (R339), the look-ahead words already read (R338), its jobs in order of admission, and
its place in called buffers, innermost first: next word and words left. -/
structure Queue where
  part : Nat
  s0 : BitVec 512
  s1 : BitVec 512
  look : List (Nat × DWord)
  jobs : List Nat
  buf : List (Nat × Nat)
deriving DecidableEq, Repr

/-- An event record (R341), four words. -/
abbrev EvRec := BitVec 256

/-- An event ring (R341, R342): header fields, records written but waiting, latched errors. -/
structure EvRing where
  part : Nat
  ebf : BitVec 40
  esz : Nat
  ewr : Word
  erd : Word
  ovf : Word
  wait : List EvRec
  latched : Nat
deriving DecidableEq, Repr

/-! ## Partitions, host, security (R296, R297, R344 to R359) -/

inductive Tdisp | unlocked | locked | run | error
deriving DecidableEq, Repr

/-- A partition: its set-up record, TDISP interface and function registers (R352 to R354). -/
structure Part where
  setUp : Bool
  rcd : PartRec
  pool : List (Nat × List (BitVec 40))
  tdisp : Tdisp
  nonce : BitVec 256
  command : DWord
  bar0 : DWord
  bar2 : DWord
  msix : DWord
  ide : DWord
  report : List Byte
  errs : Nat
deriving DecidableEq, Repr

/-- An import entry (R348). -/
structure Import where
  dev : Nat
  spart : Nat
  tpart : Nat
  lo : Nat
  hi : Nat
  kid : BitVec 6
  w : Bool
deriving DecidableEq, Repr

/-- A fabric decoder of a pool port (R346). -/
structure Decoder where
  port : Nat
  lo : Nat
  hi : Nat
  target : DWord
  en : Bool
deriving DecidableEq, Repr

/-- An HDM decoder (R344): host range, device base, key id. -/
structure Hdm where
  lo : Nat
  hi : Nat
  dev : Nat
  kid : BitVec 6
  part : Nat
deriving DecidableEq, Repr

/-- A key slot (R46, R47). -/
structure KeySlot where
  part : BitVec 4
  key : BitVec 512
deriving DecidableEq, Repr

inductive Power | d0 | d3hot
deriving DecidableEq, Repr

/-- Boot and identity registers (R349, R350, R357 to R359), and the key of slot 0 (R47), which no register shows. -/
structure Boot where
  rom : Bool
  meas : SMap (BitVec 256)
  fc : Nat
  svn : Nat
  status : Nat
  recovery : Bool
  session : Bool
  power : Power
  idle : List Nat
  ddn : Option Nat
  ports : SMap Bool
  fatal : Bool
  dumpSeq : DWord
  dump : List Byte
  ctl : SMap DWord
  hbt : SMap Bool
  streams : List Nat
  deviceKey : BitVec 512
deriving DecidableEq, Repr

/-- The first issue state of an ac (R136): group, lanes, scalar, j and g registers and the execution mask read and written; `solo`: its group
stepped then (R290); `partner`: the lanes of the group's pick, of a higher key, that issues next in the same ac, 0 for none. -/
structure First where
  grp : Nat
  lanes : DWord
  rd : List Nat
  wr : List Nat
  solo : Bool
  partner : DWord
deriving DecidableEq, Repr

/-- A sail's choice state (R309): current group, run count, whether it yielded; the issue beside which a second may go (R136). -/
structure Sail where
  cur : Option Nat
  rn : Nat
  yielded : Bool
  first : Option First
deriving DecidableEq, Repr

/-- The instruction being executed: group, lanes of the issue state, those of them that its guard leaves active, PC, length. -/
structure Cur where
  grp : Nat
  lanes : DWord
  act : DWord
  pc : VAddr
  len : Nat
deriving DecidableEq, Repr

/-- Storage structures whose corrected errors a die counts (R48, R50). -/
inductive Store | regs | tiles | l1 | team | comb | stones | l2 | tags | hbm | pool
deriving DecidableEq, Repr

/-- An error that a storage structure has suffered and the machine has yet to meet (R48, R137): an input of the machine. -/
inductive SoftErr
  /-- corrected: counted -/
  | corrected (die : Nat) (u : Store)
  /-- corrected in HBM: counted for its region too -/
  | hbmCorrected (la : Nat)
  /-- uncorrectable: in a register of a group, a tile, a stone, a word of team memory or of a comb window, an L2 line, an HBM line -/
  | reg (grp lane : Nat)
  | tile (tk lane : Nat)
  | stone (tk i : Nat)
  | team (tk word : Nat)
  | comb (job word : Nat)
  | l2 (die la : Nat)
  | hbm (la : Nat)
  /-- uncorrectable: in tags, token state, range tables or persistent-request tables -/
  | table (die : Nat)
  /-- an idle slice disagrees with the lane that it repeats -/
  | dup (grp lane : Nat)
deriving DecidableEq, Repr

/-- The machine. -/
structure State where
  mem : List Host.Cell
  lineKid : SMap (BitVec 6)
  lineOld : SMap (BitVec 512)
  poison : SMap Bool
  l2 : SMap Line
  home : SMap Holding
  perm : SMap HostPerm
  hostDirty : SMap Bool
  wants : List Want
  hostOut : List HostMsg
  remoteOut : List RemoteRsp
  h0 : SMap Line
  msgs : List Msg
  reqs : List Req
  ptab : List PEntry
  pseq : SMap (BitVec 16)
  acts : List Activation
  pend : List Access
  hops : List Hop
  homeq : List Msg
  records : SMap PageRec
  appends : List Append
  seals : List (Nat × Msg)
  replicas : List Replica
  exports : List (Nat × Nat × Nat)
  frees : List FreeJob
  tlb : List TlbEntry
  wcache : List WalkEnt
  invals : List Inval
  pins : List Pin
  faults : List FaultRec
  ranges : List RangeEnt
  rangeWait : List (Nat × Nat × Nat)
  copies : List Copy
  groups : SMap Group
  teams : SMap Team
  jobs : SMap Job
  sails : SMap Sail
  reserved : SMap Nat
  ibuf : SMap Word
  stale : SMap Word
  hints : List (Nat × Nat × Nat × Nat)
  moves : List Move
  track : SMap Bool
  frozen : SMap Nat
  staged : SMap Byte
  rings : SMap (List (Nat × Nat))
  softErrs : List SoftErr
  errcount : SMap Nat
  errlog : SMap Nat
  errTimes : SMap (List Nat)
  marked : SMap Bool
  retired : List (Nat × Nat)
  keys : SMap KeySlot
  parts : SMap Part
  queues : SMap Queue
  events : SMap EvRing
  threads : SMap Thread
  imports : List Import
  decoders : List Decoder
  hdm : List Hdm
  boot : Boot
  timer : DWord
  free : Nat
  agenda : List Instr
  turn : Option Nat
  lastSys : Nat
  lastCp : Nat
  cur : Cur
  holds : List (Nat × DWord × VAddr)
deriving DecidableEq, Repr

/-- Reasons a step stops without the machine going on. -/
inductive Fault
  /-- An event is delivered that the state does not enable (no such message, copy, request, job ...): raised by the meaning of
  an event. Safe: the machine of the spec never takes that step. -/
  | notEnabled
  /-- The device has met a fatal error and accepts only the reset and recovery paths (R343): raised by `step`. Safe. -/
  | fatalStop
  /-- A firmware thread's access names a reserved range (R16): no such memory exists. Raised by State.threadAccess and
  threadStep. Safe. -/
  | noSuchAddress
  /-- A firmware thread's access names control space, whose registers the spec gives no addresses (R16, R331). Raised by
  State.threadAccess, by threadStep, and for an atomic access of another device or of host I/O space. Safe. -/
  | outsideUnit
deriving DecidableEq, Repr

/-- Reasons a step refuses an instruction. -/
inductive Refusal
  /-- The instruction has no meaning yet: raised by an arm of `exec`. Safe. -/
  | notModelled (mnemonic : String)
deriving DecidableEq, Repr

/-! ## Reset -/

/-- A thread after reset: the spec gives no values (log 8). -/
def Thread.reset : Thread :=
  { x := [], pc := 0, blocked := none, nqmap := 0, nwdcnt := 0, nwdog := 0, wleft := 0, nevpend := false, nentry := 0,
    mstatus := 0, mtvec := 0, mepc := 0, mcause := 0, mtval := 0, mscratch := 0, mie := 0, mip := 0, mcycle := 0,
    minstret := 0, on := false, resv := none }

/-- Boot state at a reset, before the boot ROM has run its steps (R349): `rom` says that they are to run. -/
def Boot.reset : Boot :=
  { rom := true, meas := [], fc := 0, svn := 0, status := 0, recovery := false, session := false, power := .d0, idle := [],
    ddn := none, ports := [], fatal := false, dumpSeq := 0, dump := [], ctl := [], hbt := [], streams := [], deviceKey := 0 }

/-- No instruction is being executed. -/
def Cur.none : Cur := { grp := 0, lanes := 0, act := 0, pc := 0, len := 0 }

/-- The machine right after reset, the boot ROM about to run: memory lists nothing, every table is empty, no partition is set up and no job runs. -/
def State.reset : State :=
  { mem := [], lineKid := [], lineOld := [], poison := [], l2 := [], home := [], perm := [], hostDirty := [], wants := [], hostOut := [], remoteOut := [], h0 := [], msgs := [], reqs := [], ptab := [],
    pseq := [], acts := [], pend := [], hops := [], homeq := [], records := [], appends := [], seals := [], replicas := [],
    exports := [], frees := [], tlb := [], wcache := [], invals := [], pins := [], faults := [], ranges := [], rangeWait := [],
    copies := [], groups := [], teams := [], jobs := [], sails := [], reserved := [], ibuf := [], stale := [], hints := [], moves := [],
    track := [], frozen := [], staged := [], rings := [], softErrs := [], errcount := [], errlog := [], errTimes := [], marked := [], retired := [], keys := [], parts := [], queues := [], events := [],
    threads := [], imports := [], decoders := [], hdm := [], boot := Boot.reset, timer := 0, free := 0, agenda := [],
    turn := none, lastSys := 0, lastCp := 32, cur := Cur.none, holds := [] }

end Sys2Proof.Machine
end

