-- ==== Sys2Proof/Machine/Qcb.lean ====
section
/-!
DEFINITION. CRC-32C, the queue control block with its two slots, and event records (R332, R339 to R341).
-/

namespace Sys2Proof.Machine

/-! ## CRC-32C (R332) -/

/-- One bit of the reflected CRC-32C. -/
def crcBit (c : Word) : Word := if c.getLsbD 0 then (c >>> 1) ^^^ (0x82F63B78 : Word) else c >>> 1
/-- One byte. -/
def crcByte (c : Word) (b : Byte) : Word :=
  let x := c ^^^ b.setWidth 32
  crcBit (crcBit (crcBit (crcBit (crcBit (crcBit (crcBit (crcBit x)))))))
/-- A list of bytes, first byte first. -/
def crcBytes (c : Word) (l : List Byte) : Word := l.foldl crcByte c

/-! ## Queue control block (R339) -/

/-- Bits [pos + 63 : pos] of a slot: word `i` of 8 bytes. -/
def slotWord (s : BitVec 512) (i : Nat) : DWord := s.extractLsb' (64 * i) 64
/-- The CRC of bytes 0x00 to 0x37. -/
def slotCrc (s : BitVec 512) : Word := ~~~ (crcBytes 0xFFFFFFFF (toBytes 56 s.toNat))
/-- A slot is valid when V = 1 and its CRC matches (R339). -/
def slotValid (s : BitVec 512) : Bool := s.getLsbD 448 && s.extractLsb' 480 32 == slotCrc s
/-- Generation of a slot. -/
def slotGen (s : BitVec 512) : BitVec 31 := s.extractLsb' 449 31
/-- `a` is newer than `b` modulo 2^31. -/
def genNewer (a b : BitVec 31) : Bool := decide ((a - b).toNat < 2 ^ 30) && a != b
/-- Which slot is live, if any (R339). -/
def Queue.liveSlot (q : Queue) : Option Bool :=
  if slotValid q.s0 then
    if slotValid q.s1 then some (genNewer (slotGen q.s1) (slotGen q.s0)) else some false
  else if slotValid q.s1 then some true else none
/-- The live QCB; with neither slot valid the queue is treated as halted with ERR = 0x0A (R340). -/
def Queue.qcb (q : Queue) : BitVec 512 :=
  match q.liveSlot with
  | some false => q.s0
  | some true => q.s1
  | none => (BitVec.ofNat 512 ((0x0A * 2 ^ 56 + 2) * 2 ^ 320))
/-- Bits [pos + n - 1 : pos] of the live QCB. -/
def Queue.fld (q : Queue) (pos n : Nat) : Nat := (q.qcb.extractLsb' pos n).toNat
def Queue.rbf (q : Queue) : Nat := q.fld 12 40
def Queue.rsz (q : Queue) : Nat := q.fld 0 5
def Queue.ip (q : Queue) : Nat := q.fld 96 32
def Queue.db (q : Queue) : Nat := q.fld 64 32
def Queue.pt (q : Queue) : Nat := q.fld 188 4
def Queue.evr (q : Queue) : Nat := q.fld 184 4
def Queue.dep (q : Queue) : Nat := q.fld 182 2
def Queue.qid (q : Queue) : Nat := q.fld 128 12
def Queue.rsa (q : Queue) : Nat := q.fld 192 64
def Queue.rsb (q : Queue) : Nat := q.fld 256 64
def Queue.err (q : Queue) : Nat := q.fld 376 8
def Queue.epos (q : Queue) : Nat := q.fld 344 32
def Queue.qs (q : Queue) : Nat := q.fld 320 3
/-- Bytes 0x00 to 0x37 with a field replaced. -/
def setFld (s : BitVec 512) (pos n v : Nat) : BitVec 512 :=
  BitVec.ofNat 512 (s.toNat - field s.toNat pos n * 2 ^ pos + (v % 2 ^ n) * 2 ^ pos)
/-- Commit new bytes 0x00 to 0x37: the shadow slot is written, then its commit word with the next generation (R340). -/
def Queue.commit (q : Queue) (b : BitVec 512) : Queue :=
  let gen : BitVec 31 := match q.liveSlot with | some _ => slotGen q.qcb + 1 | none => 1
  let body := setFld (setFld (setFld b 448 1 1) 449 31 gen.toNat) 480 32 0
  let new := setFld body 480 32 (slotCrc body).toNat
  match q.liveSlot with
  | some false => { q with s1 := new }
  | some true => { q with s0 := new }
  | none => { q with s0 := new }

/-- A queue that holds nothing: neither slot valid. -/
def Queue.none : Queue := { part := 0, s0 := 0, s1 := 0, look := [], jobs := [], buf := [] }

/-! ## Event records (R341) -/

/-- An event record: kind, queue, partition, word 0 [31:0], job, team, words 2 and 3. -/
def evRecord (kind qid pt low job team : Nat) (w2 w3 : DWord) : EvRec :=
  w3 ++ w2 ++ BitVec.ofNat 32 job ++ BitVec.ofNat 32 team ++ BitVec.ofNat 8 kind ++ BitVec.ofNat 12 qid ++ BitVec.ofNat 4 pt
    ++ (0 : BitVec 8) ++ BitVec.ofNat 32 low

/-- A ring with no header set up. -/
def EvRing.none : EvRing := { part := 0, ebf := 0, esz := 0, ewr := 0, erd := 0, ovf := 0, wait := [], latched := 0 }
/-- Records a ring holds: 2^n with n = ESZ + 4. -/
def EvRing.size (r : EvRing) : Nat := 2 ^ (r.esz + 4)
/-- The ring is full (R341). -/
def EvRing.full (r : EvRing) : Bool := (r.ewr - r.erd).toNat == r.size

end Sys2Proof.Machine
end

