-- ==== Sys2Proof/Machine/Ops.lean ====
section
/-!
DEFINITION. The named operations over groups, registers, lanes, jobs and memory bytes; join release (R134); the end of an
instruction; taking a trap (R271 to R273, R291) and returning from one (R274).
-/

namespace Sys2Proof.Machine

/-! ## Keys and defaults -/

/-- Key of a team of a job. -/
def tkey (job team : Nat) : Nat := job * 65536 + team
/-- Key of a group: job, team, place q. -/
def gkey (job team q : Nat) : Nat := tkey job team * 64 + q

def Lane.dead : Lane := { pc := 0, cc := 0, depth := 0, st := .ex, jr := 0, nxt := 0, wake := 0, bw := .none }
def FaultInfo.zero : FaultInfo := { cause := 0, pc := 0, info := 0, addr := 0, lm := 0, cc := 0 }
def Counters.zero : Counters := { g := 0, t := 0, k := 0, c := 0, m := 0 }
def Group.dead : Group :=
  { live := false, job := 0, team := 0, q := 0, place := { die := 0, core := 0, sail := 0 }, slot := 0, width := 0, vr := 0, lanes := [],
    xm := 0, v := [], s := [], p := [], j := [], g := [], fmode := 0, draw := 0, cnt := Counters.zero, flights := [], rp := 0,
    run := 0, last := 0, ccnt := 0, fi := FaultInfo.zero, tm := false, sk := false, sc := 0, stepPend := false, skip := false, hand := none,
    perf := [], wait := .none, age := 0, dirtyV := [], kept := [], outs := [] }
def Chain.clear : Chain := { v := false, e := 0, a := 0 }
def Team.dead : Team :=
  { live := false, die := 0, core := 0, mem := [], poison := [], bars := [], acc := [], stones := [], chain := Chain.clear,
    latches := [], mill := [], dirtyM := [], dirtyT := [], dirtyS := [] }
def JobDesc.zero : JobDesc :=
  { entry := 0, argp := 0, seed := 0, trapv := 0, jsb := 0, wd := 0, vr := 0, gpt := 0, pr := false, cs := 0, tmk := 0, atl := 0,
    stn := 0, mtc := 0, xe := 0, ye := 0, ze := 0, sps := 0, spb := 0, rmask := 0, rdie := 0, rhalf := 0, pri := 0, dc := 0,
    ckw := 0, nw := 0, brt := 0, ckp := 0, cki := 0, fmi := 0 }
def Job.dead : Job :=
  { live := false, jd := JobDesc.zero, part := 0, queue := 0, tag := 0, root := 0, rtag := 0, st := .ended, clusters := [],
    admitted := 0, accepted := false, standing := false, held := false, next := 0, iv := 0, opn := false, close := none,
    full := false, stream := none, todo := [], log := [], image := none, saveAt := none, saved := [], tlast := 0, toff := 0, bpm := [], dbgctl := 0,
    cot := [], ckdig := 0, ovr := false, ckf := false, liv := 0, ldig := 0, combSegs := [], tags := [], segKid := [],
    comb := [], combPoison := [], dirtyC := [], evbuf := [], priv := [] }

def State.group (s : State) (k : Nat) : Group := getD Group.dead s.groups k
def State.setGroup (s : State) (k : Nat) (g : Group) : State := { s with groups := mapInsert s.groups k g }
def State.team (s : State) (k : Nat) : Team := getD Team.dead s.teams k
def State.setTeam (s : State) (k : Nat) (t : Team) : State := { s with teams := mapInsert s.teams k t }
def State.job (s : State) (k : Nat) : Job := getD Job.dead s.jobs k
def State.setJob (s : State) (k : Nat) (j : Job) : State := { s with jobs := mapInsert s.jobs k j }
/-- The group of the instruction being executed, its team and its job. -/
def State.curGroup (s : State) : Group := s.group s.cur.grp
def State.setCurGroup (s : State) (g : Group) : State := s.setGroup s.cur.grp g
def Group.tk (g : Group) : Nat := tkey g.job g.team
def State.curTeam (s : State) : Team := s.team s.curGroup.tk
def State.setCurTeam (s : State) (t : Team) : State := s.setTeam s.curGroup.tk t
def State.curJob (s : State) : Job := s.job s.curGroup.job
def State.setCurJob (s : State) (j : Job) : State := s.setJob s.curGroup.job j
/-- Number of teams nT (R124). -/
def JobDesc.nT (d : JobDesc) : Nat := if d.pr then popcount 64 d.rmask.toNat / 2 else popcount 64 d.rmask.toNat
/-- Teams of an admitted job: its number stays when it resumes on fewer cores (R307). -/
def Job.nT (j : Job) : Nat := j.clusters.length * j.jd.cs
/-- Group width (R123). -/
def JobDesc.width (d : JobDesc) : Nat := if d.wd = 0 then 16 else if d.wd = 1 then 32 else 64
/-- Global group index gi (R125). -/
def State.groupId (s : State) (g : Group) : Nat := g.team * (s.job g.job).jd.gpt + g.q
/-- A free value is taken: the counter advances. -/
def State.spend (s : State) : State := { s with free := s.free + 1 }

/-! ## Registers (R138, R168, R176) -/

/-- The launch marker of vN (R126). -/
def marker (n : Nat) : Word := 0x7FA00000 + BitVec.ofNat 32 n
def Group.v32 (g : Group) (n l : Nat) : Word := getD (marker n) g.v (n * 64 + l)
/-- Write one word of vN; the register becomes dirty (R321). -/
def Group.setV32 (g : Group) (n l : Nat) (x : Word) : Group :=
  { g with v := setD (marker n) g.v (n * 64 + l) x, dirtyV := setD false g.dirtyV n true }
def Group.v64 (g : Group) (n l : Nat) : DWord := g.v32 (n + 1) l ++ g.v32 n l
def Group.setV64 (g : Group) (n l : Nat) (x : DWord) : Group :=
  (g.setV32 n l (x.extractLsb' 0 32)).setV32 (n + 1) l (x.extractLsb' 32 32)
/-- `k` consecutive registers in one lane as one number, vn lowest. -/
def Group.vN (g : Group) : Nat → Nat → Nat → Nat
  | 0, _, _ => 0
  | k + 1, n, l => (g.v32 n l).toNat + 2 ^ 32 * g.vN k (n + 1) l
/-- Write `k` consecutive registers in one lane. -/
def Group.setVN : Nat → Group → Nat → Nat → Nat → Group
  | 0, g, _, _, _ => g
  | k + 1, g, n, l, x => Group.setVN k (g.setV32 n l (BitVec.ofNat 32 x)) (n + 1) l (x / 2 ^ 32)
/-- s0 reads zero. -/
def Group.sget (g : Group) (n : Nat) : DWord := if n = 0 then 0 else getD 0 g.s n
/-- s0 ignores writes. -/
def Group.sset (g : Group) (n : Nat) (x : DWord) : Group := if n = 0 then g else { g with s := setD 0 g.s n x }
/-- The lane mask of pN; p0 reads all ones. -/
def Group.pmask (g : Group) (n : Nat) : DWord := if n = 0 then ~~~ 0 else getD 0 g.p n
def Group.pred (g : Group) (n l : Nat) : Bool := (g.pmask n).getLsbD l
/-- Write pN in the lanes of a mask; p0 ignores writes. -/
def Group.psetMask (g : Group) (n : Nat) (m x : DWord) : Group :=
  if n = 0 then g else { g with p := setD 0 g.p n ((g.pmask n &&& ~~~ m) ||| (x &&& m)) }
def Group.jget (g : Group) (n : Nat) : DWord := getD 0 g.j n
def Group.jset (g : Group) (n : Nat) (x : DWord) : Group := { g with j := setD 0 g.j n x }
def Group.gget (g : Group) (n : Nat) : DWord := getD 0 g.g n
def Group.gset (g : Group) (n : Nat) (x : DWord) : Group := { g with g := setD 0 g.g n x }
/-- Write `k` registers from vn in each lane of a list, with the number a function of the lane. -/
def Group.setLanes (g : Group) (k n : Nat) (ls : List Nat) (f : Nat → Nat) : Group :=
  ls.foldl (fun h l => Group.setVN k h n l (f l)) g

/-! ## Lanes (R132, R133, R134) -/

def Group.lane (g : Group) (l : Nat) : Lane := g.lanes.getD l Lane.dead
/-- Change the lanes of a mask. -/
def Group.mapLanes (g : Group) (m : DWord) (f : Lane → Lane) : Group :=
  { g with lanes := g.lanes.mapIdx (fun i x => if m.getLsbD i then f x else x) }
/-- The mask of the lanes whose state meets a condition. -/
def Group.lanesWith (g : Group) (f : Lane → Bool) : DWord :=
  maskOf ((List.range g.lanes.length).filter (fun i => f (g.lane i)))
/-- All w lanes. -/
def Group.full (g : Group) : DWord := maskBelow g.width
/-- branch_to (R176): CC grows, saturating, when the target is at or below the branch. -/
def Lane.branchTo (x : Lane) (pc t : VAddr) : Lane :=
  { x with pc := t, cc := if t ≤ pc then (if x.cc = 0xFFFFFFFF then x.cc else x.cc + 1) else x.cc }

/-- JW lanes of a join point. -/
def Group.waiting (g : Group) (x : Lane) : List Lane :=
  g.lanes.filter (fun y => y.st == .jw && y.jr == x.jr && y.pc == x.pc && y.depth == x.depth)
/-- A lane is in W of a join point, or unreachable from it (R132): a JW lane is one or the other. -/
def Lane.notMissing (y : Lane) : Bool :=
  match y.st with
  | .run => false
  | .sl => false
  | .jw => true
  | .bw => true
  | .pk => true
  | .ex => true
/-- The join point at which `x` waits releases (R134): every expected lane waits here or is unreachable. A JW lane of another
join point is unreachable from this one. -/
def Group.releases (g : Group) (x : Lane) : Bool :=
  (List.range g.width).all (fun i => !(g.jget x.jr.toNat).getLsbD i || (g.lane i).notMissing)
/-- Largest CC of the lanes waiting with `x`. -/
def Group.joinCc (g : Group) (x : Lane) : Word := (g.waiting x).foldl (fun m y => if m ≤ y.cc then y.cc else m) 0
/-- The lanes that the check of R134 releases, by join register. -/
def Group.released (g : Group) (jr : Nat) : DWord := g.lanesWith (fun x => x.st == .jw && x.jr.toNat == jr && g.releases x)
/-- The check of R134: every join point that meets the condition, judged on the statuses before any release, is released. -/
def Group.joinCheck (g : Group) : Group :=
  let g1 := { g with lanes := g.lanes.map (fun x => if x.st == .jw && g.releases x then
                { x with pc := x.nxt, cc := g.joinCc x, st := .run, nxt := 0, jr := 0 } else x) }
  (List.range 8).foldl (fun h r => if g.released r = 0 then h else h.jset r (h.jget r &&& ~~~ g.released r)) g1
/-- A group with no lane that can ever issue: its PK lanes become EX and XM is zero (R194). -/
def Group.parkEnd (g : Group) : Group :=
  if g.lanes.all (fun x => x.st == .pk || x.st == .ex) && g.lanes.any (fun x => x.st == .pk) then
    { g with lanes := g.lanes.map (fun x => { x with st := .ex }), xm := 0 }
  else g
/-- Every lane has ended. -/
def Group.allEx (g : Group) : Bool := g.lanes.all (fun x => x.st == .ex)
/-- After a change of lane status: joins, the end of parked lanes, and the wait for R108 of a group with no lane left. -/
def Group.settle (g : Group) : Group :=
  let h := g.joinCheck.parkEnd
  if h.allEx && h.wait == .none then { h with wait := .ending } else h

/-! ## Advancing and retiring -/

/-- PC of the instruction plus its length. -/
def State.nextPc (s : State) : VAddr := s.cur.pc + BitVec.ofNat 57 s.cur.len
/-- The lanes of the issue state continue at the next instruction. -/
def State.advance (s : State) : State :=
  s.setCurGroup (s.curGroup.mapLanes s.cur.lanes (fun x => { x with pc := s.nextPc }))
/-- Add to a performance counter (R292). -/
def Group.count (g : Group) (k n : Nat) : Group := { g with perf := setD 0 g.perf k (getD 0 g.perf k + BitVec.ofNat 64 n) }
/-- A debugger is attached (R287). -/
def Job.da (j : Job) : Bool := j.dbgctl.getLsbD 0
/-- One issue of a group is over: counters 0 and 1 (R292), SK and the passed breakpoint (R274, R288), the step count (R290). `old` is the group
before it. -/
def Group.retire (old : Group) (da : Bool) (act : DWord) (g : Group) : Group :=
  let g1 := (g.count 0 1).count 1 (popcount 64 act.toNat)
  { g1 with sk := g1.sk && !old.sk, skip := g1.skip && !old.skip,
            sc := if old.sc ≠ 0 && (!old.tm || da) then old.sc - 1 else g1.sc,
            stepPend := g1.stepPend || (old.sc == 1 && (!old.tm || da)) }
/-- Retire the current instruction in state `s` whose effect gave `t`. -/
def State.retire (s : State) (act : DWord) (t : State) : State :=
  t.setGroup s.cur.grp ((s.curGroup).retire (s.curJob).da act (t.group s.cur.grp))

/-! ## Events and stops (R273, R291, R341) -/

def State.ring (s : State) (part ring : Nat) : EvRing := getD EvRing.none s.events (part * 16 + ring)
def State.setRing (s : State) (part ring : Nat) (r : EvRing) : State :=
  { s with events := mapInsert s.events (part * 16 + ring) r }
/-- Hand a record to a ring; EVENT_RECORD_POST writes it (R341). -/
def State.post (s : State) (part ring : Nat) (r : EvRec) : State :=
  s.setRing part ring { s.ring part ring with wait := (s.ring part ring).wait ++ [r] }
def State.queue (s : State) (q : Nat) : Queue := getD Queue.none s.queues q
def State.setQueue (s : State) (q : Nat) (x : Queue) : State := { s with queues := mapInsert s.queues q x }
/-- Post a record of a job on the ring of the queue that launched it. -/
def State.postJob (s : State) (j kind low team : Nat) (w2 w3 : DWord) : State :=
  let jb := s.job j
  s.post jb.part (s.queue jb.queue).evr (evRecord kind jb.queue jb.part low j team w2 w3)
/-- Ask every placed cluster of a job to stop (R311); `held`: it resumes only at the host's request (R273). The job status
block is due (R320). -/
def State.stopJob (s : State) (j : Nat) (held : Bool) : State :=
  let jb := s.job j
  { s.setJob j { jb with st := .stopping, held := jb.held || held,
                         clusters := jb.clusters.map (fun c => if c.st == .placed then { c with st := .stopping } else c) } with
    agenda := s.agenda ++ [.jsbUpdate j] }

/-! ## Traps (R270 to R273) -/

/-- A trap: its cause and what R271 records with it. -/
structure Trap where
  cause : Nat
  code : Nat
  fl : Nat
  rsn : Nat
  at_ : Nat
  lane : Nat
  ap : Bool
  addr : DWord
  len : Option Nat
deriving DecidableEq, Repr

/-- A trap with a cause alone. -/
def Trap.of (cause : Nat) : Trap :=
  { cause := cause, code := 0, fl := 0, rsn := 0, at_ := 0, lane := 0, ap := false, addr := 0, len := none }
def Trap.illegalOpcode : Trap := Trap.of 0x01
def Trap.illegalOperand (lane : Nat) : Trap := { Trap.of 0x02 with lane := lane }
/-- PROTECTION with a reason, not an access (SLEA, CALLX, RET). -/
def Trap.protection (rsn lane : Nat) (addr : DWord) : Trap := { Trap.of 0x11 with rsn := rsn, lane := lane, addr := addr }

/-- FIINFO (R271). -/
def Trap.info (t : Trap) (len : Nat) : DWord :=
  BitVec.ofNat 64 (t.code % 65536 * 2 ^ 48 + t.fl % 32 * 2 ^ 43 + t.rsn % 16 * 2 ^ 39 + t.at_ % 8 * 2 ^ 36
    + (t.len.getD len) % 16 * 2 ^ 32 + t.lane % 64 * 2 ^ 26 + (if t.ap then 2 ^ 25 else 0))

/-- The lowest lane of a mask; 0 if none. -/
def lowLane (m : DWord) : Nat := ctz 64 m.toNat % 64

/-- The fault information registers that a trap records for an issue state (R271, R272). -/
def Trap.fi (t : Trap) (g : Group) (lanes : DWord) (pc : VAddr) (len : Nat) : FaultInfo :=
  let x := g.lane (lowLane lanes)
  { cause := BitVec.ofNat 64 t.cause, pc := pc.setWidth 64, info := t.info len, addr := t.addr, lm := lanes,
    cc := (x.depth ++ x.cc).setWidth 64 }

/-- A trap stop of the job and its report (R273): words 2 and 3 hold FICAUSE and FIPC of the group, and the second cause. -/
def State.trapStop (s : State) (k : Nat) (second : Nat) : State :=
  let g := s.group k
  (s.stopJob g.job true).postJob g.job 0x03 (s.job g.job).tag.toNat g.team
    (g.fi.cause ||| BitVec.ofNat 64 (second * 2 ^ 56)) g.fi.pc

/-- A debug stop (R291): the registers as in R272 with TM left 0, the job stopped and reported; the first instruction of the
group is not matched on resume. The words 2 and 3 of the report are open (free values). -/
def State.debugStop (s : State) (k : Nat) : State :=
  let g := s.group k
  let s1 := (s.stopJob g.job true).postJob g.job 0x09 (s.job g.job).tag.toNat g.team
    (Config.free64 s.free) (Config.free64 (s.free + 1))
  (s1.setGroup k { s1.group k with skip := true }).spend.spend

/-- Trap entry (R272): with TM = 1 the job stops and the registers stay; with no handler they are written and the job stops; a
BREAKPOINT or STEP with DA = 1 is a debug stop (R291); otherwise the trapping lanes go to TRAPV with TM set. Lanes that have
issued past the instruction stand at it again. -/
def State.takeTrap (s : State) (k : Nat) (lanes : DWord) (pc : VAddr) (len : Nat) (t : Trap) : State :=
  let g := (s.group k).mapLanes lanes (fun x => { x with pc := pc })
  let jb := s.job g.job
  let fi := t.fi g lanes pc len
  if jb.da && (t.cause == 0x20 || t.cause == 0x21) then (s.setGroup k { g with fi := fi }).debugStop k
  else if g.tm then (s.setGroup k g).trapStop k t.cause
  else if jb.jd.trapv = 0 then (s.setGroup k { g with fi := fi }).trapStop k 0
  else s.setGroup k ({ g with fi := fi, tm := true }.mapLanes lanes (fun x => { x with pc := jb.jd.trapv }))

/-! ## The end of an instruction -/

/-- What a meaning comes to. -/
inductive Act
  /-- the instruction is done: the lanes that were active, and the state it leaves -/
  | done (act : DWord) (s : State)
  /-- it traps: the shared entry -/
  | trap (t : Trap)
  /-- it is not begun: the issue state holds at it -/
  | hold
  /-- the group waits at it, not retired -/
  | wait (s : State)

/-- The issue state holds at its instruction until something else has happened. -/
def State.holdCur (s : State) : State := { s with holds := (s.cur.grp, s.cur.lanes, s.cur.pc) :: s.holds }

/-- An instruction of a group traps: the entry, and its issue is counted as any other, with its active lanes (R274, R290, R292). -/
def State.trapIssue (s : State) (k : Nat) (lanes act : DWord) (pc : VAddr) (len : Nat) (t : Trap) : State :=
  let u := s.takeTrap k lanes pc len t
  u.setGroup k ((s.group k).retire (s.job (s.group k).job).da act (u.group k))
/-- The instruction being executed traps. -/
def State.trapCur (s : State) (t : Trap) : State := s.trapIssue s.cur.grp s.cur.lanes s.cur.act s.cur.pc s.cur.len t
/-- The outcome of a meaning. -/
def Act.run (s : State) : Act → Host.Outcome State Fault Refusal
  | .done act t => .next (s.retire act t)
  | .trap t => .next (s.trapCur t)
  | .hold => .next s.holdCur
  | .wait t => .next t

/-- An instruction that changes its group alone and continues at the next instruction. -/
def regAct (s : State) (act : DWord) : Except Trap Group → Act
  | .ok g => .done act (s.setCurGroup g).advance
  | .error t => .trap t

/-- An instruction that always changes its group alone and continues at the next instruction. -/
def State.finish (s : State) (act : DWord) (g : Group) : Host.Outcome State Fault Refusal :=
  (Act.done act (s.setCurGroup g).advance).run s

/-! ## Guards (R169) -/

/-- The active lanes: those of the issue state where pred(gp) XOR gn. -/
def State.active (s : State) (g : Guard) : DWord :=
  s.cur.lanes &&& (if g.gn then ~~~ (s.curGroup.pmask g.gp.toNat) else s.curGroup.pmask g.gp.toNat)

/-! ## Memory bytes -/

/-- A byte that nothing has written reads as 0 (log 3). -/
def memDefault : Byte := 0
/-- The canonical form of memory. -/
def Memory.wf (m : List Host.Cell) : Bool := mapWf memDefault m
def Memory.read (m : List Host.Cell) (a : Nat) : Byte := getD memDefault m a
def Memory.write (m : List Host.Cell) (a : Nat) (b : Byte) : List Host.Cell := setD memDefault m a b
/-- `n` bytes from `a`, lowest first. -/
def Memory.readN (m : List Host.Cell) (a n : Nat) : List Byte := (List.range n).map (fun i => Memory.read m (a + i))
/-- Write bytes from `a` upward. -/
def Memory.writeN : List Host.Cell → Nat → List Byte → List Host.Cell
  | m, _, [] => m
  | m, a, b :: l => Memory.writeN (Memory.write m a b) (a + 1) l
/-- A little-endian number of `n` bytes (R5). -/
def Memory.num (m : List Host.Cell) (a n : Nat) : Nat := ofBytes (Memory.readN m a n)

/-- Cells of bytes from `a` upward. -/
def Memory.cells (a : Nat) (bs : List Byte) : List Host.Cell :=
  ((List.range bs.length).zip bs).filterMap (fun e => if e.2 = memDefault then none else some (a + e.1, e.2))
/-- Write a long run of bytes from `a` upward at once. -/
def Memory.put (m : List Host.Cell) (a : Nat) (bs : List Byte) : List Host.Cell :=
  m.filter (fun e => decide (e.1 < a)) ++ Memory.cells a bs ++ m.filter (fun e => decide (a + bs.length ≤ e.1))
/-- `n` bytes from `a`, given the cells that list some of them in their order, after those gathered. -/
def Memory.fill : List Host.Cell → Nat → Nat → List Byte → List Byte
  | _, _, 0, l => l.reverse
  | [], a, n + 1, l => Memory.fill [] (a + 1) n (memDefault :: l)
  | c :: m, a, n + 1, l => if c.1 = a then Memory.fill m (a + 1) n (c.2 :: l) else Memory.fill (c :: m) (a + 1) n (memDefault :: l)
/-- A long run of `n` bytes from `a`. -/
def Memory.slice (m : List Host.Cell) (a n : Nat) : List Byte :=
  Memory.fill (m.filter (fun e => decide (a ≤ e.1) && decide (e.1 < a + n))) a n []

/-! ## Time (R279, R292; log 4) -/

/-- Time passes before an observation: the device timer grows by a free number of ticks and does not wrap. -/
def State.passTime (s : State) : State :=
  { s with timer := s.timer + BitVec.ofNat 64 (Config.ticks s.free % (2 ^ 64 - s.timer.toNat)) }.spend
/-- The job timer (R279). -/
def State.jobTimer (s : State) (j : Nat) : DWord := s.timer + (s.job j).toff

/-! ## Code objects (R183) -/

/-- The object whose range holds an address, with its index. -/
def Job.objOf (j : Job) (pc : VAddr) : Option (Nat × CodeObj) :=
  ((List.range j.cot.length).zip j.cot).find? (fun x => decide (x.2.base.toNat ≤ pc.toNat) && decide (pc.toNat < x.2.base.toNat + x.2.size))

end Sys2Proof.Machine
end

