-- ==== Sys2Proof/Machine/Team.lean ====
section
/-!
DEFINITION. Counters and flights (R93), barriers (R263, R265), rendezvous latches as far as they trap (R243), and what follows
every change of a lane's status: joins, parked ends, the end of a group (R108, R131, R194), TBAR and CBAR release.
-/

namespace Sys2Proof.Machine

/-! ## In-flight counters (R92, R93) -/

def Counters.get (c : Counters) : Path → BitVec 8
  | .g => c.g | .t => c.t | .k => c.k | .c => c.c | .m => c.m
def Counters.set (c : Counters) (x : BitVec 8) : Path → Counters
  | .g => { c with g := x } | .t => { c with t := x } | .k => { c with k := x } | .c => { c with c := x } | .m => { c with m := x }
/-- Issue raises the counter of the path (R93). -/
def Group.raise (g : Group) (f : Flight) : Group :=
  { g with cnt := g.cnt.set (g.cnt.get f.path + 1) f.path, flights := g.flights ++ [f] }
/-- The instruction being executed as one in flight. -/
def State.flight (s : State) (p : Path) (id : Nat) (isLoad : Bool) (dst : List Reg) : Flight :=
  let x := s.curGroup.lane (lowLane s.cur.lanes)
  { path := p, id := id, done := false, isLoad := isLoad, dst := dst, pc := s.cur.pc, lanes := s.cur.lanes, len := s.cur.len,
    cc := x.cc, depth := x.depth, vals := [] }
/-- The flight of a group with a number. -/
def Group.flightOf (g : Group) (id : Nat) : Option Flight := g.flights.find? (fun f => f.id == id)
/-- Change the flight with a number. -/
def Group.mapFlight (g : Group) (id : Nat) (f : Flight → Flight) : Group :=
  { g with flights := g.flights.map (fun x => if x.id == id then f x else x) }
/-- The path's counter stands at 255: the instruction waits at issue (R93). -/
def Group.pathFull (g : Group) (p : Path) : Bool := g.cnt.get p == 255
/-- An instruction in flight is complete. -/
def Group.flightDone (g : Group) (id : Nat) : Group := g.mapFlight id (fun f => { f with done := true, dst := [] })
/-- The oldest flight of a path. -/
def Group.oldest (g : Group) (p : Path) : Option Flight := g.flights.find? (fun f => f.path == p)
/-- Lower the counter of a path by its oldest instruction, if that is complete (R93). -/
def Group.lower (g : Group) (p : Path) : Option Group :=
  match g.oldest p with
  | some f =>
    if f.done then
      some { g with cnt := g.cnt.set (g.cnt.get p - 1) p, flights := g.flights.filter (fun x => x.id != f.id) }
    else none
  | none => none
/-- A discarded instruction: its count is lowered (R104). -/
def Group.discard (g : Group) (id : Nat) : Group :=
  match g.flights.find? (fun f => f.id == id) with
  | some f => { g with cnt := g.cnt.set (g.cnt.get f.path - 1) f.path, flights := g.flights.filter (fun x => x.id != id) }
  | none => g
/-- Every earlier access of paths G, T, K and M is complete (R99). -/
def Group.quiet (g : Group) : Bool := g.flights.all (fun f => f.done || f.path == .c)
/-- Every access of paths G, T, K and M older than flight `id` is complete (R104). -/
def Group.olderDone (g : Group) (id : Nat) : Bool :=
  (g.flights.takeWhile (fun f => f.id != id)).all (fun f => f.done || f.path == .c)
/-- Instructions in flight issued after flight `id`. -/
def Group.younger (g : Group) (id : Nat) : List Flight := (g.flights.dropWhile (fun f => f.id != id)).drop 1
/-- The lanes of a flight stand at it again, as they issued it (R104, R272). -/
def Group.rewind (g : Group) (f : Flight) : Group :=
  g.mapLanes f.lanes (fun x => { x with pc := f.pc, cc := f.cc, depth := f.depth, st := .run, nxt := 0, jr := 0, wake := 0, bw := .none })
/-- The lanes of a flight stand right after it: they have issued nothing since. -/
def Group.standsAfter (g : Group) (f : Flight) : Bool :=
  (lanesOf f.lanes).all (fun l =>
    let x := g.lane l
    x.st == .run && x.pc == f.pc + BitVec.ofNat 57 f.len && x.cc == f.cc && x.depth == f.depth)
/-- Every earlier load, atomic and mill read is complete (R99, FENCE.A). -/
def Group.loadsDone (g : Group) : Bool := g.flights.all (fun f => f.done || f.path == .c || !f.isLoad)
/-- Counters G, T, K and M stand at zero: R108 holds. -/
def Group.drained (g : Group) : Bool := g.cnt.g == 0 && g.cnt.t == 0 && g.cnt.k == 0 && g.cnt.m == 0

/-! ## Barrier words (R263) -/

def Barrier.zero : Barrier := { rv := 0, ac := 0, ec := 0, ph := false, pb := 0 }
def Team.bar (t : Team) (b : Nat) : Barrier := getD Barrier.zero t.bars b
def Team.setBar (t : Team) (b : Nat) (x : Barrier) : Team := { t with bars := setD Barrier.zero t.bars b x }
/-- The phase is complete (R263). -/
def Barrier.complete (x : Barrier) : Bool := x.ac == x.ec && x.pb == 0 && x.rv == 0
/-- The barrier after a completed phase. -/
def Barrier.flip (x : Barrier) : Barrier := { x with ph := !x.ph, ac := 0 }

/-- Keys of the live groups of a team. -/
def State.groupsOf (s : State) (tk : Nat) : List Nat :=
  ((List.range 64).map (fun q => tk * 64 + q)).filter (fun k => (s.group k).live)
/-- BW lanes of a kind become RUN at their next instruction. -/
def Group.wakeBw (g : Group) (b : BwKind) : Group :=
  { g with lanes := g.lanes.map (fun x => if x.st == .bw && x.bw == b then { x with st := .run, pc := x.nxt, bw := .none } else x) }
/-- Wake the waiting lanes of groups. -/
def State.wakeAll (s : State) (ks : List Nat) (b : BwKind) : State :=
  ks.foldl (fun t k => t.setGroup k ((t.group k).wakeBw b)) s
/-- check(bN) of R263. -/
def State.barCheck (s : State) (tk b : Nat) : State :=
  let t := s.team tk
  if (t.bar b).complete then
    (s.setTeam tk (t.setBar b (t.bar b).flip)).wakeAll (s.groupsOf tk) (.bar (BitVec.ofNat 4 b))
  else s
/-- Change a barrier, then check it. -/
def State.updBar (s : State) (tk b : Nat) (f : Barrier → Barrier) : State :=
  (s.setTeam tk ((s.team tk).setBar b (f ((s.team tk).bar b)))).barCheck tk b

/-! ## TBAR and CBAR (R265) -/

/-- A group has arrived at a team or cluster barrier. -/
def Group.arrived (g : Group) (b : BwKind) : Bool :=
  g.lanes.any (fun x => x.st != .ex) && g.lanes.all (fun x => x.st == .ex || x.st == .pk || (x.st == .bw && x.bw == b))
/-- The teams of the cluster of a team. -/
def State.clusterTeams (s : State) (j team : Nat) : List Nat :=
  let cs := (s.job j).jd.cs
  (List.range cs).map (fun i => tkey j (team / cs * cs + i))
/-- TBAR releases when every group of the team that has not ended has arrived. -/
def State.tbarCheck (s : State) (tk : Nat) : State :=
  let ks := s.groupsOf tk
  if ks.all (fun k => (s.group k).arrived .team) then s.wakeAll ks .team else s
/-- CBAR releases when every group of every team of the cluster that has not ended has arrived. -/
def State.cbarCheck (s : State) (j team : Nat) : State :=
  let ks := (s.clusterTeams j team).flatMap s.groupsOf
  if ks.all (fun k => (s.group k).arrived .cluster) then s.wakeAll ks .cluster else s

/-! ## Rendezvous latches (R242, R243) -/

def Team.latch (t : Team) (mask : DWord) : Latch := (t.latches.find? (fun l => l.mask == mask)).getD { mask := mask, arr := [] }
def Team.setLatch (t : Team) (l : Latch) : Team :=
  { t with latches := t.latches.filter (fun x => x.mask != l.mask) ++ (if l.arr.isEmpty then [] else [l]) }
/-- Trap every arrived member of a latch at its MMA and clear the latch (R243, R244). -/
def State.latchTrap (s : State) (tk : Nat) (l : Latch) (t : Trap) : State :=
  let s1 := s.setTeam tk ((s.team tk).setLatch { l with arr := [] })
  l.arr.foldl (fun u a =>
    let k := tk * 64 + a.q
    (u.setGroup k { (u.group k).discard a.id with wait := .none }).trapIssue k a.lanes a.lanes a.pc a.len t) s1
/-- A listed group that has not arrived can no longer arrive: it has ended, or it waits elsewhere (R243). -/
def Group.cannotArrive (g : Group) (mask : DWord) : Bool :=
  !g.live || (match g.wait with | .latch m => m != mask | _ => false) ||
    g.lanes.all (fun x => x.st == .ex || x.st == .pk || x.st == .bw)
/-- A latch that can never complete. -/
def State.latchStuck (s : State) (tk : Nat) (l : Latch) : Bool :=
  (lanesOf l.mask).any (fun q => !(l.arr.any (fun a => a.q == q)) && (s.group (tk * 64 + q)).cannotArrive l.mask)
/-- Check every latch of a team for a member that cannot arrive. -/
def State.latchCheck (s : State) (tk : Nat) : State :=
  let stuck := (s.team tk).latches.filter (fun l => s.latchStuck tk l)
  stuck.foldl (fun u l => u.latchTrap tk l (Trap.of 0x06)) s

/-! ## What follows a change of lane status -/

/-- A group with no lane left ends once R108 holds: its tile in hand is released (R128, R131). -/
def State.endCheck (s : State) (k : Nat) : State :=
  let g := s.group k
  if g.wait == .ending && g.drained then s.setGroup k { g with live := false, hand := none, wait := .none } else s
/-- After lanes of group `k` changed status: joins and parked ends, the group's end, the team's barriers and latches. -/
def State.afterLanes (s : State) (k : Nat) : State :=
  let s1 := (s.setGroup k (s.group k).settle).endCheck k
  let g := s.group k
  ((s1.tbarCheck g.tk).cbarCheck g.job g.team).latchCheck g.tk

/-! ## The scoreboard -/

/-- A register that an instruction in flight has yet to write. -/
def Group.pending (g : Group) (r : Reg) : Bool := g.flights.any (fun f => f.dst.contains r)

end Sys2Proof.Machine
end

