-- ==== Sys2Proof/Machine/Flags.lean ====
section
/-!
DEFINITION. Number formats, exact values, rounding and the floating-point flags (R142 to R158), and Philox (R160).
-/

namespace Sys2Proof.Machine

/-! ## Flags (R147, R277): bit 4 NV, 3 DZ, 2 OF, 1 UF, 0 NX -/

def flNV : Nat := 16
def flDZ : Nat := 8
def flOF : Nat := 4
def flUF : Nat := 2
def flNX : Nat := 1

/-! ## Formats (R142, R144, R149) -/

inductive Kind | ieee | q8 (signed ext : Bool) | int (signed : Bool)
deriving DecidableEq, Repr

/-- A format: width, precision with the leading bit, bias. -/
structure Fmt where
  bits : Nat
  p : Nat
  bias : Nat
  kind : Kind
deriving DecidableEq, Repr

def Fmt.f64 : Fmt := { bits := 64, p := 53, bias := 1023, kind := .ieee }
def Fmt.f32 : Fmt := { bits := 32, p := 24, bias := 127, kind := .ieee }
def Fmt.f16 : Fmt := { bits := 16, p := 11, bias := 15, kind := .ieee }
def Fmt.bf16 : Fmt := { bits := 16, p := 8, bias := 127, kind := .ieee }
def Fmt.int (bits : Nat) (signed : Bool) : Fmt := { bits := bits, p := bits, bias := 0, kind := .int signed }
def Fmt.q8 (p : Nat) (signed ext : Bool) : Fmt :=
  { bits := 8, p := p, bias := if signed then 2 ^ (7 - p) else 2 ^ (8 - p), kind := .q8 signed ext }

/-- The format of a code; none for an illegal code (R142). -/
def Fmt.ofCode (c : Nat) : Option Fmt :=
  if c = 1 then some Fmt.f64 else if c = 2 then some Fmt.f32 else if c = 3 then some Fmt.f16 else if c = 4 then some Fmt.bf16
  else if 8 ≤ c ∧ c ≤ 0x11 then some (Fmt.int (4 * 2 ^ ((c - 8) / 2)) (c % 2 == 0))
  else if 0x21 ≤ c ∧ c ≤ 0x3F ∧ c % 8 ≠ 0 then
    some (Fmt.q8 (c % 8) (decide (c < 0x30)) (c / 8 % 2 == 0))
  else none

/-- Format of a floating type of list F. -/
def ftyFmt : FTy → Fmt
  | .f32 => Fmt.f32 | .f64 => Fmt.f64 | .f16x2 => Fmt.f16 | .bf16x2 => Fmt.bf16 | .f16 => Fmt.f16 | .bf16 => Fmt.bf16

/-! ## Exact values -/

/-- A value: NaN, infinity, or sign × m × 2^e, with `sticky` when the exact magnitude lies strictly between m and m + 1 units. -/
inductive Num
  | nan (sig : Bool)
  | inf (neg : Bool)
  | fin (neg : Bool) (m : Nat) (e : Int) (sticky : Bool)
deriving DecidableEq, Repr

def Num.zero (neg : Bool) : Num := .fin neg 0 0 false
def Num.isZero : Num → Bool | .fin _ m _ st => m == 0 && !st | _ => false
def Num.isNan : Num → Bool | .nan _ => true | _ => false
def Num.isSig : Num → Bool | .nan s => s | _ => false
def Num.neg : Num → Bool | .nan _ => false | .inf n => n | .fin n _ _ _ => n
def Num.negate : Num → Num | .nan s => .nan s | .inf n => .inf (!n) | .fin n m e st => .fin (!n) m e st
/-- A finite nonzero value's exponent floor(log2 |x|). -/
def Num.exp? : Num → Option Int
  | .fin _ m e _ => if m = 0 then none else some (e + Nat.log2 m)
  | _ => none
/-- x × 2^k. -/
def Num.scale (k : Int) : Num → Num | .nan s => .nan s | .inf n => .inf n | .fin n m e st => .fin n m (e + k) st
def Num.ofInt (x : Int) : Num := .fin (decide (x < 0)) x.natAbs 0 false

/-- Exponent of the smallest normal value. -/
def Fmt.emin (f : Fmt) : Int := 1 - f.bias
/-- Fields of a floating code: sign, exponent field, fraction. -/
def Fmt.signOf (f : Fmt) (c : Nat) : Bool :=
  match f.kind with
  | .ieee => bitAt c (f.bits - 1)
  | .q8 s _ => s && bitAt c 7
  | .int s => s && bitAt c (f.bits - 1)
def Fmt.expWidth (f : Fmt) : Nat :=
  match f.kind with
  | .ieee => f.bits - f.p
  | .q8 s _ => if s then 8 - f.p else 9 - f.p
  | .int _ => 0
/-- Value of a finite floating code. -/
def Fmt.finite (f : Fmt) (c : Nat) : Num :=
  let ef := field c (f.p - 1) f.expWidth
  let fr := field c 0 (f.p - 1)
  if ef = 0 then .fin (f.signOf c) fr (f.emin - (f.p - 1 : Nat)) false
  else .fin (f.signOf c) (fr + 2 ^ (f.p - 1)) ((ef : Int) - f.bias - (f.p - 1 : Nat)) false
/-- value(fc, code) (R144, R148 to R151). -/
def Fmt.value (f : Fmt) (c : Nat) : Num :=
  match f.kind with
  | .int s => if s then Num.ofInt (toSigned f.bits c) else .fin false (c % 2 ^ f.bits) 0 false
  | .ieee =>
    if field c (f.p - 1) f.expWidth = 2 ^ f.expWidth - 1 then
      if field c 0 (f.p - 1) = 0 then .inf (f.signOf c) else .nan (!bitAt c (f.p - 2))
    else f.finite c
  | .q8 true ext =>
    if c % 256 = 0x80 then .nan false
    else if ext && c % 128 == 0x7F then .inf (bitAt c 7)
    else f.finite c
  | .q8 false ext =>
    if c % 256 = 0xFF then .nan false
    else if ext && c % 256 == 0xFE then .inf false
    else f.finite c

/-- The canonical quiet NaN (R144, R150). -/
def Fmt.qnan (f : Fmt) : Nat :=
  match f.kind with
  | .ieee => (2 ^ f.expWidth - 1) * 2 ^ (f.p - 1) + 2 ^ (f.p - 2)
  | .q8 true _ => 0x80
  | .q8 false _ => 0xFF
  | .int _ => 0
/-- The code of the sign alone. -/
def Fmt.signBit (f : Fmt) (neg : Bool) : Nat := if neg then 2 ^ (f.bits - 1) else 0
/-- ±largest finite. -/
def Fmt.maxCode (f : Fmt) (neg : Bool) : Nat :=
  match f.kind with
  | .ieee => f.signBit neg + (2 ^ f.expWidth - 2) * 2 ^ (f.p - 1) + (2 ^ (f.p - 1) - 1)
  | .q8 true ext => f.signBit neg + (if ext then 0x7E else 0x7F)
  | .q8 false ext => if ext then 0xFD else 0xFE
  | .int _ => 0
/-- ±∞, in a format that has it. -/
def Fmt.infCode (f : Fmt) (neg : Bool) : Nat :=
  match f.kind with
  | .ieee => f.signBit neg + (2 ^ f.expWidth - 1) * 2 ^ (f.p - 1)
  | .q8 true _ => f.signBit neg + 0x7F
  | .q8 false _ => 0xFE
  | .int _ => 0
/-- Zero: the binary8 family has no negative zero (R150). -/
def Fmt.zeroCode (f : Fmt) (neg : Bool) : Nat :=
  match f.kind with
  | .ieee => f.signBit neg
  | .q8 _ _ => 0
  | .int _ => 0
/-- Infinity exists. -/
def Fmt.hasInf (f : Fmt) : Bool :=
  match f.kind with
  | .ieee => true | .q8 _ ext => ext | .int _ => false

/-! ## Rounding (R155 to R158). Modes: 1 RNE, 2 RTZ, 3 up, 4 down, 5 nearest away, 6 stochastic -/

/-- Whether the magnitude rounds away from zero: `keep` odd, the part below it `rem` of 2^sh, sticky below that. -/
def roundsUp (mode : Nat) (neg odd : Bool) (rem sh : Nat) (st : Bool) (rnd : Nat) : Bool :=
  let inexact := rem != 0 || st
  if mode = 2 then false
  else if mode = 3 then inexact && !neg
  else if mode = 4 then inexact && neg
  else if mode = 5 then decide (2 ^ sh ≤ 2 * rem)
  else if mode = 6 then decide (rnd < rem * 2 ^ 32 / 2 ^ sh)
  else decide (2 ^ sh < 2 * rem) || (decide (2 * rem = 2 ^ sh) && (st || odd))

/-- Round a magnitude to a multiple of 2^q: the multiple and whether it is inexact. -/
def roundAt (mode : Nat) (neg : Bool) (m : Nat) (e : Int) (st : Bool) (q : Int) (rnd : Nat) : Nat × Bool :=
  if q ≤ e then (m * 2 ^ (e - q).toNat, st)
  else
    let sh := (q - e).toNat
    let keep := m / 2 ^ sh
    let rem := m % 2 ^ sh
    (keep + (if roundsUp mode neg (keep % 2 == 1) rem sh st rnd then 1 else 0), rem != 0 || st)

/-- Overflow (R157, R158): the code and flags. -/
def Fmt.overflow (f : Fmt) (mode : Nat) (sat neg : Bool) : Nat × Nat :=
  if sat then (f.maxCode neg, flOF + flNX)
  else if !f.hasInf then (f.qnan, flOF + flNX)
  else if mode = 1 ∨ mode = 5 ∨ mode = 6 ∨ (mode = 3 ∧ neg = false) ∨ (mode = 4 ∧ neg = true) then
    (f.infCode neg, flOF + flNX)
  else (f.maxCode neg, flOF + flNX)

/-- The code of `n` × 2^q, `n` < 2^p or a carry out of it, on the format's own grid. -/
def Fmt.pack (f : Fmt) (neg : Bool) (n : Nat) (q : Int) : Nat :=
  if n = 0 then f.zeroCode neg
  else
    let nb := Nat.log2 n
    if nb < f.p - 1 then f.signBit neg + n
    else
      let n1 := n / 2 ^ (nb - (f.p - 1))
      let ef := (q + nb + f.bias).toNat
      f.signBit neg + ef * 2 ^ (f.p - 1) + (n1 - 2 ^ (f.p - 1))

/-- The magnitude `n` × 2^q exceeds the largest finite value. -/
def Fmt.over (f : Fmt) (n : Nat) (q : Int) : Bool :=
  match f.finite (f.maxCode false) with
  | .fin _ mm me _ =>
    if n = 0 then false
    else
      let a := q + Nat.log2 n
      let b := me + Nat.log2 mm
      if a ≠ b then decide (b < a)
      else
        let k := if q ≤ me then q else me
        decide (mm * 2 ^ (me - k).toNat < n * 2 ^ (q - k).toNat)
  | _ => false

/-- Round a finite nonzero magnitude to a floating format. -/
def Fmt.roundFin (f : Fmt) (mode : Nat) (sat fz : Bool) (rnd : Nat) (neg : Bool) (m : Nat) (e : Int) (st : Bool) : Nat × Nat :=
  let top := e + Nat.log2 m
  let lsb := (if top < f.emin then f.emin else top) - (f.p - 1 : Nat)
  let r := roundAt mode neg m e st lsb rnd
  let n := r.1
  let sub := decide (n < 2 ^ (f.p - 1)) && decide (top < f.emin)
  let free := roundAt mode neg m e st (top - (f.p - 1 : Nat)) rnd
  let tiny := decide (top < f.emin) &&
    (match f.kind with
     | .ieee => decide (top - (f.p - 1 : Nat) + Nat.log2 free.1 < f.emin)
     | .q8 _ _ => sub
     | .int _ => false)
  if f.over n lsb then f.overflow mode sat neg
  else if fz && f.kind == .ieee && sub && n != 0 then (f.zeroCode neg, flUF + flNX)
  else (f.pack neg n lsb, (if r.2 then flNX else 0) + (if r.2 && tiny then flUF else 0))

/-- Conversion to an integer format (R148). -/
def Fmt.roundInt (f : Fmt) (mode rnd : Nat) : Num → Nat × Nat
  | .nan _ => (0, flNV)
  | .inf neg =>
    match f.kind with
    | .int true => (if neg then 2 ^ (f.bits - 1) else 2 ^ (f.bits - 1) - 1, flNV)
    | _ => (if neg then 0 else 2 ^ f.bits - 1, flNV)
  | .fin neg m e st =>
    let lo : Int := match f.kind with | .int true => -(2 ^ (f.bits - 1) : Nat) | _ => 0
    let hi : Int := match f.kind with | .int true => (2 ^ (f.bits - 1) : Nat) - 1 | _ => (2 ^ f.bits : Nat) - 1
    let r := if m ≠ 0 ∧ (80 : Int) < e + Nat.log2 m then (2 ^ 80, false) else roundAt mode neg m e st 0 rnd
    let v : Int := if neg then -(r.1 : Int) else r.1
    if v < lo then (wrap f.bits lo, flNV)
    else if hi < v then (wrap f.bits hi, flNV)
    else (wrap f.bits v, if r.2 then flNX else 0)

/-- round(fc, x, m, sat): the code and the flags (R145, R146, R148, R155 to R158). -/
def Fmt.round (f : Fmt) (mode : Nat) (sat fz : Bool) (rnd : Nat) (x : Num) : Nat × Nat :=
  match f.kind with
  | .int _ => f.roundInt mode rnd x
  | .ieee =>
    match x with
    | .nan sig => (f.qnan, if sig then flNV else 0)
    | .inf neg => (if sat then f.maxCode neg else f.infCode neg, 0)
    | .fin neg m e st => if m = 0 then (f.zeroCode neg, 0) else f.roundFin mode sat fz rnd neg m e st
  | .q8 signed _ =>
    match x with
    | .nan sig => (f.qnan, if sig then flNV else 0)
    | .inf neg =>
      if !signed && neg then (if sat then (0, flNX) else (f.qnan, flNV))
      else if sat then (f.maxCode neg, 0)
      else if f.hasInf then (f.infCode neg, 0) else (f.qnan, flNV)
    | .fin neg m e st =>
      if m = 0 then (0, 0)
      else if !signed && neg then (if sat then (0, flNX) else (f.qnan, flNV))
      else f.roundFin mode sat false rnd neg m e st

/-! ## Exact arithmetic (R214) -/

/-- Signed magnitude at exponent `k`. -/
def signedAt (neg : Bool) (m : Nat) (e k : Int) : Int :=
  let v : Int := ((m * 2 ^ (e - k).toNat : Nat) : Int)
  if neg then -v else v
/-- Sum of two exact finite values; an exact zero sum is +0, or −0 when rounding down. -/
def addFin (mode : Nat) (na : Bool) (ma : Nat) (ea : Int) (nb : Bool) (mb : Nat) (eb : Int) : Num :=
  if ma = 0 ∧ mb = 0 then Num.zero (if na == nb then na else mode == 4)
  else if ma = 0 then .fin nb mb eb false
  else if mb = 0 then .fin na ma ea false
  else
    let k := if ea ≤ eb then ea else eb
    let v := signedAt na ma ea k + signedAt nb mb eb k
    if v = 0 then Num.zero (mode == 4) else .fin (decide (v < 0)) v.natAbs k false

/-- A result with the flags the operation itself raises. -/
abbrev Res := Num × Nat

def nvIf (b : Bool) : Nat := if b then flNV else 0

def fAdd (mode : Nat) (a b : Num) : Res :=
  match a, b with
  | .nan s, y => (.nan false, nvIf (s || y.isSig))
  | x, .nan s => (.nan false, nvIf (s || x.isSig))
  | .inf x, .inf y => if x == y then (.inf x, 0) else (.nan false, flNV)
  | .inf x, .fin _ _ _ _ => (.inf x, 0)
  | .fin _ _ _ _, .inf y => (.inf y, 0)
  | .fin na ma ea _, .fin nb mb eb _ => (addFin mode na ma ea nb mb eb, 0)

def fMul (a b : Num) : Res :=
  match a, b with
  | .nan s, y => (.nan false, nvIf (s || y.isSig))
  | x, .nan s => (.nan false, nvIf (s || x.isSig))
  | .inf x, y => if y.isZero then (.nan false, flNV) else (.inf (x != y.neg), 0)
  | x, .inf y => if x.isZero then (.nan false, flNV) else (.inf (y != x.neg), 0)
  | .fin na ma ea _, .fin nb mb eb _ => (.fin (na != nb) (ma * mb) (ea + eb) false, 0)

/-- a × b + c with one rounding; 0 × ∞ is invalid whatever c. -/
def fFma (mode : Nat) (a b c : Num) : Res :=
  let p := fMul a b
  match p.1 with
  | .nan _ => (.nan false, if p.2 ≠ 0 ∨ c.isSig then flNV else 0)
  | x => fAdd mode x c

/-- Quotient of two nonzero magnitudes to at least 120 bits, with sticky. -/
def divFin (neg : Bool) (ma : Nat) (ea : Int) (mb : Nat) (eb : Int) : Num :=
  let sh := 120 + Nat.log2 mb
  let n := ma * 2 ^ sh
  .fin neg (n / mb) (ea - eb - sh) (n % mb != 0)

def fDiv (a b : Num) : Res :=
  match a, b with
  | .nan s, y => (.nan false, nvIf (s || y.isSig))
  | x, .nan s => (.nan false, nvIf (s || x.isSig))
  | .inf _, .inf _ => (.nan false, flNV)
  | .inf x, .fin n _ _ _ => (.inf (x != n), 0)
  | .fin n _ _ _, .inf y => (Num.zero (n != y), 0)
  | .fin na ma ea _, .fin nb mb eb _ =>
    if mb = 0 then (if ma = 0 then (.nan false, flNV) else (.inf (na != nb), flDZ))
    else if ma = 0 then (Num.zero (na != nb), 0)
    else (divFin (na != nb) ma ea mb eb, 0)

/-- Integer square root, rounded down: `i` bits from the top. -/
def isqrtGo (n : Nat) : Nat → Nat → Nat
  | 0, r => r
  | i + 1, r => isqrtGo n i (if (r + 2 ^ i) * (r + 2 ^ i) ≤ n then r + 2 ^ i else r)
def isqrt (n : Nat) : Nat := isqrtGo n (Nat.log2 n / 2 + 1) 0

/-- Square root of a nonzero magnitude, with sticky. -/
def sqrtFin (m : Nat) (e : Int) : Num :=
  let k : Nat := 240 + (if e % 2 = 0 then 0 else 1)
  let n := m * 2 ^ k
  let r := isqrt n
  .fin false r ((e - k) / 2) (r * r != n)

def fSqrt (a : Num) : Res :=
  match a with
  | .nan s => (.nan false, nvIf s)
  | .inf neg => if neg then (.nan false, flNV) else (.inf false, 0)
  | .fin neg m e _ => if m = 0 then (Num.zero neg, 0) else if neg then (.nan false, flNV) else (sqrtFin m e, 0)

/-- Compare two values that are not NaN: −1, 0, 1. -/
def numCmp (a b : Num) : Int :=
  match a, b with
  | .inf x, .inf y => if x == y then 0 else if x then -1 else 1
  | .inf x, _ => if x then -1 else 1
  | _, .inf y => if y then 1 else -1
  | .fin na ma ea _, .fin nb mb eb _ =>
    let k := if ea ≤ eb then ea else eb
    let v := signedAt na ma ea k - signedAt nb mb eb k
    if v < 0 then -1 else if v = 0 then 0 else 1
  | _, _ => 0
/-- A subnormal code is read as a zero of its sign under DAZ (R146). -/
def Fmt.read (f : Fmt) (daz : Bool) (c : Nat) : Num :=
  if daz && f.kind == .ieee && field c (f.p - 1) f.expWidth == 0 then Num.zero (f.signOf c) else f.value c

/-- VFMIN and VFMAX on codes (R215): the code of the operand chosen, as read. -/
def fMinMax (f : Fmt) (daz isMax : Bool) (ca cb : Nat) : Nat × Nat :=
  let a := f.read daz ca
  let b := f.read daz cb
  let code := fun (x : Num) (c : Nat) => if x.isZero then f.zeroCode x.neg else c
  let nv := nvIf (a.isSig || b.isSig)
  if a.isNan && b.isNan then (f.qnan, nv)
  else if a.isNan then (code b cb, nv)
  else if b.isNan then (code a ca, nv)
  else
    let aLess := if a.isZero && b.isZero then a.neg && !b.neg else numCmp a b == -1
    if isMax then (if aLess then (code b cb, 0) else (code a ca, 0))
    else if aLess then (code a ca, 0)
    else if a.isZero && b.isZero then (if b.neg then (code b cb, 0) else (code a ca, 0))
    else if numCmp a b == 1 then (code b cb, 0) else (code a ca, 0)

/-- VFCMP (R215): the relation and the flags. -/
def fCompare (r : FRel) (a b : Num) : Bool × Nat :=
  let un := a.isNan || b.isNan
  let sig := a.isSig || b.isSig
  let c := numCmp a b
  match r with
  | .eq => (!un && c == 0, nvIf sig)
  | .ne => (un || c != 0, nvIf sig)
  | .lt => (!un && c == -1, nvIf un)
  | .le => (!un && c != 1, nvIf un)
  | .gt => (!un && c == 1, nvIf un)
  | .ge => (!un && c != -1, nvIf un)
  | .un => (un, nvIf sig)

/-- VFCLASS (R215). -/
def fClass (f : Fmt) (c : Nat) : Nat :=
  let neg := f.signOf c
  let sub := field c (f.p - 1) f.expWidth == 0
  match f.value c with
  | .nan sig => if sig then 256 else 512
  | .inf n => if n then 1 else 128
  | .fin _ m _ _ => if m = 0 then (if neg then 8 else 16) else if sub then (if neg then 4 else 32) else if neg then 2 else 64

/-! ## Rounding mode (R155, R176) -/

/-- rmode(f): `sr` says that the instruction admits the stochastic mode. -/
def rmode (fmode : Word) (sr : Bool) (r : Rm) : Nat :=
  let d := (fmode.extractLsb' 0 3).toNat
  let m := match r with | .dyn => (if d = 0 ∨ d = 7 then 1 else d) | .rne => 1 | .rtz => 2 | .up => 3 | .dn => 4 | .rna => 5 | .sr => 6
  if m = 6 ∧ sr = false then 1 else m

/-! ## Philox-4×32-10 (R160) -/

/-- One round. -/
def philoxRound (k0 k1 : Nat) (c : Nat × Nat × Nat × Nat) : Nat × Nat × Nat × Nat :=
  let p := 0xD2511F53 * c.1
  let q := 0xCD9E8D57 * c.2.2.1
  (q / 2 ^ 32 ^^^ c.2.1 ^^^ k0, q % 2 ^ 32, p / 2 ^ 32 ^^^ c.2.2.2 ^^^ k1, p % 2 ^ 32)
def philoxGo : Nat → Nat → Nat → Nat × Nat × Nat × Nat → Nat × Nat × Nat × Nat
  | 0, _, _, c => c
  | n + 1, k0, k1, c => philoxGo n ((k0 + 0x9E3779B9) % 2 ^ 32) ((k1 + 0xBB67AE85) % 2 ^ 32) (philoxRound k0 k1 c)
/-- The four output words for a 64-bit key. -/
def philox (seed : DWord) (c0 c1 c2 c3 : Nat) : Nat × Nat × Nat × Nat :=
  philoxGo 10 (seed.toNat % 2 ^ 32) (seed.toNat / 2 ^ 32) (c0 % 2 ^ 32, c1 % 2 ^ 32, c2 % 2 ^ 32, c3 % 2 ^ 32)
/-- Word `k` of four. -/
def pick4 (w : Nat × Nat × Nat × Nat) (k : Nat) : Nat :=
  if k = 0 then w.1 else if k = 1 then w.2.1 else if k = 2 then w.2.2.1 else w.2.2.2
/-- draw(L, t) (R160): lane, stream. -/
def drawWords (seed : DWord) (gid : Nat) (n : BitVec 48) (l t : Nat) : Nat × Nat × Nat × Nat :=
  philox seed l (n.toNat % 2 ^ 32) gid (n.toNat / 2 ^ 32 * 2 ^ 16 + t % 2 ^ 16)

/-! ## FMODE (R277) -/

def fmUit (f : Word) : Bool := f.getLsbD 16
def fmFz (f : Word) : Bool := f.getLsbD 14
def fmDaz (f : Word) : Bool := f.getLsbD 13
def fmFe (f : Word) : Nat := (f.extractLsb' 8 5).toNat
/-- OR flags into FF. -/
def fmRaise (f : Word) (fl : Nat) : Word := f ||| (BitVec.ofNat 32 (fl % 32 * 8))

end Sys2Proof.Machine
end

