-- ==== Sys2Proof/Machine/Transcend.lean ====
section
/-!
DEFINITION. The special functions (R216, R217): the exact value enclosed between two fixed-point bounds, rounded once. Where the
two bounds round alike the result is that of the exact value; otherwise it is the free value `Config.special`.
-/

namespace Sys2Proof.Machine

/-- Fixed-point precision. -/
def fxP : Nat := 640
def fxOne : Nat := 2 ^ fxP
/-- Product of two fixed-point numbers, rounded down. -/
def fxMul (a b : Nat) : Nat := a * b / fxOne
/-- Sum of z^(2k+1)/(2k+1) (atanh, `alt` false) or with alternating signs (atan): z² fixed, term, index, fuel. -/
def oddSeries (alt : Bool) (z2 : Nat) : Nat → Nat → Nat → Bool → Int → Int
  | 0, _, _, _, acc => acc
  | fuel + 1, t, k, sgn, acc =>
    let v : Int := ((t / (2 * k + 1) : Nat) : Int)
    oddSeries alt z2 fuel (fxMul t z2) (k + 1) (!sgn) (if alt && sgn then acc - v else acc + v)
/-- atan(1/n). -/
def atanInv (n : Nat) : Int := oddSeries true (fxOne / (n * n)) 160 (fxOne / n) 0 false 0
/-- π by Machin's formula. -/
def fxPi : Nat := (16 * atanInv 5 - 4 * atanInv 239).toNat
/-- ln of a number in [1, 2], fixed-point. -/
def fxLn (y : Nat) : Nat :=
  let z := (y - fxOne) * fxOne / (y + fxOne)
  2 * (oddSeries false (fxMul z z) 210 z 0 false 0).toNat
def fxLn2 : Nat := fxLn (2 * fxOne)
/-- exp of a number in [0, 1), fixed-point. -/
def fxExpGo (x : Nat) : Nat → Nat → Nat → Nat → Nat
  | 0, _, _, acc => acc
  | fuel + 1, t, k, acc => fxExpGo x fuel (fxMul t x / (k + 1)) (k + 1) (acc + t)
def fxExp (x : Nat) : Nat := fxExpGo x 150 fxOne 0 0
/-- sin of a number in [0, 2), fixed-point. -/
def fxSinGo (x2 : Nat) : Nat → Nat → Nat → Bool → Int → Int
  | 0, _, _, _, acc => acc
  | fuel + 1, t, k, sgn, acc =>
    fxSinGo x2 fuel (fxMul t x2 / ((k + 1) * (k + 2))) (k + 2) (!sgn) (if sgn then acc - t else acc + t)
def fxSin (x : Nat) : Nat := (fxSinGo (fxMul x x) 90 x 1 false 0).toNat

/-- Bound on the error of the above, in fixed-point units. -/
def fxErr : Nat := 2 ^ 20

/-- An exact value, or a magnitude between two bounds with a sign and scale: the true one lies strictly between. -/
inductive Enclosed
  | exact (x : Num) (fl : Nat)
  | between (neg : Bool) (lo hi : Nat) (e : Int)

/-- Enclose a fixed-point approximation times 2^k. -/
def around (neg : Bool) (a : Nat) (k : Int) : Enclosed := .between neg (a - fxErr) (a + fxErr) (k - fxP)
/-- A value just above (`up`) or just below a power of two times m. -/
def nearly (neg : Bool) (m : Nat) (e : Int) (up : Bool) : Enclosed :=
  .exact (.fin neg (if up then m * 2 ^ 200 else m * 2 ^ 200 - 1) (e - 200) true) 0

/-- Fixed-point value of a magnitude below 2^64 whose exponent is at least −fxP. -/
def fxOf (m : Nat) (e : Int) : Nat := if 0 ≤ e then m * 2 ^ e.toNat * fxOne else m * fxOne / 2 ^ (-e).toNat

def spRcp (x : Num) : Enclosed :=
  match x with
  | .nan s => .exact (.nan false) (nvIf s)
  | .inf n => .exact (Num.zero n) 0
  | .fin n m e _ => if m = 0 then .exact (.inf n) flDZ else .exact (divFin n 1 0 m e) 0

def spRsqrt (x : Num) : Enclosed :=
  match x with
  | .nan s => .exact (.nan false) (nvIf s)
  | .inf n => if n then .exact (.nan false) flNV else .exact (Num.zero false) 0
  | .fin n m e _ =>
    if m = 0 then .exact (.inf n) flDZ
    else if n then .exact (.nan false) flNV
    else
      let m1 := if e % 2 = 0 then m else 2 * m
      let e1 := if e % 2 = 0 then e else e - 1
      let num := 2 ^ 400
      let r := isqrt (num / m1)
      .exact (.fin false r (-200 - e1 / 2) (r * r * m1 != num)) 0

/-- 2^(i + f) for a fixed-point fraction f in [0, 1). -/
def pow2Fx (i : Int) (f : Nat) : Enclosed := around false (fxExp (fxMul f fxLn2)) i

def spExp2 (x : Num) : Enclosed :=
  match x with
  | .nan s => .exact (.nan false) (nvIf s)
  | .inf n => if n then .exact (Num.zero false) 0 else .exact (.inf false) 0
  | .fin n m e _ =>
    if m = 0 then .exact (.fin false 1 0 false) 0
    else if (12 : Int) < e + Nat.log2 m then .exact (.fin false 1 (if n then -2000 else 2000) true) 0
    else if 0 ≤ e then .exact (.fin false 1 (if n then -((m * 2 ^ e.toNat : Nat) : Int) else ((m * 2 ^ e.toNat : Nat) : Int)) false) 0
    else
      let v := fxOf m e
      let i : Int := if n then -(((v + fxOne - 1) / fxOne : Nat) : Int) else ((v / fxOne : Nat) : Int)
      let f : Nat := if n then (v + fxOne - 1) / fxOne * fxOne - v else v % fxOne
      if f = 0 then .exact (.fin false 1 i false) 0 else pow2Fx i f

def spLog2 (x : Num) : Enclosed :=
  match x with
  | .nan s => .exact (.nan false) (nvIf s)
  | .inf n => if n then .exact (.nan false) flNV else .exact (.inf false) 0
  | .fin n m e _ =>
    if m = 0 then .exact (.inf true) flDZ
    else if n then .exact (.nan false) flNV
    else
      let k := Nat.log2 m
      let ip : Int := e + k
      if m = 2 ^ k then .exact (Num.ofInt ip) 0
      else
        let fr := fxLn (m * fxOne / 2 ^ k) * fxOne / fxLn2
        let v : Int := ip * fxOne + fr
        around (decide (v < 0)) v.natAbs 0

/-- |sin πr| or its complement for a fixed-point r in [0, 1/2]. -/
def sinPi (r : Nat) : Nat := fxSin (fxMul r fxPi)

/-- sin(π × (x + h/2)): h = 0 VSIN, 1 VCOS. -/
def spTrig (cos : Bool) (x : Num) : Enclosed :=
  match x with
  | .nan s => .exact (.nan false) (nvIf s)
  | .inf _ => .exact (.nan false) flNV
  | .fin n m e _ =>
    if 1 ≤ e ∨ m = 0 then .exact (if cos then .fin false 1 0 false else Num.zero n) 0
    else
      -- r is |x| modulo 2 in fixed point
      let r := fxOf m e % (2 * fxOne)
      let q := r * 2 / fxOne
      let half := fxOne / 2
      let a := r - q * half
      -- quadrant q, offset a in [0, 1/2): sine of the offset or of its complement, and the sign for x ≥ 0
      let useCo := if cos then q % 2 == 0 else q % 2 == 1
      let sgn := if cos then q == 1 || q == 2 else decide (2 ≤ q)
      let neg := if cos then sgn else sgn != n
      if a = 0 then
        (if useCo then .exact (.fin neg 1 0 false) 0
         else .exact (Num.zero (if cos then false else n)) 0)
      else around neg (sinPi (if useCo then half - a else a)) 0

/-- e^v for fixed-point v ≥ 0 as a fixed-point mantissa in [1, 2) and an exponent. -/
def expFx (v : Nat) : Nat × Int :=
  let k := v / fxLn2
  (fxExp (v - k * fxLn2), k)

/-- e^(−v) as a fixed-point number. -/
def expNeg (v : Nat) : Nat :=
  let r := expFx v
  fxOne * fxOne / (r.1 * 2 ^ r.2.toNat)

def spTanh (x : Num) : Enclosed :=
  match x with
  | .nan s => .exact (.nan false) (nvIf s)
  | .inf n => .exact (.fin n 1 0 false) 0
  | .fin n m e _ =>
    if m = 0 then .exact (Num.zero n) 0
    else if e + Nat.log2 m < -60 then .exact (.fin n (m * 2 ^ 64 - 1) (e - 64) true) 0
    else if (6 : Int) < e + Nat.log2 m then nearly n 1 0 false
    else
      let t := expNeg (2 * fxOf m e)
      around n ((fxOne - t) * fxOne / (fxOne + t)) 0

def spSigm (x : Num) : Enclosed :=
  match x with
  | .nan s => .exact (.nan false) (nvIf s)
  | .inf n => if n then .exact (Num.zero false) 0 else .exact (.fin false 1 0 false) 0
  | .fin n m e _ =>
    if m = 0 then .exact (.fin false 1 (-1) false) 0
    else if e + Nat.log2 m < -60 then nearly false 1 (-1) (!n)
    else if (7 : Int) < e + Nat.log2 m then
      (if n then .exact (.fin false 1 (-2000) true) 0 else nearly false 1 0 false)
    else
      let t := expNeg (fxOf m e)
      around false ((if n then t else fxOne) * fxOne / (fxOne + t)) 0

/-- The special functions. -/
inductive SpFn | rcp | rsqrt | exp2 | log2 | sin | cos | tanh | sigm
deriving DecidableEq, Repr

def spNum : SpFn → Nat
  | .rcp => 0 | .rsqrt => 1 | .exp2 => 2 | .log2 => 3 | .sin => 4 | .cos => 5 | .tanh => 6 | .sigm => 7

def spEval (k : SpFn) (x : Num) : Enclosed :=
  match k with
  | .rcp => spRcp x
  | .rsqrt => spRsqrt x
  | .exp2 => spExp2 x
  | .log2 => spLog2 x
  | .sin => spTrig false x
  | .cos => spTrig true x
  | .tanh => spTanh x
  | .sigm => spSigm x

/-- A special function on a code: its code and flags. -/
def spApply (k : SpFn) (f : Fmt) (mode : Nat) (daz fz : Bool) (c : Nat) : Nat × Nat :=
  match spEval k (f.read daz c) with
  | .exact x fl =>
    let r := f.round mode false fz 0 x
    (r.1, r.2 ||| fl)
  | .between neg lo hi e =>
    let a := f.round mode false fz 0 (.fin neg lo e true)
    let b := f.round mode false fz 0 (.fin neg hi e true)
    if a = b then a
    else ((Config.special (spNum k) (f.bits * 64 + f.p) mode (BitVec.ofNat 64 c)).toNat % 2 ^ f.bits, flNX)

end Sys2Proof.Machine
end

