-- ==== Sys2Proof/WellFormed.lean ====
section
/-!
DEFINITION. What the operand types of `Syntax` do not say: the static register, type and rounding limits of
R155, R168, R170, R171, R209, R213, R216, R223, R225, R229, R232 and R236. A word that breaks one is ILLEGAL_OPERAND (R174).
-/

namespace Sys2Proof

/-- A vector operand of `n` registers aligned to `n` (1, 2, 4), below 1,536 (R168). -/
def vregOk (n : Nat) (r : BitVec 11) : Bool := r.toNat % n == 0 && decide (r.toNat + n ≤ 1536)

/-- A run of `n` consecutive vector registers with no alignment (R232, R236). -/
def vrunOk (n : Nat) (r : BitVec 11) : Bool := decide (r.toNat + n ≤ 1536)

/-- Registers of one operand of a type of list I. -/
def ITy.regs : ITy → Nat
  | .s64 => 2 | .n64 => 2 | .s32 => 1 | .n32 => 1 | .s16x2 => 1 | .n16x2 => 1 | .s8x4 => 1 | .n8x4 => 1
/-- Registers of one operand of a type of list F. -/
def FTy.regs : FTy → Nat
  | .f64 => 2 | .f32 => 1 | .f16x2 => 1 | .bf16x2 => 1 | .f16 => 1 | .bf16 => 1
/-- Registers of one operand of a type of list B. -/
def BTy.regs : BTy → Nat
  | .b64 => 2 | .b32 => 1
/-- Types 0 to 3 of list I (R209). -/
def ITy.plain : ITy → Bool
  | .s32 => true | .n32 => true | .s64 => true | .n64 => true
  | .s16x2 => false | .n16x2 => false | .s8x4 => false | .n8x4 => false
/-- Types 0, 1, 4, 5 of list F (R213). -/
def FTy.single : FTy → Bool
  | .f32 => true | .f64 => true | .f16 => true | .bf16 => true | .f16x2 => false | .bf16x2 => false

def VSrc.ok (n : Nat) : VSrc → Bool
  | .reg b => vregOk n b
  | .rlit _ => true
  | .imm _ => true
  | .ilit _ => true
def VLit.ok (n : Nat) : VLit → Bool
  | .reg b => vregOk n b
  | .lit _ => true

/-- The control word of a field operation has no bit above 11 (R190, R211). -/
def ctlOk16 (x : BitVec 16) : Bool := decide (x.toNat < 4096)
def ctlOk32 (x : Word) : Bool := decide (x.toNat < 4096)
def SSrc.ctlOk : SSrc → Bool
  | .reg _ => true | .rlit x => ctlOk32 x | .imm x => ctlOk16 x | .ilit x => ctlOk32 x
def VSrc.ctlOk : VSrc → Bool
  | .reg b => vregOk 1 b | .rlit x => ctlOk32 x | .imm x => ctlOk16 x | .ilit x => ctlOk32 x

def VBin.ok (x : VBin) : Bool := vregOk x.ty.regs x.d && vregOk x.ty.regs x.a && x.b.ok x.ty.regs
def VUn.ok (x : VUn) : Bool := vregOk x.ty.regs x.d && vregOk x.ty.regs x.a
def VTri.ok (x : VTri) : Bool :=
  vregOk x.ty.regs x.d && vregOk x.ty.regs x.a && x.b.ok x.ty.regs && vregOk x.ty.regs x.c
def BBin.ok (x : BBin) : Bool := vregOk x.ty.regs x.d && vregOk x.ty.regs x.a && x.b.ok x.ty.regs
def BUn.ok (x : BUn) : Bool := vregOk x.ty.regs x.d && vregOk x.ty.regs x.a
def VCmp.ok (x : VCmp) : Bool := x.ty.plain && vregOk x.ty.regs x.a && x.b.ok x.ty.regs
def FBin.ok (x : FBin) : Bool := vregOk x.ty.regs x.d && vregOk x.ty.regs x.a && x.b.ok x.ty.regs
def FUn.ok (x : FUn) : Bool := vregOk x.ty.regs x.d && vregOk x.ty.regs x.a
def FTri.ok (x : FTri) : Bool :=
  vregOk x.ty.regs x.d && vregOk x.ty.regs x.a && x.b.ok x.ty.regs && vregOk x.ty.regs x.c
def FCmp.ok (x : FCmp) : Bool := x.ty.single && vregOk x.ty.regs x.a && x.b.ok x.ty.regs
def USrc.ok : USrc → Bool
  | .reg _ => true | .vu b => vregOk 1 b | .lit _ => true
def BcSrc.ok : BcSrc → Bool
  | .reg _ => true | .vu b => vregOk 1 b | .rlit _ => true | .imm _ => true | .ilit _ => true
def RandSrc.ok : RandSrc → Bool
  | .reg _ => true | .vu b => vregOk 1 b
def Shuf.ok (x : Shuf) : Bool := vregOk x.ty.regs x.d && vregOk x.ty.regs x.a && x.b.ok
/-- A special function: no .f64, no stochastic rounding (R216). -/
def FUn.special (x : FUn) : Bool := x.ok && x.ty != .f64 && x.rm != .sr
def RedOp.regs : RedOp → Nat
  | .int _ ty => ty.regs
  | .flt _ ty => ty.regs
/-- Rounding of VRED and VSCAN (R223): only `.fadd` rounds, and not stochastically. -/
def RedOp.rmOk : RedOp → Rm → Bool
  | .flt .fadd _, rm => rm != .sr
  | .flt .fmin _, rm => rm == .dyn
  | .flt .fmax _, rm => rm == .dyn
  | .int _ _, rm => rm == .dyn
def RedOp.ok (o : RedOp) (rm : Rm) (d a : BitVec 11) : Bool := o.rmOk rm && vregOk o.regs d && vregOk o.regs a

/-- Bytes of a width (R170). -/
def Width.bytes : Width → Nat
  | .w8 => 1 | .w16 => 2 | .w32 => 4 | .w64 => 8 | .w128 => 16
/-- Registers of a data operand of a width (R225). -/
def Width.regs : Width → Nat
  | .w8 => 1 | .w16 => 1 | .w32 => 1 | .w64 => 2 | .w128 => 4
/-- x of an addressing mode (R172): one register, an even pair in mode 0b011. -/
def Addr.ok : Addr → Bool
  | .base _ => true | .zx _ x => vregOk 1 x | .sx _ x => vregOk 1 x | .vec x => vregOk 2 x | .spill => true
def Addr.isSpill : Addr → Bool
  | .spill => true | .base _ => false | .zx _ _ => false | .sx _ _ => false | .vec _ => false
def Addr.isVec : Addr → Bool
  | .vec _ => true | .spill => false | .base _ => false | .zx _ _ => false | .sx _ _ => false
/-- AM 0b000 to 0b010 only: team memory and the comb (R225). -/
def Addr.local (a : Addr) : Bool := !a.isSpill && !a.isVec
/-- FC of R142. -/
def fcOk (c : BitVec 6) : Bool :=
  let n := c.toNat
  (decide (1 ≤ n) && decide (n ≤ 4)) || (decide (8 ≤ n) && decide (n ≤ 0x11)) || (decide (0x20 < n) && n % 8 != 0)
/-- Registers of an operand in a format (R219): a pair for .f64, .s64, .n64. -/
def fcRegs (c : BitVec 6) : Nat := if c = 1 ∨ c = 0x10 ∨ c = 0x11 then 2 else 1

def Mem.ok (m : Mem) : Bool := vregOk m.w.regs m.d && m.ad.ok
/-- Registers of the data of an atomic (R229). -/
def atomRegs (op : AtomOp) (w : Width) : Nat := (if w = .w64 then 2 else 1) * (if op = .cas then 2 else 1)

/-- A handle pair or 2D pair (R236). -/
def pairOk (b : BitVec 7) : Bool := b.toNat % 2 == 0 && decide (2 ≤ b.toNat)
/-- A copy descriptor base or the TILEGET destination (R236). -/
def quadOk (a : BitVec 7) : Bool := a.toNat % 4 == 0 && decide (4 ≤ a.toNat)

/-- The static limits of every instruction word; an event or a Nolelavin instruction has none. -/
def Instr.wf : Instr → Bool
  | .call _ a _ => vregOk 2 a
  | .callStub _ a _ => vregOk 2 a
  | .callx _ d a => vregOk 2 d && vregOk 2 a
  | .retSr a => a.toNat % 2 == 0
  | .ret _ a => vregOk 2 a
  | .sbfx x => x.b.ctlOk
  | .sbfxIns x => x.b.ctlOk
  | .vadd _ x => x.ok
  | .vsub _ x => x.ok
  | .vmul _ x => x.ok
  | .vmulHi x => x.ok
  | .vmulSr fn _ => fn != 3
  | .vmad x => x.ok && x.ty.plain
  | .vdiv x => x.ok
  | .vdivRem x => x.ok
  | .vmin x => x.ok
  | .vmax x => x.ok
  | .vabs x => x.ok
  | .vneg x => x.ok
  | .vand x => x.ok
  | .vor x => x.ok
  | .vxor x => x.ok
  | .vnot x => x.ok
  | .vandn x => x.ok
  | .vshl x => x.ok
  | .vshr x => x.ok
  | .vrot x => x.ok
  | .vbit x => x.ok
  | .vbitClz x => x.ok
  | .vbitCtz x => x.ok
  | .vbitRev x => x.ok
  | .vbfx x => x.ty.plain && vregOk x.ty.regs x.d && vregOk x.ty.regs x.a && x.b.ctlOk
  | .vbfxIns x => x.ty.plain && vregOk x.ty.regs x.d && vregOk x.ty.regs x.a && x.b.ctlOk
  | .vsel _ ty d a b _ => vregOk ty.regs d && vregOk ty.regs a && b.ok ty.regs
  | .vcmp _ x => x.ok
  | .vmov _ ty d (.reg a) => vregOk ty.regs d && vregOk ty.regs a
  | .vmov _ ty d (.imm _) => vregOk ty.regs d
  | .vmovS2v _ ty d _ => vregOk ty.regs d
  | .vdot x => x.ok && !x.ty.plain
  | .vfadd x => x.ok
  | .vfsub x => x.ok
  | .vfmul x => x.ok
  | .vfma x => x.ok
  | .vfmin x => x.ok && x.rm == .dyn
  | .vfmax x => x.ok && x.rm == .dyn
  | .vfcmp _ x => x.ok
  | .vfclass x => x.ok && x.rm == .dyn && x.ty.single
  | .vfdiv x => x.ok
  | .vfsqrt x => x.ok
  | .vfabs x => x.ok && x.rm == .dyn
  | .vfneg x => x.ok && x.rm == .dyn
  | .vfsgn _ ty d a b => vregOk ty.regs d && vregOk ty.regs a && b.ok ty.regs
  | .vrcp x => x.special
  | .vrsqrt x => x.special
  | .vexp2 x => x.special
  | .vlog2 x => x.special
  | .vsin x => x.special
  | .vcos x => x.special
  | .vtanh x => x.special
  | .vsigm x => x.special
  | .vcvt _ _ _ _ dst src d a => fcOk dst && fcOk src && vregOk (fcRegs dst) d && vregOk (fcRegs src) a
  | .vrand _ d a => vregOk 4 d && a.ok
  | .vrandUnif _ d a => vregOk 4 d && a.ok
  | .vshuf x => x.ok
  | .vshufUp x => x.ok
  | .vshufDn x => x.ok
  | .vshufRot x => x.ok
  | .vperm _ ty d a b => vregOk ty.regs d && vregOk ty.regs a && b.ok 1
  | .vbcast _ ty d a b => vregOk ty.regs d && vregOk ty.regs a && b.ok
  | .vred o _ rm d a => o.ok rm d a
  | .vscan o _ rm d a => o.ok rm d a
  | .vscanEx o _ rm d a => o.ok rm d a
  | .vlane ty _ a b => vregOk ty.regs a && b.ok
  | .vlaneId _ d => vregOk 1 d
  | .ld sx m => m.ok && (m.ord == .plain || m.ord == .acq) && (!sx || decide (m.w.bytes ≤ 2))
  | .st m => m.ok && (m.ord == .plain || m.ord == .rel)
  | .lds sx m => m.ok && m.ad.local && (m.ord == .plain || m.ord == .acq) && (!sx || decide (m.w.bytes ≤ 2))
  | .sts m => m.ok && m.ad.local && (m.ord == .plain || m.ord == .rel)
  | .ldk sx m => m.ok && m.ad.local && (m.ord == .plain || m.ord == .acq) && (!sx || decide (m.w.bytes ≤ 2))
  | .stk m => m.ok && m.ad.local && (m.ord == .plain || m.ord == .rel)
  | .ldnr _ m => m.ok && !m.ad.isSpill && m.ord == .plain
  | .pgreq _ ad _ => ad.ok && !ad.isSpill
  | .pref _ ad _ => ad.ok && !ad.isSpill
  | .prefL2 _ ad _ => ad.ok && !ad.isSpill
  | .memhint _ _ ad _ => ad.ok && !ad.isSpill
  | .atom op m => (m.w == .w32 || m.w == .w64) && vregOk (atomRegs op m.w) m.d && m.ad.ok && !m.ad.isSpill
  | .atomH op m => (m.w == .w32 || m.w == .w64) && vregOk (atomRegs op m.w) m.d && m.ad.ok && !m.ad.isSpill
  | .apnd x => (x.w == .w32 || x.w == .w64 || x.w == .w128) && x.d.toNat % x.w.regs == 0
      && vrunOk (x.w.regs * (x.cnt.toNat + 1)) x.d
  | .mma x => pairOk x.b
  | .mmas x => pairOk x.b
  | .mmag x => pairOk x.b
  | .bload _ b => pairOk b
  | .bloadg _ b => pairOk b
  | .accrd _ d _ _ => vrunOk 16 d
  | .accwr _ _ a _ => vrunOk 16 a
  | .qntz rm _ _ b => rm != .sr && pairOk b
  | .dqnt rm _ b => rm != .sr && pairOk b
  | .bcopy _ a => quadOk a
  | .bcopy2d _ a b => quadOk a && pairOk b
  | .bapnd _ a _ => quadOk a
  | .tileget d => quadOk d
  | .tilestat d => pairOk d
  | .ckcost d => pairOk d
  | _ => true

end Sys2Proof
end

