-- ==== Sys2Proof/Machine/Operands.lean ====
section
/-!
DEFINITION. Operand forms: element types (R170, R207), immediates (R159, R186), scalar and vector sources, the uniform operand
(R139, R379), the marker check (R140) and the end of a floating-point instruction (R147, R208).
-/

namespace Sys2Proof

/-! ## Types of R170 -/

def STy.nb : STy → Nat | .s64 => 64 | .n64 => 64 | .s32 => 32 | .n32 => 32
def STy.signed : STy → Bool | .s64 => true | .n64 => false | .s32 => true | .n32 => false
/-- Element width. -/
def ITy.width : ITy → Nat
  | .s32 => 32 | .n32 => 32 | .s64 => 64 | .n64 => 64 | .s16x2 => 16 | .n16x2 => 16 | .s8x4 => 8 | .n8x4 => 8
/-- Elements in an operand. -/
def ITy.count : ITy → Nat
  | .s32 => 1 | .n32 => 1 | .s64 => 1 | .n64 => 1 | .s16x2 => 2 | .n16x2 => 2 | .s8x4 => 4 | .n8x4 => 4
def ITy.signed : ITy → Bool
  | .s32 => true | .n32 => false | .s64 => true | .n64 => false | .s16x2 => true | .n16x2 => false | .s8x4 => true | .n8x4 => false
def FTy.width : FTy → Nat
  | .f32 => 32 | .f64 => 64 | .f16x2 => 16 | .bf16x2 => 16 | .f16 => 16 | .bf16 => 16
def FTy.count : FTy → Nat
  | .f32 => 1 | .f64 => 1 | .f16x2 => 2 | .bf16x2 => 2 | .f16 => 1 | .bf16 => 1
def BTy.width : BTy → Nat | .b32 => 32 | .b64 => 64

end Sys2Proof

namespace Sys2Proof.Machine

/-! ## Integers of a type -/

/-- The integer that the low `n` bits represent. -/
def tval (sg : Bool) (n x : Nat) : Int := if sg then toSigned n x else ((x % 2 ^ n : Nat) : Int)
def tlo (sg : Bool) (n : Nat) : Int := if sg then -(2 ^ (n - 1) : Nat) else 0
def thi (sg : Bool) (n : Nat) : Int := if sg then (2 ^ (n - 1) : Nat) - 1 else (2 ^ n : Nat) - 1
/-- Clamp to the type's range under `.sat`. -/
def clampIf (sat sg : Bool) (n : Nat) (r : Int) : Int :=
  if sat then (if r < tlo sg n then tlo sg n else if thi sg n < r then thi sg n else r) else r
/-- The low `n` bits of an integer extended to 64 bits by the type (tput of R186). -/
def tput (sg : Bool) (n : Nat) (r : Int) : DWord := if sg then sext64 n (wrap n r) else zext64 n (wrap n r)

/-! ## Immediates (R159, R186, R207) -/

/-- A field of `w` bits extended to 64 bits. -/
def extImm (sx : Bool) (w x : Nat) : Nat := (if sx then sext64 w x else zext64 w x).toNat
def immVal (sx : Bool) : Imm → DWord
  | .i16 x => BitVec.ofNat 64 (extImm sx 16 x.toNat)
  | .i32 x => BitVec.ofNat 64 (extImm sx 32 x.toNat)

/-- Second source of a scalar instruction. -/
def ssrc (g : Group) (sx : Bool) : SSrc → DWord
  | .reg b => g.sget b.toNat
  | .rlit x => BitVec.ofNat 64 (extImm sx 32 x.toNat)
  | .imm x => BitVec.ofNat 64 (extImm sx 16 x.toNat)
  | .ilit x => BitVec.ofNat 64 (extImm sx 32 x.toNat)

/-- The same element in every place of an operand. -/
def rep (n : Nat) : Nat → Nat → Nat
  | 0, _ => 0
  | c + 1, e => e % 2 ^ n + 2 ^ n * rep n c e

/-- Second source of a vector instruction in a lane: `k` registers, `cnt` elements of `n` bits. -/
def vsrc (g : Group) (k n cnt : Nat) (sx : Bool) (l : Nat) : VSrc → Nat
  | .reg b => g.vN k b.toNat l
  | .rlit x => rep n cnt (extImm sx 32 x.toNat)
  | .imm x => rep n cnt (extImm sx 16 x.toNat)
  | .ilit x => rep n cnt (extImm sx 32 x.toNat)
def vlit (g : Group) (k n cnt : Nat) (sx : Bool) (l : Nat) : VLit → Nat
  | .reg b => g.vN k b.toNat l
  | .lit x => rep n cnt (extImm sx 32 x.toNat)

/-- Apply a function to each of `cnt` elements of `n` bits of up to three operands. -/
def mapElems (n : Nat) : Nat → (Nat → Nat → Nat → Nat) → Nat → Nat → Nat → Nat
  | 0, _, _, _, _ => 0
  | c + 1, f, x, y, z =>
    f (x % 2 ^ n) (y % 2 ^ n) (z % 2 ^ n) % 2 ^ n + 2 ^ n * mapElems n c f (x / 2 ^ n) (y / 2 ^ n) (z / 2 ^ n)

/-- Elements of an operand, lowest first. -/
def elems (n : Nat) : Nat → Nat → List Nat
  | 0, _ => []
  | c + 1, x => x % 2 ^ n :: elems n c (x / 2 ^ n)
/-- Pack elements, lowest first. -/
def packElems (n : Nat) : List Nat → Nat
  | [] => 0
  | e :: l => e % 2 ^ n + 2 ^ n * packElems n l

/-! ## Floating immediates (R159) -/

/-- An immediate of a format converted to another: the code and the flags of the narrowing. -/
def fimm (src dst : Fmt) (fmode : Word) (rm : Rm) (x : Nat) : Nat × Nat :=
  match src.value x with
  | .nan _ => (dst.qnan, 0)
  | v => if src = dst then (x, 0) else dst.round (rmode fmode false rm) false (fmFz fmode) 0 v

/-- A floating second source: the value in each lane, and the flags its narrowing raises. -/
def fsrc (g : Group) (ty : FTy) (rm : Rm) : VSrc → (Nat → Nat) × Nat
  | .reg b => (fun l => g.vN ty.regs b.toNat l, 0)
  | .rlit x => let r := fimm Fmt.f32 (ftyFmt ty) g.fmode rm x.toNat; (fun _ => rep ty.width ty.count r.1, r.2)
  | .imm x => let r := fimm Fmt.f16 (ftyFmt ty) g.fmode rm x.toNat; (fun _ => rep ty.width ty.count r.1, r.2)
  | .ilit x => let r := fimm Fmt.f32 (ftyFmt ty) g.fmode rm x.toNat; (fun _ => rep ty.width ty.count r.1, r.2)
def flit (g : Group) (ty : FTy) (rm : Rm) : VLit → (Nat → Nat) × Nat
  | .reg b => (fun l => g.vN ty.regs b.toNat l, 0)
  | .lit x => let r := fimm Fmt.f32 (ftyFmt ty) g.fmode rm x.toNat; (fun _ => rep ty.width ty.count r.1, r.2)

/-! ## Markers (R140) -/

/-- Registers of a source. -/
def regRun (n : Nat) : Nat → List Nat
  | 0 => []
  | k + 1 => n :: regRun (n + 1) k
def vsrcRegs (k : Nat) : VSrc → List Nat
  | .reg b => regRun b.toNat k
  | .rlit _ => [] | .imm _ => [] | .ilit _ => []
def vlitRegs (k : Nat) : VLit → List Nat
  | .reg b => regRun b.toNat k
  | .lit _ => []
/-- The UNINIT_REG trap of the lowest offending register, if UIT is set and some active lane holds its marker. -/
def uninit (g : Group) (m : DWord) (rs : List Nat) : Option Trap :=
  if fmUit g.fmode then
    let bad := rs.filter (fun n => (lanesOf m).any (fun l => g.v32 n l == marker n))
    match bad with
    | [] => none
    | r :: l =>
      let n := l.foldl (fun a b => if b < a then b else a) r
      some { Trap.of 0x03 with code := n, lane := ((lanesOf m).find? (fun i => g.v32 n i == marker n)).getD 0 }
  else none

/-! ## The end of a floating-point instruction (R147, R156, R208) -/

/-- OR of the flags of lanes. -/
def orFlags (ls : List Nat) (fl : Nat → Nat) : Nat := ls.foldl (fun a l => a ||| fl l) 0

/-- Write the destination, raise the flags of lanes `ls`, advance the draw count; or trap FP_EXCEPTION, which writes nothing. -/
def fpLanes (s : State) (m : DWord) (ls : List Nat) (draws : Nat) (fl : Nat → Nat) (write : Group → Group) : Act :=
  let g := s.curGroup
  let all := orFlags ls fl
  match ls.find? (fun l => (fl l) &&& fmFe g.fmode != 0) with
  | some l => .trap { Trap.of 0x04 with fl := all, lane := l }
  | none =>
    let h := write g
    regAct s m (.ok { h with fmode := fmRaise h.fmode all, draw := h.draw + BitVec.ofNat 48 draws })
/-- The same for the flags of the active lanes; `draws` where the instruction rounds stochastically. -/
def fpAct (s : State) (m : DWord) (draws : Bool) (fl : Nat → Nat) (write : Group → Group) : Act :=
  fpLanes s m (lanesOf m) (if draws then 1 else 0) fl write

/-- The random word of element `k` of a lane under stochastic rounding (R156). -/
def srWord (s : State) (l k : Nat) : Nat :=
  let g := s.curGroup
  pick4 (drawWords (s.job g.job).jd.seed (s.groupId g) g.draw l (0xFFFF - k / 4)) (k % 4)

/-! ## The uniform operand (R139, R379) -/

/-- The value common to the active lanes, or NONUNIFORM; with no active lane there is no comparison. -/
def uniformV (g : Group) (m : DWord) (n : Nat) : Except Trap Word :=
  match lanesOf m with
  | [] => .ok 0
  | l :: ls =>
    match ls.find? (fun i => g.v32 n i != g.v32 n l) with
    | some i => .error { Trap.of 0x05 with lane := i }
    | none => .ok (g.v32 n l)
def usrc (g : Group) (m : DWord) : USrc → Except Trap Word
  | .reg b => .ok ((g.sget b.toNat).extractLsb' 0 32)
  | .vu b => uniformV g m b.toNat
  | .lit x => .ok x

end Sys2Proof.Machine
end

