-- ==== Sys2Proof/Machine/Translate.lean ====
section
/-!
DEFINITION. The device-physical map (R16), lines and their current copy (R45, R53), the page walk and its outcomes (R18 to
R27), key checks (R22, R111), the accessed and dirty bits (R26), and fault records (R115).
-/

namespace Sys2Proof.Machine

/-! ## The device-physical map (R16) -/

inductive Region | hbm | host | io | control | pool | remote | reserved
deriving DecidableEq, Repr

def regionOf (pa : Nat) : Region :=
  let r := pa / 2 ^ 48
  if r = 0 then (if pa < 2 ^ 39 then .hbm else .reserved)
  else if r = 1 then .host
  else if r = 2 then .io
  else if r = 3 then .control
  else if r < 8 then .pool
  else if r < 16 then .remote
  else .reserved
/-- Lines that are encrypted under a key slot (R45). -/
def keyed (pa : Nat) : Bool := match regionOf pa with | .hbm => true | .pool => true | _ => false
/-- C-die of an HBM address: PA[38:37]. -/
def dieOf (pa : Nat) : Nat := pa / 2 ^ 37 % 4
/-- Agent id of the home of a line (R51). -/
def homeOf (pa : Nat) : Nat := if regionOf pa = .hbm then 4 + dieOf pa else 8

/-! ## Lines -/

def Line.none : Line :=
  { tc := 0, ow := false, dv := false, dt := false, pz := false, kid := 0, data := 0, wb := false, isSealed := false, way := 0 }
def l2key (die la : Nat) : Nat := die * 2 ^ 45 + la
def State.l2line (s : State) (die la : Nat) : Line := getD Line.none s.l2 (l2key die la)
def State.setL2 (s : State) (die la : Nat) (x : Line) : State := { s with l2 := setD Line.none s.l2 (l2key die la) x }
def Holding.all : Holding := { tc := 16, ow := true }
/-- A home with no record of a line has all 16 tokens (R53). -/
def State.holding (s : State) (la : Nat) : Holding := getD Holding.all s.home la
def State.setHolding (s : State) (la : Nat) (h : Holding) : State := { s with home := setD Holding.all s.home la h }
/-- H0's holding of a line for the host (R68). -/
def State.h0line (s : State) (la : Nat) : Line := getD Line.none s.h0 la
def State.setH0 (s : State) (la : Nat) (x : Line) : State := { s with h0 := setD Line.none s.h0 la x }

/-- Byte `i` of a line's data. -/
def lineByte (d : BitVec 1024) (i : Nat) : Byte := d.extractLsb' (8 * i) 8
/-- A line's data with bytes replaced from offset `i`. -/
def linePut (d : BitVec 1024) (i : Nat) (bs : List Byte) : BitVec 1024 :=
  let k := bs.length
  BitVec.ofNat 1024 (d.toNat - field d.toNat (8 * i) (8 * k) * 2 ^ (8 * i) + ofBytes bs * 2 ^ (8 * i))
/-- `n` bytes of a line's data as a number. -/
def lineNum (d : BitVec 1024) (i n : Nat) : Nat := field d.toNat (8 * i) (8 * n)

/-- The key material of a slot (R46, R47). -/
def State.keyOf (s : State) (kid : BitVec 6) : BitVec 512 :=
  if kid = 0 then s.boot.deviceKey else match lookup s.keys kid.toNat with | some k => k.key | none => 0
/-- A byte of memory as the home reads it under a key id: plaintext under the key it was written with, otherwise unrelated; a slot reads again
what it wrote under the same key material (R45, R46; log 10). -/
def State.memByte (s : State) (kid : BitVec 6) (pa : Nat) : Byte :=
  let b := Memory.read s.mem pa
  if keyed pa then
    let w := getD 0 s.lineKid (pa / 128)
    if w = kid then
      match lookup s.lineOld (pa / 128) with
      | none => b
      | some k => if k = s.keyOf kid then b else Config.oldKeyByte (s.keyOf kid) k pa b
    else Config.foreignByte kid w pa b
  else b
/-- A line as the home reads it. -/
def State.memLine (s : State) (kid : BitVec 6) (la : Nat) : BitVec 1024 :=
  BitVec.ofNat 1024 (ofBytes ((List.range 128).map (fun i => s.memByte kid (la * 128 + i))))
/-- The home writes bytes of a line under a key id: the rest of the line keeps what that key reads. -/
def State.memPut (s : State) (kid : BitVec 6) (pa : Nat) (bs : List Byte) : State :=
  let la := pa / 128
  let w := getD 0 s.lineKid la
  let m := if keyed pa && (w != kid || (lookup s.lineOld la).isSome) then
      Memory.writeN s.mem (la * 128) ((List.range 128).map (fun i => s.memByte kid (la * 128 + i))) else s.mem
  { s with mem := Memory.writeN m pa bs, lineKid := if keyed pa then setD 0 s.lineKid la kid else s.lineKid,
           lineOld := remove s.lineOld la }
def lineBytes (d : BitVec 1024) : List Byte := toBytes 128 d.toNat
/-- The home writes a whole line, with its poison mark (R49). -/
def State.memPutLine (s : State) (kid : BitVec 6) (la : Nat) (d : BitVec 1024) (pz : Bool) : State :=
  let t := s.memPut kid (la * 128) (lineBytes d)
  { t with poison := setD false t.poison la pz }

/-! ## Writes at the home, dirty units and staging (R42, R59, R321, R323) -/

/-- Track unit of an HBM address. -/
def unitOf (pa : Nat) : Nat := pa / 2 ^ 16
/-- A write of a line's memory needs a sector of the staging buffer: its unit is frozen and not yet streamed, and the sector is not staged. -/
def State.needsSector (s : State) (la : Nat) : Bool :=
  regionOf (la * 128) == .hbm && (lookup s.frozen (unitOf (la * 128))).isSome && (lookup s.staged (la / 2 * 256)).isNone
/-- A write of memory at the home: its sector is staged first if its unit is frozen and not yet streamed and the sector is not staged; the unit is
marked. -/
def State.homeWrite (s : State) (la : Nat) : State :=
  let pa := la * 128
  if regionOf pa = .hbm then
    let u := unitOf pa
    let sec := pa / 256
    let t := match lookup s.frozen u with
      | some _ =>
        if (lookup s.staged (sec * 256)).isSome then s
        else { s with staged := (List.range 256).foldl (fun m i =>
          mapInsert m (sec * 256 + i) (s.memByte (getD 0 s.lineKid (sec * 2 + i / 128)) (sec * 256 + i))) s.staged }
      | none => s
    { t with track := setD false t.track u true }
  else if regionOf pa = .host then { s with hostDirty := setD false s.hostDirty la true }
  else s
/-- The home writes a line that came with data. -/
def State.homeStore (s : State) (kid : BitVec 6) (la : Nat) (d : BitVec 1024) (pz : Bool) : State :=
  (s.homeWrite la).memPutLine kid la d pz
/-- The home writes bytes of a line; a write of the whole line clears its poison mark (R49). -/
def State.homePut (s : State) (kid : BitVec 6) (pa : Nat) (bs : List Byte) : State :=
  let t := (s.homeWrite (pa / 128)).memPut kid pa bs
  if bs.length = 128 then { t with poison := setD false t.poison (pa / 128) false } else t

/-! ## The current copy of a line (R54, R55, R69) -/

/-- The host may hold a line, H0 keeping its tokens, and may have written it (R68): what its copy holds is open. -/
def State.hostMay (s : State) (la : Nat) : Bool := (s.h0line la).wb
/-- A message of a line that carries tokens. -/
def Msg.carries (m : Msg) (la : Nat) : Bool := m.la == la && m.ty == 3
/-- The copy outside its home that has the owner token: an L2, H0, or a message (R69). -/
def State.ownerCopy (s : State) (la : Nat) : Option Line :=
  match (List.range 4).find? (fun d => (s.l2line d la).ow) with
  | some d => some (s.l2line d la)
  | none =>
    if s.hostMay la then some { s.h0line la with data := Config.hostLine la s.free, dt := true }
    else if (s.h0line la).ow then some (s.h0line la)
    else match s.msgs.find? (fun m => m.carries la && m.ow) with
      | some m => some { Line.none with ow := true, dv := true, dt := m.dt, pz := m.pz, kid := m.kid, data := m.data }
      | none => none
/-- The line's value now and its poison mark, where its owner token is away from home. -/
def State.liveCopy (s : State) (la : Nat) : Option (BitVec 1024 × Bool) := (s.ownerCopy la).map (fun x => (x.data, x.pz))
/-- The value of a byte now. -/
def State.byteNow (s : State) (kid : BitVec 6) (pa : Nat) : Byte :=
  match s.liveCopy (pa / 128) with
  | some c => lineByte c.1 (pa % 128)
  | none => s.memByte kid pa
/-- The number of `n` bytes of one line. -/
def State.numNow (s : State) (kid : BitVec 6) (pa n : Nat) : Nat :=
  match s.liveCopy (pa / 128) with
  | some c => lineNum c.1 (pa % 128) n
  | none => ofBytes ((List.range n).map (fun i => s.memByte kid (pa + i)))
def State.lineNow (s : State) (kid : BitVec 6) (la : Nat) : BitVec 1024 :=
  match s.liveCopy la with | some c => c.1 | none => s.memLine kid la
def State.poisonNow (s : State) (la : Nat) : Bool :=
  match s.liveCopy la with | some c => c.2 | none => getD false s.poison la

/-! ## The home gathers a line (R54, R59, R63, R69; log 52) -/

/-- The home writes what the owner of a line carries, if it is dirty (R59). -/
def State.storeOwner (s : State) (la : Nat) : State :=
  match s.ownerCopy la with
  | some x => if x.dt then s.homeStore x.kid la x.data x.pz else s
  | none => s
/-- Every token of a line comes to its home, with the value that the owner carries: the exchange of the home's own persistent write
request, told as one step. -/
def State.recall (s : State) (la : Nat) : State :=
  if s.holding la = Holding.all then s
  else
    let t := s.storeOwner la
    let u : State := { (t.setHolding la Holding.all).setH0 la Line.none with
      msgs := t.msgs.filter (fun m => !(m.la == la && (m.ty == 3 || m.ty == 14 || m.ty == 15))),
      hostOut := t.hostOut.filter (fun m => m != .bisnp la), free := s.free + (if s.hostMay la then 1 else 0) }
    [0, 1, 2, 3].foldl (fun (v : State) d => if (s.l2line d la).isSealed then v else v.setL2 d la Line.none) u
/-- A read at the home needs the owner token there; otherwise the home gathers the line first (R54). -/
def State.readHome (s : State) (la : Nat) : State := if (s.holding la).ow then s else s.recall la
/-- A read through a die's L2, which reads its own copy where it may; otherwise the home supplies the line. -/
def State.readVia (s : State) (die la : Nat) : State :=
  if decide (1 ≤ (s.l2line die la).tc) && (s.l2line die la).dv then s else s.readHome la
/-- A write of bytes of one line by an agent at the home, which holds every token then (R54). A line of host memory is then held
with exclusive permission (R67). -/
def State.poke (s : State) (kid : BitVec 6) (pa : Nat) (bs : List Byte) : State :=
  let t := (s.recall (pa / 128)).homePut kid pa bs
  if regionOf pa = .host then { t with perm := setD .none t.perm (pa / 128) .excl } else t

/-! ## Ranges of lines at their homes -/

/-- The lines of a range are as one key slot wrote them, under the key material that it has now. -/
def State.underKey (s : State) (kid : BitVec 6) (la n : Nat) : Bool :=
  (List.range n).all (fun i => getD 0 s.lineKid (la + i) == kid) && !(s.lineOld.any (fun e => decide (la ≤ e.1) && decide (e.1 < la + n)))
/-- `n` bytes of memory from an address, as the homes read them under a key id. -/
def State.rangeBytes (s : State) (kid : BitVec 6) (a n : Nat) : List Byte :=
  if s.underKey kid (a / 128) ((a + n + 127) / 128 - a / 128) then Memory.slice s.mem a n
  else (List.range n).map (fun i => s.memByte kid (a + i))
/-- Some line of a range is poisoned. -/
def State.rangePoison (s : State) (a n : Nat) : Bool := s.poison.any (fun e => decide (a / 128 ≤ e.1) && decide (e.1 * 128 < a + n))
/-- The homes of a range of HBM or pool lines write bytes under a key id, with every token of the lines; lines written whole lose their poison
mark. -/
def State.storeRange (s : State) (kid : BitVec 6) (a : Nat) (bs : List Byte) : State :=
  let la := a / 128
  let n := (a + bs.length + 127) / 128 - la
  let t := (List.range n).foldl (fun (t : State) i => (t.recall (la + i)).homeWrite (la + i)) s
  let whole := fun (x : Nat) => decide (a ≤ x * 128) && decide (x * 128 + 128 ≤ a + bs.length)
  if t.underKey kid la n then { t with mem := Memory.put t.mem a bs, poison := t.poison.filter (fun e => !whole e.1) }
  else if a % 128 = 0 ∧ bs.length % 128 = 0 then
    { t with
      mem := Memory.put t.mem a bs, poison := t.poison.filter (fun e => !whole e.1),
      lineKid := t.lineKid.filter (fun e => decide (e.1 < la)) ++ (if kid = 0 then [] else (List.range n).map (fun i => (la + i, kid))) ++
        t.lineKid.filter (fun e => decide (la + n ≤ e.1)),
      lineOld := t.lineOld.filter (fun e => decide (e.1 < la) || decide (la + n ≤ e.1)) }
  else
    (List.range n).foldl (fun (u : State) i =>
      let lo := if i = 0 then a else (la + i) * 128
      let hi := if (la + i) * 128 + 128 < a + bs.length then (la + i) * 128 + 128 else a + bs.length
      u.homePut kid lo ((bs.drop (lo - a)).take (hi - lo))) t

/-! ## Page-table entries (R18 to R22, R24) -/

def pteV (e : DWord) : Bool := e.getLsbD 0
def pteW (e : DWord) : Bool := e.getLsbD 1
def pteX (e : DWord) : Bool := e.getLsbD 2
def pteLf (e : DWord) : Bool := e.getLsbD 3
def pteCl (e : DWord) : Nat := field e.toNat 4 2
def pteKid (e : DWord) : BitVec 6 := e.extractLsb' 6 6
def pteA (e : DWord) : Bool := e.getLsbD 14
def pteD (e : DWord) : Bool := e.getLsbD 15
def pteRs (e : DWord) : Bool := e.getLsbD 16
def pteSz (e : DWord) : Nat := field e.toNat 17 3
def pteFn (e : DWord) : Nat := field e.toNat 20 40
/-- Page size and run length of a leaf by level and size code (R19). -/
def leafSize (level sz : Nat) : Option (Nat × Nat) :=
  if level = 0 then
    (if sz = 0 then some (2 ^ 12, 1) else if sz = 1 then some (2 ^ 14, 4) else if sz = 2 then some (2 ^ 16, 16)
     else if sz = 3 then some (2 ^ 18, 64) else if sz = 4 then some (2 ^ 20, 256) else none)
  else if level = 1 then
    (if sz = 0 then some (2 ^ 21, 1) else if sz = 1 then some (2 ^ 23, 4) else if sz = 2 then some (2 ^ 25, 16)
     else if sz = 3 then some (2 ^ 28, 128) else none)
  else if level = 2 then (if sz = 0 then some (2 ^ 30, 1) else none)
  else none
/-- A table entry is well formed: reserved bits zero, its frame in device HBM (R18, R21). -/
def tableOk (e : DWord) : Bool :=
  field e.toNat 60 4 == 0 && field e.toNat 4 16 == 0 && field e.toNat 1 2 == 0 && regionOf (pteFn e * 4096) == .hbm
/-- Page sizes and X bit that a class admits (R24). -/
def classShapeOk (cl size : Nat) (x : Bool) : Bool :=
  if cl = 0 then true
  else if cl = 1 then !x && (size == 2 ^ 12 || size == 2 ^ 16 || size == 2 ^ 21)
  else if cl = 2 then !x && (size == 2 ^ 12 || size == 2 ^ 16)
  else !x
/-- The frame's range and key id under its class (R16, R17, R22, R24). `ddn` is the device's own number. -/
def frameOk (ddn : Option Nat) (cl pa kid : Nat) : Bool :=
  match regionOf pa with
  | .hbm => (cl == 0 || cl == 1) && kid != 0
  | .pool => (cl == 0 || cl == 1) && kid != 0
  | .host => cl == 0 && kid == 0
  | .io => cl == 2 && kid == 0
  | .remote => cl == 3 && kid == 0 && field pa 39 1 == 0 && decide (field pa 40 11 < 1152) && ddn != some (field pa 40 11)
  | .control => false
  | .reserved => false
/-- A leaf is well formed at a level. -/
def leafOk (ddn : Option Nat) (level : Nat) (e : DWord) : Bool :=
  field e.toNat 60 4 == 0 &&
  match leafSize level (pteSz e) with
  | none => false
  | some (size, _) =>
    classShapeOk (pteCl e) size (pteX e) &&
    (!pteRs e || (pteFn e * 4096 % size == 0 && frameOk ddn (pteCl e) (pteFn e * 4096) (pteKid e).toNat))

/-- What a walk finds: the leaf, the page's size, the address of the first entry of its run and that entry as the walker read it. -/
structure Page where
  leaf : DWord
  size : Nat
  first : Nat
  seen : DWord
deriving DecidableEq, Repr
/-- An entry without A, D and TH. -/
def pteCore (e : DWord) : DWord := e &&& ~~~ 0xF000
/-- Two pages name one translation. -/
def Page.same (a b : Page) : Bool :=
  pteCore a.leaf == pteCore b.leaf && a.size == b.size && a.first == b.first && pteCore a.seen == pteCore b.seen
inductive Walk | absent | malformed | page (p : Page)
deriving DecidableEq, Repr

/-- Index of a level in a virtual address (R18). -/
def vaIndex (level va : Nat) : Nat := field va (12 + 9 * level) 9
/-- A 64-bit entry, read whole. -/
def State.entry (s : State) (kid : BitVec 6) (pa : Nat) : DWord := BitVec.ofNat 64 (s.numNow kid pa 8)
/-- The entry of a run that the walk uses where the run's entries differ: any one of those that are a leaf of the same size (R20;
log 53). -/
def State.runEntry (s : State) (kid : BitVec 6) (level run first own : Nat) (e : DWord) : DWord :=
  if run = 1 then e
  else
    let i := Config.entryChoice (s.free + 8 + level) % run
    let o := s.entry kid (first + 8 * i)
    if decide (i ≠ own) && pteV o && pteLf o && pteSz o == pteSz e && pteCore o != pteCore e then o else e
/-- What a leaf entry at a level comes to. -/
def State.leafPage (s : State) (kid : BitVec 6) (level va frame : Nat) (e : DWord) : Walk :=
  match leafSize level (pteSz e) with
  | none => .malformed
  | some (size, run) =>
    let i := vaIndex level va
    let first := frame * 4096 + i / run * run * 8
    let o := s.runEntry kid level run first (i % run) e
    if leafOk s.boot.ddn level o then .page { leaf := o, size := size, first := first, seen := s.entry kid first } else .malformed
/-- A table entry held by a walk cache (R111). -/
def State.cached (s : State) (die rtag level va : Nat) : List DWord :=
  (s.wcache.filter (fun c => c.die == die && c.rtag == rtag && c.level == level && c.pre == va / 2 ^ (12 + 9 * level))).map (fun c => c.e)
/-- The entry that a walk uses at a level: the one in memory, or one that the die's walk cache holds (R27, R111; the choice is free). -/
def State.walkEntry (s : State) (die rtag : Nat) (kid : BitVec 6) (level va frame : Nat) : DWord :=
  let e := s.entry kid (frame * 4096 + vaIndex level va * 8)
  match (s.cached die rtag level va).filter (fun c => c != e) with
  | [] => e
  | l => ((e :: l)[Config.entryChoice (s.free + 1 + level) % (l.length + 1)]?).getD e
/-- The walk from a table entry's frame at a level downwards (R20): the table entries used, and what it finds. -/
def State.walkFrom (s : State) (die rtag : Nat) (kid : BitVec 6) (va : Nat) : Nat → Nat → List (Nat × Nat × DWord) × Walk
  | level, frame =>
    let e := s.walkEntry die rtag kid level va frame
    if !pteV e then ([], .absent)
    else if pteLf e then ([], s.leafPage kid level va frame e)
    else if !tableOk e then ([], .malformed)
    else match level with
      | 0 => ([], .malformed)
      | l + 1 =>
        let r := s.walkFrom die rtag kid va l (pteFn e)
        ((l + 1, frame * 4096 + vaIndex (l + 1) va * 8, e) :: r.1, r.2)
/-- System key id of a partition (R296). -/
def Part.skid (p : Part) : BitVec 6 := p.rcd.sched.extractLsb' 96 6
def Part.none : Part :=
  { setUp := false, rcd := { cores := [], sched := 0, classes := [], frames := [], slots := 0, queues := [], fwd := false, pool := [], ring := 0 },
    pool := [], tdisp := .unlocked, nonce := 0, command := 0, bar0 := 0, bar2 := 0, msix := 0, ide := 0, report := [], errs := 0 }
def State.part (s : State) (p : Nat) : Part := getD Part.none s.parts p
def State.setPart (s : State) (p : Nat) (x : Part) : State := { s with parts := mapInsert s.parts p x }
/-- A walk of a job's page tables for a die, with the table entries used; the L4 entry is never a leaf (R18). -/
def State.walkPath (s : State) (job die va : Nat) : List (Nat × Nat × DWord) × Walk :=
  let jb := s.job job
  s.walkFrom die jb.rtag (s.part jb.part).skid va 4 jb.root.toNat
/-- What a walk for a die finds. -/
def State.walkOn (s : State) (job die va : Nat) : Walk := (s.walkPath job die va).2
/-- A walk of the tables as they stand, which Nolelavin makes: no die's walk cache takes part. -/
def State.walk (s : State) (job : Nat) (va : Nat) : Walk := s.walkOn job 4 va
/-- The page of a held leaf. -/
def TlbEntry.page (t : TlbEntry) : Page := { leaf := t.leaf, size := t.size, first := t.first, seen := t.seen }
/-- Held leaves for an address (R111). -/
def State.held (s : State) (die rtag va : Nat) : List TlbEntry :=
  s.tlb.filter (fun t => t.die == die && t.rtag == rtag && decide (t.va.toNat ≤ va) && decide (va < t.va.toNat + t.size))
/-- Setting D through a held leaf would fail its compare: the first entry has changed since the walker read it, otherwise than in A, D
and TH (R26). With D set as the walker read it, nothing is to be set. -/
def State.casFails (s : State) (job : Nat) (p : Page) : Bool :=
  !pteD p.seen && pteCore (s.entry (s.part (s.job job).part).skid p.first) != pteCore p.seen
/-- The translation that an access uses: a walk, or, while a TLB holds a leaf, either (R27; the choice is free). A write whose compare on
a held leaf fails discards it and walks again (R26). -/
def State.lookupPage (s : State) (job die va : Nat) (write : Bool) : Walk :=
  let w := s.walkOn job die va
  let old := (s.held die (s.job job).rtag va).filter (fun t => !(write && s.casFails job t.page) &&
    (match w with | .page p => !(p.same t.page) | _ => true))
  match old with
  | [] => w
  | _ => ((w :: old.map (fun t => Walk.page t.page))[Config.entryChoice s.free % (old.length + 1)]?).getD w

/-! ## Outcomes of a translation (R25) -/

/-- Kinds of access (R24, R115). -/
inductive AKind | load | ldnr | pref | store | atomic | apnd | seal | tailrd | fetch | copySrc | copyDst | bapnd | bchk | bchkEx | mill
deriving DecidableEq, Repr
/-- AT of a fault (R115). -/
def AKind.at_ : AKind → Nat
  | .load => 0 | .ldnr => 7 | .pref => 0 | .store => 1 | .atomic => 2 | .apnd => 3 | .seal => 3 | .tailrd => 2 | .fetch => 4
  | .copySrc => 5 | .copyDst => 6 | .bapnd => 6 | .bchk => 5 | .bchkEx => 5 | .mill => 5
/-- Whether the kind needs W. -/
def AKind.writes : AKind → Bool
  | .store => true | .atomic => true | .apnd => true | .seal => true | .copyDst => true | .bapnd => true | .bchkEx => true
  | .load => false | .ldnr => false | .pref => false | .tailrd => false | .fetch => false | .copySrc => false | .bchk => false
  | .mill => false

inductive ClassAns | yes | asWrite | no
deriving DecidableEq, Repr
/-- The class's answer to an access (R24); that mill reads of global memory are admitted where the source of a copy is, is the model's choice
(log 65). -/
def classAdmits (cl : Nat) (k : AKind) : ClassAns :=
  match k with
  | .load => .yes | .ldnr => .yes | .pref => .yes
  | .store => if cl = 1 then .asWrite else .yes
  | .atomic => if cl = 1 then .asWrite else if cl = 2 then .no else .yes
  | .apnd => if cl = 1 then .yes else .no
  | .seal => if cl = 1 then .yes else .no
  | .tailrd => if cl = 1 then .yes else .no
  | .bapnd => if cl = 1 then .yes else .no
  | .fetch => if cl = 0 then .yes else .no
  | .copySrc => if cl < 2 then .yes else .no
  | .bchk => if cl < 2 then .yes else .no
  | .mill => if cl < 2 then .yes else .no
  | .copyDst => if cl = 1 then .asWrite else if cl = 0 then .yes else .no
  | .bchkEx => if cl = 1 then .asWrite else if cl = 0 then .yes else .no
/-- A key slot is loaded and assigned to a partition (R22). -/
def State.keyOk (s : State) (kid part : Nat) : Bool :=
  match lookup s.keys kid with
  | some k => k.part.toNat == part
  | none => false

/-- A translated address. -/
structure Xlate where
  pa : Nat
  kid : BitVec 6
  cl : Nat
  page : Page
deriving DecidableEq, Repr
/-- Cause, reason of a fault; `notRes` marks row 5. -/
structure XFault where
  cause : Nat
  rsn : Nat
deriving DecidableEq, Repr

/-- Rows 3 to 9 of R25 on what the walk found. -/
def State.outcome (s : State) (job va : Nat) (k : AKind) : Walk → Except XFault Xlate
  | .absent => .error { cause := 0x10, rsn := 1 }
  | .malformed => .error { cause := 0x10, rsn := 2 }
  | .page p =>
    let e := p.leaf
    let cl := pteCl e
    if !pteRs e then .error { cause := 0x10, rsn := 3 }
    else match classAdmits cl k with
      | .asWrite => .error { cause := 0x12, rsn := 0 }
      | .no => .error { cause := 0x11, rsn := 5 }
      | .yes =>
        if k.writes && !pteW e then .error { cause := 0x11, rsn := 6 }
        else if k == .fetch && !pteX e then .error { cause := 0x11, rsn := 7 }
        else if keyed (pteFn e * 4096) && !(s.keyOk (pteKid e).toNat (s.job job).part) then .error { cause := 0x15, rsn := 0 }
        else .ok { pa := pteFn e * 4096 + va % p.size, kid := pteKid e, cl := cl, page := p }
/-- The page record of a frame at its home, by base frame (R71). -/
def State.recordAt (s : State) (pa : Nat) : Option (Nat × PageRec) :=
  s.records.find? (fun e => e.2.v && e.1 / 65536 == homeOf pa &&
    decide (e.2.bfn.toNat * 4096 ≤ pa) && decide (pa < e.2.bfn.toNat * 4096 + 2 ^ (12 + (if e.2.ps = 0 then 0 else if e.2.ps = 1 then 4 else 9))))
/-- A replica of the page that holds an address, on a die (R87). -/
def State.replicaOf (s : State) (die pa : Nat) : Option Replica :=
  s.replicas.find? (fun r => r.die == die &&
    decide (r.sfn.toNat * 4096 ≤ pa) && decide (pa < r.sfn.toNat * 4096 + 2 ^ (12 + (if r.ps = 0 then 0 else if r.ps = 1 then 4 else 9))))
/-- An access to an append-seal page reaches a home that has no valid record of the page (R71): neither the die's cached copy of
a sealed line nor its replica serves it (R87). -/
def State.noRecord (s : State) (die : Nat) (k : AKind) (x : Xlate) : Bool :=
  x.cl == 1 && k != .pref && (s.recordAt x.pa).isNone && !(s.l2line die (x.pa / 128)).isSealed && (s.replicaOf die x.pa).isNone
/-- The checks of an access of `w` bytes before its translation (R25, rows 1 and 2). -/
def vaFault (w : Nat) (va : DWord) : Option XFault :=
  if va.toNat % w ≠ 0 then some { cause := 0x08, rsn := 0 }
  else if va.toNat / 2 ^ 57 ≠ 0 then some { cause := 0x11, rsn := 4 }
  else none
/-- Rows 3 to 9 with a page's translation; last, a page without a record is malformed (R71). -/
def State.xlateBy (s : State) (job die : Nat) (k : AKind) (va : DWord) (w : Walk) : Except XFault Xlate :=
  match s.outcome job va.toNat k w with
  | .error e => .error e
  | .ok x => if s.noRecord die k x then .error { cause := 0x10, rsn := 2 } else .ok x
/-- Rows 1 to 9: an access of `w` bytes. -/
def State.xlate (s : State) (job die : Nat) (k : AKind) (w : Nat) (va : DWord) : Except XFault Xlate :=
  match vaFault w va with
  | some e => .error e
  | none => s.xlateBy job die k va (s.lookupPage job die va.toNat k.writes)

/-! ## Accessed and dirty bits (R26) and fills (R111) -/

/-- A is set in the first entry of a run at its home when a translation is filled, D before a write through it; the compare has been made
(`casFails`). -/
def State.setAD (s : State) (job : Nat) (p : Page) (a d : Bool) : State :=
  let kid := (s.part (s.job job).part).skid
  let e := s.entry kid p.first
  let n := e ||| (if a then (0x4000 : DWord) else 0) ||| (if d then (0x8000 : DWord) else 0)
  if n = e then s else s.poke kid p.first (toBytes 8 n.toNat)
/-- A leaf that a TLB of the die holds once an access has used it. -/
def State.tlbEntry (s : State) (job die va : Nat) (p : Page) (d : Bool) : TlbEntry :=
  { die := die, rtag := (s.job job).rtag, va := BitVec.ofNat 57 (va / p.size * p.size), size := p.size, leaf := p.leaf, first := p.first,
    seen := p.seen ||| (if d then (0xC000 : DWord) else 0x4000) }
/-- The table entries that a walk read at their homes, held by the die's walk cache. -/
def State.fillWalk (s : State) (job die va : Nat) : State :=
  (s.walkPath job die va).1.foldl (fun (t : State) e =>
    let c : WalkEnt := { die := die, rtag := (s.job job).rtag, level := e.1, pre := va / 2 ^ (12 + 9 * e.1), e := e.2.2 }
    let u := t.readHome (e.2.1 / 128)
    if u.wcache.contains c then u else { u with wcache := u.wcache ++ [c] }) s
/-- A TLB of the die holds a leaf from now on: A is set when it is filled, D for a write, in place of what it held of that page before. -/
def State.fillTlb (s : State) (job die va : Nat) (p : Page) (d : Bool) : State :=
  let e := s.tlbEntry job die va p d
  match (s.held die (s.job job).rtag va).find? (fun t => t.page.same p) with
  | some t =>
    if d && !pteD t.seen then { s.setAD job p false true with tlb := s.tlb.map (fun x => if x == t then e else x) } else s
  | none =>
    let u := ((s.fillWalk job die va).readHome (p.first / 128)).setAD job p true d
    { u with tlb := u.tlb ++ [e] }
/-- An access uses a translation. -/
def State.useXlate (s : State) (job die va : Nat) (k : AKind) (x : Xlate) : State := s.fillTlb job die va x.page k.writes

/-! ## Fault records (R114 to R117) -/

/-- The page that a fault names: the page of the leaf met, or 4 KiB where no leaf gives a size (R115). -/
def State.faultPage (s : State) (job die va : Nat) : Nat × Nat :=
  match s.walkOn job die va with
  | .page p => (va / p.size * p.size, p.size)
  | _ => (va / 4096 * 4096, 4096)
/-- A record of the die's queue whose page holds an address under a root, if any (R115). -/
def State.faultFor (s : State) (die rtag va : Nat) : Option FaultRec :=
  s.faults.find? (fun f => f.die == die && f.rtag == rtag && decide (f.base ≤ va) && decide (va < f.base + f.size))
/-- The queue of a die is full. -/
def State.faultFull (s : State) (die : Nat) : Bool := decide (1024 ≤ (s.faults.filter (fun f => f.die == die)).length)
/-- A new record of the queue (R115). VA is the address rounded down to 4 KiB (log 54). -/
def State.newFault (s : State) (k id va : Nat) (x : XFault) (acc : Nat) (grp : Option FaultJoin) (eng : Option Nat) : FaultRec :=
  let g := s.group k
  let jb := s.job g.job
  let pg := s.faultPage g.job g.place.die va
  { id := id, cause := BitVec.ofNat 6 x.cause, va := BitVec.ofNat 57 (va / 4096 * 4096), base := pg.1, size := pg.2, rsn := BitVec.ofNat 4 x.rsn,
    acc := BitVec.ofNat 3 acc, die := g.place.die, core := g.place.core, sail := g.place.sail, gs := g.slot, js := g.job,
    pt := jb.part, rtag := jb.rtag, wait := if grp.isSome then 1 else 0, joined := grp.toList, engines := eng.toList,
    forwarded := false }
/-- Queue a record, or join the record of the page; `none` when the queue is full. `grp` or the engine operation `eng` waits on it, if
given. -/
def State.faultRecord (s : State) (k : Nat) (va : Nat) (x : XFault) (at_ : Nat) (grp : Option FaultJoin) (eng : Option Nat) : Option (State × Nat) :=
  let g := s.group k
  let jb := s.job g.job
  match s.faultFor g.place.die jb.rtag va with
  | some f =>
    some ({ s with faults := s.faults.map (fun r => if r.id == f.id then
      { r with joined := r.joined ++ grp.toList, engines := r.engines ++ eng.toList, wait := if r.wait = 0x3FFF || grp.isNone then r.wait else r.wait + 1 } else r) }, f.id)
  | none =>
    if s.faultFull g.place.die then none
    else
      let id := s.faults.foldl (fun m f => if m ≤ f.id then f.id + 1 else m) 0
      some ({ s with faults := s.faults ++ [s.newFault k id va x at_ grp eng] }, id)

/-- A fault of an access of the instruction being executed (R104, R109, R116): a PAGE_FAULT goes to the die's fault queue and
the group waits on it; any other cause is a trap. The group's older accesses perform first. -/
def State.accFault (s : State) (x : XFault) (at_ lane : Nat) (va : DWord) : Act :=
  let g := s.curGroup
  if !(g.quiet) then .hold
  else if x.cause = 0x10 then
    let me : FaultJoin :=
      { grp := s.cur.grp, lanes := s.cur.lanes, act := s.cur.act, pc := s.cur.pc, len := s.cur.len, lane := lane, at_ := at_, addr := va }
    match s.faultRecord s.cur.grp va.toNat x at_ (some me) none with
    | some (t, id) => .wait (t.setCurGroup { t.curGroup.count 7 1 with wait := .fault g.place.die id })
    | none => .hold
  else .trap { Trap.of x.cause with rsn := x.rsn, at_ := at_, lane := lane, addr := va }

end Sys2Proof.Machine
end

