-- ==== Sys2Proof/Machine/Tokens.lean ====
section
/-!
DEFINITION. Tokens: agents of a line (R51, R57), messages (R57), sending tokens and data (R55, R58, R59), host permission (R67),
transient requests (R60), persistent-request activations (R62 to R64), and dirty units with sector staging (R321, R323).
-/

namespace Sys2Proof.Machine

/-! ## Agents and messages -/

/-- The token agents of a line: the L2s, its home and, for an HBM line, H0 (R57). -/
def agentsOf (la : Nat) : List Nat :=
  [0, 1, 2, 3] ++ (if regionOf (la * 128) = .hbm then [homeOf (la * 128), 8] else [8])
def Msg.zero : Msg :=
  { ty := 0, src := 0, dst := 0, la := 0, tc := 0, ow := false, d := false, dt := false, pz := false, kid := 0, pe := 0, pk := false,
    at_ := 0, rid := 0, op := 0, data := 0, mask := 0 }
/-- A message with type, sender, receiver and line; a field not used is zero. -/
def mkMsg (ty src dst la : Nat) : Msg := { Msg.zero with ty := BitVec.ofNat 5 ty, src := BitVec.ofNat 4 src, dst := BitVec.ofNat 4 dst, la := la }
def State.send (s : State) (m : Msg) : State := { s with msgs := s.msgs ++ [m] }
def State.sendAll (s : State) (l : List Msg) : State := { s with msgs := s.msgs ++ l }
/-- The message at an index, of a type. -/
def State.msgOf (s : State) (k ty : Nat) : Option Msg :=
  match s.msgs[k]? with
  | some m => if m.ty.toNat = ty then some m else none
  | none => none
def State.takeMsg (s : State) (k : Nat) : State := { s with msgs := dropAt s.msgs k }

/-! ## Staging (R323) -/

/-- The staging buffer of a controller is full (R323): 8,192 sectors. -/
def State.stagingFull (s : State) (die : Nat) : Bool :=
  decide (8192 * 256 ≤ (s.staged.filter (fun e => dieOf e.1 == die)).length)
/-- A write of a line at its home waits until a unit with staged sectors has been streamed. -/
def State.stageWaits (s : State) (la : Nat) : Bool := s.stagingFull (dieOf (la * 128)) && s.needsSector la
/-- What follows has staged more sectors at a controller than its buffer holds: something in it has to wait. -/
def State.overStaged (s t : State) : Bool :=
  (List.range 4).any (fun d =>
    let n := fun (x : State) => (x.staged.filter (fun e => dieOf e.1 == d)).length
    decide (8192 * 256 < n t) && decide (n s < n t))

/-! ## Holdings -/

/-- What an agent holds of a line: tokens, owner bit. -/
def State.holds_ (s : State) (a la : Nat) : Holding :=
  if a < 4 then { tc := (s.l2line a la).tc, ow := (s.l2line a la).ow }
  else if a = homeOf (la * 128) then s.holding la
  else { tc := (s.h0line la).tc, ow := (s.h0line la).ow }
/-- A line's cached copy after tokens leave: with none left, nothing is held (R55). -/
def Line.minus (x : Line) (n : Nat) (ow : Bool) : Line :=
  if x.tc ≤ n then Line.none else { x with tc := x.tc - n, ow := x.ow && !ow, dt := x.dt && !ow }
/-- An agent gives up `n` tokens, the owner among them if `ow`. -/
def State.giveUp (s : State) (a la n : Nat) (ow : Bool) : State :=
  if a < 4 then s.setL2 a la ((s.l2line a la).minus n ow)
  else if a = homeOf (la * 128) then
    s.setHolding la { tc := (s.holding la).tc - n, ow := (s.holding la).ow && !ow }
  else s.setH0 la ((s.h0line la).minus n ow)
/-- A pool line that no enabled fabric decoder covers reads as poison (R346). -/
def State.poolDark (s : State) (la : Nat) : Bool :=
  regionOf (la * 128) == .pool && !(s.decoders.any (fun d => d.en && decide (d.lo ≤ la * 128) && decide (la * 128 < d.hi)))
/-- The data an agent sends: its copy, or memory under a key id at the home. -/
def State.dataOf (s : State) (a la : Nat) (kid : BitVec 6) : BitVec 1024 × Bool × Bool × BitVec 6 :=
  if a < 4 then let x := s.l2line a la; (x.data, x.dt, x.pz, x.kid)
  else if a = homeOf (la * 128) then (s.memLine kid la, false, getD false s.poison la || s.poolDark la, kid)
  else let x := s.h0line la; (x.data, x.dt, x.pz, x.kid)
/-- TOK from `a` to `b`: `n` tokens, with the owner token and data as asked (R55). -/
def State.sendTok (s : State) (a b la n : Nat) (ow data : Bool) (kid : BitVec 6) : State :=
  let d := s.dataOf a la kid
  let m := { mkMsg 3 a b la with tc := n, ow := ow, d := data }
  let m2 := if data then { m with dt := d.2.1 && ow, pz := d.2.2.1, kid := d.2.2.2, data := d.1 } else m
  (s.giveUp a la n ow).send m2
/-- Send everything held: the owner token with data, else plain tokens. -/
def State.sendHeld (s : State) (a b la : Nat) (kid : BitVec 6) : State :=
  let h := s.holds_ a la
  if h.tc = 0 then s else s.sendTok a b la h.tc h.ow h.ow kid

/-! ## Host permission (R67) -/

def State.hostPerm (s : State) (la : Nat) : HostPerm := getD .none s.perm la
/-- The home may give out tokens of a line under a GETS. -/
def State.mayShare (s : State) (la : Nat) : Bool :=
  regionOf (la * 128) != .host || s.hostPerm la != .none
/-- The home may give out the owner token of a line, or perform a HOP. -/
def State.mayOwn (s : State) (la : Nat) : Bool :=
  regionOf (la * 128) != .host || s.hostPerm la == .excl

/-- H0 asks the host, once. -/
def State.tellHost (s : State) (m : HostMsg) : State := if s.hostOut.contains m then s else { s with hostOut := s.hostOut ++ [m] }
/-- H0 asks the host for the permission that a request for a line needs: RdOwn to give out the owner token, else RdShared (R67). -/
def State.askHost (s : State) (la : Nat) (own : Bool) : State :=
  if regionOf (la * 128) != .host then s
  else if own then (if s.hostPerm la == .excl then s else s.tellHost (.rdOwn la))
  else if s.hostPerm la == .none && !(s.hostOut.contains (.rdOwn la)) then s.tellHost (.rdShared la) else s

/-- Lines that the cores' L1s write through (R31). -/
def AccKind.cached : AccKind → Bool
  | .coherent => true | .home => true | .appendSeal => false | .deviceIo => false | .remote => false | .team => false | .comb => false

/-! ## Ways of an L2 (R41, R58) and H0's away table (R53) -/

/-- Slice and set of a line within it, as one number (R41). -/
def l2set (la : Nat) : Nat :=
  let pa := la * 128
  (field pa 7 5 ^^^ field pa 12 5 ^^^ field pa 17 5) * 1024 + (field pa 22 10 ^^^ field pa 32 10)
/-- Mask of the L2 ways of a partition (R296). -/
def Part.wm (p : Part) : Nat := field p.rcd.sched.toNat 40 24
/-- Ways that a line may take at a die: those of the partition of an access or copy that waits for the line there, or else of the partition of
the line's key, or else any. -/
def State.waysFor (s : State) (die la : Nat) (kid : BitVec 6) : Nat :=
  match s.pend.find? (fun a => a.die == die && a.pa / 128 == la && a.kind.cached) with
  | some a => (s.part (s.job (s.group a.grp).job).part).wm
  | none => match s.copies.find? (fun c => c.die == die && c.wants.any (fun w => w.1 == la)) with
    | some c => (s.part (s.job (s.group c.grp).job).part).wm
    | none => match lookup s.keys kid.toNat with | some k => (s.part k.part.toNat).wm | none => 2 ^ 24 - 1
/-- A free way of a line's set at a die (R41). -/
def State.freeWay (s : State) (die la : Nat) (kid : BitVec 6) : Option Nat :=
  let used := (s.l2.filter (fun e => e.1 / 2 ^ 45 == die && l2set (e.1 % 2 ^ 45) == l2set la)).map (fun e => e.2.way)
  let m := s.waysFor die la kid
  (List.range 24).find? (fun w => bitAt m w && !used.contains w)
/-- Lines that H0's away table records. -/
def State.away (s : State) : List Nat :=
  ((s.home.map (fun e => e.1)).filter (fun la => regionOf (la * 128) != .hbm) ++ s.perm.map (fun e => e.1)).eraseDups
/-- Set of a line in the away table of 16 ways by 16,384 sets; the spec gives no index (log 58). -/
def awaySet (la : Nat) : Nat := Config.awaySet la % 16384
/-- H0 can record a line: it has an entry, or its set has a free one. -/
def State.awayRoom (s : State) (la : Nat) : Bool :=
  regionOf (la * 128) == .hbm || s.away.contains la || decide (s.away.length < 16) ||
  decide ((s.away.filter (fun x => awaySet x == awaySet la)).length < 16)

/-! ## Activations (R64) and requests (R60) -/

/-- An activation of a line for another requester that an agent has recorded. -/
def State.actFor (s : State) (a la : Nat) : Option Activation :=
  s.acts.find? (fun x => x.agent == a && x.la == la && x.rq != a)
def State.reqOf (s : State) (a la : Nat) (write : Bool) : Option Req :=
  s.reqs.find? (fun r => r.agent == a && r.la == la && (r.write || !write))
/-- Agents that an attempt addresses: every other one; a home's own first attempt goes to the dies that its holder-hint filter names, any of
them, or to every die (R60; the filter is open, log 57). -/
def State.addressed (s : State) (r : Req) : List Nat :=
  let l := (agentsOf r.la).filter (fun b => b != r.agent)
  if r.agent = homeOf (r.la * 128) ∧ r.attempt = 0 then
    let m := Config.choice s.free % 16
    if m = 0 then l else l.filter (fun b => decide (4 ≤ b) || bitAt m b)
  else l
/-- The messages of one attempt of a transient request. -/
def State.attemptMsgs (s : State) (r : Req) : List Msg :=
  (s.addressed r).map (fun b =>
    { mkMsg (if r.write then 2 else 1) r.agent b r.la with at_ := BitVec.ofNat 2 r.attempt, rid := r.rid, kid := r.kid })
/-- Send an attempt. -/
def State.attempt (s : State) (r : Req) : State :=
  let t := s.sendAll (s.attemptMsgs r)
  if r.agent = homeOf (r.la * 128) ∧ r.attempt = 0 then t.spend else t
/-- `n` numbers from `i` upward that a list does not hold, within `fuel` of `i`. -/
def pickIds (used : List Nat) : Nat → Nat → Nat → List Nat
  | 0, _, _ => []
  | _ + 1, 0, _ => []
  | f + 1, n + 1, i => if used.contains i then pickIds used f (n + 1) (i + 1) else i :: pickIds used f n (i + 1)
/-- A request id of an agent that none of its requests bears. -/
def State.newRid (s : State) (a : Nat) : Nat :=
  (pickIds ((s.reqs.filter (fun r => r.agent == a)).map (fun r => r.rid) ++ (s.ptab.filter (fun e => e.rq == a)).map (fun e => e.rid)) 4096 1 0).headD 0
/-- Ask for a line, unless a request for it is already outstanding; under an activation nothing is sent yet. -/
def State.request (s : State) (a la : Nat) (write : Bool) (kid : BitVec 6) : State :=
  match s.reqOf a la write with
  | some _ => s
  | none =>
    let r : Req := { agent := a, la := la, write := write, attempt := 0, rid := s.newRid a, kid := kid, esc := false, heldEsc := false }
    let t := { s with reqs := s.reqs ++ [r] }
    if (s.actFor a la).isSome then t else t.attempt r
/-- An L2 admits a read (R54). -/
def State.canRead (s : State) (die la : Nat) : Bool := decide (1 ≤ (s.l2line die la).tc) && (s.l2line die la).dv
/-- An L2 admits a write or atomic (R54). -/
def State.canWrite (s : State) (die la : Nat) : Bool := (s.l2line die la).tc == 16
/-- Words of a line that a write of `n` bytes from offset `lo` changes, as they stood: until the load service a fetch may still find them (R107). -/
def staleWords (m : SMap Word) (la lo n : Nat) (old new : BitVec 1024) : SMap Word :=
  (List.range ((lo % 4 + n + 3) / 4)).foldl (fun (m : SMap Word) i =>
    let o := (lo / 4 + i) * 4
    if (lookup m (la * 32 + o / 4)).isSome || lineNum old o 4 == lineNum new o 4 then m
    else mapInsert m (la * 32 + o / 4) (BitVec.ofNat 32 (lineNum old o 4))) m
/-- A write at an L2 that holds every token: the line is dirty under the access's key id; a store of the whole line clears
its poison mark (R49). -/
def State.l2put (s : State) (die : Nat) (kid : BitVec 6) (pa : Nat) (bs : List Byte) : State :=
  let x := s.l2line die (pa / 128)
  let d := linePut x.data (pa % 128) bs
  { s.setL2 die (pa / 128) { x with data := d, dt := true, dv := true, kid := kid, pz := x.pz && !(bs.length == 128) } with
    stale := staleWords s.stale (pa / 128) (pa % 128) bs.length x.data d }

end Sys2Proof.Machine
end

