-- ==== Sys2Proof/Machine/Access.lean ====
section
/-!
DEFINITION. Lane accesses to global memory: addresses (R11, R172), translation of every lane (R109), the order in which they
perform (R31, R79, R94, R98, R99, R106), loads, stores and atomics at the L2 (R54, R66), and what performs when tokens or
answers arrive.
-/

namespace Sys2Proof.Machine

/-! ## Addresses -/

/-- Offset of an LM word (R172). -/
def offVal (w : Nat) : Off → DWord
  | .o8 x => x.signExtend 64 * BitVec.ofNat 64 w
  | .o32 x => x.signExtend 64
/-- The address of a lane (R172); the spill mode gives the spill offset. -/
def laneAddr (g : Group) (w : Nat) (off : Off) (l : Nat) : Addr → DWord
  | .base b => g.sget b.toNat + offVal w off
  | .zx b x => g.sget b.toNat + (g.v32 x.toNat l).setWidth 64 + offVal w off
  | .sx b x => g.sget b.toNat + (g.v32 x.toNat l).signExtend 64 + offVal w off
  | .vec x => g.v64 x.toNat l + offVal w off
  | .spill => offVal w off

/-- One access of a lane: virtual address, bytes, offset in the operand. -/
structure Piece where
  lane : Nat
  va : DWord
  w : Nat
  off : Nat
deriving DecidableEq, Repr
/-- A lane's fault with the address it reports. -/
structure LaneFault where
  x : XFault
  lane : Nat
  va : DWord
deriving DecidableEq, Repr

/-- Virtual address of spill offset `o` of a lane (R11). -/
def spillVa (d : JobDesc) (gi w l o : Nat) : DWord :=
  BitVec.ofNat 64 (d.spb.toNat * 4096 + gi * d.sps * w + o / 4 * 4 * w + 4 * l + o % 4)
/-- The pieces of a lane's access of `w` bytes (R11, R226). -/
def State.lanePieces (s : State) (ad : Addr) (off : Off) (w l : Nat) : Except LaneFault (List Piece) :=
  let g := s.curGroup
  let a := laneAddr g w off l ad
  match ad with
  | .spill =>
    let d := s.curJob.jd
    if a.toNat % w ≠ 0 then .error { x := { cause := 0x08, rsn := 0 }, lane := l, va := a }
    else if d.sps < a.toNat + w then .error { x := { cause := 0x11, rsn := 8 }, lane := l, va := a }
    else if w ≤ 4 then .ok [{ lane := l, va := spillVa d (s.groupId g) g.width l a.toNat, w := w, off := 0 }]
    else .ok ((List.range (w / 4)).map (fun i =>
      { lane := l, va := spillVa d (s.groupId g) g.width l (a.toNat + 4 * i), w := 4, off := 4 * i }))
  | _ => .ok [{ lane := l, va := a, w := w, off := 0 }]

/-- Pages that an instruction has looked up: first address, size, and what the lookup found. -/
abbrev Pages := List (Nat × Nat × Walk)
/-- The one lookup of the page of an address within an instruction (R27, R109). -/
def State.pageOf (s : State) (k : AKind) (ps : Pages) (va : Nat) : Walk × Pages :=
  match ps.find? (fun e => decide (e.1 ≤ va) && decide (va < e.1 + e.2.1)) with
  | some e => (e.2.2, ps)
  | none =>
    match s.lookupPage s.curGroup.job s.curGroup.place.die va k.writes with
    | .page p => (.page p, (va / p.size * p.size, p.size, .page p) :: ps)
    | w => (w, (va / 4096 * 4096, 4096, w) :: ps)
/-- Translate an access of `w` bytes within an instruction. -/
def State.xlateIn (s : State) (k : AKind) (ps : Pages) (w : Nat) (va : DWord) : Except XFault Xlate × Pages :=
  match vaFault w va with
  | some e => (.error e, ps)
  | none =>
    let r := s.pageOf k ps va.toNat
    (s.xlateBy s.curGroup.job s.curGroup.place.die k va r.1, r.2)
/-- Translate the pieces of a list, in order. -/
def State.xlatePieces (s : State) (k : AKind) : Pages → List Piece → Except LaneFault (List (Piece × Xlate) × Pages)
  | pg, [] => .ok ([], pg)
  | pg, p :: ps =>
    match s.xlateIn k pg p.w p.va with
    | (.error e, _) => .error { x := e, lane := p.lane, va := p.va }
    | (.ok x, pg2) => (s.xlatePieces k pg2 ps).map (fun r => ((p, x) :: r.1, r.2))
/-- Every lane of a list, lowest first: the first fault decides (R109). -/
def State.planIn (s : State) (k : AKind) (ad : Addr) (off : Off) (w : Nat) : Pages → List Nat → Except LaneFault (List (Piece × Xlate))
  | _, [] => .ok []
  | pg, l :: ls =>
    match s.lanePieces ad off w l with
    | .error e => .error e
    | .ok ps =>
      match s.xlatePieces k pg ps with
      | .error e => .error e
      | .ok r => (s.planIn k ad off w r.2 ls).map (fun q => r.1 ++ q)
def State.plan (s : State) (k : AKind) (ad : Addr) (off : Off) (w : Nat) (ls : List Nat) : Except LaneFault (List (Piece × Xlate)) :=
  s.planIn k ad off w [] ls
/-- The translations are used: TLBs filled, A and D set (R26, R111). -/
def State.usePlan (s : State) (k : AKind) (l : List (Piece × Xlate)) : State :=
  l.foldl (fun t e => t.useXlate s.curGroup.job s.curGroup.place.die e.1.va.toNat k e.2) s
/-- Operation code of an atomic (R229). -/
def AtomOp.code : AtomOp → Nat
  | .add => 0 | .min => 1 | .max => 2 | .and => 3 | .or => 4 | .xor => 5 | .xchg => 6 | .cas => 7 | .fadd => 8 | .minu => 9 | .maxu => 10

/-! ## Atomic operations (R229) -/

/-- The new value of an atomic on `n` bits: operation, old value, operand, `.cas` new value. -/
def atomNew (op : AtomOp) (n old x y : Nat) : Nat :=
  let a := toSigned n old
  let b := toSigned n x
  match op with
  | .add => (old + x) % 2 ^ n
  | .min => if a ≤ b then old else x
  | .max => if a ≤ b then x else old
  | .and => old &&& x
  | .or => old ||| x
  | .xor => old ^^^ x
  | .xchg => x
  | .cas => if old = x then y else old
  | .fadd =>
    let f := if n = 32 then Fmt.f32 else Fmt.f64
    (f.round 1 false false 0 (fAdd 1 (f.read false old) (f.read false x)).1).1
  | .minu => if old ≤ x then old else x
  | .maxu => if old ≤ x then x else old

/-! ## Registers of a load -/

/-- Write a loaded piece: below 4 bytes extended, else whole registers (R226). -/
def putLoad (g : Group) (sx : Bool) (d l off w x : Nat) : Group :=
  if w < 4 then g.setV32 d l (if sx then BitVec.ofInt 32 (toSigned (8 * w) x) else BitVec.ofNat 32 x)
  else Group.setVN (w / 4) g (d + off / 4) l x
/-- Write what an access left for its lane. -/
def LaneVal.put (g : Group) (v : LaneVal) : Group :=
  let h := if v.w = 0 then g else putLoad g v.sx v.d v.lane v.off v.w v.val
  match v.flag with
  | none => h
  | some (p, b) => h.psetMask p (laneBit v.lane) (if b then ~~~ 0 else 0)

/-! ## Performing (R54, R66, R94) -/

def AccOp.isWrite : AccOp → Bool | .load _ _ => false | .store _ => true | .atom _ _ _ _ => true
/-- An access takes a value (R49). -/
def AccOp.reads : AccOp → Bool | .load _ _ => true | .store _ => false | .atom _ _ _ _ => true
def AccKind.global : AccKind → Bool
  | .coherent => true | .appendSeal => true | .deviceIo => true | .remote => true | .home => true | .team => false | .comb => false
/-- An access may perform at its die's L2 (R54). -/
def State.admits (s : State) (a : Access) : Bool :=
  if a.op.isWrite then s.canWrite a.die (a.pa / 128) else s.canRead a.die (a.pa / 128)
def overlap (a na b nb : Nat) : Bool := decide (a < b + nb) && decide (b < a + na)
/-- Two accesses name one space. -/
def sameSpace (b a : Access) : Bool := b.kind == a.kind || (b.kind.global && a.kind.global)
/-- `b` is an older unperformed access that holds back `a`: same bytes in the group (R98), device I/O of one lane (R106), or a write of the
core to the line of a load (R31). -/
def blocks (b a : Access) : Bool :=
  (b.grp == a.grp && sameSpace b a && overlap b.pa b.w a.pa a.w) ||
  (b.grp == a.grp && b.kind == .deviceIo && a.kind == .deviceIo && b.lane == a.lane) ||
  (b.die == a.die && b.core == a.core && b.kind.cached && a.kind.cached && b.op.isWrite && !a.op.isWrite && b.pa / 128 == a.pa / 128)
/-- The accesses before `a` in the order of issue that hold it back. -/
def State.blockedAt (s : State) (i : Nat) (a : Access) : Bool := (s.pend.take i).any (fun b => blocks b a)
/-- Unperformed accesses with their places in the order of issue. -/
def State.pendAt (s : State) : List (Nat × Access) := (List.range s.pend.length).zip s.pend
/-- An access that no older one holds back. -/
def State.unblocked (s : State) (id : Nat) : Bool := s.pendAt.any (fun e => e.2.id == id && !s.blockedAt e.1 e.2)
/-- The value returned by an access and the state after its effect at the L2 on a coherent line, whose tag takes the access's key id (R53). -/
def State.effect (s : State) (a : Access) : State × Nat :=
  let x := s.l2line a.die (a.pa / 128)
  let old := lineNum x.data (a.pa % 128) a.w
  match a.op with
  | .load _ _ => (s.setL2 a.die (a.pa / 128) { x with kid := a.kid }, old)
  | .store d => (s.l2put a.die a.kid a.pa (toBytes a.w d.toNat), 0)
  | .atom op _ p q => (s.l2put a.die a.kid a.pa (toBytes a.w (atomNew op (8 * a.w) old p.toNat q.toNat)), old)
/-- What a performed access leaves for its lane, with LDNR's flag (R118). -/
def Access.laneVal (a : Access) (v : Nat) (flag : Bool) : LaneVal :=
  match a.op with
  | .load sx d => { lane := a.lane.toNat, d := d.toNat, off := a.off, w := a.w, sx := sx, val := v, flag := a.dep.map (fun p => (p.toNat, flag)) }
  | .store _ => { lane := a.lane.toNat, d := 0, off := a.off, w := 0, sx := false, val := 0, flag := none }
  | .atom _ d _ _ => { lane := a.lane.toNat, d := d.toNat, off := 0, w := a.w, sx := false, val := v, flag := none }
/-- The result of an outstanding access is placed with its entry (R316). -/
def Outst.result (a : Access) (v : Nat) (o : Outst) : Outst :=
  if o.flight = a.flight ∧ o.lane = a.lane.toNat ∧ a.off = 0 then { o with res := some v }
  else if o.flight = a.flight ∧ o.lane = a.lane.toNat then { o with res := some (o.res.getD 0 + v * 2 ^ (8 * a.off)) }
  else o
/-- An access has performed: what it leaves waits until the whole instruction has performed. -/
def State.gave (s : State) (a : Access) (v : Nat) (flag : Bool) : State :=
  let g := (s.group a.grp).mapFlight a.flight (fun f => { f with vals := f.vals ++ [a.laneVal v flag] })
  s.setGroup a.grp { g with outs := g.outs.map (Outst.result a v) }
/-- Accesses or home operations of an instruction are under way, or its results stand with outstanding entries until the group goes on (R316). -/
def State.flightBusy (s : State) (k id : Nat) : Bool :=
  s.pend.any (fun b => b.grp == k && b.flight == id) || s.hops.any (fun h => h.grp == k && h.flight == id) ||
  (s.group k).outs.any (fun o => o.flight == id)
/-- An instruction in flight with no access left writes its registers and is complete; an ordered access lets its group go on. -/
def State.finishFlight (s : State) (k id : Nat) : State :=
  if s.flightBusy k id then s
  else
    let g0 := s.group k
    let vs := ((g0.flightOf id).map (fun f => f.vals)).getD []
    let g := (vs.foldl LaneVal.put g0).flightDone id
    s.setGroup k (if g.wait = .access id then { g with wait := .none } else g)
/-- Perform an access of a coherent line that R54 admits. -/
def State.perform (s : State) (a : Access) : State :=
  let e := s.effect a
  e.1.gave a e.2 false

/-! ## Late traps (R49, R104, R272) -/

/-- Poisoned data consumed (R49, R271). -/
def poisonAt (pa : Nat) : Trap := { Trap.of 0x3F with code := 1, ap := true, addr := BitVec.ofNat 64 pa }
/-- An instruction younger than one that traps, of lanes that issued both, is discarded: none of its accesses has performed (R104). -/
def State.discardable (s : State) (k : Nat) (m : DWord) (f : Flight) : Bool :=
  !f.done && f.vals.isEmpty && (f.lanes &&& ~~~ m) == 0 && s.pend.any (fun b => b.grp == k && b.flight == f.id) &&
  !(s.hops.any (fun h => h.grp == k && h.flight == f.id)) && !(s.pend.any (fun b => b.grp == k && b.flight == f.id && b.kind == .home))
/-- What performed stores and atomics of an instruction that traps leave for when it issues again. -/
def Flight.keep (f : Flight) (writes : Bool) : List Kept := if writes then f.vals.map (fun v => { pc := f.pc, val := v }) else []
/-- A trap of an access of an instruction in flight, every older access having performed: the instruction's other accesses and the younger
discarded ones do not perform, their counts are lowered, and the lanes that issued it trap at it as they issued it (R104, R272). -/
def State.lateTrapOf (s : State) (k fid : Nat) (writes : Bool) (t : Trap) : State :=
  let g := s.group k
  match g.flightOf fid with
  | none => s
  | some f =>
    let ids := f.id :: ((g.younger f.id).filter (s.discardable k f.lanes)).map (fun x => x.id)
    let h := ids.foldl (fun h i => h.discard i) (g.rewind f)
    let u := { s with pend := s.pend.filter (fun b => !(b.grp == k && ids.contains b.flight)) }
    (u.setGroup k { h with wait := .none, kept := h.kept ++ f.keep writes }).takeTrap k f.lanes f.pc f.len t
def State.lateTrap (s : State) (a : Access) (t : Trap) : State := s.lateTrapOf a.grp a.flight a.op.isWrite t
/-- The line that an access would consume at the L2 is poisoned. -/
def State.consumesPoison (s : State) (a : Access) : Bool := a.op.reads && (s.l2line a.die (a.pa / 128)).pz
/-- An access may perform at its L2 now; one that consumes poison traps, after every older access of its group (R104). -/
def State.mayPerform (s : State) (i : Nat) (a : Access) : Bool :=
  a.kind == .coherent && s.admits a && !s.blockedAt i a && (!s.consumesPoison a || (s.group a.grp).olderDone a.flight)
/-- Perform the waiting accesses of a die to a line that R54 now admits, oldest first (R58). `fuel` bounds the walk. -/
def State.drain (s : State) (die la : Nat) : Nat → State
  | 0 => s
  | n + 1 =>
    match s.pendAt.find? (fun e => e.2.die == die && e.2.pa / 128 == la && s.mayPerform e.1 e.2) with
    | none => s
    | some (i, a) =>
      if s.consumesPoison a then (s.lateTrap a (poisonAt a.pa)).drain die la n
      else ((({ s with pend := dropAt s.pend i } : State).perform a).finishFlight a.grp a.flight).drain die la n

/-! ## Issuing a memory instruction -/

/-- The next number of an instruction in flight. -/
def Group.nextId (g : Group) : Nat := g.flights.foldl (fun m f => if m ≤ f.id then f.id + 1 else m) 1
/-- Numbers of accesses that no message names. -/
def State.nextAcc (s : State) : Nat := s.pend.foldl (fun m a => if m ≤ a.id then a.id + 1 else m) 65536
/-- The requester of a home operation, its die and its 12-bit RID (R57), as one number. -/
def ridKey (die rid : Nat) : Nat := die * 4096 + rid
/-- Requesters that an access, a home operation or a message under way bears. -/
def State.usedRids (s : State) : List Nat :=
  s.pend.map (fun a => a.id) ++ s.hops.map (fun h => h.id) ++
  s.msgs.flatMap (fun m => if m.ty = 10 ∨ m.ty = 12 then [ridKey m.src.toNat m.rid] else if m.ty = 11 ∨ m.ty = 13 then [ridKey m.dst.toNat m.rid] else []) ++
  s.seals.map (fun e => ridKey e.2.src.toNat e.2.rid) ++ s.homeq.map (fun m => ridKey m.src.toNat m.rid) ++
  s.appends.map (fun a => ridKey a.src a.rid)
/-- Home operations that a save has parked bear numbers from here on, which no message names (R234, R316). -/
def parkBase : Nat := 2 ^ 20
/-- `n` free requesters of a die; RID 4095 names no waiting access (PREF). -/
def State.freeRids (s : State) (die n : Nat) : List Nat := pickIds s.usedRids 4095 n (ridKey die 0)
def State.ridRoom (s : State) (die n : Nat) : Bool := (s.freeRids die n).length == n
def State.nextHop (s : State) (die : Nat) : Nat := (s.freeRids die 1).headD 0
/-- Where a translated access goes; `home`: an ATOM.H. -/
def kindOf (cl : Nat) (home : Bool) : AccKind :=
  if cl = 0 then (if home then .home else .coherent) else if cl = 1 then .appendSeal else if cl = 2 then .deviceIo else .remote
/-- The message that asks for an append-seal line: SRD where a replica is mapped, ARD otherwise (R87). -/
def State.asRead (s : State) (die pa : Nat) (kid : BitVec 6) (rid : Nat) : Msg :=
  match s.replicaOf die pa with
  | some _ => { mkMsg 12 die (4 + die) (pa / 128) with rid := rid, kid := kid }
  | none => { mkMsg 10 die (homeOf pa) (pa / 128) with rid := rid, kid := kid, op := 0x24 }
/-- The HOP of one lane's ATOM.H (R230). -/
def Access.hopMsg (a : Access) : Msg :=
  let body := match a.op with
    | .atom op _ x y => (AtomOp.code op + (if a.w = 8 then 0x10 else 0), x.toNat + y.toNat * 2 ^ 64)
    | .load _ _ => (0, 0)
    | .store _ => (0, 0)
  { mkMsg 10 a.die (homeOf a.pa) (a.pa / 128) with
    rid := a.id % 4096, kid := a.kid, op := BitVec.ofNat 6 body.1, d := true, data := BitVec.ofNat 1024 (body.2 + a.pa % 128 * 2 ^ 128) }
/-- Issue one access: perform it now where it may, or leave it waiting and ask for what it needs. -/
def State.issueOne (s : State) (a : Access) : State :=
  let la := a.pa / 128
  let free := !(s.pend.any (fun b => blocks b a))
  let t := { s with pend := s.pend ++ [a] }
  match a.kind with
  | .coherent => if free && s.admits a && !s.consumesPoison a then s.perform a else if s.admits a then t else t.request a.die la a.op.isWrite a.kid
  | .appendSeal =>
    let x := s.l2line a.die la
    if free && x.isSealed then s.gave a (lineNum x.data (a.pa % 128) a.w) false else t.send (s.asRead a.die a.pa a.kid (a.id % 4096))
  | .home => t.send a.hopMsg
  | .deviceIo => t
  | .remote =>
    let x := s.l2line a.die la
    if free && x.isSealed && !a.op.isWrite then s.gave a (lineNum x.data (a.pa % 128) a.w) false else t
  | .team => t
  | .comb => t

/-- Registers a load or atomic writes. -/
def dstRegs (d k : Nat) : List Reg := (regRun d k).map (fun n => Reg.v n)

/-- Lanes whose accesses go in an order left open (R98): any order of a list. -/
def shuffle {α : Type} (c : Nat → Nat) : Nat → List α → List α
  | 0, _ => []
  | n + 1, l =>
    match l[c n % l.length]? with
    | some x => x :: shuffle c n (dropAt l (c n % l.length))
    | none => []

/-- An append of the group not yet published may cover an access (R79). -/
def State.ownAppend (s : State) (k : Nat) (x : Xlate) (w : Nat) : Bool :=
  let base := x.pa / x.page.size * x.page.size
  s.hops.any (fun h => h.grp == k && h.op == 0x20 && h.pa == base &&
    (match h.start with | none => true | some st => overlap (base + st) h.len x.pa w))
/-- Some row of `len` bytes, of `rows` at a stride from `a`, shares a byte with `w` bytes from `lo`. -/
def rowsTouch (a len stride rows lo w : Nat) : Bool :=
  if len = 0 ∨ w = 0 ∨ rows = 0 then false
  else if stride = 0 then overlap a len lo w
  else
    let r := (lo + 1 - (a + len) + stride - 1) / stride
    decide (r < rows) && overlap (a + r * stride) len lo w
/-- Bytes that a copy has still to read (`src`) or write, from its restart point on, touch `w` bytes from an address of the operand's space. -/
def Copy.leftTouch (c : Copy) (src : Bool) (lo w : Nat) : Bool :=
  let a := if src then c.src.toNat else c.dst.toNat
  let st := if src then c.sstr else c.dstr
  let done := c.off + (if src then c.buf.length else 0)
  match c.kind with
  | .bchk => rowsTouch (a + c.row * 4096 + done) (c.len - c.row * 4096 - done) 0 1 lo w
  | .bchkin => src && rowsTouch ((c.ws + c.row) * 4096 + done) ((c.cnt - c.row) * 4096 - done) 0 1 lo w
  | _ =>
    rowsTouch ((a + c.row * st + done) % 2 ^ 64) (c.len - done) 0 (if c.row < c.rows then 1 else 0) lo w ||
    rowsTouch ((a + (c.row + 1) * st) % 2 ^ 64) c.len st (c.rows - c.row - 1) lo w
/-- A copy has still to read (`src`) or write some of `w` bytes of global memory from physical address `pa`, through its pins. -/
def State.copyReach (s : State) (c : Copy) (pa w : Nat) (src : Bool) : Bool :=
  (if src then c.ss == .global else c.ds == .global && c.kind != .bapnd) &&
  s.pins.any (fun p => p.copy == c.id &&
    (let base := pteFn p.leaf * 4096
     let lo := if pa < base then base else pa
     let hi := if pa + w < base + p.size then pa + w else base + p.size
     decide (lo < hi) && ((c.kind == .bchkin && !src) || c.leftTouch src (p.va + (lo - base)) (hi - lo))))
/-- Bytes of global memory that a copy of the group in flight reads or writes: a later access to the same bytes waits (R98). -/
def State.copyBlocks (s : State) (c : Copy) (k pa w : Nat) : Bool := c.grp == k && (s.copyReach c pa w true || s.copyReach c pa w false)

/-- The accesses of a global memory instruction, given its translated pieces; `pre`: what lanes without an access leave; `home`: an ATOM.H. -/
structure GOp where
  kind : AKind
  acq : Bool
  rel : Bool
  isLoad : Bool
  dst : List Reg
  op : Piece → AccOp
  dep : Option (BitVec 4)
  mixed : Bool
  home : Bool
  pre : List LaneVal

/-- The single accesses of a piece: 16 bytes of device I/O or of a remote device are two accesses of 8 (R96). -/
def splitUnit (e : Piece × Xlate) : List (Piece × Xlate) :=
  if 2 ≤ e.2.cl ∧ e.1.w = 16 then
    [({ e.1 with w := 8 }, e.2), ({ e.1 with w := 8, va := e.1.va + 8, off := e.1.off + 8 }, { e.2 with pa := e.2.pa + 8 })]
  else [e]
/-- The performed store or atomic of a piece that a trap kept from performing again (R104). -/
def Group.keptOf (g : Group) (pc : VAddr) (p : Piece) : Option Kept :=
  g.kept.find? (fun x => x.pc == pc && x.val.lane == p.lane && x.val.off == p.off)
/-- An access bears a requester in its message. -/
def AccKind.rid (k : AccKind) : Bool := k == .appendSeal || k == .home
/-- One access of a piece. -/
def mkAccess (s : State) (fl : Nat) (o : GOp) (id : Nat) (e : Piece × Xlate) : Access :=
  let g := s.curGroup
  { id := id, grp := s.cur.grp, flight := fl, die := g.place.die, core := g.place.core, lane := BitVec.ofNat 6 e.1.lane,
    pa := e.2.pa, w := e.1.w, kid := e.2.kid, kind := kindOf e.2.cl o.home, op := o.op e.1, off := e.1.off, va := e.1.va.setWidth 57,
    order := o.acq, dep := o.dep }
/-- Accesses of a list of pieces, each with a number: a requester of the die, or one that no message names. -/
def numbered (s : State) (fl : Nat) (o : GOp) (rids : List Nat) (n : Nat) : List (Piece × Xlate) → List Access
  | [] => []
  | e :: l =>
    if (kindOf e.2.cl o.home).rid then mkAccess s fl o (rids.headD 0) e :: numbered s fl o (rids.drop 1) n l
    else mkAccess s fl o n e :: numbered s fl o rids (n + 1) l
/-- The pieces of an instruction that are to perform. -/
def State.units (s : State) (ps : List (Piece × Xlate)) : List (Piece × Xlate) :=
  (ps.flatMap splitUnit).filter (fun e => (s.curGroup.keptOf s.cur.pc e.1).isNone)

/-- Pins of an engine operation reach some of `w` bytes of global memory. -/
def State.pinReach (s : State) (id pa w : Nat) : Bool :=
  s.pins.any (fun p => p.copy == id && overlap (pteFn p.leaf * 4096) p.size pa w)
/-- A load of stones by the group still reads pages that an access writes (R98). -/
def State.millReach (s : State) (pa w : Nat) : Bool :=
  s.curTeam.mill.any (fun o => o.mask.getLsbD s.curGroup.q && s.pinReach o.pin pa w)
/-- What holds a global memory instruction at issue although every lane translates: a full counter (R93), an ordering form
(R99), an older access to the same bytes that goes to a home (R98), an own append to be published (R79), a copy over the same bytes (R98), or
no free requester (R57). -/
def State.mustHold (s : State) (o : GOp) (ps : List (Piece × Xlate)) : Bool :=
  let g := s.curGroup
  let rids := (s.units ps).filter (fun e => (kindOf e.2.cl o.home).rid)
  g.pathFull .g || (o.rel && !g.quiet) || !s.ridRoom g.place.die rids.length ||
  rids.any (fun e => s.pend.any (fun b => b.grp == s.cur.grp && b.kind.global && overlap b.pa b.w e.2.pa e.1.w)) ||
  ps.any (fun e => (e.2.cl == 1 && s.ownAppend s.cur.grp e.2 e.1.w) ||
    s.copies.any (fun c => s.copyBlocks c s.cur.grp e.2.pa e.1.w) || ((o.op e.1).isWrite && s.millReach e.2.pa e.1.w))

/-- Issue the accesses: the flight is counted, each access performs or waits; with `.acq` the group waits until all have performed, and with a
remote access it may (log 55). -/
def State.issueAccesses (s : State) (o : GOp) (ps : List (Piece × Xlate)) : State :=
  let g := s.curGroup
  let id := g.nextId
  let us := s.units ps
  let far := us.any (fun e => e.2.cl == 3)
  let held := (ps.flatMap splitUnit).filterMap (fun e => g.keptOf s.cur.pc e.1)
  let fl := { s.flight .g id o.isLoad o.dst with vals := o.pre ++ held.map (fun x => x.val) }
  let s1 := (s.usePlan o.kind ps).setCurGroup { g.raise fl with kept := g.kept.filter (fun x => !(held.contains x)) }
  let as_ := numbered s id o (s.freeRids g.place.die us.length) s.nextAcc us
  let as2 := if o.mixed then shuffle (fun i => Config.choice (s.free + 1 + i)) as_.length as_ else as_
  let s2 := as2.foldl (fun t a => t.issueOne a) s1
  let s3 := { s2 with free := s2.free + (if o.mixed then as_.length else 0) + 1 }
  let wait := s3.pend.any (fun b => b.grp == s.cur.grp && b.flight == id) && (o.acq || (far && Config.choice s.free % 2 == 1))
  let s4 := if wait then s3.setCurGroup { s3.curGroup with wait := .access id } else s3
  s4.finishFlight s.cur.grp id

/-- A piece would consume poisoned data: of a coherent line now, of a sealed line cached here, or of an append-seal line (R49). -/
def State.poisonedPiece (s : State) (o : GOp) (e : Piece × Xlate) : Bool :=
  let la := e.2.pa / 128
  let x := s.l2line s.curGroup.place.die la
  (o.op e.1).reads && (if e.2.cl = 0 then s.poisonNow la else if e.2.cl = 1 then (if x.isSealed then x.pz else getD false s.poison la) else e.2.cl == 3 && x.isSealed && x.pz)

/-- A global memory instruction: faults first (R109), then what must be waited for, then poison (R49), which traps after every older access
(R104), then the accesses. -/
def globalAct (s : State) (m : DWord) (o : GOp) (pl : Except LaneFault (List (Piece × Xlate))) : Act :=
  let g := s.curGroup
  match pl with
  | .error e => s.accFault e.x o.kind.at_ e.lane e.va
  | .ok ps =>
    if s.mustHold o ps then .hold
    else match ps.find? (fun e => e.2.cl == 3 && s.boot.ddn.isNone) with
      | some e => s.accFault { cause := 0x11, rsn := 9 } o.kind.at_ e.1.lane e.1.va
      | none =>
        match (s.units ps).find? (s.poisonedPiece o) with
        | some e => if g.quiet then .trap (poisonAt e.2.pa) else .hold
        | none => .done m (s.issueAccesses o ps).advance

/-! ## Team memory and the comb (R32, R94, R96) -/

/-- The words of a lane's scratchpad access: 16 bytes are two words of 8 (R96). -/
def padPieces (w l : Nat) (a : DWord) : List Piece :=
  if w = 16 then [{ lane := l, va := a, w := 8, off := 0 }, { lane := l, va := a + 8, w := 8, off := 8 }] else [{ lane := l, va := a, w := w, off := 0 }]
/-- Issue the accesses of a scratchpad instruction: each waits for its word to be served. -/
def State.issuePad (s : State) (p : Path) (kd : AccKind) (acq isLoad : Bool) (dst : List Reg) (op : Piece → AccOp) (ps : List Piece) : State :=
  let g := s.curGroup
  let id := g.nextId
  let mk := fun (i : Nat) (e : Piece) =>
    ({ id := s.nextAcc + i, grp := s.cur.grp, flight := id, die := g.place.die, core := g.place.core, lane := BitVec.ofNat 6 e.lane, pa := e.va.toNat,
       w := e.w, kid := 0, kind := kd, op := op e, off := e.off, va := e.va.setWidth 57, order := acq, dep := none } : Access)
  let h := g.raise (s.flight p id isLoad dst)
  let t := s.setCurGroup (if acq && !ps.isEmpty then { h with wait := .access id } else h)
  ({ t with pend := t.pend ++ ps.mapIdx mk }).finishFlight s.cur.grp id

end Sys2Proof.Machine
end

