-- ==== Sys2Proof/Machine/Memory.lean ====
section
/-!
DEFINITION. The memory instructions (R225 to R233): global, spill, team-memory and comb accesses, hints, atomics, fences,
counters, appends and seals.
-/

namespace Sys2Proof.Machine

/-- The low `w` bytes of a store's data in a lane. -/
def storeData (g : Group) (d : BitVec 11) (w : Width) (p : Piece) : BitVec 128 :=
  BitVec.ofNat 128 (field (g.vN w.regs d.toNat p.lane) (8 * p.off) (8 * p.w))
def isRel (m : Mem) : Bool := m.ord == .rel || m.ord == .acqRel

/-! ## LD and ST (R226) -/

def ldOp (m : Mem) (sx : Bool) : GOp :=
  { kind := .load, acq := m.ord == .acq || m.ord == .acqRel, rel := false, isLoad := true, dst := dstRegs m.d.toNat m.w.regs,
    op := fun _ => .load sx m.d, dep := none, mixed := false, home := false, pre := [] }
def stOp (s : State) (m : Mem) : GOp :=
  { kind := .store, acq := false, rel := m.ord == .rel || m.ord == .acqRel, isLoad := false, dst := [],
    op := fun p => .store (storeData s.curGroup m.d m.w p), dep := none, mixed := false, home := false, pre := [] }
def execLd (sx : Bool) (m : Mem) (s : State) : Host.Outcome State Fault Refusal :=
  let a := s.active m.g
  (globalAct s a (ldOp m sx) (s.plan .load m.ad m.off m.w.bytes (lanesOf a))).run s
def execSt (m : Mem) (s : State) : Host.Outcome State Fault Refusal :=
  let a := s.active m.g
  (globalAct s a (stOp s m) (s.plan .store m.ad m.off m.w.bytes (lanesOf a))).run s

/-! ## Team memory (R12, R32, R49) -/

/-- The check of a team-memory address. -/
def teamCheck (d : JobDesc) (w : Nat) (a : DWord) : Option XFault :=
  if a.toNat % w ≠ 0 then some { cause := 0x08, rsn := 0 }
  else if a.toNat / 2 ^ 20 ≠ 0 then some { cause := 0x11, rsn := 8 }
  else if bitAt a.toNat 19 && !d.pr then some { cause := 0x11, rsn := 8 }
  else if d.tmk * 1024 ≤ a.toNat % 2 ^ 19 then some { cause := 0x11, rsn := 8 }
  else none
/-- Write bytes of team memory: dirty lines are marked, and a whole 8-byte word loses its poison mark. -/
def Team.put (t : Team) (a : Nat) (bs : List Byte) (pz : Bool) : Team :=
  { t with mem := Memory.writeN t.mem a bs, dirtyM := setD false t.dirtyM (a / 128) true,
           poison := if pz then setD false t.poison (a / 8) true
             else (List.range (bs.length / 8)).foldl (fun m i => setD false m (a / 8 + i) false) t.poison }
/-- Some 8-byte word of the bytes is poisoned. -/
def wordsPoisoned (p : SMap Bool) (a w : Nat) : Bool :=
  (List.range (w / 8 + 1)).any (fun i => decide ((a / 8 + i) * 8 < a + w) && getD false p (a / 8 + i))

/-- The first lane that fails a check. -/
def laneFault (m : DWord) (ad : Nat → DWord) (chk : DWord → Option XFault) : Option LaneFault :=
  (lanesOf m).findSome? (fun l => (chk (ad l)).map (fun x => { x := x, lane := l, va := ad l }))
/-- An engine instruction in flight, complete at once. -/
def Group.raiseDone (g : Group) (s : State) (p : Path) (isLoad : Bool) : Group :=
  (g.raise (s.flight p g.nextId isLoad [])).flightDone g.nextId
/-- A copy of the group in flight names bytes of a scratchpad that it has still to read or write (R98). -/
def padMeets (c : Copy) (k : Nat) (sp : Space) (a w : Nat) : Bool :=
  c.grp == k && ((c.ss == sp && c.leftTouch true a w) || (c.ds == sp && c.leftTouch false a w))
def MillOp.isMma (o : MillOp) : Bool := o.kind == .mma
def MillOp.isQuant (o : MillOp) : Bool := o.kind == .qntz || o.kind == .dqnt
/-- A mill operation in which the group takes part: its reads of team memory come before a store of the group (R98). -/
def State.millBusy (s : State) : Bool := s.curTeam.mill.any (fun o => o.mask.getLsbD s.curGroup.q && (o.isMma || o.isQuant))
/-- A QNTZ or DQNT of the group still writes team memory: its writes come before a load of the group (R98). -/
def State.quantBusy (s : State) : Bool := s.curTeam.mill.any (fun o => o.mask.getLsbD s.curGroup.q && o.isQuant)
/-- What holds a scratchpad access at issue (R93, R98, R99). -/
def State.padHold (s : State) (p : Path) (sp : Space) (m : Mem) (ad : Nat → DWord) (store : Bool) : Bool :=
  let g := s.curGroup
  g.pathFull p || ((isRel m) && !g.quiet) || (sp == .team && (if store then s.millBusy else s.quantBusy)) ||
  (lanesOf (s.active m.g)).any (fun l => s.copies.any (fun c => padMeets c s.cur.grp sp (ad l).toNat m.w.bytes))
def memAddr (m : Mem) (s : State) (l : Nat) : DWord := laneAddr s.curGroup m.w.bytes m.off l m.ad
/-- Poison consumed in a scratchpad (R49). Its words have no device-physical address: FIADDR holds the space's own byte address (log 56). -/
def padPoison (a : DWord) : Trap := poisonAt a.toNat
def isAcq (m : Mem) : Bool := m.ord == .acq || m.ord == .acqRel
/-- The words that the active lanes name. -/
def State.padUnits (s : State) (act : DWord) (m : Mem) : List Piece :=
  (lanesOf act).flatMap (fun l => padPieces m.w.bytes l (memAddr m s l))
/-- A scratchpad instruction: the first lane's fault, then what holds it, then a load's poison (after every older access, R104), then the
accesses. -/
def padAct (s : State) (p : Path) (kd : AccKind) (m : Mem) (isLoad : Bool) (op : Piece → AccOp) (fault : Option LaneFault) (hold : Bool)
    (poisoned : Nat → Nat → Bool) : Act :=
  let act := s.active m.g
  match fault with
  | some e => s.accFault e.x (if isLoad then 0 else 1) e.lane e.va
  | none =>
    if hold then .hold
    else match (if isLoad then (s.padUnits act m).find? (fun u => poisoned u.va.toNat u.w) else none) with
      | some u => if s.curGroup.quiet then .trap (padPoison u.va) else .hold
      | none =>
        .done act (s.issuePad p kd (isAcq m) isLoad (if isLoad then dstRegs m.d.toNat m.w.regs else []) op (s.padUnits act m)).advance

def execLds (sx : Bool) (m : Mem) (s : State) : Host.Outcome State Fault Refusal :=
  let ad := memAddr m s
  (padAct s .t .team m true (fun _ => .load sx m.d) (laneFault (s.active m.g) ad (teamCheck s.curJob.jd m.w.bytes)) (s.padHold .t .team m ad false)
    (wordsPoisoned s.curTeam.poison)).run s
def execSts (m : Mem) (s : State) : Host.Outcome State Fault Refusal :=
  let ad := memAddr m s
  (padAct s .t .team m false (fun p => .store (storeData s.curGroup m.d m.w p)) (laneFault (s.active m.g) ad (teamCheck s.curJob.jd m.w.bytes))
    (s.padHold .t .team m ad true) (fun _ _ => false)).run s

/-! ## The comb (R14, R34) -/

def SegTag.idle : SegTag := { st := 0, td := false, md := false, hm := 0, gva := 0, ix := 0 }
def Job.tag_ (j : Job) (seg : Nat) : SegTag := getD SegTag.idle j.tags seg
def Job.setTag (j : Job) (seg : Nat) (t : SegTag) : Job :=
  { j with tags := setD SegTag.idle j.tags seg t, dirtyC := setD false j.dirtyC seg true }
def combCheck (d : JobDesc) (w : Nat) (a : DWord) : Option XFault :=
  if a.toNat % w ≠ 0 then some { cause := 0x08, rsn := 0 }
  else if a.toNat / 2 ^ 26 ≠ 0 then some { cause := 0x11, rsn := 8 }
  else if d.nw ≤ a.toNat / 4096 then some { cause := 0x11, rsn := 8 }
  else none
/-- Write bytes of the comb window: the segment is dirty; a whole 8-byte word loses its poison mark. -/
def Job.putComb (j : Job) (a : Nat) (bs : List Byte) (pz : Bool) : Job :=
  { j with comb := Memory.writeN j.comb a bs, dirtyC := setD false j.dirtyC (a / 4096) true,
           combPoison := if pz then setD false j.combPoison (a / 8) true
             else (List.range (bs.length / 8)).foldl (fun m i => setD false m (a / 8 + i) false) j.combPoison }
/-- The segment of an address is in T: the access waits. -/
def Job.inT (j : Job) (a : DWord) : Bool := (j.tag_ (a.toNat / 4096)).st == 3

def execLdk (sx : Bool) (m : Mem) (s : State) : Host.Outcome State Fault Refusal :=
  let ad := memAddr m s
  let j := s.curJob
  (padAct s .k .comb m true (fun _ => .load sx m.d) (laneFault (s.active m.g) ad (combCheck j.jd m.w.bytes))
    (s.padHold .k .comb m ad false || (lanesOf (s.active m.g)).any (fun l => j.inT (ad l))) (wordsPoisoned j.combPoison)).run s
/-- A segment in S refuses a store (R34, R114). -/
def Job.sharedSeg (j : Job) (a : DWord) : Option XFault :=
  if (j.tag_ (a.toNat / 4096)).st = 1 then some { cause := 0x11, rsn := 0xA } else none
/-- STK: with no segment in T, a lane whose segment is in S raises PROTECTION, reason 0xA. -/
def execStk (m : Mem) (s : State) : Host.Outcome State Fault Refusal :=
  let ad := memAddr m s
  let j := s.curJob
  let act := s.active m.g
  let hold := s.padHold .k .comb m ad true || (lanesOf act).any (fun l => j.inT (ad l))
  let fault := match laneFault act ad (combCheck j.jd m.w.bytes) with
    | some e => some e
    | none => if hold then none else laneFault act ad j.sharedSeg
  (padAct s .k .comb m false (fun p => .store (storeData s.curGroup m.d m.w p)) fault hold (fun _ _ => false)).run s

/-! ## Words of a scratchpad are served (R32, R94) -/

/-- Words of a scratchpad that an access reads or writes now, and its state after: a write is made, a read takes its value. -/
def State.padPerform (s : State) (a : Access) : State :=
  let tk := (s.group a.grp).tk
  let j := (s.group a.grp).job
  let old := if a.kind == .team then Memory.num (s.team tk).mem a.pa a.w else Memory.num (s.job j).comb a.pa a.w
  match a.op with
  | .load _ _ => s.gave a old false
  | .store d =>
    let bs := toBytes a.w d.toNat
    (if a.kind == .team then s.setTeam tk ((s.team tk).put a.pa bs false) else s.setJob j ((s.job j).putComb a.pa bs false)).gave a 0 false
  | .atom _ _ _ _ => s
/-- A load would take a poisoned word. -/
def State.padPoisoned (s : State) (a : Access) : Bool :=
  a.op.reads && (if a.kind == .team then wordsPoisoned (s.team (s.group a.grp).tk).poison a.pa a.w
    else wordsPoisoned (s.job (s.group a.grp).job).combPoison a.pa a.w)
/-- A scratchpad access may be served: no older one holds it back, its segment is not in T, and one that would take poison has no older
access left (R104). -/
def State.padReady (s : State) (a : Access) : Bool :=
  (a.kind == .team || a.kind == .comb) && s.unblocked a.id &&
  (a.kind == .team || !(s.job (s.group a.grp).job).inT (BitVec.ofNat 64 a.pa)) &&
  (!s.padPoisoned a || (s.group a.grp).olderDone a.flight)
/-- A bank or comb slice serves one word of an instruction: all of its lanes that name bytes of the word, in lane order (R32). -/
def State.padServe (s : State) (a : Access) : State :=
  (s.pend.filter (fun b => b.grp == a.grp && b.flight == a.flight && b.pa / 8 == a.pa / 8)).foldl (fun (t : State) b =>
    if !(t.pend.any (fun c => c.id == b.id)) || !t.padReady b then t
    else if t.padPoisoned b then t.lateTrap b (padPoison (BitVec.ofNat 64 b.pa))
    else ((({ t with pend := t.pend.filter (fun c => c.id != b.id) } : State).padPerform b).finishFlight b.grp b.flight)) s
/-- One access for each word of an instruction that can be served now. -/
def State.padWords (s : State) : List Access :=
  (s.pend.filter s.padReady).foldl (fun (l : List Access) a =>
    if l.any (fun b => b.grp == a.grp && b.flight == a.flight && b.pa / 8 == a.pa / 8) then l else l ++ [a]) []

/-! ## LDNR (R118, R227) -/

/-- Lanes whose page is not resident, and the pieces of the others, each page looked up once. -/
def State.planNrIn (s : State) (ad : Addr) (off : Off) (w : Nat) : Pages → List Nat → Except LaneFault (List Nat × List (Piece × Xlate))
  | _, [] => .ok ([], [])
  | pg, l :: ls =>
    let a := laneAddr s.curGroup w off l ad
    match s.xlateIn .ldnr pg w a with
    | (.error e, pg2) =>
      if e.cause = 0x10 ∧ e.rsn = 3 then (s.planNrIn ad off w pg2 ls).map (fun r => (l :: r.1, r.2))
      else .error { x := e, lane := l, va := a }
    | (.ok x, pg2) => (s.planNrIn ad off w pg2 ls).map (fun r => (r.1, ({ lane := l, va := a, w := w, off := 0 }, x) :: r.2))
def State.planNr (s : State) (ad : Addr) (off : Off) (w : Nat) (ls : List Nat) : Except LaneFault (List Nat × List (Piece × Xlate)) :=
  s.planNrIn ad off w [] ls
/-- Zero and flag for a lane whose page is not resident. -/
def notResident (d : BitVec 11) (w : Nat) (pf : BitVec 4) (l : Nat) : LaneVal :=
  { lane := l, d := d.toNat, off := 0, w := w, sx := false, val := 0, flag := some (pf.toNat, true) }
def execLdnr (pf : BitVec 4) (m : Mem) (s : State) : Host.Outcome State Fault Refusal :=
  let act := s.active m.g
  let o : GOp := { ldOp m false with kind := .ldnr, dep := some pf, dst := Reg.p pf.toNat :: dstRegs m.d.toNat m.w.regs }
  (match s.planNr m.ad m.off m.w.bytes (lanesOf act) with
   | .error e => s.accFault e.x 7 e.lane e.va
   | .ok r => globalAct s act { o with pre := r.1.map (notResident m.d m.w.bytes pf) } (.ok r.2)).run s

/-! ## PGREQ, PREF, MEMHINT (R119, R228) -/

/-- Addresses of the active lanes, offsets unscaled. -/
def hintAddrs (s : State) (gd : Guard) (ad : Addr) (off : Off) : List DWord :=
  (lanesOf (s.active gd)).map (fun l => laneAddr s.curGroup 1 off l ad)
/-- A page with RS = 0 is asked for; every other page is ignored. -/
def State.pgreq (s : State) (a : DWord) : State :=
  let g := s.curGroup
  if a.toNat / 2 ^ 57 ≠ 0 then s
  else match s.lookupPage g.job g.place.die a.toNat false with
    | .page p =>
      if pteRs p.leaf then s
      else match s.faultFor g.place.die (s.job g.job).rtag a.toNat with
        | some _ => s
        | none =>
          match s.faultRecord s.cur.grp a.toNat { cause := 0x10, rsn := 3 } 7 none none with
          | some r => r.1
          | none => s
    | _ => s
def execPgreq (gd : Guard) (ad : Addr) (off : Off) (s : State) : Host.Outcome State Fault Refusal :=
  (Act.done (s.active gd) ((hintAddrs s gd ad off).foldl (fun t a => t.pgreq a) s).advance).run s
/-- A line of a resident normal page, or of a sealed append-seal page, is asked for as a read would. -/
def State.prefetch (s : State) (a : DWord) : State :=
  let g := s.curGroup
  let die := g.place.die
  match s.xlate g.job die .pref 1 a with
  | .error _ => s
  | .ok x =>
    let t := s.useXlate g.job die a.toNat .pref x
    if x.cl = 0 then (if s.canRead die (x.pa / 128) then t else t.request die (x.pa / 128) false x.kid)
    else if x.cl = 1 then
      match s.recordAt x.pa with
      | some r => if r.2.sl && !(s.l2line die (x.pa / 128)).isSealed then t.send (s.asRead die x.pa x.kid 4095) else t
      | none => t
    else t
def execPref (gd : Guard) (ad : Addr) (off : Off) (s : State) : Host.Outcome State Fault Refusal :=
  (Act.done (s.active gd) ((hintAddrs s gd ad off).foldl (fun t a => t.prefetch a) s).advance).run s
/-- Into L2 only; L1 is no state of the model (log 7). -/
def execPrefL2 (gd : Guard) (ad : Addr) (off : Off) (s : State) : Host.Outcome State Fault Refusal :=
  (Act.done (s.active gd) ((hintAddrs s gd ad off).foldl (fun t a => t.prefetch a) s).advance).run s
def Hint.code : Hint → Nat | .none => 0 | .cold => 1 | .warm => 2 | .hot => 3 | .repl => 4
/-- Post a record to the die's hint queue of 1,024 entries, one for each distinct page of the instruction (`done`: the pages that it has
posted); a full queue drops it. `.repl` is for sealed pages. -/
def State.postHint (s : State) (h : Nat) (done : List Nat) (a : DWord) : State × List Nat :=
  let g := s.curGroup
  let die := g.place.die
  match s.xlate g.job die .load 1 a with
  | .error _ => (s, done)
  | .ok x =>
    let t := s.useXlate g.job die a.toNat .load x
    let pg := a.toNat / x.page.size * x.page.size
    let rcd := (die, (s.job g.job).rtag, a.toNat / 4096, h)
    let ok := h != 4 || (match s.recordAt x.pa with | some r => x.cl == 1 && r.2.sl | none => false)
    if !ok || done.contains pg || decide (1024 ≤ (s.hints.filter (fun e => e.1 == die)).length) then (t, done)
    else ({ t with hints := t.hints ++ [rcd] }, pg :: done)
def execMemhint (h : Hint) (gd : Guard) (ad : Addr) (off : Off) (s : State) : Host.Outcome State Fault Refusal :=
  (Act.done (s.active gd) (((hintAddrs s gd ad off).foldl (fun (t : State × List Nat) a => t.1.postHint (Hint.code h) t.2 a) (s, [])).1).advance).run s

/-! ## Atomics (R229, R230) -/

/-- Operand, and new value of `.cas`, of a lane. -/
def atomX (g : Group) (m : Mem) (l : Nat) : Nat := g.vN m.w.regs m.d.toNat l
def atomY (g : Group) (op : AtomOp) (m : Mem) (l : Nat) : Nat :=
  match op with | .cas => g.vN m.w.regs (m.d.toNat + m.w.regs) l | _ => 0
/-- `.fadd` checks the marker of its operand at issue. -/
def atomUninit (g : Group) (act : DWord) (op : AtomOp) (m : Mem) : Option Trap :=
  match op with | .fadd => uninit g act (regRun m.d.toNat m.w.regs) | _ => none
def atomOp (s : State) (op : AtomOp) (m : Mem) : GOp :=
  { kind := .atomic, acq := m.ord == .acq || m.ord == .acqRel, rel := m.ord == .rel || m.ord == .acqRel, isLoad := true,
    dst := dstRegs m.d.toNat m.w.regs,
    op := fun p => .atom op m.d (BitVec.ofNat 64 (atomX s.curGroup m p.lane)) (BitVec.ofNat 64 (atomY s.curGroup op m p.lane)),
    dep := none, mixed := true, home := false, pre := [] }
def execAtom (op : AtomOp) (m : Mem) (s : State) : Host.Outcome State Fault Refusal :=
  let act := s.active m.g
  (match atomUninit s.curGroup act op m with
   | some t => Act.trap t
   | none => globalAct s act (atomOp s op m) (s.plan .atomic m.ad m.off m.w.bytes (lanesOf act))).run s
def Hop.zero : Hop :=
  { id := 0, grp := 0, die := 0, flight := 0, home := 0, la := 0, op := 0, pa := 0, kid := 0, len := 0, data := [], st := 0, pf := 0,
    lanes := 0, start := none, copy := none, retry := false, va := 0 }
/-- ATOM.H: one HOP per lane on coherent pages; on remote pages as ATOM (R230). -/
def execAtomH (op : AtomOp) (m : Mem) (s : State) : Host.Outcome State Fault Refusal :=
  let act := s.active m.g
  (match atomUninit s.curGroup act op m with
   | some t => Act.trap t
   | none => globalAct s act { atomOp s op m with home := true } (s.plan .atomic m.ad m.off m.w.bytes (lanesOf act))).run s

/-! ## Fences and counters (R99, R231) -/

def execFence (s : State) : Host.Outcome State Fault Refusal :=
  (if s.curGroup.quiet then Act.done s.cur.lanes s.advance else .hold).run s
def execFenceA (s : State) : Host.Outcome State Fault Refusal :=
  (if s.curGroup.loadsDone then Act.done s.cur.lanes s.advance else .hold).run s
/-- FENCE.R: every earlier access performs before the group's later instructions issue (R99, R231). -/
def execFenceR (s : State) : Host.Outcome State Fault Refusal :=
  (if s.curGroup.quiet then Act.done s.cur.lanes s.advance else .hold).run s
/-- WAITC (R93): the threshold is unsigned, limited to 255. -/
def waitcOk (g : Group) (p : Path) (x : DWord) : Bool := decide ((g.cnt.get p).toNat ≤ min x.toNat 255)
def execWaitc (p : Path) (a : BitVec 7) (s : State) : Host.Outcome State Fault Refusal :=
  (if waitcOk s.curGroup p (s.curGroup.sget a.toNat) then Act.done s.cur.lanes s.advance else .hold).run s

/-! ## APND, SEAL, TAILRD (R71 to R83, R232, R233) -/

/-- Translation of an append-seal operation, whose page has a valid record (R71). -/
def State.xlateAs (s : State) (k : AKind) (va : DWord) : Except XFault Xlate :=
  match s.xlate s.curGroup.job s.curGroup.place.die k 1 va with
  | .error e => .error e
  | .ok x => match s.recordAt x.pa with
    | some _ => .ok x
    | none => .error { cause := 0x10, rsn := 2 }
/-- The bytes that the active lanes append, lane by lane. -/
def apndData (g : Group) (d nb : Nat) (ls : List Nat) : List Byte :=
  ls.flatMap (fun l => toBytes nb (g.vN (nb / 4) d l))
/-- Send a home operation of the group: its record, its message and its flight. -/
def State.sendHop (s : State) (k : AKind) (va : DWord) (x : Xlate) (h : Hop) (beats : Nat) (dst : List Reg) (isLoad : Bool) : State :=
  let g := s.curGroup
  let id := g.nextId
  let hid := s.nextHop g.place.die
  let h2 := { h with id := hid, grp := s.cur.grp, die := g.place.die, flight := id, home := homeOf x.pa, la := x.pa / 128,
                     pa := x.pa / x.page.size * x.page.size, kid := x.kid, va := va.setWidth 57 }
  let t := (s.useXlate g.job g.place.die va.toNat k x).setCurGroup (g.raise (s.flight .g id isLoad dst))
  { t with hops := t.hops ++ [h2] }.send { mkMsg 10 g.place.die h2.home h2.la with
    rid := hid % 4096, kid := x.kid, op := h.op, d := true, data := BitVec.ofNat 1024 beats }
def execApnd (x : ApndOp) (s : State) : Host.Outcome State Fault Refusal :=
  let g := s.curGroup
  let act := s.active x.g
  let ls := lanesOf act
  let u := x.w.bytes
  let nb := u * (x.cnt.toNat + 1)
  let va := g.sget x.base.toNat + offVal u x.off
  (if act = 0 then Act.done act s.advance
   else match s.xlateAs .apnd va with
     | .error e => s.accFault e 3 (lowLane act) va
     | .ok y =>
       if g.pathFull .g || !s.ridRoom g.place.die 1 then .hold
       else
         let l := ls.length * nb
         .done act (s.sendHop .apnd va y { Hop.zero with
           op := 0x20, len := l, data := apndData g x.d.toNat nb ls, st := x.st, pf := x.pf, lanes := act } l [Reg.s x.st.toNat, Reg.p x.pf.toNat] false).advance).run s
/-- SEAL is a release: it leaves the core when every earlier access has performed and every append is published. -/
def execSeal (x : PageOp) (s : State) : Host.Outcome State Fault Refusal :=
  let g := s.curGroup
  let va := g.sget x.base.toNat + offVal 1 x.off
  (match s.xlateAs .seal va with
   | .error e => s.accFault e 3 0 va
   | .ok y =>
     if g.pathFull .g || !g.quiet || !s.ridRoom g.place.die 1 then Act.hold
     else .done s.cur.lanes (s.sendHop .seal va y { Hop.zero with op := 0x22, st := x.d } 0 [Reg.s x.d.toNat] false).advance).run s
/-- TAILRD is an acquire: the group waits for its answer. -/
def execTailrd (x : PageOp) (s : State) : Host.Outcome State Fault Refusal :=
  let g := s.curGroup
  let va := g.sget x.base.toNat + offVal 1 x.off
  (match s.xlateAs .tailrd va with
   | .error e => s.accFault e 2 0 va
   | .ok y =>
     if g.pathFull .g || !s.ridRoom g.place.die 1 then Act.hold
     else
       let t := s.sendHop .tailrd va y { Hop.zero with op := 0x23, st := x.d } 0 [Reg.s x.d.toNat] true
       .done s.cur.lanes (t.setCurGroup { t.curGroup with wait := .access g.nextId }).advance).run s

end Sys2Proof.Machine
end

