-- ==== Sys2Proof/Machine/Shake.lean ====
section
/-!
DEFINITION. SHAKE256 with a 256-bit output: the digest of code objects, measurements and checkpoint records (R181, R324, R349,
R350).
-/

namespace Sys2Proof.Machine

/-- Lane (x, y) of the Keccak state of 25 lanes. -/
def kLane (a : List (BitVec 64)) (x y : Nat) : BitVec 64 := a.getD (x % 5 + 5 * (y % 5)) 0
def rotl64 (x : BitVec 64) (n : Nat) : BitVec 64 := (x <<< (n % 64)) ||| (x >>> ((64 - n % 64) % 64))
/-- Rotation offsets by x + 5 y. -/
def kRot : List Nat := [0, 1, 62, 28, 27, 36, 44, 6, 55, 20, 3, 10, 43, 25, 39, 41, 45, 15, 21, 8, 18, 2, 61, 56, 14]
/-- Round constants. -/
def kRc : List (BitVec 64) :=
  [0x0000000000000001, 0x0000000000008082, 0x800000000000808A, 0x8000000080008000, 0x000000000000808B, 0x0000000080000001,
   0x8000000080008081, 0x8000000000008009, 0x000000000000008A, 0x0000000000000088, 0x0000000080008009, 0x000000008000000A,
   0x000000008000808B, 0x800000000000008B, 0x8000000000008089, 0x8000000000008003, 0x8000000000008002, 0x8000000000000080,
   0x000000000000800A, 0x800000008000000A, 0x8000000080008081, 0x8000000000008080, 0x0000000080000001, 0x8000000080008008]
def kTheta (a : List (BitVec 64)) : List (BitVec 64) :=
  let c := (List.range 5).map (fun x => kLane a x 0 ^^^ kLane a x 1 ^^^ kLane a x 2 ^^^ kLane a x 3 ^^^ kLane a x 4)
  let d := (List.range 5).map (fun x => c.getD ((x + 4) % 5) 0 ^^^ rotl64 (c.getD ((x + 1) % 5) 0) 1)
  (List.range 25).map (fun i => a.getD i 0 ^^^ d.getD (i % 5) 0)
/-- Rotations and the permutation of lanes: lane (X, Y) comes from (x, y) with X = y and Y = 2 x + 3 y. -/
def kRhoPi (a : List (BitVec 64)) : List (BitVec 64) :=
  (List.range 25).map (fun i =>
    let X := i % 5
    let Y := i / 5
    let x := (X + 3 * Y) % 5
    rotl64 (kLane a x X) (kRot.getD (x + 5 * X) 0))
def kChi (b : List (BitVec 64)) : List (BitVec 64) :=
  (List.range 25).map (fun i => b.getD i 0 ^^^ (~~~ (kLane b (i % 5 + 1) (i / 5)) &&& kLane b (i % 5 + 2) (i / 5)))
def kRound (a : List (BitVec 64)) (rc : BitVec 64) : List (BitVec 64) :=
  match kChi (kRhoPi (kTheta a)) with
  | [] => []
  | x :: l => (x ^^^ rc) :: l
/-- Keccak-f[1600]. -/
def keccakF (a : List (BitVec 64)) : List (BitVec 64) := kRc.foldl kRound a
/-- XOR a block of bytes into the state. -/
def kAbsorb (a : List (BitVec 64)) (bs : List Byte) : List (BitVec 64) :=
  (List.range 25).map (fun i => a.getD i 0 ^^^ BitVec.ofNat 64 (ofBytes ((bs.drop (8 * i)).take 8)))
/-- The padded message: suffix 1111, then a final bit, to a multiple of 136 bytes. -/
def shakePad (m : List Byte) : List Byte :=
  let n := 136 - m.length % 136
  m ++ (if n = 1 then [0x9F] else 0x1F :: (List.replicate (n - 2) (0 : Byte) ++ [0x80]))
def shakeGo : Nat → List (BitVec 64) → List Byte → List (BitVec 64)
  | 0, a, _ => a
  | n + 1, a, m => shakeGo n (keccakF (kAbsorb a (m.take 136))) (m.drop 136)
/-- The first 32 bytes of SHAKE256. -/
def shake256Bytes (m : List Byte) : List Byte :=
  let p := shakePad m
  (shakeGo (p.length / 136) (List.replicate 25 0) p).take 4 |>.flatMap (fun w => toBytes 8 w.toNat)
/-- The digest as a number, first byte lowest. -/
def shake256 (m : List Byte) : BitVec 256 := BitVec.ofNat 256 (ofBytes (shake256Bytes m))

end Sys2Proof.Machine
end

