-- ==== Sys2Proof/Machine/Coherence.lean ====
section
/-!
DEFINITION. Token coherence as events: messages between token agents (R55 to R64), transient and persistent requests (R60 to
R63), evictions (R30, R58), write-backs of a close (R57), home atomics (R66), and messages of types never sent (R57, R343).
-/

namespace Sys2Proof.Machine

/-- The outcome of an event: the state it leads to, or not enabled. -/
def ev : Option State → Host.Outcome State Fault Refusal
  | some t => .next t
  | none => .fault .notEnabled

/-! ## Fatal errors (R343) -/

/-- A section of an image, a record or a dump: header and padded payload (R313). -/
def section_ (ty idx : Nat) (p : List Byte) : List Byte :=
  toBytes 16 (ty * 2 ^ 112 + idx * 2 ^ 64 + p.length) ++ p ++ zeros (ceilTo p.length 16 - p.length)
/-- The two words of a service record. -/
def FaultRec.w0 (f : FaultRec) : DWord := BitVec.ofNat 64 (2 ^ 63 + f.cause.toNat * 2 ^ 57 + f.va.toNat)
def FaultRec.w1 (f : FaultRec) : DWord :=
  BitVec.ofNat 64 (f.rsn.toNat * 2 ^ 60 + f.acc.toNat * 2 ^ 57 + f.die % 4 * 2 ^ 55 + f.core % 128 * 2 ^ 48 + f.sail % 4 * 2 ^ 46
    + f.gs % 16 * 2 ^ 42 + f.js % 4096 * 2 ^ 30 + f.pt % 16 * 2 ^ 26 + f.rtag % 4096 * 2 ^ 14 + f.wait % 16384)
/-- The header of an event ring (R341). -/
def EvRing.header (r : EvRing) : List Byte :=
  toBytes 8 (r.ebf.toNat * 4096 + r.esz) ++ toBytes 8 r.ewr.toNat ++ toBytes 8 r.erd.toNat ++ toBytes 8 r.ovf.toNat ++ zeros 32
/-- The sections of a dump: both slots of every QCB, the service records and the ring headers as their rules lay them out; what the other three
hold is open (log 26). -/
def State.dumpSections (s : State) : List (List Byte) :=
  let open_ := fun (ty : Nat) => section_ ty 0 (Config.dumpBytes ty s.boot.dumpSeq.toNat)
  [open_ 0x101, open_ 0x102, section_ 0x103 0 (s.queues.flatMap (fun q => toBytes 64 q.2.s0.toNat ++ toBytes 64 q.2.s1.toNat)), open_ 0x104,
   section_ 0x105 0 (s.faults.flatMap (fun f => toBytes 8 f.w0.toNat ++ toBytes 8 f.w1.toNat)), section_ 0x106 0 (s.events.flatMap (fun e => EvRing.header e.2))]
/-- The dump of a fatal error (R343). -/
def State.dumpOf (s : State) (kind die : Nat) : List Byte :=
  let l := s.dumpSections
  let b := l.flatten
  toBytes 4 0x4E464544 ++ toBytes 4 1 ++ toBytes 8 s.boot.dumpSeq.toNat ++ toBytes 8 (kind + die * 256) ++ toBytes 8 s.timer.toNat ++ toBytes 8 l.length
    ++ toBytes 8 (128 + b.length) ++ toBytes 32 (shake256 b).toNat ++ zeros 48 ++ b
/-- The first word of a job status block: JST, OVR, CKF (R320). -/
def Job.jst (j : Job) : Nat :=
  (match j.st with | .queued => 0 | .running => 1 | .stopping => 2 | .stopped => 3 | .ended => 4 | .failed => 5)
    + (if j.ovr then 16 else 0) + (if j.ckf then 32 else 0)
/-- Nolelavin writes bytes of the job status block where the job's root maps it. -/
def State.putJsb (s : State) (j off : Nat) (bs : List Byte) : State :=
  let va := (s.job j).jd.jsb.toNat
  match s.walk j va with
  | .page p => if pteRs p.leaf then s.poke (pteKid p.leaf) (pteFn p.leaf * 4096 + va % p.size + off) bs else s
  | _ => s
/-- The dump goes to the region of host memory that the host named at bring-up, where it has named one (R343, R345). -/
def State.writeDump (s : State) (l : List Byte) : State :=
  let a := (getD 0 s.boot.ctl (5 * 256)).toNat
  if regionOf a == .host && regionOf (a + l.length - 1) == .host then s.memPut 0 a l else s
/-- Every job stops with JST = 5, the dump is written, and the device takes only the reset and recovery paths. -/
def State.fatal (s : State) (kind die : Nat) : State :=
  let t := { s with jobs := s.jobs.map (fun e => if e.2.live then (e.1, { e.2 with st := .failed }) else e) }
  let u := ((s.jobs.filter (fun e => e.2.live)).map (fun e => e.1)).foldl (fun (t : State) j => t.putJsb j 0 (toBytes 8 (t.job j).jst)) t
  let d := s.dumpOf kind die
  { u.writeDump d with boot := { s.boot with fatal := true, dumpSeq := s.boot.dumpSeq + 1, dump := d } }

/-! ## Samples of misses (R44) -/

/-- A home samples one access in 4,096 misses that reach it, into a ring of 4,096 entries (frame number, access type) that Nolelavin reads; a
full ring loses its oldest. Which misses are sampled is open (log 61). -/
def State.sample (s : State) (home : Bool) (la ty : Nat) : State :=
  if !home then s
  else
    let h := homeOf (la * 128)
    let l := getD [] s.rings h
    { s with
      free := s.free + 1,
      rings := if Config.choice s.free % 4096 = 0 then mapInsert s.rings h ((if l.length < 4096 then l else l.drop 1) ++ [(la / 32, ty)]) else s.rings }

/-! ## HOPs at the home (R66) -/

/-- Atomic operation of an OP code (R230). -/
def opAtom (op : Nat) : Option (AtomOp × Nat) :=
  let w := if op / 16 = 0 then 4 else 8
  let f := op % 16
  if 1 < op / 16 then none
  else match [AtomOp.add, .min, .max, .and, .or, .xor, .xchg, .cas, .fadd, .minu, .maxu][f]? with
    | some o => some (o, w)
    | none => none
/-- The home performs an ATOM.H (R66, R229): memory is written under the HOP's key id and the old value is answered. A poisoned line is
answered as poisoned and not written (R49, R175). -/
def State.performHop (s : State) (m : Msg) : State :=
  match opAtom m.op.toNat with
  | none => s
  | some (o, w) =>
    let off := field m.data.toNat 128 7
    let x := field m.data.toNat 0 64
    let y := field m.data.toNat 64 64
    let old := lineNum (s.memLine m.kid m.la) off w
    let pz := getD false s.poison m.la || s.poolDark m.la
    let new := toBytes w (atomNew o (8 * w) old x y)
    let t := if pz then s else { s.homePut m.kid (m.la * 128 + off) new with
      stale := staleWords s.stale m.la off w (s.memLine m.kid m.la) (linePut (s.memLine m.kid m.la) off new) }
    t.send { mkMsg 11 m.dst.toNat m.src.toNat m.la with rid := m.rid, op := m.op, d := true, pz := pz, data := BitVec.ofNat 1024 old }
/-- The home holds what a HOP to a line needs (R66, R67). -/
def State.homeReady (s : State) (la : Nat) : Bool := (s.holding la).tc == 16 && s.mayOwn la
/-- HOPs to a line that waited for tokens or host permission perform in their order of arrival. -/
def State.runHops (s : State) (la : Nat) : State :=
  if s.homeReady la then
    let l := s.homeq.filter (fun m => m.la == la)
    l.foldl (fun t m => t.performHop m) { s with homeq := s.homeq.filter (fun m => m.la != la) }
  else s

/-! ## Persistent requests (R62 to R64) -/

/-- LD coding of a requester (R62). -/
def PEntry.code (e : PEntry) : Nat := if e.hm then 5 else if e.rq < 4 then e.rq else 4
def seqOlder (a b : BitVec 16) : Bool := decide ((b - a).toNat < 2 ^ 15)
/-- The entry to activate next for a line (R63). -/
def State.pickEntry (s : State) (home la : Nat) : Option PEntry :=
  let l := s.ptab.filter (fun e => e.home == home && e.la == la)
  if l.any (fun e => e.st != .waiting) then none
  else
    let oldest := fun (l : List PEntry) => l.foldl (fun (m : Option PEntry) e => match m with
      | none => some e
      | some x => if seqOlder e.seq x.seq then some e else some x) none
    match oldest (l.filter (fun e => PEntry.code e != e.ld)) with
    | some e => some e
    | none => oldest l
def State.setEntry (s : State) (home idx : Nat) (f : PEntry → PEntry) : State :=
  { s with ptab := s.ptab.map (fun e => if e.home == home && e.idx == idx then f e else e) }
/-- What an agent sends the requester of an activation: all its tokens for a write, all but a plain one for a read (R64). -/
def State.yieldTokens (s : State) (a la rq : Nat) (kd : Bool) (kid : BitVec 6) : State :=
  let h := s.holds_ a la
  if h.tc = 0 || a = rq then s
  else if kd then s.sendTok a rq la h.tc h.ow h.ow kid
  else if h.ow then s.sendTok a rq la (if h.tc = 1 then 1 else h.tc - 1) true true kid
  else if h.tc = 1 then s
  else s.sendTok a rq la (h.tc - 1) false false kid
/-- The home gives an activation's requester its own tokens, under the entry's key id (R59), as far as its away table has room (R53) and host
permission lets it give any out (R64, R67): with shared permission plain tokens with data for a read, with none nothing. -/
def State.homeYield (s : State) (home la : Nat) (kid : BitVec 6) : State :=
  match s.actFor home la with
  | none => s
  | some x =>
    if !s.awayRoom la then s
    else if s.mayOwn la then s.yieldTokens home la x.rq x.kd kid
    else if !x.kd && s.mayShare la && decide (2 ≤ (s.holding la).tc) then s.sendTok home x.rq la ((s.holding la).tc - 1) false true kid
    else s
/-- Activate the next waiting request of a line, if none is active. The home applies the activation to its own holding at once
(R63 step 2). An ACT names the entry's requester in RID (log 59). -/
def State.activateNext (s : State) (home la : Nat) : State :=
  match s.pickEntry home la with
  | none => s
  | some e =>
    let s1 := { s with ptab := s.ptab.map (fun (x : PEntry) => if x.home == home && x.la == la then { x with ld := PEntry.code e } else x) }
    let s2 := s1.setEntry home e.idx (fun x => { x with st := .activating, ak := [] })
    let s3 := s2.sendAll (((agentsOf la).filter (fun b => b != home)).map (fun b =>
      { mkMsg 5 home b la with pe := e.idx, pk := e.kd, rid := e.rq }))
    let s4 : State := { s3 with acts := s3.acts ++ [{ agent := home, home := home, idx := e.idx, la := la, kd := e.kd, rq := e.rq }] }
    s4.homeYield home la e.kid
/-- Every agent addressed has acknowledged. -/
def PEntry.allAcked (e : PEntry) : Bool := ((agentsOf e.la).filter (fun b => b != e.home)).all (fun b => e.ak.contains b)
/-- DEACT once the requester is done and the entry is active; the home's own part in the activation ends with it. -/
def State.maybeDeact (s : State) (home idx : Nat) : State :=
  match s.ptab.find? (fun e => e.home == home && e.idx == idx) with
  | some e =>
    if e.st == .active && e.done then
      let t : State := { s with acts := s.acts.filter (fun x => !(x.agent == home && x.home == home && x.idx == idx)) }
      (t.setEntry home idx (fun x => { x with st := .deactivating, ak := [] })).sendAll (((agentsOf e.la).filter (fun b => b != home)).map (fun b => { mkMsg 8 home b e.la with pe := idx }))
    else s
  | none => s
/-- A free index among `lo` .. `lo + n - 1`. -/
def State.freeEntry (s : State) (home lo n : Nat) : Option Nat :=
  (List.range n).map (fun i => lo + i) |>.find? (fun i => !(s.ptab.any (fun e => e.home == home && e.idx == i)))
/-- A request takes an entry (R63 step 1), and the next activation of its line may begin. -/
def State.addEntry (s : State) (home idx rq la : Nat) (kd hm : Bool) (rid : Nat) (kid : BitVec 6) : State :=
  let seq := getD 0 s.pseq home
  let ld := match s.ptab.find? (fun e => e.home == home && e.la == la) with | some e => e.ld | none => 7
  let e : PEntry := { home := home, idx := idx, st := .waiting, kd := kd, rq := rq, ld := ld, ak := [], seq := seq, hm := hm, la := la,
                      rid := rid, kid := kid, done := false }
  ({ s with ptab := s.ptab ++ [e], pseq := setD 0 s.pseq home (seq + 1) }).activateNext home la

/-! ## Tokens arrive (R55, R58, R59, R61, R64) -/

/-- The reads waiting for a line at a die that tokens for a read let perform: those that wait, directly or through another, behind a
write (R31, R98) need more. -/
def State.readsOpen (s : State) (die la : Nat) : List Access :=
  ((s.pend.filter (fun b => b.kind == .coherent && b.die == die && b.pa / 128 == la)).foldl
    (fun (l : List Access × List Access) b =>
      if b.op.isWrite || l.1.any (fun c => blocks c b) then (l.1 ++ [b], l.2) else (l.1, l.2 ++ [b])) ([], [])).2
/-- A copy of a die waits for a line. -/
def State.copyWants (s : State) (die la : Nat) (write : Bool) : Bool :=
  s.copies.any (fun c => c.die == die && !c.stopped && c.wants.any (fun w => w.1 == la && (write || !w.2)))
/-- An agent that is no L2 waits for a line: HOPs at the home, the host's accesses and snoops, a victim of the away table. -/
def State.agentWants (s : State) (a la : Nat) (write : Bool) : Bool :=
  s.wants.any (fun w => w.agent == a && w.la == la && (write || !w.write)) || (write && a == homeOf (la * 128) && s.homeq.any (fun m => m.la == la))
/-- The accesses for which an agent asked for a line have performed (R60, R63). -/
def State.satisfied (s : State) (r : Req) : Bool :=
  if r.agent < 4 then
    (if r.write then !(s.pend.any (fun b => b.kind == .coherent && b.die == r.agent && b.pa / 128 == r.la))
     else (s.readsOpen r.agent r.la).isEmpty) && !s.copyWants r.agent r.la r.write
  else !s.agentWants r.agent r.la r.write
/-- Requests that are complete end; an activated one is answered with DONE (R63 step 3). -/
def State.closeReqs (s : State) (a la : Nat) : State :=
  let fin := s.reqs.filter (fun r => r.agent == a && r.la == la && s.satisfied r)
  let s1 := { s with reqs := s.reqs.filter (fun r => !(r.agent == a && r.la == la && s.satisfied r && !r.esc)) }
  fin.foldl (fun t r =>
    if r.esc then
      match t.ptab.find? (fun e => e.la == la && e.rq == a && e.rid == r.rid && e.kd == r.write) with
      | some e =>
        if a = e.home then
          (if e.st != .waiting then
            ({ t.setEntry e.home e.idx (fun x => { x with done := true }) with reqs := t.reqs.filter (fun x => x != r) }).maybeDeact e.home e.idx
           else t)
        else if t.acts.any (fun x => x.agent == a && x.rq == a && x.home == e.home && x.idx == e.idx) then
          { t with reqs := t.reqs.filter (fun x => x != r) }.send { mkMsg 7 a e.home la with pe := e.idx }
        else t
      | none => t
    else t) s1
/-- Tokens and data added to a copy (R55). -/
def Line.plus (x : Line) (m : Msg) : Line :=
  let y := { x with tc := x.tc + m.tc, ow := x.ow || m.ow }
  if m.d then { y with dv := true, dt := if m.ow then m.dt else x.dt, pz := m.pz, kid := m.kid, data := m.data } else y
/-- Add tokens and data to an agent's holding (R55); the home writes dirty data to memory (R59). An L2 without a tag for the line allocates
one; with no way free the tokens go on to the home with any data (R58). -/
def State.addTok (s : State) (a : Nat) (m : Msg) : State :=
  let la := m.la
  if a < 4 then
    let x := s.l2line a la
    if x.tc != 0 || x.isSealed then s.setL2 a la (x.plus m)
    else match s.freeWay a la m.kid with
      | some w => s.setL2 a la { x.plus m with way := w }
      | none => s.send { m with src := BitVec.ofNat 4 a, dst := BitVec.ofNat 4 (homeOf (la * 128)) }
  else if a = homeOf (la * 128) then
    let h := s.holding la
    let t := s.setHolding la { tc := h.tc + m.tc, ow := h.ow || m.ow }
    if m.ow && m.dt then t.homeStore m.kid la m.data m.pz else t
  else s.setH0 la ((s.h0line la).plus m)
/-- After tokens arrived: waiting accesses perform, waiting HOPs perform, requests end. -/
def State.afterTok (s : State) (a la : Nat) : State :=
  let t := if a < 4 then s.drain a la s.pend.length else if a = homeOf (la * 128) then s.runHops la else s
  t.closeReqs a la
/-- A TOK under an activation for another requester goes on to it, but for one token that a read leaves an agent without any; an agent that
holds tokens keeps the data of a read's TOK (R55, R64). -/
def State.forwardTok (s : State) (a : Nat) (m : Msg) (x : Activation) : State :=
  let none_ := (s.holds_ a m.la).tc == 0
  let keep := !x.kd && none_ && (decide (2 ≤ m.tc) || (decide (1 ≤ m.tc) && !m.ow))
  let f := { m with src := BitVec.ofNat 4 a, dst := BitVec.ofNat 4 x.rq }
  if keep then
    let t := s.addTok a { m with tc := 1, ow := false, dt := false }
    (if m.tc = 1 then t else t.send { f with tc := m.tc - 1 }).afterTok a m.la
  else if !none_ && m.d && a < 4 then
    ((s.setL2 a m.la ((s.l2line a m.la).plus { m with tc := 0, ow := false })).send f).afterTok a m.la
  else s.send f
def State.recvTok (s : State) (a : Nat) (m : Msg) : State :=
  match s.actFor a m.la with
  | some x => s.forwardTok a m x
  | none => (s.addTok a m).afterTok a m.la

/-! ## Events -/

/-- Both a WB under way and a host copy under H0's tokens hold back what would move tokens (R57, R68). -/
def State.frozenAt (s : State) (a la : Nat) : Bool :=
  if a < 4 then (s.l2line a la).wb else if a = homeOf (la * 128) then false else (s.h0line la).wb
/-- A message that a frozen line holds back: H0 sends the host a BISnp first, once (R68). A GETS waits for it as a GETX does (log 60). -/
def State.thaw (s : State) (a la : Nat) : Option State :=
  if a = 8 ∧ !(s.hostOut.contains (.bisnp la)) then some (s.tellHost (.bisnp la)) else none
/-- What the home asks for before it can give out a line's tokens: permission of the host, once (R67). -/
def State.unready (s : State) (la : Nat) (own : Bool) : Option State :=
  let t := s.askHost la own
  if t = s then none else some t
def execGets (k : Nat) (s : State) : Host.Outcome State Fault Refusal :=
  ev (match s.msgOf k 1 with
    | none => none
    | some m =>
      let a := m.dst.toNat
      let t := s.takeMsg k
      let h := s.holds_ a m.la
      let home := a == homeOf (m.la * 128)
      if s.frozenAt a m.la then s.thaw a m.la
      else if (s.actFor a m.la).isSome || !h.ow then some (t.sample home m.la 0)
      else if home && !s.awayRoom m.la then none
      else if 2 ≤ h.tc then
        (if !home || s.mayShare m.la then some ((t.sample home m.la 0).sendTok a m.src.toNat m.la 1 false true m.kid) else s.unready m.la false)
      else if !home || s.mayOwn m.la then some ((t.sample home m.la 0).sendTok a m.src.toNat m.la 1 true true m.kid) else some (t.sample home m.la 0))
def execGetx (k : Nat) (s : State) : Host.Outcome State Fault Refusal :=
  ev (match s.msgOf k 2 with
    | none => none
    | some m =>
      let a := m.dst.toNat
      let t := s.takeMsg k
      let home := a == homeOf (m.la * 128)
      if s.frozenAt a m.la then s.thaw a m.la
      else if (s.actFor a m.la).isSome then some (t.sample home m.la 1)
      else if home && !s.awayRoom m.la then none
      else if home && !s.mayOwn m.la then s.unready m.la true
      else some ((t.sample home m.la 1).sendHeld a m.src.toNat m.la m.kid))
def execTok (k : Nat) (s : State) : Host.Outcome State Fault Refusal :=
  ev (match s.msgOf k 3 with
    | none => none
    | some m =>
      if m.dst.toNat = homeOf (m.la * 128) && m.ow && m.dt && s.stageWaits m.la then none
      else some ((s.takeMsg k).recvTok m.dst.toNat m))
/-- PREQ from a die takes an entry of 0 to 47, from H0 of 48 to 63 (R62). -/
def execPreq (k : Nat) (s : State) : Host.Outcome State Fault Refusal :=
  ev (match s.msgOf k 4 with
    | none => none
    | some m =>
      let home := m.dst.toNat
      match (if m.src.toNat < 4 then s.freeEntry home 0 48 else s.freeEntry home 48 16) with
      | none => none
      | some i => some (((s.takeMsg k).sample true m.la (if m.pk then 1 else 0)).addEntry home i m.src.toNat m.la m.pk false m.rid m.kid))
def execAct (k : Nat) (s : State) : Host.Outcome State Fault Refusal :=
  ev (match s.msgOf k 5 with
    | none => none
    | some m =>
      let a := m.dst.toNat
      if s.frozenAt a m.la then s.thaw a m.la
      else
        let x : Activation := { agent := a, home := m.src.toNat, idx := m.pe, la := m.la, kd := m.pk, rq := m.rid }
        let t := { s.takeMsg k with acts := s.acts ++ [x] }
        let u := t.yieldTokens a m.la m.rid m.pk 0
        some ((u.send { mkMsg 6 a m.src.toNat m.la with pe := m.pe }).closeReqs a m.la))
def execActack (k : Nat) (s : State) : Host.Outcome State Fault Refusal :=
  ev (match s.msgOf k 6 with
    | none => none
    | some m =>
      let home := m.dst.toNat
      let t := (s.takeMsg k).setEntry home m.pe (fun e => { e with ak := m.src.toNat :: e.ak })
      let u := t.setEntry home m.pe (fun e => if e.st == .activating && PEntry.allAcked e then { e with st := .active } else e)
      some ((u.closeReqs home m.la).maybeDeact home m.pe))
def execDone (k : Nat) (s : State) : Host.Outcome State Fault Refusal :=
  ev (match s.msgOf k 7 with
    | none => none
    | some m =>
      let home := m.dst.toNat
      some (((s.takeMsg k).setEntry home m.pe (fun e => { e with done := true })).maybeDeact home m.pe))
def execDeact (k : Nat) (s : State) : Host.Outcome State Fault Refusal :=
  ev (match s.msgOf k 8 with
    | none => none
    | some m =>
      let a := m.dst.toNat
      let t := { s.takeMsg k with
        acts := s.acts.filter (fun x => !(x.agent == a && x.home == m.src.toNat && x.idx == m.pe)),
        reqs := s.reqs.map (fun (r : Req) => if r.agent == a && r.la == m.la && !r.esc then { r with attempt := 0 } else r) }
      some (t.send { mkMsg 9 a m.src.toNat m.la with pe := m.pe }))
def execDeactack (k : Nat) (s : State) : Host.Outcome State Fault Refusal :=
  ev (match s.msgOf k 9 with
    | none => none
    | some m =>
      let home := m.dst.toNat
      let t := (s.takeMsg k).setEntry home m.pe (fun e => { e with ak := m.src.toNat :: e.ak })
      match t.ptab.find? (fun e => e.home == home && e.idx == m.pe) with
      | some e =>
        if e.st == .deactivating && PEntry.allAcked e then
          some (({ t with ptab := t.ptab.filter (fun x => !(x.home == home && x.idx == m.pe)) }).activateNext home m.la)
        else some t
      | none => some t)
/-- The home answers a WB: the data goes to memory under its key id, keeping poison (R59). -/
def execWb (k : Nat) (s : State) : Host.Outcome State Fault Refusal :=
  ev (match s.msgOf k 14 with
    | none => none
    | some m => some (((s.takeMsg k).homeStore m.kid m.la m.data m.pz).send (mkMsg 15 m.dst.toNat m.src.toNat m.la)))
/-- At WBACK the L2 clears DT and moves tokens again (R57). -/
def execWback (k : Nat) (s : State) : Host.Outcome State Fault Refusal :=
  ev (match s.msgOf k 15 with
    | none => none
    | some m =>
      let d := m.dst.toNat
      some ((s.takeMsg k).setL2 d m.la { s.l2line d m.la with dt := false, wb := false }))
/-- A message of a type, or a HOP with an OP code, that is never sent (R57, R230). -/
def execInvalidMessageType (k : Nat) (s : State) : Host.Outcome State Fault Refusal :=
  ev (match s.msgs[k]? with
    | none => none
    | some m =>
      let bad := m.ty = 0 || decide (16 ≤ m.ty.toNat) ||
        (m.ty = 10 && (opAtom m.op.toNat).isNone && !(decide (0x20 ≤ m.op.toNat) && decide (m.op.toNat ≤ 0x24)))
      if bad then some ((s.takeMsg k).fatal 3 (if m.dst.toNat < 8 then m.dst.toNat % 4 else 0xF)) else none)
/-- Reissue of request `r` (R60); with 12 requests outstanding it goes on transiently (R62). Times restart at DEACT (R64, execDeact). -/
def execTransientReissue (r : Nat) (s : State) : Host.Outcome State Fault Refusal :=
  ev (match s.reqs[r]? with
    | none => none
    | some q =>
      if q.esc || (s.actFor q.agent q.la).isSome || (decide (3 ≤ q.attempt) && !q.heldEsc) then none
      else
        let q2 := { q with attempt := if q.attempt < 3 then q.attempt + 1 else 3 }
        some ({ s with reqs := setAt s.reqs r q2 }.attempt q2))
/-- Requests of a die outstanding at a home (R62): its entries not yet freed, and PREQs on their way. -/
def State.escalated (s : State) (a home : Nat) : Nat :=
  (s.ptab.filter (fun e => e.home == home && e.rq == a && !e.hm)).length +
  (s.msgs.filter (fun m => m.ty == 4 && m.src.toNat == a && m.dst.toNat == home)).length
/-- A request becomes persistent: a PREQ, or an entry of the home itself (R60, R62). -/
def State.escalate (s : State) (r : Nat) (q : Req) : Option State :=
  let home := homeOf (q.la * 128)
  let t := { s with reqs := setAt s.reqs r { q with esc := true, heldEsc := false } }
  if q.agent = home then
    match s.freeEntry home 48 16 with
    | some i => some (t.addEntry home i home q.la q.write true q.rid q.kid)
    | none => none
  else some (t.send { mkMsg 4 q.agent home q.la with pk := q.write, rid := q.rid, kid := q.kid })
/-- A request escalates; with 12 outstanding it joins the die's queue of held escalations, which stand in their order at the end of the
requests (R62). -/
def execTransientEscalation (r : Nat) (s : State) : Host.Outcome State Fault Refusal :=
  ev (match s.reqs[r]? with
    | none => none
    | some q =>
      if q.esc || q.heldEsc || q.attempt != 3 || (s.actFor q.agent q.la).isSome then none
      else if q.agent < 4 && decide (12 ≤ s.escalated q.agent (homeOf (q.la * 128))) then
        some { s with reqs := dropAt s.reqs r ++ [{ q with heldEsc := true }] }
      else s.escalate r q)
def execHeldEscalationSend (die home : Nat) (s : State) : Host.Outcome State Fault Refusal :=
  ev (if 12 ≤ s.escalated die home then none
    else match (List.range s.reqs.length).zip s.reqs |>.find? (fun e => e.2.agent == die && e.2.heldEsc && homeOf (e.2.la * 128) == home) with
      | some (i, q) => s.escalate i q
      | none => none)
/-- An eviction (R58): the line's tokens go home, the owner token with data. A line with a waiting access, or under a WB, stays. -/
def execLineEviction (die la : Nat) (s : State) : Host.Outcome State Fault Refusal :=
  ev (let x := s.l2line die la
    if s.pend.any (fun b => b.die == die && b.pa / 128 == la) || x.wb then none
    else if x.isSealed then some (s.setL2 die la Line.none)
    else if die < 4 && x.tc != 0 then some (s.sendHeld die (homeOf (la * 128)) la x.kid)
    else none)
/-- An ATOM.H at its home: it performs, or waits while the home collects the tokens or host permission (R66, R67). -/
def execHopAtomic (k : Nat) (s : State) : Host.Outcome State Fault Refusal :=
  ev (match s.msgOf k 10 with
    | none => none
    | some m =>
      if (opAtom m.op.toNat).isNone then none
      else
        let home := m.dst.toNat
        let t := (s.takeMsg k).sample true m.la 2
        if s.homeReady m.la && !(s.homeq.any (fun q => q.la == m.la)) then some (t.performHop m)
        else
          let u := { t with homeq := t.homeq ++ [m] }
          some ((if (s.holding m.la).tc = 16 then u else u.request home m.la true m.kid).askHost m.la true))

/-! ## The home's and H0's own requests (R53, R63, R67, R68) -/

/-- A persistent request that an agent at a home makes of itself; one that stands is enough, and one that finds entries 48 to 63 full waits
(R62). -/
def State.homeRequest (s : State) (a la : Nat) (write : Bool) : State :=
  match s.reqOf a la write with
  | some q => if q.esc then s else
      (match (List.range s.reqs.length).zip s.reqs |>.find? (fun e => e.2 == q) with
       | some (i, q) => (s.escalate i q).getD s
       | none => s)
  | none =>
    let q : Req := { agent := a, la := la, write := write, attempt := 3, rid := s.newRid a, kid := 0, esc := false, heldEsc := false }
    ({ s with reqs := s.reqs ++ [q] }.escalate s.reqs.length q).getD s
/-- An operation waits for a line at an agent. -/
def State.want (s : State) (a la : Nat) (write : Bool) : State :=
  let w : Want := { agent := a, la := la, write := write }
  if s.wants.contains w then s else { s with wants := s.wants ++ [w] }
/-- An operation of an agent on a line has performed: its request, with no other left, ends. -/
def State.wantDone (s : State) (a la : Nat) (write : Bool) : State :=
  { s with wants := s.wants.filter (fun w => !(w.agent == a && w.la == la && w.write == write)) }.closeReqs a la

/-! ## What the state itself goes on with -/

/-- Accesses that nothing holds back perform, and the requests that this satisfies end. -/
def execPerformReady (die la : Nat) (s : State) : Host.Outcome State Fault Refusal :=
  ev (if s.pendAt.any (fun e => e.2.die == die && e.2.pa / 128 == la && s.mayPerform e.1 e.2) then some (s.afterTok die la) else none)
/-- An access that waits, for which nothing has been asked, asks for its line (R58). -/
def execAskLine (id : Nat) (s : State) : Host.Outcome State Fault Refusal :=
  ev (match s.pend.find? (fun a => a.id == id) with
    | some a => if a.kind == .coherent && !s.admits a && (s.reqOf a.die (a.pa / 128) a.op.isWrite).isNone then
        some (s.request a.die (a.pa / 128) a.op.isWrite a.kid) else none
    | none => none)
/-- HOPs that wait at a home which has what they need perform, and its request ends. -/
def execRunHops (la : Nat) (s : State) : Host.Outcome State Fault Refusal :=
  ev (if s.homeReady la && s.homeq.any (fun m => m.la == la) then some ((s.runHops la).closeReqs (homeOf (la * 128)) la) else none)
/-- A home under an activation gives on what it holds again, or asks the host for the permission that it lacks (R64, R67). -/
def execHomeYield (idx home : Nat) (s : State) : Host.Outcome State Fault Refusal :=
  ev (match s.ptab.find? (fun e => e.home == home && e.idx == idx && e.st != .waiting) with
    | some e =>
      let t := (s.homeYield home e.la e.kid).askHost e.la e.kd
      if t = s then none else some t
    | none => none)
/-- A line that H0 must record in a full set: a victim line of the set is recalled by a home-originated persistent write request (R53); which one
is free. -/
def execAwayVictim (la : Nat) (s : State) : Host.Outcome State Fault Refusal :=
  let set := s.away.filter (fun x => awaySet x == awaySet la)
  ev (if s.awayRoom la || set.any (fun x => s.wants.contains { agent := 8, la := x, write := true }) then none
    else (set[Config.choice s.free % set.length]?).map (fun v => ((s.want 8 v true).homeRequest 8 v true).spend))
/-- Host permission of a line is given up; HOPs that wait at the home ask for it again (R67). -/
def State.dropPerm (s : State) (la : Nat) : State :=
  let t : State := { s with perm := setD .none s.perm la .none, hostDirty := setD false s.hostDirty la false }
  if s.homeq.any (fun m => m.la == la) then t.askHost la true else t
/-- A victim line is at home whole: its entry is freed (R53), with the host's permission. -/
def execAwayFree (la : Nat) (s : State) : Host.Outcome State Fault Refusal :=
  ev (if s.wants.contains { agent := 8, la := la, write := true } && s.away.contains la && (s.holding la).tc == 16 &&
      !(s.agenda.contains (.hostSnpinv la)) then
      some ((s.dropPerm la).wantDone 8 la true)
    else none)
/-- A waiting operation whose request waits for an entry, or has none, asks again (R62). -/
def execWantAsk (w : Want) (s : State) : Host.Outcome State Fault Refusal :=
  ev (if !s.wants.contains w then none
    else
      let t := if w.agent = homeOf (w.la * 128) then s.homeRequest w.agent w.la w.write else s.request w.agent w.la w.write 0
      if t = s then none else some t)
/-- The host takes the answer to a snoop from H0. -/
def execHostTakes (m : HostMsg) (s : State) : Host.Outcome State Fault Refusal :=
  ev (match m with
    | .snpRsp _ _ => if s.hostOut.contains m then some { s with hostOut := s.hostOut.erase m } else none
    | .rdShared _ => none
    | .rdOwn _ => none
    | .bisnp _ => none)

end Sys2Proof.Machine
end

