-- ==== Sys2Proof/Machine/Copy.lean ====
section
/-!
DEFINITION. The copy engines: BCOPY, BCOPY2D, BAPND, BCHK, BCHKIN (R258 to R262), pins (R110), range tables (R35 to R37), and
the steps that lines, fills and write-backs take (R34, R259).
-/

namespace Sys2Proof.Machine

/-! ## Pages of an operation (R110) -/

/-- Pages named so far, and the first fault met with its address and access kind. -/
structure Cover where
  pins : List (Nat × Nat × DWord × AKind × Xlate)
  count : List Nat
  fault : Option (XFault × Nat × AKind)

def Cover.start : Cover := { pins := [], count := [], fault := none }
/-- The pages of [va, stop), ascending; where no leaf gives a page's size it counts as 4 KiB. More than 4,096 end the search. -/
def State.coverRange (s : State) (job die : Nat) (k : AKind) : Nat → Nat → Nat → Cover → Cover
  | 0, _, _, c => c
  | n + 1, va, stop, c =>
    if stop ≤ va ∨ 4096 < c.count.length then c
    else match s.xlate job die k 1 (BitVec.ofNat 64 va) with
      | .ok x =>
        let base := va / x.page.size * x.page.size
        let c2 := if c.count.contains base && c.pins.any (fun p => p.1 == base && p.2.2.2.1 == k) then c
          else { c with pins := c.pins ++ [(base, x.page.size, x.page.leaf, k, x)], count := if c.count.contains base then c.count else base :: c.count }
        s.coverRange job die k n (base + x.page.size) stop c2
      | .error e =>
        let pg := if va < 2 ^ 57 then s.faultPage job die va else (va / 4096 * 4096, 4096)
        let c2 := { c with count := if c.count.contains pg.1 then c.count else pg.1 :: c.count,
                           fault := match c.fault with | some f => some f | none => some (e, va, k) }
        s.coverRange job die k n (pg.1 + pg.2) stop c2
/-- The pages of rows of `len` bytes at a stride. -/
def State.coverRows (s : State) (job die : Nat) (k : AKind) (len stride : Nat) : Nat → Nat → Cover → Cover
  | 0, _, c => c
  | n + 1, a, c =>
    if 4096 < c.count.length then c
    else s.coverRows job die k len stride n ((a + stride) % 2 ^ 64) (s.coverRange job die k 4098 a (a + len) c)
/-- Pin the pages of a cover for an operation: TLBs filled, A and D set. -/
def State.pin (s : State) (job die id : Nat) (c : Cover) : State :=
  let t := c.pins.foldl (fun (t : State) p => t.useXlate job die p.1 p.2.2.2.1 p.2.2.2.2) s
  { t with pins := t.pins ++ c.pins.map (fun p => { die := die, rtag := (s.job job).rtag, va := p.1, size := p.2.1, leaf := p.2.2.1, copy := id }) }
/-- The pins of a die's table, of 8,192 entries. -/
def State.pinRoom (s : State) (die n : Nat) : Bool := decide ((s.pins.filter (fun p => p.die == die)).length + n ≤ 8192)
def State.unpin (s : State) (id : Nat) : State := { s with pins := s.pins.filter (fun p => p.copy != id) }
/-- The pinned translation of an address. -/
def State.pinned (s : State) (id va : Nat) : Option (Nat × BitVec 6 × Nat) :=
  (s.pins.find? (fun p => p.copy == id && decide (p.va ≤ va) && decide (va < p.va + p.size))).map
    (fun p => (pteFn p.leaf * 4096 + va % p.size, pteKid p.leaf, pteCl p.leaf))
/-! ## Operands -/

def Copy.zero : Copy :=
  { id := 0, kind := .bcopy, grp := 0, flight := 0, die := 0, bar := 0, ss := .global, ds := .global, src := 0, dst := 0, len := 0, rows := 1,
    sstr := 0, dstr := 0, row := 0, off := 0, ws := 0, cnt := 0, excl := false, runs := [], filling := false, stopped := false, pc := 0,
    tw := 0, hop := none, buf := [], bufPz := false, wants := [] }
def spaceOf (n : Nat) : Space := if n = 0 then .global else if n = 1 then .team else .comb
/-- A row of team memory lies within a half that the team has (R12). -/
def teamRowOk (d : JobDesc) (a len : Nat) : Bool := a / 2 ^ 20 == 0 && (!bitAt a 19 || d.pr) && decide (a % 2 ^ 19 + len ≤ d.tmk * 1024)
/-- Rows of team memory, from address `a` at a stride, all lie within the team's halves. At 16 bytes and more a stride leaves the 1 MiB of a
team within 65,537 rows, which bound the walk. -/
def teamRowsOk (d : JobDesc) (len stride : Nat) : Nat → Nat → Bool
  | 0, _ => true
  | n + 1, a => teamRowOk d a len && (stride == 0 || teamRowsOk d len stride n (a + stride))
/-- Bounds of the rows of a scratchpad operand (R12, R14, R260). -/
def padBounds (d : JobDesc) (sp : Space) (a len stride rows : Nat) : Option XFault :=
  if len = 0 then none
  else match sp with
  | .global => none
  | .team => if teamRowsOk d len stride (min rows 65537) a then none else some { cause := 0x11, rsn := 8 }
  | .comb => if d.nw * 4096 < a + (rows - 1) * stride + len then some { cause := 0x11, rsn := 8 } else none
/-- Segments of a comb range that its rows touch. -/
def rowSegs (a len stride rows : Nat) : List Nat :=
  if len = 0 then []
  else ((List.range ((a % 4096 + (rows - 1) * stride + len + 4095) / 4096)).map (fun i => a / 4096 + i)).filter
    (fun i => rowsTouch a len stride rows (i * 4096) 4096)

/-- Every earlier access of the group that a copy's reads follow (R102), and older copies it would overtake (R98). -/
def State.copyReady (s : State) : Bool := s.curGroup.quiet && !s.curGroup.pathFull .c
/-- A number that no copy, pin or mill operation bears. -/
def State.nextCopy (s : State) : Nat :=
  (s.copies.map (fun c => c.id) ++ s.pins.map (fun p => p.copy) ++ s.teams.flatMap (fun t => t.2.mill.map (fun o => o.pin))).foldl (fun m i => if m ≤ i then i + 1 else m) 1
def State.setCopy (s : State) (c : Copy) : State := { s with copies := s.copies.map (fun x => if x.id == c.id then c else x) }

/-! ## Issue of BCOPY, BCOPY2D, BAPND (R258 to R261) -/

/-- The trap of a copy at an address: MISALIGNED or an operand bound. -/
def copyFault (s : State) (x : XFault) (at_ : Nat) (a : Nat) : Act := s.accFault x at_ 0 (BitVec.ofNat 64 a)
/-- The first alignment fault of the operands. -/
def copyAlign (c : Copy) : Option (Nat × Nat) :=
  if c.kind == .bapnd then (if c.src.toNat % 16 ≠ 0 then some (5, c.src.toNat) else none)
  else if c.src.toNat % 16 ≠ 0 then some (5, c.src.toNat)
  else if c.dst.toNat % 16 ≠ 0 then some (6, c.dst.toNat)
  else if c.len % 16 ≠ 0 ∨ c.sstr % 16 ≠ 0 ∨ c.dstr % 16 ≠ 0 then some (5, c.src.toNat)
  else none
/-- The pages of a copy's operands. -/
def State.copyCover (s : State) (c : Copy) : Cover :=
  let g := s.curGroup
  let c1 := if c.ss = .global then s.coverRows g.job c.die .copySrc c.len c.sstr (if c.len = 0 then 0 else c.rows) c.src.toNat Cover.start
    else Cover.start
  if c.kind == .bapnd then s.coverRange g.job c.die .bapnd 2 c.dst.toNat (c.dst.toNat + 1) c1
  else if c.ds = .global then s.coverRows g.job c.die .copyDst c.len c.dstr (if c.len = 0 then 0 else c.rows) c.dst.toNat c1
  else c1
/-- A store to a comb segment in S is refused as STK's is (log 30). -/
def State.combBlocked (s : State) (c : Copy) : Option Nat :=
  if c.ds = .comb then (rowSegs c.dst.toNat c.len c.dstr c.rows).find? (fun i => (s.curJob.tag_ i).st == 1) else none
/-- A segment that a copy names is in T: it waits (R34). -/
def State.combBusy (s : State) (c : Copy) : Bool :=
  (c.ds == .comb && (rowSegs c.dst.toNat c.len c.dstr c.rows).any (fun i => (s.curJob.tag_ i).st == 3)) ||
  (c.ss == .comb && (rowSegs c.src.toNat c.len c.sstr c.rows).any (fun i => (s.curJob.tag_ i).st == 3))
/-- Ask for the line that a copy moves next. -/
def State.needLine (s : State) (c : Copy) (write : Bool) (va : Nat) : State :=
  match s.pinned c.id va with
  | some (pa, kid, cl) =>
    let la := pa / 128
    if cl ≠ 0 then s
    else if (if write then s.canWrite c.die la else s.canRead c.die la) then s
    else
      let t : State := { s with copies := s.copies.map (fun x => if x.id == c.id && !x.wants.contains (la, write) then { x with wants := x.wants ++ [(la, write)] } else x) }
      t.request c.die la write kid
  | none => s
/-- The accumulated checks of a copy: the instruction traps, holds, completes at once, or enters the engine with its bytes
claimed and counted in one step. A BAPND holds its group until its append is reserved: until then it is not begun (R261; log 63). -/
def copyAct (s : State) (c0 : Copy) (pd : Bool) (b : BitVec 7) : Act :=
  let g := s.curGroup
  let c := { c0 with id := s.nextCopy, grp := s.cur.grp, flight := g.nextId, die := g.place.die, pc := s.cur.pc, excl := pd }
  let total := c.rows * c.len
  let bar := s.curTeam.bar c.bar.toNat
  match copyAlign c with
  | some (at_, a) => copyFault s { cause := 0x08, rsn := 0 } at_ a
  | none =>
    if bar.ec = 0 then .trap (Trap.illegalOperand 0)
    else if total = 0 && c.kind != .bapnd then
      (if g.pathFull .c then .hold else regAct s s.cur.lanes (.ok (g.raiseDone s .c false)))
    else match padBounds s.curJob.jd c.ss c.src.toNat c.len c.sstr c.rows with
      | some e => copyFault s e 5 c.src.toNat
      | none =>
        match (if c.kind == .bapnd then none else padBounds s.curJob.jd c.ds c.dst.toNat c.len c.dstr c.rows) with
        | some e => copyFault s e 6 c.dst.toNat
        | none =>
          let cov := s.copyCover c
          if 4096 < cov.count.length then .trap (Trap.illegalOperand 0)
          else match cov.fault with
            | some (e, va, k) => copyFault s e k.at_ va
            | none =>
              match (if c.kind == .bapnd then (cov.pins.find? (fun p => p.2.2.2.1 == .bapnd)).map (fun p => p.2.2.2.2) else none) with
              | some x =>
                if (s.recordAt x.pa).isNone then copyFault s { cause := 0x10, rsn := 2 } 6 c.dst.toNat
                else if (pd && decide (bar.rv.toNat < total)) || !s.copyReady || !s.pinRoom c.die cov.pins.length || s.combBusy c || !s.ridRoom c.die 1 then .hold
                else
                  let t := (s.pin g.job c.die c.id cov).setCurTeam (s.curTeam.setBar c.bar.toNat
                    { bar with rv := if pd then bar.rv - BitVec.ofNat 64 total else bar.rv, pb := bar.pb + BitVec.ofNat 64 total })
                  let hid := t.nextHop c.die
                  let h : Hop := { Hop.zero with
                    id := hid, grp := s.cur.grp, die := c.die, flight := c.flight, home := homeOf x.pa, la := x.pa / 128, op := 0x20,
                    pa := x.pa / x.page.size * x.page.size, kid := x.kid, len := c.len, st := b, copy := some c.id, va := c.dst.setWidth 57 }
                  let u := t.setCurGroup { g.raise (s.flight .c c.flight false [Reg.s b.toNat]) with wait := .hop c.id }
                  let v := { u with hops := u.hops ++ [h], copies := u.copies ++ [{ c with hop := some hid }] }
                  .wait (v.send { mkMsg 10 c.die h.home h.la with
                    rid := hid % 4096, kid := x.kid, op := 0x20, d := true, data := BitVec.ofNat 1024 (c.len + 2 ^ 22) })
              | none =>
                match s.combBlocked c with
                | some i => copyFault s { cause := 0x11, rsn := 0xA } 6 (i * 4096)
                | none =>
                  if (pd && decide (bar.rv.toNat < total)) || !s.copyReady || !s.pinRoom c.die cov.pins.length || s.combBusy c then .hold
                  else
                    let t := (s.pin g.job c.die c.id cov).setCurTeam (s.curTeam.setBar c.bar.toNat
                      { bar with rv := if pd then bar.rv - BitVec.ofNat 64 total else bar.rv, pb := bar.pb + BitVec.ofNat 64 total })
                    let u := t.setCurGroup (g.raise (s.flight .c c.flight false []))
                    let v := { u with copies := u.copies ++ [c] }
                    .done s.cur.lanes ((v.needLine c false c.src.toNat).needLine c true c.dst.toNat).advance
/-- Fields of sa+3 (R258): reserved bits, PD, DS, SS. -/
def ctlOk (x : DWord) : Bool := x.toNat / 32 == 0 && field x.toNat 2 2 != 3 && field x.toNat 0 2 != 3
def descCopy (g : Group) (k : CopyKind) (d : BitVec 4) (a : BitVec 7) : Copy :=
  let x := (g.sget (a.toNat + 3)).toNat
  { Copy.zero with
    kind := k, bar := d, src := g.sget a.toNat, dst := g.sget (a.toNat + 1), len := (g.sget (a.toNat + 2)).toNat,
    ss := spaceOf (field x 0 2), ds := spaceOf (field x 2 2) }
def descPd (g : Group) (a : BitVec 7) : Bool := bitAt (g.sget (a.toNat + 3)).toNat 4
def execBcopy (d : BitVec 4) (a : BitVec 7) (s : State) : Host.Outcome State Fault Refusal :=
  let g := s.curGroup
  let c : Copy := descCopy g .bcopy d a
  (if !ctlOk (g.sget (a.toNat + 3)) || decide (2 ^ 40 ≤ c.len) then Act.trap (Trap.illegalOperand 0)
   else copyAct s c (descPd g a) 0).run s
/-- BCOPY2D (R260): a count field of 0 gives 2^32 rows. -/
def execBcopy2d (d : BitVec 4) (a b : BitVec 7) (s : State) : Host.Outcome State Fault Refusal :=
  let g := s.curGroup
  let n := (g.sget b.toNat).toNat
  let w := (g.sget (b.toNat + 1)).toNat
  let c : Copy := { descCopy g .bcopy2d d a with
    rows := if n = 0 then 2 ^ 32 else n, sstr := field w 0 32, dstr := field w 32 32 }
  (if !ctlOk (g.sget (a.toNat + 3)) || decide (2 ^ 40 ≤ c.len) || decide (2 ^ 32 ≤ n) || decide (2 ^ 64 ≤ c.rows * c.len) then
     Act.trap (Trap.illegalOperand 0)
   else copyAct s c (descPd g a) 0).run s
def execBapnd (d : BitVec 4) (a b : BitVec 7) (s : State) : Host.Outcome State Fault Refusal :=
  let g := s.curGroup
  let c : Copy := descCopy g .bapnd d a
  (if !ctlOk (g.sget (a.toNat + 3)) || c.ds != .global || decide (2 ^ 22 ≤ c.len) then Act.trap (Trap.illegalOperand 0)
   else copyAct s c (descPd g a) b).run s

/-! ## Bytes of an operand -/

/-- Bytes of an append-seal page now: at and above the commit tail of an unsealed page they read zero (R78). -/
def State.asBytes (s : State) (kid : BitVec 6) (pa n : Nat) : List Byte :=
  match s.recordAt pa with
  | some (_, r) =>
    (List.range n).map (fun i => if r.sl || decide (pa + i < r.bfn.toNat * 4096 + r.ct) then s.memByte kid (pa + i) else 0)
  | none => (List.range n).map (fun i => s.memByte kid (pa + i))
/-- A copy takes data of a coherent line: its tag takes the copy's key id (R53). -/
def State.readAs (s : State) (c : Copy) (a : Nat) : State :=
  match s.pinned c.id a with
  | some (pa, kid, cl) => if cl = 0 then s.setL2 c.die (pa / 128) { s.l2line c.die (pa / 128) with kid := kid } else s
  | none => s
/-- Bytes of a space at an address, and whether they are poisoned; `none` while tokens are missing. -/
def State.copyRead (s : State) (c : Copy) (sp : Space) (a n : Nat) : Option (List Byte × Bool) :=
  let g := s.group c.grp
  match sp with
  | .team => let t := s.team g.tk; some (Memory.readN t.mem a n, wordsPoisoned t.poison a n)
  | .comb => let j := s.job g.job; some (Memory.readN j.comb a n, wordsPoisoned j.combPoison a n)
  | .global =>
    match s.pinned c.id a with
    | none => none
    | some (pa, kid, cl) =>
      if cl = 1 then some (s.asBytes kid pa n, getD false s.poison (pa / 128))
      else if s.canRead c.die (pa / 128) then
        let x := s.l2line c.die (pa / 128)
        some (toBytes n (lineNum x.data (pa % 128) n), x.pz)
      else none
/-- Write bytes of a space, carrying the poison mark (R49); `none` while tokens are missing. -/
def State.copyWrite (s : State) (c : Copy) (sp : Space) (a : Nat) (bs : List Byte) (pz : Bool) : Option State :=
  let g := s.group c.grp
  match sp with
  | .team => some (s.setTeam g.tk ((s.team g.tk).put a bs pz))
  | .comb => some (s.setJob g.job ((s.job g.job).putComb a bs pz))
  | .global =>
    match s.pinned c.id a with
    | none => none
    | some (pa, kid, _) =>
      if s.canWrite c.die (pa / 128) then
        let t := s.l2put c.die kid pa bs
        let x := t.l2line c.die (pa / 128)
        some (t.setL2 c.die (pa / 128) { x with pz := x.pz || pz })
      else none
/-- Bytes up to the end of a 128 B line of global memory, or of an 8 B word. -/
def State.unitRoom (s : State) (c : Copy) (sp : Space) (a : Nat) : Nat :=
  match sp with
  | .global => match s.pinned c.id a with | some (pa, _, _) => 128 - pa % 128 | none => 128 - a % 128
  | _ => 8 - a % 8
/-- Bytes performed leave PB and are counted (R259, R292 counter 10), then the barrier is checked. -/
def State.countBytes (s : State) (c : Copy) (n : Nat) : State :=
  let g := s.group c.grp
  (s.setGroup c.grp (g.count 10 n)).updBar g.tk c.bar.toNat (fun x => { x with pb := x.pb - BitVec.ofNat 64 n })
/-- An operation is complete: its pins are released, its flight is done (R93, R110). -/
def State.copyDone (s : State) (c : Copy) : State :=
  let t := ({ s with copies := s.copies.filter (fun x => x.id != c.id) }).unpin c.id
  t.setGroup c.grp ((t.group c.grp).flightDone c.flight)

/-! ## Range tables (R35 to R37) -/

/-- Ranges of frames share a byte. -/
def RangeEnt.conflicts (e : RangeEnt) (md : Bool) (bfn len : Nat) : Bool := overlap e.bfn.toNat e.len bfn len && (md || e.md)
/-- Whether a home can grant a request: no conflict, and an index free among 4,096, of which it takes the lowest (log 62). -/
def State.grantIdx (s : State) (home : Nat) (md : Bool) (r : Run) : Except Bool Nat :=
  if s.ranges.any (fun e => e.home == home && e.conflicts md r.bfn.toNat r.len) then .error true
  else match (List.range 4096).find? (fun i => !(s.ranges.any (fun e => e.home == home && e.idx == i))) with
    | some i => .ok i
    | none => .error false
/-- The home grants a run of a check-out. -/
def State.grantRun (s : State) (c : Copy) (k idx : Nat) (r : Run) : State :=
  let j := s.job (s.group c.grp).job
  let e : RangeEnt := { home := r.home, idx := idx, md := c.excl, hd := c.die, bfn := r.bfn, len := r.len, pt := j.part,
                        js := (s.group c.grp).job, seg := j.combSegs.getD r.seg 0, hc := r.len }
  let t := { s with ranges := s.ranges ++ [e] }
  t.setCopy { c with runs := setAt c.runs k { r with granted := some idx, asked := true } }
/-- A group goes on past an instruction in flight at which it waited, which retires now. -/
def State.releaseFlight (s : State) (k id : Nat) : State :=
  match (s.group k).flights.find? (fun f => f.id == id) with
  | some f =>
    let g := s.group k
    let g1 := { g.mapLanes f.lanes (fun x => { x with pc := f.pc + BitVec.ofNat 57 f.len }) with wait := .none }
    s.setGroup k (g.retire (s.job g.job).da f.lanes g1)
  | none => s
/-- Segments of a check-out. -/
def Copy.segs (c : Copy) : List Nat := (List.range c.cnt).map (fun i => c.ws + i)
/-- The tag of segment `i` of a check-out whose registration is complete (R38). -/
def Copy.tagOf (c : Copy) (i : Nat) : SegTag :=
  let r := c.runs.find? (fun r => decide (r.seg ≤ i) && decide (i < r.seg + r.len))
  let hm : Nat := match r with | some r => (if r.home = 8 then 4 else r.home - 4) | none => 0
  { st := 3, td := false, md := c.excl, hm := BitVec.ofNat 3 hm, gva := BitVec.ofNat 45 (c.src.toNat / 4096 + (i - c.ws)),
    ix := BitVec.ofNat 12 ((r.bind (fun r => r.granted)).getD 0) }
/-- Every run of a check-out is granted. -/
def Copy.granted (c : Copy) : Bool := c.runs.all (fun r => r.granted.isSome) && !c.filling
/-- Registration is complete: the segments, all in I, enter T, the bytes are counted, and the group goes on (R262). -/
def State.registered (s : State) (c : Copy) : State :=
  let g := s.group c.grp
  if c.granted && c.segs.all (fun i => ((s.job g.job).tag_ i).st == 0) then
    let j := c.segs.foldl (fun (j : Job) i => j.setTag i (c.tagOf i)) (s.job g.job)
    let kids := c.segs.foldl (fun (m : SMap (BitVec 6)) i =>
      setD 0 m i (((s.pinned c.id (c.src.toNat + 4096 * (i - c.ws))).map (fun p => p.2.1)).getD 0)) j.segKid
    let t := (s.setJob g.job { j with segKid := kids }).updBar g.tk c.bar.toNat (fun x => { x with pb := x.pb + BitVec.ofNat 64 (4096 * c.cnt) })
    let u := t.setCopy { c with filling := true, row := 0, off := 0 }
    u.releaseFlight c.grp c.flight
  else s
def State.copyOf (s : State) (id : Nat) : Option Copy := s.copies.find? (fun c => c.id == id)
/-- The run that a waiting request asks for. -/
def State.waitRun (s : State) (w : Nat × Nat × Nat) : Option (Copy × Run) := (s.copyOf w.2.1).bind (fun c => (c.runs[w.2.2]?).map (fun r => (c, r)))
/-- A waiting request of a home conflicts with a run: it is not passed over (R36). -/
def State.passesOver (s : State) (ws : List (Nat × Nat × Nat)) (excl : Bool) (r : Run) : Bool :=
  ws.any (fun v => match s.waitRun v with
    | some (c2, r2) => v.1 == r.home && overlap r2.bfn.toNat r2.len r.bfn.toNat r.len && (excl || c2.excl)
    | none => false)
/-- The home re-examines its waiting list in arrival order; a request is not passed over by a later one that conflicts (R36). -/
def State.reexamine (s : State) (home : Nat) : Nat → State
  | 0 => s
  | n + 1 =>
    let ws := s.rangeWait.filter (fun w => w.1 == home)
    let free := fun (i : Nat) (w : Nat × Nat × Nat) =>
      match s.waitRun w with
      | none => none
      | some (c, r) =>
        if s.passesOver (ws.take i) c.excl r then none
        else match s.grantIdx home c.excl r with | .ok idx => some (w, c, r, idx) | .error _ => none
    match ((List.range ws.length).zip ws).findSome? (fun e => free e.1 e.2) with
    | none => s
    | some (w, c, r, idx) =>
      let t := { s with rangeWait := s.rangeWait.filter (fun x => x != w) }
      let u := t.grantRun c w.2.2 idx r
      (match u.copyOf c.id with | some c2 => u.registered c2 | none => u).reexamine home n
/-- A segment is released from its entry: HC falls, and at zero the entry is invalid and the waiting list is re-examined. -/
def State.releaseSeg (s : State) (home idx : Nat) : State :=
  let t := { s with
    ranges := (s.ranges.map (fun (e : RangeEnt) =>
      if e.home == home && e.idx == idx then { e with hc := e.hc - 1 } else e)).filter (fun e => e.hc != 0) }
  if t.ranges.length < s.ranges.length then t.reexamine home s.rangeWait.length else t
/-- A run is given back whole. -/
def State.releaseRun (s : State) (home idx : Nat) : State :=
  ({ s with ranges := s.ranges.filter (fun e => !(e.home == home && e.idx == idx)) }).reexamine home s.rangeWait.length

/-! ## BCHK and BCHKIN (R34, R35, R262) -/

/-- Frames of a check-out, ascending in virtual address. -/
def State.frames (s : State) (job die va n : Nat) (k : AKind) : List (Nat × Nat) :=
  (List.range n).map (fun i => match s.xlate job die k 1 (BitVec.ofNat 64 (va + 4096 * i)) with | .ok x => (x.pa / 4096, i) | .error _ => (0, i))
/-- Maximal runs contiguous in physical addresses with one home (R35). -/
def runsOf (ws : Nat) : List (Nat × Nat) → List Run
  | [] => []
  | (f, i) :: l =>
    match runsOf ws l with
    | r :: rs =>
      if r.bfn.toNat = f + 1 ∧ r.home = homeOf (f * 4096) ∧ r.len < 1024 ∧ r.seg = ws + i + 1 then
        { r with bfn := BitVec.ofNat 40 f, len := r.len + 1, seg := ws + i } :: rs
      else { home := homeOf (f * 4096), bfn := BitVec.ofNat 40 f, len := 1, seg := ws + i, granted := none, asked := false } :: r :: rs
    | [] => [{ home := homeOf (f * 4096), bfn := BitVec.ofNat 40 f, len := 1, seg := ws + i, granted := none, asked := false }]
/-- Insert by ascending physical address. -/
def insRun (r : Run) : List Run → List Run
  | [] => [r]
  | x :: l => if r.bfn.toNat ≤ x.bfn.toNat then r :: x :: l else x :: insRun r l
def segWs (x : DWord) : Nat := field x.toNat 0 14
def segCnt (x : DWord) : Nat := field x.toNat 14 8 + 1
def segMx (x : DWord) : Bool := bitAt x.toNat 22
def execBchk (d : BitVec 4) (a b : BitVec 7) (s : State) : Host.Outcome State Fault Refusal :=
  let g := s.curGroup
  let x := g.sget b.toNat
  let va := (g.sget a.toNat).toNat
  let n := segCnt x
  let k : AKind := if segMx x then .bchkEx else .bchk
  let j := s.curJob
  let segs := (List.range n).map (fun i => segWs x + i)
  (if x.toNat / 2 ^ 23 ≠ 0 ∨ (s.curTeam.bar d.toNat).ec = 0 then Act.trap (Trap.illegalOperand 0)
   else if va % 4096 ≠ 0 then copyFault s { cause := 0x08, rsn := 0 } 5 va
   else if j.jd.nw < segWs x + n then copyFault s { cause := 0x11, rsn := 8 } 5 (segWs x * 4096)
   else if segs.any (fun i => (j.tag_ i).st == 3) then .hold
   else match segs.find? (fun i => (j.tag_ i).st == 1 || (j.tag_ i).st == 2) with
     | some i => copyFault s { cause := 0x11, rsn := 0xA } 5 (i * 4096)
     | none =>
       let cov := s.coverRange g.job g.place.die k 4098 va (va + 4096 * n) Cover.start
       match cov.fault with
       | some (e, v, k) => copyFault s e k.at_ v
       | none =>
         if !s.copyReady || !s.pinRoom g.place.die cov.pins.length then .hold
         else
           let runs := (runsOf (segWs x) (s.frames g.job g.place.die va n k)).foldl (fun l r => insRun r l) []
           let c : Copy := { Copy.zero with
             id := s.nextCopy, kind := .bchk, grp := s.cur.grp, flight := g.nextId, die := g.place.die, bar := d, ss := .global, ds := .comb,
             src := BitVec.ofNat 64 va, dst := BitVec.ofNat 64 (segWs x * 4096), len := 4096 * n, ws := segWs x, cnt := n, excl := segMx x,
             runs := runs, pc := s.cur.pc }
           let t := (s.pin g.job g.place.die c.id cov).setCurGroup { g.raise (s.flight .c c.flight false []) with wait := .hop c.id }
           .wait { t with copies := t.copies ++ [c] }).run s
/-- BCHKIN: a segment in I is counted, one in S is released, one in O begins its write-back. -/
def execBchkin (d : BitVec 4) (b : BitVec 7) (s : State) : Host.Outcome State Fault Refusal :=
  let g := s.curGroup
  let x := g.sget b.toNat
  let n := segCnt x
  let j := s.curJob
  let segs := (List.range n).map (fun i => segWs x + i)
  (if x.toNat / 2 ^ 23 ≠ 0 ∨ segMx x ∨ (s.curTeam.bar d.toNat).ec = 0 then Act.trap (Trap.illegalOperand 0)
   else if j.jd.nw < segWs x + n then copyFault s { cause := 0x11, rsn := 8 } 6 (segWs x * 4096)
   else if segs.any (fun i => (j.tag_ i).st == 3) then .hold
   else
     let out := segs.filter (fun i => (j.tag_ i).st == 2)
     let cov := out.foldl (fun c i => s.coverRange g.job g.place.die .copyDst 2 ((j.tag_ i).gva.toNat * 4096) ((j.tag_ i).gva.toNat * 4096 + 4096) c)
       Cover.start
     match cov.fault with
     | some (e, v, k) => copyFault s e k.at_ v
     | none =>
       if !s.copyReady || !s.pinRoom g.place.die cov.pins.length then .hold
       else
         let id := s.nextCopy
         let shared := segs.filter (fun i => (j.tag_ i).st == 1)
         let homeIx := fun (i : Nat) => (if (j.tag_ i).hm = 4 then 8 else (j.tag_ i).hm.toNat + 4, (j.tag_ i).ix.toNat)
         let j2 := segs.foldl (fun (j : Job) i =>
           if (j.tag_ i).st == 1 then j.setTag i SegTag.idle
           else if (j.tag_ i).st == 2 then j.setTag i { j.tag_ i with st := 3, td := true } else j) j
         let s1 := (s.pin g.job g.place.die id cov).setCurJob j2
         let s2 := shared.foldl (fun (t : State) i => t.releaseSeg (homeIx i).1 (homeIx i).2) s1
         let s3 := s2.updBar g.tk d.toNat (fun y => { y with pb := y.pb + BitVec.ofNat 64 (4096 * out.length) })
         let s4 := s3.setCurGroup (s3.curGroup.raise (s.flight .c s3.curGroup.nextId false []))
         let c : Copy := { Copy.zero with
           id := id, kind := .bchkin, grp := s.cur.grp, flight := s3.curGroup.nextId, die := g.place.die, bar := d, ss := .comb, ds := .global,
           src := BitVec.ofNat 64 (segWs x * 4096), len := 0, ws := segWs x, cnt := n, filling := true, pc := s.cur.pc }
         let s5 := if out.isEmpty then s4.setCurGroup (s4.curGroup.flightDone c.flight) else { s4 with copies := s4.copies ++ [c] }
         .done s.cur.lanes s5.advance).run s

/-! ## Engine steps -/

/-- A check-out that is not registered is taken back: its granted runs are released, its pins and its count too. -/
def State.cancelCheckout (s : State) (c : Copy) : State :=
  let s1 := c.runs.foldl (fun (t : State) r => match r.granted with | some i => t.releaseRun r.home i | none => t)
    { s with copies := s.copies.filter (fun x => x.id != c.id), rangeWait := s.rangeWait.filter (fun w => w.2.1 != c.id) }
  let g := (s1.group c.grp).discard c.flight
  (s1.unpin c.id).setGroup c.grp { g with wait := .none }
/-- A BAPND that has no reservation is taken back: not begun, it claims and counts nothing (R84, R261). -/
def State.cancelBapnd (s : State) (c : Copy) : State :=
  let s1 := { s with copies := s.copies.filter (fun x => x.id != c.id), hops := s.hops.filter (fun h => h.copy != some c.id) }
  let tk := (s.group c.grp).tk
  let bar := (s.team tk).bar c.bar.toNat
  let s2 := s1.setTeam tk ((s1.team tk).setBar c.bar.toNat { bar with
    pb := bar.pb - BitVec.ofNat 64 c.len, rv := if c.excl then bar.rv + BitVec.ofNat 64 c.len else bar.rv })
  (s2.unpin c.id).setGroup c.grp { (s2.group c.grp).discard c.flight with wait := .none }
/-- A check-out traps at its BCHK, with every entry released and no segment changed (R34, R35). -/
def State.dropCheckout (s : State) (c : Copy) (t : Trap) : State :=
  match (s.group c.grp).flightOf c.flight with
  | some f => (s.cancelCheckout c).trapIssue c.grp f.lanes f.lanes f.pc f.len t
  | none => s.cancelCheckout c
/-- CHECKOUT_CONFLICT (R271): 0 conflict, 1 full table. -/
def checkoutConflict (c : Copy) (code : Nat) : Trap := { Trap.of 0x14 with code := code, at_ := 5, addr := c.src }
/-- A check-out asks a home for its next run: granted, or queued; with no wait limit a refusal is a fault (R35, R36). Once every run is granted it
waits for segments that have entered T since, and meets those that have left I with PROTECTION (R34). -/
def execCheckoutRegister (i : Nat) (s : State) : Host.Outcome State Fault Refusal :=
  ev (match s.copies[i]? with
    | none => none
    | some c =>
      let j := s.job (s.group c.grp).job
      if c.kind != .bchk || c.filling || c.stopped then none
      else match ((List.range c.runs.length).zip c.runs).find? (fun e => !e.2.asked) with
        | none =>
          if !c.granted || c.segs.any (fun i => (j.tag_ i).st == 3) then none
          else match c.segs.find? (fun i => (j.tag_ i).st != 0) with
            | some i => some (s.dropCheckout c { Trap.of 0x11 with rsn := 0xA, at_ := 5, addr := BitVec.ofNat 64 (i * 4096) })
            | none => some (s.registered c)
        | some (k, r) =>
          if (c.runs.take k).any (fun r => r.granted.isNone) then none
          else
            let ans := if s.passesOver s.rangeWait c.excl r then .error true else s.grantIdx r.home c.excl r
            match ans with
            | .ok idx =>
              let t := s.grantRun c k idx r
              match t.copyOf c.id with | some c2 => some (t.registered c2) | none => some t
            | .error conflict =>
              if j.jd.ckw = 0 then some (s.dropCheckout c (checkoutConflict c (if conflict then 0 else 1)))
              else
                let t := s.setCopy { c with runs := setAt c.runs k { r with asked := true } }
                some { t with rangeWait := t.rangeWait ++ [(r.home, c.id, k)] })
/-- The wait limit of a check-out expires while a run is not granted (R35). -/
def execCheckoutWaitExpiry (i : Nat) (s : State) : Host.Outcome State Fault Refusal :=
  ev (match s.copies[i]? with
    | none => none
    | some c =>
      if c.kind != .bchk || c.filling then none
      else match c.runs.find? (fun r => r.asked && r.granted.isNone) with
        | none => none
        | some r => some (s.dropCheckout c (checkoutConflict c (match s.grantIdx r.home c.excl r with | .error false => 1 | _ => 0))))

/-- Where the next bytes of a copy lie at the source and the destination, and how many go to one line or word of the destination. -/
def State.copyNext (s : State) (c : Copy) : Nat × Nat × Nat :=
  match c.kind with
  | .bchk =>
    let o := c.row * 4096 + c.off
    (c.src.toNat + o, c.dst.toNat + o, min (4096 - c.off) (s.unitRoom c .comb (c.dst.toNat + o)))
  | .bchkin =>
    let seg := c.ws + c.row
    let gva := ((s.job (s.group c.grp).job).tag_ seg).gva.toNat * 4096
    (seg * 4096 + c.off, gva + c.off, min (4096 - c.off) (s.unitRoom c .global (gva + c.off)))
  | .bapnd =>
    let st := ((s.hops.find? (fun h => some h.id == c.hop)).bind (fun h => h.start.map (fun x => h.pa + x))).getD 0
    (c.src.toNat + c.off, st + c.off, min (c.len - c.off) (128 - (st + c.off) % 128))
  | _ =>
    let a := (c.src.toNat + c.row * c.sstr + c.off) % 2 ^ 64
    let b := (c.dst.toNat + c.row * c.dstr + c.off) % 2 ^ 64
    (a, b, min (c.len - c.off) (s.unitRoom c c.ds b))
/-- Bytes of the destination that a copy still writes, and of the source that it still reads, meet a range of a space: global bytes are compared by
physical address (R98). -/
def State.copyMeets (s : State) (b : Copy) (sp : Space) (a w : Nat) : Bool :=
  if sp = .global then s.copyReach b a w true || s.copyReach b a w false
  else (b.ss == sp && b.leftTouch true a w) || (b.ds == sp && b.kind != .bapnd && b.leftTouch false a w)
/-- The bytes of a space that a copy names, as the other operations of its group compare them. -/
def State.copyAddr (s : State) (c : Copy) (sp : Space) (a : Nat) : Nat :=
  if sp = .global then ((s.pinned c.id a).map (fun x => x.1)).getD 0 else a
/-- An older copy of the group still names bytes of a range that a copy reads or writes now: it performs first (R98). -/
def State.copyWaits (s : State) (c : Copy) (sp : Space) (a w : Nat) : Bool :=
  s.copies.any (fun b => b.grp == c.grp && decide (b.id < c.id) && s.copyMeets b sp (s.copyAddr c sp a) w)
/-- A copy that has what it waits for no longer asks for it. -/
def Copy.got (c : Copy) (la : Nat) (write : Bool) : Copy := { c with wants := c.wants.filter (fun w => !(w.1 == la && w.2 == write)) }
/-- The line of an operand. -/
def State.copyLa (s : State) (c : Copy) (a : Nat) : Nat := ((s.pinned c.id a).map (fun x => x.1 / 128)).getD 0
/-- After a copy's access to a line: the request for it may end (R63). -/
def State.copyGot (s : State) (c : Copy) (sp : Space) (a : Nat) (write : Bool) : State :=
  if sp = .global then (s.setCopy (c.got (s.copyLa c a) write)).closeReqs c.die (s.copyLa c a) else s.setCopy c
/-- A read of a copy: the bytes of one line or word of the source, towards the `n` of one line or word of the destination. -/
def State.copyFill (s : State) (c : Copy) (a n : Nat) : Option State :=
  let x := a + c.buf.length
  let m := min (n - c.buf.length) (s.unitRoom c c.ss x)
  if s.copyWaits c c.ss x m then none
  else match s.copyRead c c.ss x m with
    | none => let t := s.needLine c false x; if t = s then none else some t
    | some (bs, pz) =>
      let v := if c.ss = .global then s.readAs c x else s
      some (v.copyGot { c with buf := c.buf ++ bs, bufPz := c.bufPz || pz } c.ss x false)
/-- The next read or write of a copy: a write once the bytes of its line or word have been read. -/
def State.moveBytes (s : State) (c : Copy) : Option State :=
  let (a, b, n) := s.copyNext c
  if c.buf.length < n then s.copyFill c a n
  else if s.copyWaits c c.ds b n then none
  else match s.copyWrite c c.ds b c.buf c.bufPz with
    | none => let t := s.needLine c true b; if t = s then none else some t
    | some u =>
      let o := c.off + n
      let c1 := { c with buf := [], bufPz := false }
      let c2 := if o = c.len && c.kind != .bchk && c.kind != .bchkin then { c1 with row := c.row + 1, off := 0 } else { c1 with off := o }
      let v := u.copyGot c2 c.ds b true
      match c.kind with
      | .bchkin => some v
      | .bchk => some (v.countBytes c n)
      | _ => let w := v.countBytes c n; some (if c2.row = c.rows then w.copyDone c2 else w)
/-- Bytes `lo` to `lo + n` of a line's mask. -/
def maskBytes (lo n : Nat) : BitVec 128 := BitVec.ofNat 128 ((2 ^ n - 1) * 2 ^ lo)
/-- The data of append bytes that lie in one line (R76): `bs` from physical address `pa`. -/
def adatMsg (die home pa rid : Nat) (kid : BitVec 6) (pz : Bool) (bs : List Byte) : Msg :=
  { mkMsg 10 die home (pa / 128) with
    rid := rid % 4096, op := 0x21, kid := kid, d := true, pz := pz, mask := maskBytes (pa % 128) bs.length,
    data := BitVec.ofNat 1024 (ofBytes bs * 2 ^ (8 * (pa % 128))) }
/-- TAILRD of a reserved append whose group has been stopped since (R84). -/
def tailrdMsg (h : Hop) : Msg := { mkMsg 10 h.die h.home h.la with rid := h.id % 4096, kid := h.kid, op := 0x23 }
/-- The next read of a BAPND, or the ADAT of its next line (R76, R261); a resumed one asks for the tail when the last has left (R84). -/
def State.sendAdat (s : State) (c : Copy) : Option State :=
  match s.hops.find? (fun h => some h.id == c.hop) with
  | none => none
  | some h =>
    if h.start.isNone || decide (c.len ≤ c.off) || decide (parkBase ≤ h.id) then none
    else
      let (a, pa, n) := s.copyNext c
      if c.buf.length < n then s.copyFill c a n
      else
        let t := (s.setCopy { c with off := c.off + n, buf := [], bufPz := false }).send (adatMsg c.die h.home pa h.id h.kid c.bufPz c.buf)
        some (if h.retry && c.off + n == c.len then t.send (tailrdMsg h) else t)
/-- A line or word of a copy performs (R259 to R262). -/
def execCopyLinePerformed (i : Nat) (s : State) : Host.Outcome State Fault Refusal :=
  ev (match s.copies[i]? with
    | none => none
    | some c =>
      if c.stopped then none
      else match c.kind with
        | .bapnd => s.sendAdat c
        | .bchk => if c.filling && decide (c.row < c.cnt) && decide (c.off < 4096) then s.moveBytes c else none
        | .bchkin =>
          if decide (c.row < c.cnt) && decide (c.off < 4096) && ((s.job (s.group c.grp).job).tag_ (c.ws + c.row)).st == 3 then s.moveBytes c
          else none
        | _ => s.moveBytes c)
/-- The last byte of a segment's fill is written: S or O (R34). -/
def execSegmentFillDone (i : Nat) (s : State) : Host.Outcome State Fault Refusal :=
  ev (match s.copies[i]? with
    | none => none
    | some c =>
      if c.kind == .bchk && c.filling && c.off == 4096 then
        let g := s.group c.grp
        let j := s.job g.job
        let tg := j.tag_ (c.ws + c.row)
        let t := (s.setJob g.job (j.setTag (c.ws + c.row) { tg with st := if c.excl then 2 else 1 }))
        let c2 := { c with row := c.row + 1, off := 0 }
        some (if c2.row = c.cnt then t.copyDone c2 else t.setCopy c2)
      else none)
/-- The last line of a write-back performs: the segment enters I, is counted and is released from its entry (R34, R262). A
segment that is already in I is passed over. -/
def execSegmentWritebackDone (i : Nat) (s : State) : Host.Outcome State Fault Refusal :=
  ev (match s.copies[i]? with
    | none => none
    | some c =>
      if c.kind != .bchkin || c.stopped then none
      else
        let g := s.group c.grp
        let j := s.job g.job
        let tg := j.tag_ (c.ws + c.row)
        let c2 := { c with row := c.row + 1, off := 0 }
        let fin := fun (t : State) => if c2.row = c.cnt then t.copyDone c2 else t.setCopy c2
        if tg.st != 3 then some (fin s)
        else if c.off = 4096 then
          let t := s.setJob g.job (j.setTag (c.ws + c.row) SegTag.idle)
          let u := (t.releaseSeg (if tg.hm = 4 then 8 else tg.hm.toNat + 4) tg.ix.toNat).countBytes c 4096
          some (fin u)
        else none)
/-- Nolelavin's write of a range-table entry: for a job stopped or ended (R37). -/
def execRangeTableWrite (home idx : Nat) (w : RangeWrite) (s : State) : Host.Outcome State Fault Refusal :=
  ev (match s.ranges.find? (fun e => e.home == home && e.idx == idx) with
    | none => none
    | some e =>
      let j := s.job e.js
      if j.st == .stopped || j.st == .ended || j.st == .failed then
        match w with
        | .move die seg =>
          some { s with ranges := s.ranges.map (fun (x : RangeEnt) => if x.home == home && x.idx == idx then { x with hd := die.toNat, seg := seg.toNat } else x) }
        | .release => some (s.releaseRun home idx)
      else none)

end Sys2Proof.Machine
end

