-- ==== Sys2Proof/Machine/Append.lean ====
section
/-!
DEFINITION. Append-seal pages at their homes and what their answers do (R71 to R90): reservation, data, publication, sealing,
reads, replicas, the free service.
-/

namespace Sys2Proof.Machine

/-! ## Records -/

def asSize (ps : BitVec 2) : Nat := 2 ^ (12 + (if ps = 0 then 0 else if ps = 1 then 4 else 9))
def recKey (home i : Nat) : Nat := home * 65536 + i
def State.setRec (s : State) (k : Nat) (r : PageRec) : State := { s with records := mapInsert s.records k r }
/-- The record of the page that holds a line (R71). -/
def State.recOf (s : State) (m : Msg) : Option (Nat × PageRec) := s.recordAt (m.la * 128)
/-- A tail word (R73). -/
def tailWord (r : PageRec) (fu sd pb ry : Bool) (val : Nat) : DWord :=
  BitVec.ofNat 64 ((if r.sl then 2 ^ 63 else 0) + (if r.sp then 2 ^ 62 else 0) + (if fu then 2 ^ 61 else 0) + (if sd then 2 ^ 60 else 0)
    + (if pb then 2 ^ 59 else 0) + (if ry then 2 ^ 58 else 0) + r.rt % 2 ^ 22 * 2 ^ 22 + val % 2 ^ 22)
/-- HRSP with a tail word to the sender of a HOP. -/
def State.answer (s : State) (m : Msg) (w : DWord) : State :=
  s.send { mkMsg 11 m.dst.toNat m.src.toNat m.la with rid := m.rid, op := m.op, d := true, data := w.setWidth 1024 }

/-! ## Publication and sealing (R77, R80) -/

/-- The ARSV that an append answers: from its reserver to the home. -/
def appendMsg (a : Append) (la : Nat) : Msg := { mkMsg 10 a.src a.home la with rid := a.rid, op := 0x20 }
/-- The complete appends at the front of a page's reservation order. -/
def takeDone : List Append → List Append
  | [] => []
  | a :: l => if a.rb = a.ln then a :: takeDone l else []
/-- With SP set and CT = RT the page is sealed and every waiting SEAL is answered. -/
def State.sealCheck (s : State) (k : Nat) : State :=
  match lookup s.records k with
  | none => s
  | some r =>
    if r.sp && r.ct == r.rt then
      let r2 := { r with sl := true, sp := false }
      let ws := s.seals.filter (fun e => e.1 == k)
      let t := { s.setRec k r2 with seals := s.seals.filter (fun e => e.1 != k) }
      ws.foldl (fun (u : State) e => u.answer e.2 (tailWord r2 false false false false r2.rt)) t
    else s
/-- CT moves to the start of the earliest incomplete append, or to RT, and what it passes is published. -/
def State.publish (s : State) (k : Nat) : State :=
  match lookup s.records k with
  | none => s
  | some r =>
    let mine := s.appends.filter (fun a => recKey a.home a.rcd == k)
    let pub := takeDone mine
    let ct := match mine.drop pub.length with | a :: _ => a.st | [] => r.rt
    let r2 := { r with ct := ct }
    let t := { s.setRec k r2 with appends := s.appends.filter (fun a => !(pub.contains a)) }
    let u := pub.foldl (fun (u : State) a =>
      u.answer (appendMsg a (r.bfn.toNat * 32)) (tailWord r2 false false true false a.st)) t
    u.sealCheck k

/-! ## ARSV, ADAT, SEAL, TAILRD, ARD at the home -/

/-- Appends of a home that are not complete (R75). -/
def State.openAppends (s : State) (home : Nat) : Nat := (s.appends.filter (fun a => a.home == home && a.rb != a.ln)).length
/-- The sender's record of a HOP or of its answer. -/
def State.hopBy (s : State) (die rid : Nat) : Option Hop := s.hops.find? (fun h => h.id == ridKey die rid)
/-- The job that a HOP serves. -/
def State.hopJob (s : State) (die rid : Nat) : Nat :=
  match s.hopBy die rid with | some h => (s.group h.grp).job | none => 0
/-- The access that reached a home without a record of its page raises PAGE_FAULT, reason malformed, and nothing changes (R71): the
instruction goes back to its start, its group waits on the record of the fault. Every older access performs first (R104). -/
def State.lateFault (s : State) (k fid lane at_ : Nat) (va : DWord) : Option State :=
  let g := s.group k
  match g.flightOf fid with
  | none => some s
  | some f =>
    if !g.olderDone fid then none
    else
      let ids := f.id :: ((g.younger f.id).filter (s.discardable k f.lanes)).map (fun x => x.id)
      let h := ids.foldl (fun h i => h.discard i) (g.rewind f)
      let u := { s with pend := s.pend.filter (fun b => !(b.grp == k && ids.contains b.flight)), hops := s.hops.filter (fun x => !(x.grp == k && x.flight == fid)) }
      let j : FaultJoin := { grp := k, lanes := f.lanes, act := f.lanes, pc := f.pc, len := f.len, lane := lane, at_ := at_, addr := va }
      match (u.setGroup k h).faultRecord k va.toNat { cause := 0x10, rsn := 2 } at_ (some j) none with
      | some (t, id) => some (t.setGroup k { (t.group k).count 7 1 with wait := .fault (t.group k).place.die id })
      | none => none
/-- A home operation that finds no valid record of its page (R71). -/
def State.noRec (s : State) (m : Msg) : Option State :=
  match s.hopBy m.src.toNat m.rid with
  | some h =>
    (match h.copy.bind s.copyOf with
     | some c =>
       -- a BAPND: it is taken back, then its group waits at it
       let f := (s.group c.grp).flightOf c.flight
       let u := s.cancelBapnd c
       let j : FaultJoin := { grp := c.grp, lanes := (f.map (fun f => f.lanes)).getD 0, act := (f.map (fun f => f.lanes)).getD 0, pc := c.pc, len := (f.map (fun f => f.len)).getD 8, lane := 0, at_ := 6, addr := c.dst }
       (match u.faultRecord c.grp c.dst.toNat { cause := 0x10, rsn := 2 } 6 (some j) none with
        | some (t, id) => some (t.setGroup c.grp { (t.group c.grp).count 7 1 with wait := .fault (t.group c.grp).place.die id })
        | none => none)
     | none => s.lateFault h.grp h.flight (lowLane h.lanes) (if h.op == 0x23 then 2 else 3) (h.va.setWidth 64))
  | none =>
    match s.pend.find? (fun a => a.id == ridKey m.src.toNat m.rid) with
    | some a => s.lateFault a.grp a.flight a.lane.toNat (if a.dep.isSome then 7 else 0) (a.va.setWidth 64)
    | none => some s
/-- A home operation with an OP code: with the record of its page, or none. -/
def State.asHop (s : State) (k op : Nat) (f : Msg → Nat → PageRec → State) : Option State :=
  match s.msgOf k 10 with
  | some m =>
    if m.op.toNat = op then
      match s.recOf m with
      | some e => some (f m e.1 e.2)
      | none => (s.takeMsg k).noRec m
    else none
  | none => none
/-- ARSV (R74). VAL of an answer that reserves nothing is 0 (log 64). -/
def execArsv (k : Nat) (s : State) : Host.Outcome State Fault Refusal :=
  ev (s.asHop k 0x20 (fun m i r =>
      let t := s.takeMsg k
      let l := field m.data.toNat 0 22
      let lr := (l + 15) / 16 * 16
      let home := i / 65536
      if r.sl || r.sp || r.fr then t.answer m (tailWord r false true false false 0)
        else if l = 0 then t.answer m (tailWord r false false false false 0)
        else if asSize r.ps < r.rt + lr then t.answer m (tailWord r true false false false 0)
        else if r.na = 255 ∨ 1024 ≤ s.openAppends home then t.answer m (tailWord r false false false true 0)
        else
          let r2 := { r with rt := r.rt + lr, na := r.na + 1 }
          let a : Append := { home := home, rcd := i % 65536, ce := bitAt m.data.toNat 22, src := m.src.toNat, rid := m.rid, st := r.rt,
                              ln := l, rb := 0, job := s.hopJob m.src.toNat m.rid }
          ({ t.setRec i r2 with appends := t.appends ++ [a] }).answer m (tailWord r2 false false false false r.rt)))
/-- The cluster holds its cores. -/
def Cluster.holds (c : Cluster) : Bool := c.st == .placed || c.st == .stopping || c.st == .halted
/-- A close of the job has brought its groups to their restart points (R322). -/
def Job.paused (j : Job) : Bool := match j.close with | some c => c.halted | none => false
/-- The cluster of a team. -/
def State.teamCluster (s : State) (j team : Nat) : Option Cluster := (s.job j).clusters[team / (s.job j).jd.cs]?
/-- A team's cluster is on its cores. -/
def State.teamHolds (s : State) (j team : Nat) : Bool := match s.teamCluster j team with | some c => c.holds | none => false
/-- A team goes on: its cluster is placed, or a stop of it has been requested and it is not yet at rest. -/
def State.teamRuns (s : State) (j team : Nat) : Bool :=
  !(s.job j).paused && (match s.teamCluster j team with | some c => c.st == .placed || c.st == .stopping | none => false)
/-- A group's cluster goes on. -/
def State.running (s : State) (k : Nat) : Bool := s.teamRuns (s.group k).job (s.group k).team
/-- A stop of a group has been requested. -/
def State.stopAsked (s : State) (k : Nat) : Bool :=
  let g := s.group k
  (match (s.job g.job).clusters[g.team / (s.job g.job).jd.cs]? with | some c => c.st == .stopping | none => false) ||
  (match (s.job g.job).close with | some c => c.asked | none => false)
/-- An append answered RY goes back to its APND or BAPND at a stop: nothing that its lanes issued since stands in the way (R84). -/
def State.backable (s : State) (h : Hop) : Bool :=
  h.copy.isSome || (match (s.group h.grp).flightOf h.flight with | some f => (s.group h.grp).standsAfter f | none => true)
/-- The reserver sends an ARSV again after an answer with RY (R74); under a stop that takes the instruction back it does not (R84). -/
def execArsvRetry (h : Nat) (s : State) : Host.Outcome State Fault Refusal :=
  ev (match s.hops[h]? with
    | none => none
    | some x =>
      if x.op == 0x20 && x.retry && x.start.isNone && s.running x.grp && !(s.stopAsked x.grp && s.backable x) then
        some ({ s with hops := setAt s.hops h { x with retry := false } }.send { mkMsg 10 x.die x.home x.la with
          rid := x.id % 4096, kid := x.kid, op := 0x20, d := true, data := BitVec.ofNat 1024 (x.len + (if x.copy.isSome then 2 ^ 22 else 0)) })
      else none)
/-- First byte of a message's mask, and bytes up to its last. -/
def Msg.span (m : Msg) : Nat × Nat :=
  let on := (List.range 128).filter (fun i => m.mask.getLsbD i)
  (on.headD 0, match on.getLast? with | some e => e + 1 - on.headD 0 | none => 0)
/-- An open append of a page whose reserved bytes take in those of an ADAT. Its engine may have been resumed on another die since it
reserved (R84), so that the span tells, and no more the sender. -/
def Append.takes (a : Append) (key base : Nat) (m : Msg) : Bool :=
  let b := m.la * 128 + m.span.1
  recKey a.home a.rcd == key && decide (base + a.st ≤ b) && decide (b + m.span.2 ≤ base + a.st + a.ln) && a.rb != a.ln
/-- The masked bytes of a message over the line's own. -/
def State.masked (s : State) (kid : BitVec 6) (m : Msg) : List Byte :=
  (List.range m.span.2).map (fun i =>
    let o := m.span.1 + i
    if m.mask.getLsbD o then lineByte m.data o else s.memByte kid (m.la * 128 + o))
/-- Append data is written under the page's key id with its poison mark; a complete append frees its entry and may publish. Data of an append
that is complete, or whose page is gone, is not written (R77). -/
def execAdat (k : Nat) (s : State) : Host.Outcome State Fault Refusal :=
  ev (match s.msgOf k 10 with
    | none => none
    | some m =>
      if m.op.toNat ≠ 0x21 then none
      else match s.recOf m with
        | none => some (s.takeMsg k)
        | some (i, r) =>
          let mine := fun (a : Append) => a.takes i (r.bfn.toNat * 4096) m
          if !(s.appends.any mine) then some (s.takeMsg k)
          else if s.stageWaits m.la then none
          else
            let t := (s.takeMsg k).homePut r.kid (m.la * 128 + m.span.1) (s.masked r.kid m)
            let t2 := if m.pz then { t with poison := setD false t.poison m.la true } else t
            let aps := t2.appends.map (fun (a : Append) => if mine a then { a with rb := a.rb + popcount 128 m.mask.toNat } else a)
            let fin := (s.appends.filter mine).any (fun a => a.rb + popcount 128 m.mask.toNat == a.ln)
            let t3 := { t2 with appends := aps }
            some (if fin then (t3.setRec i { r with na := r.na - 1 }).publish i else t3))
/-- SEAL at the home (R80). VAL of one refused with SD is 0 (log 64). -/
def execHopSeal (k : Nat) (s : State) : Host.Outcome State Fault Refusal :=
  ev (s.asHop k 0x22 (fun m i r =>
      let t := s.takeMsg k
      if r.sl then t.answer m (tailWord r false false false false r.rt)
        else if r.fr then t.answer m (tailWord r false true false false 0)
        else ({ t.setRec i { r with sp := true } with seals := t.seals ++ [(i, m)] }).sealCheck i))
def execHopTailrd (k : Nat) (s : State) : Host.Outcome State Fault Refusal :=
  ev (s.asHop k 0x23 (fun m _ r => (s.takeMsg k).answer m (tailWord r false false false false r.ct)))
/-- A line of an unsealed page as a read sees it: zero at and above the commit tail (R78). -/
def State.asLine (s : State) (r : PageRec) (la : Nat) : BitVec 1024 :=
  BitVec.ofNat 1024 (ofBytes ((List.range 128).map (fun i =>
    if la * 128 + i < r.bfn.toNat * 4096 + r.ct then s.memByte r.kid (la * 128 + i) else 0)))
/-- Bytes of a line below an address, as a mask. -/
def belowMask (la lim : Nat) : BitVec 128 := BitVec.ofNat 128 (2 ^ (if lim < la * 128 then 0 else lim - la * 128) - 1)
/-- ARD: SRSP if the page is sealed, else the line with the mask of the bytes below the commit tail, which LDNR needs (R78; log 27). -/
def execArd (k : Nat) (s : State) : Host.Outcome State Fault Refusal :=
  ev (s.asHop k 0x24 (fun m _ r =>
      let t := s.takeMsg k
      let a := { mkMsg 11 m.dst.toNat m.src.toNat m.la with rid := m.rid, op := m.op, d := true, pz := getD false s.poison m.la || s.poolDark m.la, kid := r.kid }
      if r.sl then t.send { a with ty := 13, op := 0, data := s.memLine r.kid m.la }
      else t.send { a with data := s.asLine r m.la, mask := belowMask m.la (r.bfn.toNat * 4096 + r.ct) }))
/-- A replica serves a read: it is the most recently used of its die (R88). -/
def State.touchReplica (s : State) (p : Replica) : State := { s with replicas := s.replicas.filter (fun x => x != p) ++ [p] }
/-- SRD at a controller: from its replica, or from the home copy of a sealed page (R87). -/
def execSrd (k : Nat) (s : State) : Host.Outcome State Fault Refusal :=
  ev (match s.msgOf k 12 with
    | none => none
    | some m =>
      let t := s.takeMsg k
      let a := { mkMsg 13 m.dst.toNat m.src.toNat m.la with rid := m.rid, d := true, kid := m.kid }
      match s.replicaOf (m.dst.toNat - 4) (m.la * 128) with
      | some p =>
        let la := p.rfn.toNat * 32 + (m.la - p.sfn.toNat * 32)
        some ((t.touchReplica p).send { a with data := s.memLine m.kid la, pz := getD false s.poison la })
      | none =>
        match s.recOf m with
        | some (_, r) =>
          if r.sl && homeOf (m.la * 128) == m.dst.toNat then some (t.send { a with data := s.memLine r.kid m.la, pz := getD false s.poison m.la || s.poolDark m.la })
          else some (t.send { mkMsg 10 m.src.toNat (homeOf (m.la * 128)) m.la with rid := m.rid, kid := m.kid, op := 0x24 })
        | none => none)

/-! ## Answers (R57, R76, R78, R232, R233) -/

/-- A waiting load of an append-seal line takes its value from a line; poison traps, once every older access has performed (R49, R104). -/
def State.asAnswer (s : State) (a : Access) (d : BitVec 1024) (pz flag : Bool) : Option State :=
  if pz then (if (s.group a.grp).olderDone a.flight then some (s.lateTrap a (poisonAt a.pa)) else none)
  else
    let t := { s with pend := s.pend.filter (fun b => b.id != a.id) }
    some ((t.gave a (if flag then 0 else lineNum d (a.pa % 128) a.w) flag).finishFlight a.grp a.flight)
/-- An L2 keeps a sealed line if it has room for it (R29, R81). -/
def State.keepSealed (s : State) (die : Nat) (m : Msg) : State :=
  let x := s.l2line die m.la
  if x.isSealed || x.tc != 0 then s
  else match s.freeWay die m.la m.kid with
    | some w => s.setL2 die m.la { Line.none with dv := true, pz := m.pz, kid := m.kid, data := m.data, isSealed := true, way := w }
    | none => s
/-- The access that an answer names by its requester. -/
def State.askedBy (s : State) (m : Msg) : Option Access :=
  s.pend.find? (fun a => a.id == ridKey m.dst.toNat m.rid && a.pa / 128 == m.la)
def execSrsp (k : Nat) (s : State) : Host.Outcome State Fault Refusal :=
  ev (match s.msgOf k 13 with
    | none => none
    | some m =>
      let t := (s.takeMsg k).keepSealed m.dst.toNat m
      match s.askedBy m with
      | some a => t.asAnswer a m.data m.pz false
      | none => some t)
/-- ADATs of a reserved append of lanes: one for each line its span touches (R76). -/
def adatMsgs (h : Hop) (st : Nat) : List Msg :=
  let a := h.pa + st
  (List.range ((a + h.len + 127) / 128 - a / 128)).map (fun i =>
    let la := a / 128 + i
    let lo := if la * 128 < a then a else la * 128
    let hi := if a + h.len < la * 128 + 128 then a + h.len else la * 128 + 128
    adatMsg h.die h.home lo h.id h.kid false ((h.data.drop (lo - a)).take (hi - lo)))
def State.dropHop (s : State) (h : Hop) : State := { s with hops := s.hops.filter (fun x => x.id != h.id) }
def State.setHop (s : State) (h : Hop) : State := { s with hops := s.hops.map (fun x => if x.id == h.id then h else x) }
/-- The reserve answer of an append (R74, R82, R232, R261). -/
def State.reserveAnswer (s : State) (h : Hop) (w : DWord) : State :=
  let no := bitAt w.toNat 61 || bitAt w.toNat 60
  let g := s.group h.grp
  let g1 := g.sset h.st.toNat w
  match h.copy with
  | none =>
    let g2 := g1.psetMask h.pf.toNat h.lanes (if no then ~~~ 0 else 0)
    let g3 := { g2 with flights := g2.flights.map (fun (f : Flight) => if f.id == h.flight then { f with dst := [] } else f) }
    let t := s.setGroup h.grp g3
    if no then (t.dropHop h).finishFlight h.grp h.flight
    else
      let st := field w.toNat 0 22
      (t.setHop { h with start := some st }).sendAll (adatMsgs h st)
  | some cid =>
    let g3 := { g1 with flights := g1.flights.map (fun (f : Flight) => if f.id == h.flight then { f with dst := [] } else f) }
    let t := s.setGroup h.grp g3
    match s.copyOf cid with
    | none => t.dropHop h
    | some c =>
      let u := t.releaseFlight c.grp c.flight
      if no || c.len = 0 then ((u.dropHop h).countBytes c c.len).copyDone c
      else (u.setHop { h with start := some (field w.toNat 0 22) }).setCopy { c with tw := w, filling := true }
/-- An append is published (R77, R261). -/
def State.publishAnswer (s : State) (h : Hop) : State :=
  match h.copy with
  | none => (s.dropHop h).finishFlight h.grp h.flight
  | some cid =>
    match s.copyOf cid with
    | none => s.dropHop h
    | some c => ((s.dropHop h).countBytes c c.len).copyDone c
/-- The answer to one lane's ATOM.H. One that finds poison traps when every older access and every other lane's own has performed (R49,
R104). -/
def State.homeAnswer (s t : State) (a : Access) (pz : Bool) (v : Nat) : Option State :=
  if !pz then
    some ((({ t with pend := t.pend.filter (fun b => b.id != a.id) } : State).gave a (v % 2 ^ (8 * a.w)) false).finishFlight a.grp a.flight)
  else
    let mine := s.pend.filter (fun b => b.grp == a.grp && b.flight == a.flight)
    let bad := fun (b : Access) => s.msgs.any (fun x => x.ty == 11 && x.pz && x.la == b.pa / 128 && ridKey x.dst.toNat x.rid == b.id)
    if mine.all bad && (s.group a.grp).olderDone a.flight then
      let low := mine.foldl (fun (l : Access) b => if b.lane < l.lane then b else l) a
      some (t.lateTrap low (poisonAt low.pa))
    else none
/-- An answer of a home (R66). An answer whose sender no longer waits, or has been stopped since (R84, R234), is discarded. -/
def execHrsp (k : Nat) (s : State) : Host.Outcome State Fault Refusal :=
  ev (match s.msgOf k 11 with
    | none => none
    | some m =>
      let t := s.takeMsg k
      let w := m.data.extractLsb' 0 64
      if m.op = 0x24 then
        match s.askedBy m with
        | some a => t.asAnswer a m.data m.pz (a.dep.isSome && (List.range a.w).any (fun i => !m.mask.getLsbD (a.pa % 128 + i)))
        | none => some t
      else if m.op.toNat < 0x20 then
        match s.askedBy m with
        | some a => s.homeAnswer t a m.pz w.toNat
        | none => some t
      else match s.hopBy m.dst.toNat m.rid with
        | none => some t
        | some h =>
          if h.op = 0x20 ∧ m.op = 0x23 then
            -- an append of a group resumed since: published once the commit tail has passed its start (R84)
            some (match h.start with
              | some st => if st < field w.toNat 0 22 then t.publishAnswer h else t.send (tailrdMsg h)
              | none => t)
          else if h.retry then some t
          else if m.op = 0x20 then
            (if bitAt w.toNat 59 then some (t.publishAnswer h)
             else if bitAt w.toNat 58 then some (t.setHop { h with retry := true })
             else some (t.reserveAnswer h w))
          else some (((t.setGroup h.grp ((s.group h.grp).sset h.st.toNat w)).dropHop h).finishFlight h.grp h.flight))

/-! ## Frames that serve a use (R50, R71, R86, R313) -/

/-- Bytes that hold any image of a cluster of a job (R313 to R318): every counter at its limit. -/
def JobDesc.saveMost (d : JobDesc) : Nat :=
  let h := if d.pr then 2 else 1
  let group := 4304 + 128 * d.vr * d.width + 256 * 510 + 16 * 255 + 32 * 255 * d.width
  let team := 4176 + d.tmk * 8 * h + 1024 * d.tmk * h + 8192 * d.atl + 55296 * d.stn + 256 * 255
  (1600 + d.cs * (d.gpt * group + team) + 4112 * d.nw + 4095) / 4096 * 4096
/-- Size of a job's save region: the job save area of a close, then a part for each cluster. -/
def Job.saveSize (j : Job) : Nat := 2 * j.clusters.length * j.jd.saveMost
/-- Address of a cluster's part of the save region. -/
def Job.saveBase (j : Job) (c : Nat) : Option Nat := j.saveAt.map (fun a => a + (j.clusters.length + c) * j.jd.saveMost)
/-- Ranges that a job's save region and the images of its saved clusters take. -/
def Job.saveRanges (j : Job) : List (Nat × Nat) :=
  (match j.saveAt with | some a => [(a, a + j.saveSize)] | none => []) ++ j.saved.map (fun e => (e.2.1, e.2.1 + e.2.2.length))

/-- A range of addresses has frames that are retired, lie in a region marked for retirement, stand in a replica pool or a replica, or
hold a job's save region. -/
def State.frameTaken (s : State) (lo hi : Nat) : Bool :=
  s.retired.any (fun e => decide (e.1 < hi) && decide (lo < e.2)) ||
  s.marked.any (fun e => decide (e.1 * 2 ^ 21 < hi) && decide (lo < (e.1 + 1) * 2 ^ 21)) ||
  s.parts.any (fun e => e.2.pool.any (fun d => d.2.any (fun f => decide (f.toNat * 4096 < hi) && decide (lo < f.toNat * 4096 + 2 ^ 21)))) ||
  s.frees.any (fun e => e.frames.any (fun f => decide (f.2.toNat * 4096 < hi) && decide (lo < f.2.toNat * 4096 + 2 ^ 21))) ||
  s.replicas.any (fun r => decide (r.rfn.toNat * 4096 < hi) && decide (lo < r.rfn.toNat * 4096 + asSize r.ps)) ||
  s.jobs.any (fun e => e.2.live && e.2.saveRanges.any (fun r => decide (r.1 < hi) && decide (lo < r.2)))
/-- A valid record holds a frame of a range. -/
def State.recordIn (s : State) (home lo hi : Nat) : Bool :=
  s.records.any (fun e => e.2.v && e.1 / 65536 == home && decide (e.2.bfn.toNat * 4096 < hi) && decide (lo < e.2.bfn.toNat * 4096 + asSize e.2.ps))
/-- A frame that is never used again (R50). -/
def State.retire_ (s : State) (lo hi : Nat) : State := { s with retired := s.retired ++ [(lo, hi)] }
/-- A range of addresses meets a region marked for retirement. -/
def State.inMarked (s : State) (lo hi : Nat) : Bool := s.marked.any (fun e => decide (e.1 * 2 ^ 21 < hi) && decide (lo < (e.1 + 1) * 2 ^ 21))

/-! ## Page records (R71) -/

/-- A new record, its tokens gathered at the home (R56), and its frame filled with zeros under the page's key (R71). -/
def State.newRecord (s : State) (home rcd : Nat) (frame : BitVec 40) (ps : BitVec 2) (part : BitVec 4) (kid : BitVec 6) : State :=
  let r : PageRec := { v := true, sl := false, sp := false, fr := false, ps := ps, rt := 0, ct := 0, kid := kid, na := 0, bfn := frame, pt := part,
                       rm := 0, xb := false, retire := false }
  (s.storeRange kid (frame.toNat * 4096) (List.replicate (asSize ps) 0)).setRec (recKey home rcd) r
/-- Nolelavin creates a record (R71). -/
def execPageRecordCreate (home rcd : Nat) (frame : BitVec 40) (ps : BitVec 2) (part : BitVec 4) (kid : BitVec 6) (s : State) :
    Host.Outcome State Fault Refusal :=
  ev (let lo := frame.toNat * 4096
    let hi := lo + asSize ps
    let used := match lookup s.records (recKey home rcd) with | some r => r.v | none => false
    if used || ps = 3 || homeOf lo != home || decide (65536 ≤ rcd) || lo % asSize ps != 0 || !keyed lo || s.frameTaken lo hi || s.recordIn home lo hi then none
    else some (s.newRecord home rcd frame ps part kid))

/-! ## Leaves (R18 to R21) -/

/-- Leaves under a table: address and leaf, ascending. -/
def State.leavesFrom (s : State) (kid : BitVec 6) : Nat → Nat → Nat → List (Nat × DWord × Nat)
  | level, frame, va =>
    (List.range 512).flatMap (fun i =>
      let e := s.entry kid (frame * 4096 + i * 8)
      let a := va + i * 2 ^ (12 + 9 * level)
      if !pteV e then []
      else if pteLf e then
        match leafSize level (pteSz e) with
        | some (size, n) => if leafOk s.boot.ddn level e && i % n == 0 then [(a, e, size)] else []
        | none => []
      else match level with
        | 0 => []
        | l + 1 => if tableOk e then s.leavesFrom kid l (pteFn e) a else [])
/-- Frames of the tables under a table. -/
def State.tablesFrom (s : State) (kid : BitVec 6) : Nat → Nat → List Nat
  | 0, frame => [frame]
  | l + 1, frame => frame :: (List.range 512).flatMap (fun i =>
      let e := s.entry kid (frame * 4096 + i * 8)
      if pteV e && !pteLf e && tableOk e then s.tablesFrom kid l (pteFn e) else [])
/-- The frames of a job's tables and of the resident pages that they map, as ranges of addresses. -/
def State.jobFrames (s : State) (j : Job) : List (Nat × Nat) :=
  let k := (s.part j.part).skid
  (s.tablesFrom k 4 j.root.toNat).map (fun f => (f * 4096, f * 4096 + 4096)) ++
  (s.leavesFrom k 4 j.root.toNat 0).filterMap (fun e => if pteRs e.2.1 then some (pteFn e.2.1 * 4096, pteFn e.2.1 * 4096 + e.2.2) else none)
/-- Ranges of addresses in use: what tables, TLBs and pins map, the tables, records, event rings, replicas and pools, save regions, and frames
retired or marked. -/
def State.inUse (s : State) : List (Nat × Nat) :=
  s.jobs.flatMap (fun e => if e.2.live then s.jobFrames e.2 ++ e.2.saveRanges else []) ++
  s.tlb.map (fun t => (pteFn t.leaf * 4096, pteFn t.leaf * 4096 + t.size)) ++ s.pins.map (fun p => (pteFn p.leaf * 4096, pteFn p.leaf * 4096 + p.size)) ++
  s.records.filterMap (fun e => if e.2.v then some (e.2.bfn.toNat * 4096, e.2.bfn.toNat * 4096 + asSize e.2.ps) else none) ++
  s.events.map (fun e => (e.2.ebf.toNat * 4096, e.2.ebf.toNat * 4096 + 4096 + 32 * e.2.size)) ++
  s.replicas.map (fun r => (r.rfn.toNat * 4096, r.rfn.toNat * 4096 + asSize r.ps)) ++
  s.parts.flatMap (fun p => p.2.pool.flatMap (fun d => d.2.map (fun f => (f.toNat * 4096, f.toNat * 4096 + 2 ^ 21)))) ++
  s.frees.flatMap (fun e => e.frames.map (fun f => (f.2.toNat * 4096, f.2.toNat * 4096 + 2 ^ 21))) ++
  s.retired ++ s.marked.map (fun e => (e.1 * 2 ^ 21, (e.1 + 1) * 2 ^ 21))
/-- The highest aligned range of `size` bytes below `hi`, from `lo` on, that meets none of some ranges; the first number bounds the search. -/
def fitBelow (size align lo : Nat) : Nat → List (Nat × Nat) → Nat → Option Nat
  | 0, _, _ => none
  | n + 1, used, hi =>
    let a := (hi - size) / align * align
    if hi < lo + size ∨ a < lo then none
    else match used.find? (fun o => decide (o.1 < a + size) && decide (a < o.2)) with
      | none => some a
      | some o => fitBelow size align lo n used o.1
/-- Free memory of a partition's HBM share on a die; the highest that fits, the choice is Nolelavin's (log 70). -/
def State.spareHbm (s : State) (part die size align : Nat) (used : List (Nat × Nat)) : Option Nat :=
  (s.part part).rcd.frames.findSome? (fun f =>
    let lo := if f.1 * 4096 < die * 2 ^ 37 then die * 2 ^ 37 else f.1 * 4096
    let hi := if (die + 1) * 2 ^ 37 < f.2 * 4096 then (die + 1) * 2 ^ 37 else f.2 * 4096
    fitBelow size align lo (used.length + 1) used hi)
/-- A free frame of the pool that an enabled decoder covers (log 70). -/
def State.sparePool (s : State) (size : Nat) : Option Nat :=
  let used := s.inUse
  (s.decoders.filter (fun d => d.en && regionOf d.lo == .pool)).findSome? (fun d => fitBelow size size d.lo (used.length + 1) used d.hi)
/-- The lowest record of a home's table that is not in use. -/
def State.freeRec (s : State) (home : Nat) : Nat :=
  ((List.range 65536).find? (fun i => match lookup s.records (recKey home i) with | some r => !r.v | none => true)).getD 0
/-- Some job's tables, a TLB or a pin still maps a page of device-physical addresses. -/
def State.mapped (s : State) (lo hi : Nat) : Bool :=
  let hits := fun (e : DWord) (size : Nat) => pteV e && pteRs e && decide (pteFn e * 4096 < hi) && decide (lo < pteFn e * 4096 + size)
  s.jobs.any (fun j => j.2.live && (s.leavesFrom (s.part j.2.part).skid 4 j.2.root.toNat 0).any (fun e => hits e.2.1 e.2.2)) ||
  s.tlb.any (fun t => hits t.leaf t.size) || s.pins.any (fun p => hits p.leaf p.size)

/-! ## Frees (R72, R85, R90) -/

/-- A free request reaches the home (R90 step 2), once no leaf, TLB or pin maps the page (step 1): a SEAL or ARSV after this is refused (R72). -/
def execFreeRequest (home rcd : Nat) (s : State) : Host.Outcome State Fault Refusal :=
  ev (match lookup s.records (recKey home rcd) with
    | some r =>
      if r.v && !r.fr && !s.mapped (r.bfn.toNat * 4096) (r.bfn.toNat * 4096 + asSize r.ps) then
        some { s.setRec (recKey home rcd) { r with fr := true } with
          frees := s.frees ++ [{ home := home, rcd := rcd, step := 3, frames := [], acks := [] }] }
      else none
    | none => none)
/-- The home completes the incomplete appends that a test selects with zeros (R85). -/
def State.fillAppends (s : State) (k : Nat) (sel : Append → Bool) : State :=
  let n := (s.appends.filter (fun a => recKey a.home a.rcd == k && sel a && a.rb != a.ln)).length
  let t := { s with appends := s.appends.map (fun (a : Append) => if recKey a.home a.rcd == k && sel a then { a with rb := a.ln } else a) }
  match lookup t.records k with
  | some r => if n = 0 then t else (t.setRec k { r with na := r.na - n }).publish k
  | none => t
/-- Frames return to a partition's pools. -/
def State.poolBack (s : State) (part : Nat) (l : List (Nat × BitVec 40)) : State :=
  let pt := s.part part
  if l.isEmpty then s
  else s.setPart part { pt with pool := pt.pool.map (fun e => (e.1, e.2 ++ (l.filter (fun f => f.1 == e.1)).map (fun f => f.2))) }
/-- Replicas of a page, with their dies and frames. -/
def State.replicasOf (s : State) (r : PageRec) : List (Nat × BitVec 40) :=
  (s.replicas.filter (fun p => p.sfn == r.bfn)).map (fun p => (p.die, p.rfn))
/-- Reads of a page's lines that are under way: accesses, their messages, and the answers (R90 steps 4 and 5). -/
def State.readsUnderWay (s : State) (r : PageRec) : Bool :=
  let lo := r.bfn.toNat * 32
  let mine := fun (la : Nat) => decide (lo ≤ la) && decide (la < lo + asSize r.ps / 128)
  s.pend.any (fun a => a.kind == .appendSeal && mine (a.pa / 128)) ||
  s.msgs.any (fun m => mine m.la && (m.ty == 12 || m.ty == 13 || ((m.ty == 10 || m.ty == 11) && m.op == 0x24)))
/-- Change a free service under way. -/
def State.setFree (s : State) (home rcd : Nat) (f : FreeJob → FreeJob) : State :=
  { s with frees := s.frees.map (fun (x : FreeJob) => if x.home == home && x.rcd == rcd then f x else x) }
/-- The next step of a free (R90): 3 completes appends, 4 is the dies', 5 the devices', which have acknowledged when none is left to, and 6
ends it. A frame of a region marked for retirement is retired (R50). -/
def execFreeService (home rcd : Nat) (s : State) : Host.Outcome State Fault Refusal :=
  ev (let k := recKey home rcd
    match s.frees.find? (fun f => f.home == home && f.rcd == rcd), lookup s.records k with
    | some f, some r =>
      let lo := r.bfn.toNat * 32
      let n := asSize r.ps / 128
      if f.step = 3 then some ((s.fillAppends k (fun _ => true)).setFree home rcd (fun x => { x with step := 4 }))
      else if f.step = 4 then
        if s.readsUnderWay r then none
        else
          let devs := if r.xb then (List.range 1152).filter (fun d => s.boot.ddn != some d)
            else (s.exports.filter (fun e => e.1 == home && e.2.1 == rcd)).map (fun e => e.2.2)
          let t := { s with
            l2 := s.l2.filter (fun e => !(e.2.isSealed && decide (lo ≤ e.1 % 2 ^ 45) && decide (e.1 % 2 ^ 45 < lo + n))),
            replicas := s.replicas.filter (fun p => p.sfn != r.bfn) }
          some (t.setFree home rcd (fun x => { x with step := 5, frames := s.replicasOf r, acks := devs.eraseDups }))
      else if f.step = 5 then (if f.acks.isEmpty then some (s.setFree home rcd (fun x => { x with step := 6 })) else none)
      else
        let t := (({ s.setRec k { r with v := false, rm := 0, fr := false } with
          frees := s.frees.filter (fun x => !(x.home == home && x.rcd == rcd)),
          exports := s.exports.filter (fun e => !(e.1 == home && e.2.1 == rcd)) } : State).poolBack r.pt.toNat f.frames)
        some (if r.retire || s.inMarked (lo * 128) ((lo + n) * 128) then t.retire_ (lo * 128) ((lo + n) * 128) else t)
    | _, _ => none)
/-- A device has invalidated its lines of a page and answered its reads (R90 step 5). -/
def execFreeAck (home rcd dev : Nat) (s : State) : Host.Outcome State Fault Refusal :=
  ev (if s.frees.any (fun f => f.home == home && f.rcd == rcd && f.step == 5 && f.acks.contains dev) then
      some (s.setFree home rcd (fun x => { x with acks := x.acks.filter (fun d => d != dev) }))
    else none)

/-! ## Replicas (R86 to R88) -/

/-- Drop one replica: its frame returns to its pool, its die's bit leaves RM. -/
def State.dropReplica (s : State) (p : Replica) : State :=
  let t := ({ s with replicas := s.replicas.filter (fun x => x != p) } : State).poolBack p.pt.toNat [(p.die, p.rfn)]
  match t.recordAt (p.sfn.toNat * 4096) with
  | some (k, r) => t.setRec k { r with rm := r.rm &&& ~~~ ((1 : BitVec 4) <<< p.die) }
  | none => t
/-- A replica of a sealed page on a die. With no free frame of the partition's pool there, or with the die's map of 16,384 entries full, the
partition's least recently used replica there is dropped first (R86 to R88). -/
def execReplicaCreate (die home rcd : Nat) (s : State) : Host.Outcome State Fault Refusal :=
  ev (match lookup s.records (recKey home rcd) with
    | none => none
    | some r =>
      let part := r.pt.toNat
      let frames : State → List (BitVec 40) := fun t => (((t.part part).pool.find? (fun e => e.1 == die)).map (fun e => e.2)).getD []
      let full : State → Bool := fun t => decide (16384 ≤ (t.replicas.filter (fun p => p.die == die)).length)
      if !r.v || !r.sl || r.fr || ((s.part part).rcd.pool[die]?).getD 0 = 0 || s.replicas.any (fun p => p.die == die && p.sfn == r.bfn) then some s
      else
        let s1 := if (frames s).isEmpty || full s then
            (match s.replicas.find? (fun p => p.die == die && p.pt == r.pt) with | some v => s.dropReplica v | none => s)
          else s
        match frames s1 with
        | [] => some s
        | f :: l =>
          if full s1 then some s
          else
            let p2 := s1.part part
            let s2 := s1.setPart part { p2 with pool := p2.pool.map (fun (e : Nat × List (BitVec 40)) => if e.1 == die then (e.1, l) else e) }
            let s3 := (List.range (asSize r.ps / 128)).foldl (fun (t : State) i =>
              let la := r.bfn.toNat * 32 + i
              t.homeStore r.kid (f.toNat * 32 + i) (s.memLine r.kid la) (getD false s.poison la || s.poolDark la)) s2
            let s4 := { s3 with replicas := s3.replicas ++ [({ die := die, ps := r.ps, pt := r.pt, sfn := r.bfn, rfn := f } : Replica)] }
            match lookup s4.records (recKey home rcd) with
            | some r2 => some (s4.setRec (recKey home rcd) { r2 with rm := r2.rm ||| ((1 : BitVec 4) <<< die) })
            | none => none)
/-- Another device's free service invalidates the lines of its sealed pages that this device cached (R89, R90 step 5). -/
def execSealedLineInvalidate (base : BitVec 40) (frames : Nat) (s : State) : Host.Outcome State Fault Refusal :=
  .next { s with l2 := s.l2.filter (fun e =>
    !(e.2.isSealed && decide (base.toNat * 32 ≤ e.1 % 2 ^ 45) && decide (e.1 % 2 ^ 45 < base.toNat * 32 + frames * 32))) }

end Sys2Proof.Machine
end

