-- ==== Sys2Proof/Machine/Mill.lean ====
section
/-!
DEFINITION. The mill: gangs and the rendezvous latch (R241 to R244), matrix operations slab by slab (R161 to R163, R245 to
R249), stones (R251 to R254), accumulator access (R255) and quantisation (R152 to R154, R256, R257).
-/

namespace Sys2Proof.Machine

/-! ## The format block (R237, R238) -/

/-- Word `i` of a format block. -/
def fbWord (fb : BitVec 512) (i : Nat) : Nat := (fb.extractLsb' (64 * i) 64).toNat
def fbFca (fb : BitVec 512) : Nat := field (fbWord fb 0) 58 6
def fbFcb (fb : BitVec 512) : Nat := field (fbWord fb 0) 52 6
def fbFcc (fb : BitVec 512) : Nat := field (fbWord fb 0) 46 6
def fbBma (fb : BitVec 512) : Bool := bitAt (fbWord fb 0) 45
def fbBmb (fb : BitVec 512) : Bool := bitAt (fbWord fb 0) 44
def fbLa (fb : BitVec 512) : Nat := field (fbWord fb 0) 36 8
def fbLb (fb : BitVec 512) : Nat := field (fbWord fb 0) 28 8
def fbPa (fb : BitVec 512) : Nat := field (fbWord fb 0) 24 4 + 1
def fbW (fb : BitVec 512) : Nat := field (fbWord fb 0) 18 6
def fbSpn (fb : BitVec 512) : Nat := field (fbWord fb 0) 15 3
def fbSsd (fb : BitVec 512) : Nat := field (fbWord fb 1) 32 32
def fbAstr (fb : BitVec 512) : Nat := field (fbWord fb 1) 0 20
def fbAsv (fb : BitVec 512) : Bool := bitAt (fbWord fb 2) 63
def fbAbm (fb : BitVec 512) : Nat := field (fbWord fb 2) 32 20
def fbAsc (fb : BitVec 512) : Nat := field (fbWord fb 2) 0 20
def fbBsv (fb : BitVec 512) : Bool := bitAt (fbWord fb 3) 63
def fbBsc (fb : BitVec 512) : Nat := field (fbWord fb 3) 0 57
def fbBbm (fb : BitVec 512) : Nat := field (fbWord fb 4) 0 57
def fbBstr (fb : BitVec 512) : Nat := field (fbWord fb 5) 0 32
/-- Every reserved bit is zero. -/
def fbReservedOk (fb : BitVec 512) : Bool :=
  field (fbWord fb 0) 0 15 == 0 && field (fbWord fb 1) 20 12 == 0 && field (fbWord fb 2) 52 11 == 0 && field (fbWord fb 2) 20 12 == 0 &&
  field (fbWord fb 3) 57 6 == 0 && field (fbWord fb 4) 57 7 == 0 && field (fbWord fb 5) 32 32 == 0 && fbWord fb 6 == 0 && fbWord fb 7 == 0

/-- A code of the binary8 family. -/
def isQ8 (c : Nat) : Bool := decide (0x21 ≤ c) && decide (c ≤ 0x3F) && c % 8 != 0
def isIntCode (c : Nat) : Bool := decide (8 ≤ c) && decide (c ≤ 0x0B)
def fcaMill (c : Nat) : Bool := isQ8 c || c == 2 || c == 3 || c == 4 || isIntCode c
def fcaQuant (c : Nat) : Bool := isQ8 c || c == 8 || c == 0x0A
def fcbMill (c : Nat) : Bool := isQ8 c || c == 3 || c == 4 || isIntCode c
/-- Bits of an element of a format code. -/
def codeBits (c : Nat) : Nat := ((Fmt.ofCode c).map (fun f => f.bits)).getD 8
def codeFmt (c : Nat) : Fmt := (Fmt.ofCode c).getD Fmt.f32
/-- The B width factor (R238). -/
def qFactor (fcb : Nat) : Nat := if fcb = 3 ∨ fcb = 4 ∨ fcb = 0x0B then 2 else 1
/-- Kept elements of 64 (R237). -/
def keptN (spn : Nat) : Nat := if spn = 1 then 8 else if spn = 2 then 16 else if spn = 3 then 32 else if spn = 4 then 48 else 64
/-- P_A suits an integer format. -/
def paOk (fca pa : Nat) : Bool :=
  if fca = 8 ∨ fca = 9 then decide (4 ≤ pa) else if fca = 0x0A ∨ fca = 0x0B then decide (8 ≤ pa) else true
/-- A row of `n` elements fits its stride. -/
def strideOk (str n bits : Nat) : Bool := str % 16 == 0 && decide (n * bits ≤ str * 8)

/-! ## The shape word (R239) -/

def shKb (x : DWord) : Nat := field x.toNat 6 3 + 1
def shNb (x : DWord) : Nat := field x.toNat 9 3 + 1
def shSb (x : DWord) : Nat := field x.toNat 0 6
def shGta (x : DWord) : Nat := field x.toNat 12 20
/-- Reserved bits and the group-table field. -/
def shapeOk (mmag : Bool) (x : DWord) : Bool :=
  x.toNat / 2 ^ 32 == 0 && (if mmag then shGta x % 16 == 0 && shSb x == 0 else shGta x == 0)
/-- The last stone lies below STN. -/
def stonesFit (d : JobDesc) (x : DWord) (q : Nat) : Bool := decide (shSb x + shKb x * shNb x * q ≤ d.stn)

/-! ## The word of QNTZ and DQNT (R256) -/

def qwRows (x : DWord) : Nat := field x.toNat 20 8 + 1
def qwLen (x : DWord) : Nat := 64 * (field x.toNat 28 6 + 1)
def qwDst (x : DWord) : Nat := field x.toNat 0 20

/-! ## Stones (R246, R251) -/

def StoneRec.zero : StoneRec :=
  { fva := 0, lva := 0, shw := 0, vl := false, rl := false, fcb := 0, spn := 0, ki := 0, ni := 0, hf := false, ssd := 0 }
def Stone.zero : Stone := { rcd := StoneRec.zero, ints := [], starts := [], classes := [], exps := [] }
def Team.stone (t : Team) (i : Nat) : Stone := getD Stone.zero t.stones i
def Team.setStone (t : Team) (i : Nat) (x : Stone) : Team :=
  { t with stones := setD Stone.zero t.stones i x, dirtyS := setD false t.dirtyS i true }
/-- Element (k, c) of a stone: 8 bits, or 16 over a pair of columns. -/
def Stone.int (x : Stone) (q k c : Nat) : Int :=
  if q = 2 then toSigned 16 ((getD 0 x.ints (128 * k + c)).toNat + 256 * (getD 0 x.ints (128 * k + c + 1)).toNat)
  else toSigned 8 (getD 0 x.ints (128 * k + c)).toNat

/-! ## Blocks (R153, R154, R161) -/

/-- The block of each of `n` elements from element `k`: a block starts at every `per`-th element, after 256 elements, and at a
set bit or after `len` elements. `j` is the block so far, `cnt` its length. -/
def blockIds (per len : Nat) (bm : Option (Nat → Bool)) : Nat → Nat → Nat → Nat → List Nat
  | 0, _, _, _ => []
  | n + 1, k, j, cnt =>
    let start := k % per == 0 || cnt == 256 || (match bm with | some f => f k | none => cnt == len)
    let j2 := if start && k != 0 then j + 1 else j
    j2 :: blockIds per len bm n (k + 1) j2 (if start then 1 else cnt + 1)
/-- Blocks of a list of ids. -/
def blockCount (ids : List Nat) : Nat := (ids.getLast?.map (fun j => j + 1)).getD 0

/-- Operand elements converted (R161): integers, combined exponents by block, values. -/
structure Conv where
  ints : List Int
  ids : List Nat
  exps : List Int
  vals : List Num
deriving DecidableEq, Repr

/-- Largest exponent of the finite nonzero elements of a block. -/
def blockExp (xs : List (Num × Nat)) (j : Nat) : Option Int :=
  (xs.filter (fun e => e.2 == j)).foldl (fun (m : Option Int) e => match e.1.exp?, m with
    | some a, some b => some (if b < a then a else b)
    | some a, none => some a
    | none, b => b) none
/-- The integer of an element of a block with exponent `e`: `sh` scales, `cap` limits. -/
def convInt (isInt : Bool) (sh : Nat) (cap : Nat) (e : Int) : Num → Int
  | .fin neg m ex _ =>
    let v := if isInt then m else if m = 0 then 0 else
      (let r := (roundAt 1 false m (ex + sh - e) false 0 0).1
       if cap < r then cap else r)
    if neg then -(v : Int) else v
  | _ => 0
/-- Convert the elements of an operand row or column. `open_` is the exponent of a block with no finite nonzero element, which
the spec does not state (log 31): it multiplies zero. -/
def convert (isInt : Bool) (sh cap : Nat) (open_ : Int) (xs : List Num) (ids sc : List Nat) : Conv :=
  let ys := (xs.zip ids).map (fun (e : Num × Nat) => if sc.getD e.2 127 = 255 then (Num.nan false, e.2) else e)
  let es := (List.range (blockCount ids)).map (fun j => blockExp ys j)
  { ints := ys.map (fun (e : Num × Nat) => match (es.getD e.2 none) with | some x => convInt isInt sh cap x e.1 | none => 0),
    ids := ids,
    exps := (List.range (blockCount ids)).map (fun j =>
      let s : Int := (sc.getD j 127 : Nat) - 127
      if isInt then s else match es.getD j none with | some x => x - sh + s | none => open_),
    vals := ys.map (fun (e : Num × Nat) => e.1) }

/-! ## The A operand in team memory (R240) -/

/-- Code of element `k` of a packed row. -/
def codeAt (mem : List Host.Cell) (base bits k : Nat) : Nat :=
  if bits = 4 then field (Memory.read mem (base + k / 2)).toNat (4 * (k % 2)) 4
  else Memory.num mem (base + k * (bits / 8)) (bits / 8)
/-- Block ids of a row of `n` elements in coded form: bitmap at `bm`, or fixed length. -/
def rowIds (mem : List Host.Cell) (fb : BitVec 512) (base r n : Nat) : List Nat :=
  let bit := fun (k : Nat) => bitAt (Memory.read mem (base + fbAbm fb + r * n / 8 + k / 8)).toNat (k % 8)
  blockIds (2 ^ 64) (fbLa fb + 1) (if fbBma fb then some bit else none) n 0 0 0
/-- Scales of a row's blocks. -/
def rowScales (mem : List Host.Cell) (fb : BitVec 512) (base r n nblk : Nat) : List Nat :=
  (List.range nblk).map (fun j => if fbAsv fb then (Memory.read mem (base + fbAsc fb + r * n + j)).toNat else 127)
/-- Row `r` of A converted. -/
def aRow (mem : List Host.Cell) (fb : BitVec 512) (base r n : Nat) : Conv :=
  let f := codeFmt (fbFca fb)
  let ids := rowIds mem fb base r n
  let xs := (List.range n).map (fun k => f.value (codeAt mem (base + r * fbAstr fb) f.bits k))
  convert (isIntCode (fbFca fb)) (fbPa fb - 1) (2 ^ fbPa fb - 1) 0 xs ids (rowScales mem fb base r n (blockCount ids))
/-- Byte runs that row `r` of a coded operand names. -/
def rowRuns (mem : List Host.Cell) (fb : BitVec 512) (base r n : Nat) : List (Nat × Nat) :=
  [(base + r * fbAstr fb, (n * codeBits (fbFca fb) + 7) / 8)] ++
  (if fbBma fb then [(base + fbAbm fb + r * n / 8, n / 8)] else []) ++
  (if fbAsv fb then [(base + fbAsc fb + r * n, blockCount (rowIds mem fb base r n))] else [])

/-! ## Reads by the mill, word by word (R49, R94) -/

/-- The number of `n` bytes from `a` where words read before stand in place of memory. -/
def bufNum (buf : SMap DWord) (byte : Nat → Byte) (a n : Nat) : Nat :=
  ofBytes ((List.range n).map (fun i => match lookup buf ((a + i) / 8) with
    | some w => w.extractLsb' (8 * ((a + i) % 8)) 8
    | none => byte (a + i)))
/-- Team memory as an operation sees it. -/
def MillOp.mem_ (o : MillOp) (mem : List Host.Cell) : List Host.Cell :=
  o.buf.foldl (fun m e => Memory.writeN m (8 * e.1) (toBytes 8 e.2.toNat)) mem
/-- Words of byte runs. -/
def runWords (l : List (Nat × Nat)) : List Nat :=
  (l.flatMap (fun r => (List.range ((r.1 + r.2 + 7) / 8 - r.1 / 8)).map (fun i => r.1 / 8 + i))).eraseDups

/-- Bytes of a translated page now, within one line: an unsealed append-seal page reads zero beyond its commit tail (R78). -/
def State.engBytes (s : State) (kid : BitVec 6) (cl pa n : Nat) : List Byte :=
  if cl = 1 then s.asBytes kid pa n else toBytes n (s.numNow kid pa n)
/-- The page of an address among those of a cover. -/
def Cover.at_ (c : Cover) (va : Nat) : Option (Nat × BitVec 6 × Nat) :=
  (c.pins.find? (fun p => decide (p.1 ≤ va) && decide (va < p.1 + p.2.1))).map
    (fun p => (pteFn p.2.2.1 * 4096 + (va - p.1), pteKid p.2.2.1, pteCl p.2.2.1))
def State.covNum (s : State) (c : Cover) (va n : Nat) : Nat :=
  match c.at_ va with
  | some (pa, kid, cl) => ofBytes (s.engBytes kid cl pa n)
  | none => 0
/-- The first poisoned line of a byte run. -/
def State.covPoison (s : State) (c : Cover) (va n : Nat) : Option Nat :=
  (List.range ((va + n + 127) / 128 - va / 128)).findSome? (fun i =>
    match c.at_ ((va / 128 + i) * 128) with
    | some (pa, _, _) => if s.poisonNow (pa / 128) then some (pa / 128 * 128) else none
    | none => none)
/-- The format block at an address of a group's job: the mill's read (R110, R237). -/
def State.readBlock (s : State) (k : Nat) (va : DWord) : Except XFault (Xlate × BitVec 512) :=
  let g := s.group k
  (s.xlate g.job g.place.die .mill 64 va).map (fun x => (x, BitVec.ofNat 512 (ofBytes (s.engBytes x.kid x.cl x.pa 64))))
/-- Poison in a run of team memory that the mill reads. -/
def padPoisonAt (a : Nat) : Trap := padPoison (BitVec.ofNat 64 a)

/-! ## GANGSET (R241) -/

/-- A nonzero mask is legal for a group. -/
def gangOk (d : JobDesc) (q : Nat) (m : DWord) : Bool :=
  let n := popcount 64 m.toNat
  decide (2 ≤ n) && decide (n ≤ 6) && m.getLsbD q && (lanesOf m).all (fun i => decide (i < d.gpt) && (!d.pr || i % 2 == q % 2))
def execGangset (d : BitVec 2) (a : BitVec 7) (s : State) : Host.Outcome State Fault Refusal :=
  let g := s.curGroup
  let m := g.sget a.toNat
  (if m ≠ 0 ∧ !gangOk s.curJob.jd g.q m then Act.trap (Trap.illegalOperand 0)
   else regAct s s.cur.lanes (.ok (g.gset d.toNat m))).run s

/-! ## Arrival at the latch (R242, R243) -/

/-- The record of an arrival agrees with another's. -/
def Arrival.agrees (x y : Arrival) : Bool :=
  x.opc == y.opc && x.z == y.z && x.hb == y.hb && x.hs == y.hs && (x.opc != 0x73 || x.a == y.a)
/-- Tile ranges of two arrivals meet. -/
def Arrival.meets (x y : Arrival) : Bool := overlap x.tile (shNb x.hs) y.tile (shNb y.hs)
/-- MMA, MMAS or MMAG: the issue checks in order, then the arrival. -/
def mmaAct (s : State) (opc : Nat) (x : MmaOp) : Act :=
  let g := s.curGroup
  let d := s.curJob.jd
  let mask := g.gget x.gang.toNat
  let hs := g.sget (x.b.toNat + 1)
  let hb := g.sget x.b.toNat
  let tk := g.tk
  if mask = 0 then .trap (Trap.illegalOperand 0)
  else if !shapeOk (opc == 0x73) hs || !stonesFit d hs 1 then .trap (Trap.illegalOperand 0)
  else if d.atl < x.d.toNat + shNb hs then .trap (Trap.illegalOperand 0)
  else if hb.toNat % 64 ≠ 0 then s.accFault { cause := 0x08, rsn := 0 } 5 0 hb
  else if g.pathFull .m then .hold
  else
    let a : Arrival := { q := g.q, opc := opc, z := x.z, hb := hb, hs := hs, a := g.sget x.a.toNat, tile := x.d.toNat, pc := s.cur.pc,
                         len := s.cur.len, lanes := s.cur.lanes, id := g.nextId }
    let l := s.curTeam.latch mask
    let l2 : Latch := { l with arr := l.arr ++ [a] }
    let t := (s.setCurGroup { g.raise (s.flight .m g.nextId true []) with wait := .latch mask })
    let u := t.setCurTeam (t.curTeam.setLatch l2)
    if l.arr.any (fun y => !a.agrees y || a.meets y) then .wait ((u.latchTrap tk l2 (Trap.of 0x06)).latchCheck tk)
    else .wait (u.latchCheck tk)
def execMma (x : MmaOp) (s : State) : Host.Outcome State Fault Refusal := (mmaAct s 0x71 x).run s
def execMmas (x : MmaOp) (s : State) : Host.Outcome State Fault Refusal := (mmaAct s 0x72 x).run s
def execMmag (x : MmaOp) (s : State) : Host.Outcome State Fault Refusal := (mmaAct s 0x73 x).run s

/-! ## Latch completion (R244) -/

/-- Logical K of an operation (R240, R247). -/
def logicalK (opc : Nat) (fb : BitVec 512) (kb : Nat) : Nat :=
  if opc = 0x72 then kb * 8192 / keptN (fbSpn fb) else 128 * kb
/-- Step 2: the fields that the MMA family reads. -/
def fbMillOk (opc : Nat) (fb : BitVec 512) (kb : Nat) : Bool :=
  fbReservedOk fb && fcaMill (fbFca fb) && fcbMill (fbFcb fb) && fbFcc fb == 2 && paOk (fbFca fb) (fbPa fb) &&
  (if opc = 0x72 then decide (1 ≤ fbSpn fb) && decide (fbSpn fb ≤ 4) && kb * 8192 % (keptN (fbSpn fb) * 64) == 0 else fbSpn fb == 0) &&
  strideOk (fbAstr fb) (logicalK opc fb kb) (codeBits (fbFca fb))
/-- Row count of a member, and its first panel row (R248). -/
def gtCnt (e : BitVec 16) : Nat := field e.toNat 0 8
def gtSb (e : BitVec 16) : Nat := field e.toNat 8 6
def gtFirst (gt : List (BitVec 16)) (i : Nat) : Nat := (gt.take i).foldl (fun n e => n + gtCnt e) 0
/-- The byte runs of the operands: A rows with bitmaps and scales, and the group table. -/
def latchRuns (mem : List Host.Cell) (opc : Nat) (fb : BitVec 512) (arr : List Arrival) (hs : DWord) : List (Nat × Nat) :=
  let k := logicalK opc fb (shKb hs)
  let rows := fun (base n : Nat) => (List.range n).flatMap (fun r => rowRuns mem fb base r k)
  if opc = 0x73 then
    (match arr with | a :: _ => rows a.a.toNat (16 * arr.length) | [] => []) ++ [(shGta hs, 2 * arr.length)]
  else arr.flatMap (fun a => rows a.a.toNat 16)
/-- Step 6: every stone named by a member holds its place of one load. -/
def stonesOk (t : Team) (d : JobDesc) (opc : Nat) (fb : BitVec 512) (hs : DWord) (sb : Nat) : Bool :=
  let q := qFactor (fbFcb fb)
  let n := shKb hs * shNb hs * q
  decide (sb + n ≤ d.stn) && (List.range n).all (fun i =>
    let r := (t.stone (sb + i)).rcd
    r.vl && r.fcb.toNat == fbFcb fb && r.ki.toNat == i / q / shNb hs && r.ni.toNat == i / q % shNb hs && r.hf == (i % q == 1) &&
    (if opc = 0x72 then r.spn.toNat == fbSpn fb && r.ssd.toNat == fbSsd fb else r.spn == 0))
/-- First stone of each member that takes part. -/
def memberSbs (opc : Nat) (gt : List (BitVec 16)) (hs : DWord) : List Nat :=
  if opc = 0x73 then (gt.filter (fun e => gtCnt e != 0)).map gtSb else [shSb hs]
/-- Steps 2 to 6 of R244 and the poison of what the mill reads (R49). -/
def latchFault (s : State) (tk : Nat) (d : JobDesc) (opc : Nat) (fb : BitVec 512) (arr : List Arrival) (hs : DWord)
    (gt : List (BitVec 16)) : Option Trap :=
  let t := s.team tk
  if !fbMillOk opc fb (shKb hs) then some (Trap.illegalOperand 0)
  else match (latchRuns t.mem opc fb arr hs).find? (fun r => (padBounds d .team r.1 r.2 0 1).isSome) with
    | some r => some { Trap.protection 8 0 (BitVec.ofNat 64 r.1) with at_ := 5 }
    | none =>
      if opc = 0x73 ∧ gt.any (fun e => field e.toNat 14 2 != 0) then some (Trap.illegalOperand 0)
      else if opc = 0x73 ∧ (gt.any (fun e => decide (16 < gtCnt e)) ∨ 16 * arr.length < gtFirst gt gt.length) then some (Trap.of 0x07)
      else if !(memberSbs opc gt hs).all (stonesOk t d opc fb hs) then some (Trap.illegalOperand 0)
      else match (latchRuns t.mem opc fb arr hs).find? (fun r => wordsPoisoned t.poison r.1 r.2) with
        | some r => some (padPoisonAt r.1)
        | none => none
/-- A member is released: it retires its MMA and issues on. -/
def State.release (s : State) (k : Nat) (a : Arrival) : State :=
  s.releaseFlight k a.id
/-- A fault of a latch that is a page fault: every member waits on its record (R116), its arrival discarded. -/
def State.latchPageFault (s : State) (tk : Nat) (l : Latch) (e : XFault) (va : Nat) : Option State :=
  let s1 := s.setTeam tk ((s.team tk).setLatch { l with arr := [] })
  l.arr.foldl (fun (u : Option State) a => u.bind (fun u =>
    let k := tk * 64 + a.q
    let v := u.setGroup k ((u.group k).discard a.id)
    (v.faultRecord k va e 5 (some { grp := k, lanes := a.lanes, act := a.lanes, pc := a.pc, len := a.len, lane := 0, at_ := 5, addr := BitVec.ofNat 64 va }) none).map (fun r => r.1.setGroup k { (r.1.group k).count 7 1 with wait := .fault (r.1.group k).place.die r.2 }))) (some s1)
/-- Arrivals in ascending place order. -/
def Latch.members (l : Latch) : List Arrival := (lanesOf l.mask).filterMap (fun q => l.arr.find? (fun a => a.q == q))
/-- An operation that works on stones. -/
def MillOp.onStones (o : MillOp) : Bool := !o.isQuant
/-- The latch may complete: every member has arrived, its earlier stores have performed (R103), and older loads of the team's stones and QNTZ and
DQNT of a member are complete (R98, R254). -/
def State.latchReady (s : State) (tk : Nat) (l : Latch) : Bool :=
  l.mask != 0 && l.arr.length == (lanesOf l.mask).length &&
  !(s.pend.any (fun b => b.op.isWrite && l.arr.any (fun a => b.grp == tk * 64 + a.q))) &&
  !((s.team tk).mill.any (fun o => !o.isMma && (o.onStones || o.mask &&& l.mask != 0)))
/-- A copy of a member has still to write bytes that the operation reads: runs of team memory, or the format block (R98). -/
def State.latchCopies (s : State) (tk : Nat) (arr : List Arrival) (runs : List (Nat × Nat)) (pa : Nat) : Bool :=
  s.copies.any (fun c => arr.any (fun a => c.grp == tk * 64 + a.q) &&
    ((c.ds == .team && runs.any (fun r => c.leftTouch false r.1 r.2)) || s.copyReach c pa 64 false))
/-- A stop discards arrivals (R249), so a latch completes only in a cluster that is placed. -/
def State.teamPlaced (s : State) (j team : Nat) : Bool :=
  !(s.job j).paused && (match s.teamCluster j team with | some c => c.st == .placed | none => false)
/-- The group table of MMAG (R248). -/
def groupTable (mem : List Host.Cell) (opc : Nat) (hs : DWord) (n : Nat) : List (BitVec 16) :=
  if opc = 0x73 then (List.range n).map (fun i => BitVec.ofNat 16 (Memory.num mem (shGta hs + 2 * i) 2)) else []
/-- The latch of a place mask completes (R242, R244). -/
def execLatchComplete (job team : Nat) (mask : DWord) (s : State) : Host.Outcome State Fault Refusal :=
  let tk := tkey job team
  let l := (s.team tk).latch mask
  ev (match l.members with
    | [] => none
    | a :: rest =>
      let arr := a :: rest
      let k := tk * 64 + a.q
      if !s.latchReady tk l || !s.teamPlaced job team then none
      else match s.readBlock k a.hb with
        | .error e =>
          if e.cause = 0x10 then s.latchPageFault tk { l with arr := arr } e a.hb.toNat
          else some (s.latchTrap tk { l with arr := arr } { Trap.of e.cause with rsn := e.rsn, at_ := 5, addr := a.hb })
        | .ok r =>
          let fb := r.2
          let t := (s.useXlate job (s.group k).place.die a.hb.toNat .mill r.1).readVia (s.group k).place.die (r.1.pa / 128)
          let gt := groupTable (s.team tk).mem a.opc a.hs arr.length
          if s.latchCopies tk arr (latchRuns (s.team tk).mem a.opc fb arr a.hs) r.1.pa then none
          else if s.poisonNow (r.1.pa / 128) then some (t.latchTrap tk { l with arr := arr } (poisonAt r.1.pa))
          else match latchFault s tk (s.job job).jd a.opc fb arr a.hs gt with
            | some e => some (t.latchTrap tk { l with arr := arr } e)
            | none =>
              let tm := (t.team tk).setLatch { l with arr := [] }
              let o : MillOp := { kind := .mma, opc := a.opc, z := a.z, mask := mask, mem := arr, fb := fb, gt := gt, shape := a.hs, kb := shKb a.hs,
                                  slab := 0, side := [], pin := 0, buf := [], fl := 0, mode := 0, sat := false, free := 0 }
              let u := t.setTeam tk { tm with mill := tm.mill ++ [o] }
              some (arr.foldl (fun (v : State) x => v.release (tk * 64 + x.q) x) u))

/-! ## One slab (R161 to R163, R245 to R249) -/

/-- Swap two elements. -/
def swap (l : List Nat) (i j : Nat) : List Nat := (l.set i (l.getD j 0)).set j (l.getD i 0)
/-- The permutation of R247 after steps i = 63 down to 64 − n. -/
def permGo (seed : DWord) (gk nbi ssd : Nat) : Nat → List Nat → List Nat
  | 0, l => l
  | n + 1, l =>
    let p := permGo seed gk nbi ssd n l
    let i := 63 - n
    let t := n
    swap p i (pick4 (philox seed gk nbi ssd (0x80000000 + t / 4)) (t % 4) % (i + 1))
/-- Kept positions of a group, ascending. -/
def kept (seed : DWord) (gk nbi ssd n : Nat) : List Nat :=
  let p := (permGo seed gk nbi ssd 63 (List.range 64)).take n
  (List.range 64).filter (fun i => p.contains i)
/-- Logical positions of the 128 stored rows of a slab for a column block. -/
def slabPos (opc : Nat) (seed : DWord) (fb : BitVec 512) (slab nbi : Nat) : List Nat :=
  if opc = 0x72 then
    let n := keptN (fbSpn fb)
    let g0 := 128 * slab / n
    let groups := (List.range (128 / n + 2)).map (fun i => (g0 + i, kept seed (g0 + i) nbi (fbSsd fb) n))
    (List.range 128).map (fun i =>
      let r := 128 * slab + i
      r / n * 64 + (((groups.find? (fun e => e.1 == r / n)).map (fun e => e.2)).getD []).getD (r % n) 0)
  else (List.range 128).map (fun i => 128 * slab + i)

/-- One update of an accumulator element (R162). -/
def accUpdate (v : Nat) (sum : Int) (x : Int) : Nat :=
  (Fmt.f32.round 1 false false 0 (fAdd 1 (Fmt.f32.value v) ((Num.ofInt sum).scale x)).1).1
/-- Flags of one product on the side path: 1 NaN, 2 +∞, 4 −∞. An element of a stone is known by its class and integer (log 32). -/
def sideFlags (a : Num) (cl : BitVec 2) (ib : Int) : Nat :=
  let sgn := fun (neg : Bool) => if neg then 4 else 2
  match a with
  | .nan _ => 1
  | .inf na =>
    if cl = 3 then 1 else if cl = 1 then sgn na else if cl = 2 then sgn (!na) else if ib = 0 then 1 else sgn (na != decide (ib < 0))
  | .fin na m _ _ =>
    if cl = 3 then 1 else if cl = 0 then 0 else if m = 0 then 1 else sgn (na != (cl == 2))
/-- The state of an element within a slab: accumulator, sum of the open segment and its exponent, A block, B block, side flags. -/
structure Seg where
  acc : Nat
  sum : Int
  x : Int
  ida : Nat
  jb : Nat
  fl : Nat
deriving DecidableEq, Repr
/-- One stored row of a slab against an element. -/
def segStep (row : Conv) (st : Stone) (q c : Nat) (g : Seg) (e : Nat × Nat) : Seg :=
  let k := e.1
  let p := e.2
  let ida := row.ids.getD p 0
  let bs := getD false st.starts (128 * k + c)
  let ib := st.int q k c
  let jb := if bs && k != 0 then g.jb + 1 else g.jb
  let prod := row.ints.getD p 0 * ib
  let fl := g.fl ||| sideFlags (row.vals.getD p (Num.zero false)) (getD 0 st.classes (128 * k + c)) ib
  let x := row.exps.getD ida 0 + (getD 0 st.exps (256 * c + jb)).toInt
  if k = 0 then { acc := g.acc, sum := prod, x := x, ida := ida, jb := jb, fl := fl }
  else if bs || ida != g.ida then { acc := accUpdate g.acc g.sum g.x, sum := prod, x := x, ida := ida, jb := jb, fl := fl }
  else { g with sum := g.sum + prod, fl := fl }
/-- An element after a slab, with the flags of its products. -/
def slabElem (row : Conv) (st : Stone) (q c : Nat) (pos : List Nat) (v : Nat) : Nat × Nat :=
  let g := ((List.range 128).zip pos).foldl (segStep row st q c) { acc := v, sum := 0, x := 0, ida := 0, jb := 0, fl := 0 }
  (accUpdate g.acc g.sum g.x, g.fl)
/-- The side path's verdict (R163). -/
def sideFinal (v fl : Nat) : Nat :=
  let x := Fmt.f32.value v
  if bitAt fl 0 || (bitAt fl 1 && bitAt fl 2) || x.isNan then 0x7FC00000
  else if fl = 0 then v
  else
    let neg := bitAt fl 2
    match x with
    | .inf n => if n == neg then Fmt.f32.infCode neg else 0x7FC00000
    | _ => Fmt.f32.infCode neg

/-- Rows that a member computes: A base, first panel row, count, first stone. -/
def MillOp.rowsOf (o : MillOp) (i : Nat) (a : Arrival) : Nat × Nat × Nat × Nat :=
  if o.opc = 0x73 then
    let e := o.gt.getD i 0
    (a.a.toNat, gtFirst o.gt i, gtCnt e, gtSb e)
  else (a.a.toNat, 0, 16, shSb o.shape)
/-- The key of an accumulator element. -/
def accKey (tile r c : Nat) : Nat := tile * 2048 + r * 128 + c
/-- One element of a slab. -/
def elemStep (seed : DWord) (o : MillOp) (a : Arrival) (sb : Nat) (row : Conv) (r n : Nat) (e : Team × List (Nat × BitVec 3)) :
    Team × List (Nat × BitVec 3) :=
  let q := qFactor (fbFcb o.fb)
  let nbi := n / 128
  let c := n % 128
  let st := e.1.stone (sb + (o.slab * shNb o.shape + nbi) * q + (if q = 2 then c / 64 else 0))
  let key := accKey (a.tile + nbi) r c
  let v0 := if o.z && o.slab == 0 then 0 else (getD 0 e.1.acc key).toNat
  let x := slabElem row st q (if q = 2 then 2 * (c % 64) else c) (slabPos o.opc seed o.fb o.slab nbi) v0
  let fl := getD 0 e.2 key ||| BitVec.ofNat 3 x.2
  let last := o.slab + 1 == o.kb
  let v := if last then sideFinal x.1 fl.toNat else x.1
  ({ e.1 with acc := setD 0 e.1.acc key (BitVec.ofNat 32 v), dirtyT := setD false e.1.dirtyT (a.tile + nbi) true }, setD 0 e.2 key fl)
/-- The slab of every member. -/
def State.slabTeam (s : State) (tk : Nat) (seed : DWord) (o : MillOp) : Team × List (Nat × BitVec 3) :=
  let t0 := s.team tk
  let mem := o.mem_ t0.mem
  let k := logicalK o.opc o.fb o.kb
  ((List.range o.mem.length).zip o.mem).foldl (fun (e : Team × List (Nat × BitVec 3)) m =>
    let w := o.rowsOf m.1 m.2
    (List.range w.2.2.1).foldl (fun (e : Team × List (Nat × BitVec 3)) r =>
      let row := aRow mem o.fb w.1 (w.2.1 + r) k
      (List.range (128 * shNb o.shape)).foldl (fun e n => elemStep seed o m.2 w.2.2.2 row r n e) e) e) (t0, o.side)
/-- An operation waits for the older ones of a group of its own; one on stones waits for the older loads of the team, a load for every older
operation on stones (R254). -/
def Team.millFirst (t : Team) (i : Nat) (o : MillOp) : Bool :=
  !(t.mill.take i).any (fun x => x.mask &&& o.mask != 0 || (x.onStones && o.onStones && !(x.isMma && o.isMma)))
/-- An operation leaves the mill: its pins are released, its instructions complete. -/
def State.millDone (s : State) (tk i : Nat) (o : MillOp) : State :=
  let t := s.setTeam tk { s.team tk with mill := dropAt (s.team tk).mill i }
  o.mem.foldl (fun (u : State) a => u.setGroup (tk * 64 + a.q) ((u.group (tk * 64 + a.q)).flightDone a.id)) (if o.pin = 0 then t else t.unpin o.pin)
/-- An operation traps in every member when all of their older accesses have performed (R49, R104). -/
def State.millTrap (s : State) (tk i : Nat) (o : MillOp) (t : Trap) : Option State :=
  if o.mem.all (fun a => (s.group (tk * 64 + a.q)).olderDone a.id) then
    let u := s.setTeam tk { s.team tk with mill := dropAt (s.team tk).mill i }
    some (o.mem.foldl (fun (u : State) a => u.lateTrapOf (tk * 64 + a.q) a.id false t) (if o.pin = 0 then u else u.unpin o.pin))
  else none
/-- The operation after a part: the next one, no word of it read. -/
def MillOp.next (o : MillOp) (side : List (Nat × BitVec 3)) (fl : Nat) : MillOp := { o with slab := o.slab + 1, side := side, buf := [], fl := fl }
/-- Byte runs of team memory that the part under way of an operation reads: A rows with their scales and bitmaps, or a row of QNTZ or DQNT. -/
def MillOp.runs (o : MillOp) (mem : List Host.Cell) : List (Nat × Nat) :=
  match o.kind, o.mem with
  | .mma, _ =>
    ((List.range o.mem.length).zip o.mem).flatMap (fun m =>
      let w := o.rowsOf m.1 m.2
      (List.range w.2.2.1).flatMap (fun r => rowRuns mem o.fb w.1 (w.2.1 + r) (logicalK o.opc o.fb o.kb)))
  | .load _, _ => []
  | .qntz, a :: _ => let n := qwLen o.shape * ((codeFmt (fbFcc o.fb)).bits / 8); [(a.a.toNat + o.slab * n, n)]
  | .dqnt, a :: _ => rowRuns mem o.fb a.a.toNat o.slab (qwLen o.shape)
  | .qntz, [] => []
  | .dqnt, [] => []
/-- A poisoned run of those. -/
def Team.badRun (t : Team) (o : MillOp) : Option (Nat × Nat) := (o.runs (o.mem_ t.mem)).find? (fun r => wordsPoisoned t.poison r.1 r.2)
/-- A mill commits the next slab of a matrix operation; the last slab ends it. -/
def execSlabCommit (job team i : Nat) (s : State) : Host.Outcome State Fault Refusal :=
  let tk := tkey job team
  ev (match (s.team tk).mill[i]? with
    | none => none
    | some o =>
      if !o.isMma || !s.teamRuns job team || !(s.team tk).millFirst i o then none
      else match (s.team tk).badRun o with
        | some r => s.millTrap tk i o (padPoisonAt r.1)
        | none =>
          let e := s.slabTeam tk (s.job job).jd.seed o
          let t := o.mem.foldl (fun (u : State) a => u.setGroup (tk * 64 + a.q) ((u.group (tk * 64 + a.q)).count 8 1)) s
          if o.slab + 1 = o.kb then some ((t.setTeam tk e.1).millDone tk i o)
          else some (t.setTeam tk { e.1 with mill := setAt e.1.mill i (o.next e.2 0) }))

/-! ## BLOAD, BLOADG, BREL (R251 to R254) -/

/-- The pages of the B operand, its scales and its bitmaps (R110). -/
def State.bCover (s : State) (job die : Nat) (fb : BitVec 512) (src kb nb : Nat) : Cover :=
  let c1 := s.coverRows job die .mill ((128 * nb * codeBits (fbFcb fb) + 7) / 8) (fbBstr fb) (128 * kb) src Cover.start
  let c2 := if fbBsv fb then s.coverRange job die .mill 4098 (fbBsc fb) (fbBsc fb + 128 * nb * (128 * kb)) c1 else c1
  if fbBmb fb then s.coverRange job die .mill 4098 (fbBbm fb) (fbBbm fb + 128 * nb * (16 * kb)) c2 else c2
/-- Code of an element of B, read through `rd` (address, bytes). -/
def bCode (rd : Nat → Nat → Nat) (fb : BitVec 512) (src row col : Nat) : Nat :=
  let bits := codeBits (fbFcb fb)
  let a := src + row * fbBstr fb
  if bits = 4 then field (rd (a + col / 2) 1) (4 * (col % 2)) 4 else rd (a + col * (bits / 8)) (bits / 8)
/-- A column of B converted, over all its stored rows. -/
def bColumn (rd : Nat → Nat → Nat) (fb : BitVec 512) (src kb col : Nat) (open_ : Int) : Conv :=
  let f := codeFmt (fbFcb fb)
  let w := if qFactor (fbFcb fb) = 2 then 16 else 8
  let n := 128 * kb
  let bit := fun (k : Nat) => bitAt (rd (fbBbm fb + col * 16 * kb + k / 8) 1) (k % 8)
  let ids := blockIds 128 (fbLb fb + 1) (if fbBmb fb then some bit else none) n 0 0 0
  let sc := (List.range (blockCount ids)).map (fun j => if fbBsv fb then rd (fbBsc fb + col * n + j) 1 else 127)
  convert (isIntCode (fbFcb fb)) (w - 2) (2 ^ (w - 1) - 1) open_
    ((List.range n).map (fun r => f.value (bCode rd fb src r col))) ids sc
/-- Class of an element (R246). -/
def classOf : Num → BitVec 2
  | .nan _ => 3
  | .inf neg => if neg then 2 else 1
  | .fin _ _ _ _ => 0
/-- Put a converted column's slab into column `c` of a stone. -/
def Stone.putColumn (x : Stone) (v : Conv) (q slab c : Nat) : Stone :=
  let j0 := v.ids.getD (128 * slab) 0
  (List.range 128).foldl (fun (x : Stone) k =>
    let p := 128 * slab + k
    let j := v.ids.getD p 0
    let i := wrap 16 (v.ints.getD p 0)
    let ints1 := setD 0 x.ints (128 * k + c) (BitVec.ofNat 8 i)
    { x with ints := if q = 2 then setD 0 ints1 (128 * k + c + 1) (BitVec.ofNat 8 (i / 256)) else ints1,
             starts := setD false x.starts (128 * k + c) (k == 0 || v.ids.getD (p - 1) 0 != j),
             classes := setD 0 x.classes (128 * k + c) (classOf (v.vals.getD p (Num.zero false))),
             exps := setD 0 x.exps (256 * c + (j - j0)) (BitVec.ofInt 16 (v.exps.getD j 0)) }) x
/-- The record of a stone of a load (R252). -/
def loadRec (g : Bool) (fb : BitVec 512) (src fva hs : DWord) (ki ni : Nat) (hf : Bool) : StoneRec :=
  { fva := fva.setWidth 57, lva := src.setWidth 57, shw := hs.setWidth 12, vl := true, rl := g, fcb := BitVec.ofNat 6 (fbFcb fb),
    spn := BitVec.ofNat 3 (fbSpn fb), ki := BitVec.ofNat 3 ki, ni := BitVec.ofNat 3 ni, hf := hf, ssd := BitVec.ofNat 32 (fbSsd fb) }
/-- Stone `i` of a load; the exponent of a block that no finite nonzero element gives is open (log 31). -/
def loadStone (rd : Nat → Nat → Nat) (g : Bool) (fb : BitVec 512) (src fva hs : DWord) (free i : Nat) : Stone :=
  let q := qFactor (fbFcb fb)
  let ki := i / q / shNb hs
  let ni := i / q % shNb hs
  let h := i % q
  (List.range (128 / q)).foldl (fun (x : Stone) cc =>
    x.putColumn (bColumn rd fb src.toNat (shKb hs) (128 * ni + 64 * h + cc) (sext64 16 (Config.free64 free).toNat).toInt) q ki (q * cc))
    { Stone.zero with rcd := loadRec g fb src fva hs ki ni (h == 1) }
/-- Stones of a load. -/
def loadCount (fb : BitVec 512) (hs : DWord) : Nat := shKb hs * shNb hs * qFactor (fbFcb fb)
/-- Every stone of a load, in ascending order. -/
def State.loadStones (s : State) (c : Cover) (g : Bool) (fb : BitVec 512) (src fva hs : DWord) (t : Team) : Team :=
  (List.range (loadCount fb hs)).foldl (fun (t : Team) i => t.setStone (shSb hs + i) (loadStone (s.covNum c) g fb src fva hs s.free i)) t
/-- Byte runs of global memory that stone `i` of a load reads: its rows' codes, and its columns' scales and bitmaps. -/
def stoneRuns (fb : BitVec 512) (src hs : DWord) (i : Nat) : List (Nat × Nat) :=
  let q := qFactor (fbFcb fb)
  let ki := i / q / shNb hs
  let c0 := 128 * (i / q % shNb hs) + 64 * (i % q)
  let bits := codeBits (fbFcb fb)
  let n := 128 * shKb hs
  (List.range 128).map (fun k => (src.toNat + (128 * ki + k) * fbBstr fb + c0 * bits / 8, 128 / q * bits / 8)) ++
  (if fbBsv fb then [(fbBsc fb + c0 * n, 128 / q * n)] else []) ++ (if fbBmb fb then [(fbBbm fb + c0 * (n / 8), 128 / q * (n / 8))] else [])
/-- The fields that a load reads (R238). -/
def fbLoadOk (fb : BitVec 512) (nb : Nat) : Bool :=
  fbReservedOk fb && fcbMill (fbFcb fb) && fbFcc fb == 2 && decide (fbSpn fb ≤ 4) && strideOk (fbBstr fb) (128 * nb) (codeBits (fbFcb fb))
/-- A page is a sealed append-seal page (R252). -/
def State.sealedPage (s : State) (x : Xlate) : Bool :=
  x.cl == 1 && (match s.recordAt x.pa with | some (_, r) => r.sl | none => false)
/-- The first poisoned line that a load reads. -/
def State.bPoison (s : State) (c : Cover) (fb : BitVec 512) (src kb nb : Nat) : Option Nat :=
  match (List.range (128 * kb)).findSome? (fun r => s.covPoison c (src + r * fbBstr fb) ((128 * nb * codeBits (fbFcb fb) + 7) / 8)) with
  | some p => some p
  | none =>
    match (if fbBsv fb then s.covPoison c (fbBsc fb) (128 * nb * (128 * kb)) else none) with
    | some p => some p
    | none => if fbBmb fb then s.covPoison c (fbBbm fb) (128 * nb * (16 * kb)) else none
/-- What a load meets before it begins: a fault at an address, a trap, or nothing. -/
inductive LoadStop | fault (x : XFault) (va : Nat) | trap (t : Trap)
def State.loadCheck (s : State) (k : Nat) (g : Bool) (src fva hs : DWord) : Except LoadStop (Xlate × BitVec 512 × Cover) :=
  let gr := s.group k
  match s.readBlock k fva with
  | .error e => .error (.fault e fva.toNat)
  | .ok r =>
    let fb := r.2
    if s.poisonNow (r.1.pa / 128) then .error (.trap (poisonAt r.1.pa))
    else if !fbLoadOk fb (shNb hs) || !stonesFit (s.job gr.job).jd hs (qFactor (fbFcb fb)) then .error (.trap (Trap.illegalOperand 0))
    else
      let c := s.bCover gr.job gr.place.die fb src.toNat (shKb hs) (shNb hs)
      if 4096 < c.count.length then .error (.trap (Trap.illegalOperand 0))
      else match c.fault with
        | some (e, va, _) => .error (.fault e va)
        | none =>
          if g && !(s.sealedPage r.1 && c.pins.all (fun p => s.sealedPage p.2.2.2.2)) then
            .error (.trap { Trap.protection 5 0 src with at_ := 5 })
          else match s.bPoison c fb src.toNat (shKb hs) (shNb hs) with
            | some pa => .error (.trap (poisonAt pa))
            | none => .ok (r.1, fb, c)
/-- Lines that a cover's pages hold and a copy of the group has still to write (R98). -/
def State.coverCopies (s : State) (c : Cover) : Bool :=
  s.copies.any (fun x => x.grp == s.cur.grp && c.pins.any (fun p => s.copyReach x (pteFn p.2.2.1 * 4096) p.2.1 false))
/-- The instruction being executed as the member of a mill operation. -/
def State.member (s : State) (opc : Nat) (src fva hs : DWord) : Arrival :=
  { q := s.curGroup.q, opc := opc, z := false, hb := fva, hs := hs, a := src, tile := 0, pc := s.cur.pc, len := s.cur.len, lanes := s.cur.lanes,
    id := s.curGroup.nextId }
/-- BLOAD and BLOADG enter the mill when the group's earlier accesses have performed (R102): from then on they read and write one stone after
the other (R254). -/
def bloadAct (s : State) (ldg : Bool) (a b : BitVec 7) : Act :=
  let g := s.curGroup
  let src := g.sget a.toNat
  let fva := g.sget b.toNat
  let hs := g.sget (b.toNat + 1)
  if !shapeOk false hs || !stonesFit s.curJob.jd hs 1 then .trap (Trap.illegalOperand 0)
  else if fva.toNat % 64 ≠ 0 then s.accFault { cause := 0x08, rsn := 0 } 5 0 fva
  else if src.toNat % 16 ≠ 0 then s.accFault { cause := 0x08, rsn := 0 } 5 0 src
  else if g.pathFull .m || !g.quiet then .hold
  else match s.loadCheck s.cur.grp ldg src fva hs with
    | .error (.fault x va) => s.accFault x 5 0 (BitVec.ofNat 64 va)
    | .error (.trap t) => .trap t
    | .ok (x, fb, c) =>
      if !s.pinRoom g.place.die c.pins.length || s.coverCopies c || s.copies.any (fun y => y.grp == s.cur.grp && s.copyReach y x.pa 64 false) then .hold
      else
        let id := s.nextCopy
        let t := (s.useXlate g.job g.place.die fva.toNat .mill x).readVia g.place.die (x.pa / 128)
        let o : MillOp := { kind := .load ldg, opc := 0x74, z := false, mask := laneBit g.q, mem := [s.member 0 src fva hs], fb := fb,
                            gt := [], shape := hs, kb := loadCount fb hs, slab := 0, side := [], pin := id, buf := [], fl := 0, mode := 0, sat := false, free := s.free }
        let u := t.pin g.job g.place.die id c
        let v := u.setCurTeam { u.curTeam with mill := u.curTeam.mill ++ [o] }
        regAct v.spend s.cur.lanes (.ok (g.raise (s.flight .m g.nextId true [])))
def execBload (a b : BitVec 7) (s : State) : Host.Outcome State Fault Refusal := (bloadAct s false a b).run s
def execBloadg (a b : BitVec 7) (s : State) : Host.Outcome State Fault Refusal := (bloadAct s true a b).run s
/-- BREL (R253). -/
def execBrel (a : BitVec 7) (s : State) : Host.Outcome State Fault Refusal :=
  let g := s.curGroup
  let hs := g.sget a.toNat
  let r := (s.curTeam.stone (shSb hs)).rcd
  let q := if r.vl then qFactor r.fcb.toNat else 1
  (if !shapeOk false hs || !stonesFit s.curJob.jd hs q then Act.trap (Trap.illegalOperand 0)
   else if s.curTeam.mill.any (fun o => o.onStones) then .hold
   else
     let t := (List.range (shKb hs * shNb hs * q)).foldl (fun (t : Team) i => t.setStone (shSb hs + i) Stone.zero) s.curTeam
     .done s.cur.lanes (s.setCurTeam t).advance).run s

/-! ## Accumulators (R255) -/

/-- A mill operation in which the group takes part still writes one of the tiles. -/
def State.tilesBusy (s : State) (d n : Nat) : Bool :=
  let g := s.curGroup
  s.curTeam.mill.any (fun o => o.isMma && o.mask.getLsbD g.q && o.mem.any (fun a => overlap a.tile (shNb o.shape) d n))
def Team.setAcc (t : Team) (tile r c : Nat) (x : Word) : Team :=
  { t with acc := setD 0 t.acc (accKey tile r c) x, dirtyT := setD false t.dirtyT tile true }
def execAccz (d : BitVec 6) (n : BitVec 5) (s : State) : Host.Outcome State Fault Refusal :=
  let k := n.toNat + 1
  (if s.curJob.jd.atl < d.toNat + k then Act.trap (Trap.illegalOperand 0)
   else if s.tilesBusy d.toNat k then .hold
   else
     let t := s.curTeam
     let acc := t.acc.filter (fun e => decide (e.1 < d.toNat * 2048) || decide ((d.toNat + k) * 2048 ≤ e.1))
     let dt := (List.range k).foldl (fun m i => setD false m (d.toNat + i) true) t.dirtyT
     .done s.cur.lanes (s.setCurTeam { t with acc := acc, dirtyT := dt }).advance).run s
/-- Starting column, if it is legal. -/
def accCol (g : Group) (b : BitVec 7) : Option Nat :=
  let c := field (g.sget b.toNat).toNat 0 7
  if c % 16 ≠ 0 ∨ 128 < c + g.width then none else some c
def execAccrd (gd : Guard) (d : BitVec 11) (a : BitVec 6) (b : BitVec 7) (s : State) : Host.Outcome State Fault Refusal :=
  let g := s.curGroup
  let act := s.active gd
  (match accCol g b with
   | none => Act.trap (Trap.illegalOperand 0)
   | some c =>
     if s.curJob.jd.atl ≤ a.toNat then .trap (Trap.illegalOperand 0)
     else if s.tilesBusy a.toNat 1 then .hold
     else regAct s act (.ok ((lanesOf act).foldl (fun (h : Group) l =>
       (List.range 16).foldl (fun (h : Group) r => h.setV32 (d.toNat + r) l (getD 0 s.curTeam.acc (accKey a.toNat r (c + l)))) h) g))).run s
def execAccwr (gd : Guard) (d : BitVec 6) (a : BitVec 11) (b : BitVec 7) (s : State) : Host.Outcome State Fault Refusal :=
  let g := s.curGroup
  let act := s.active gd
  (match accCol g b with
   | none => Act.trap (Trap.illegalOperand 0)
   | some c =>
     if s.curJob.jd.atl ≤ d.toNat then .trap (Trap.illegalOperand 0)
     else if s.tilesBusy d.toNat 1 then .hold
     else
       let t := (lanesOf act).foldl (fun (t : Team) l =>
         (List.range 16).foldl (fun (t : Team) r => t.setAcc d.toNat r (c + l) (g.v32 (a.toNat + r) l)) t) s.curTeam
       .done act (s.setCurTeam t).advance).run s

/-! ## QNTZ and DQNT (R152 to R154, R256, R257) -/

/-- The block of each element of a row in bitmap mode, with each block's running maximum (R154). -/
def windowGo (w : Int) : List Num → Nat → Nat → Option Int → List (Nat × Option Int)
  | [], _, _, _ => []
  | x :: l, j, cnt, mx =>
    let e := x.exp?
    let brk := match e, mx with
      | some a, some m => decide (m < a) || decide (a < m - w)
      | some _, none => true
      | none, _ => false
    if cnt = 0 then (j, e) :: windowGo w l j 1 e
    else if cnt = 256 || brk then (j + 1, e) :: windowGo w l (j + 1) 1 e
    else (j, mx) :: windowGo w l j (cnt + 1) mx
/-- floor(log2) of a format's largest finite value. -/
def emaxOf (f : Fmt) : Int :=
  match f.kind with
  | .int sg => ((f.bits - (if sg then 2 else 1) : Nat) : Int)
  | _ => ((f.value (f.maxCode false)).exp?).getD 0
/-- The scale byte of a block. -/
def scaleOf (f : Fmt) (mx : Option Int) : Nat :=
  match mx with
  | none => 127
  | some m => let s := m - emaxOf f + 127; if s < 0 then 0 else if 254 < s then 254 else s.toNat
/-- Bytes of packed codes. -/
def packCodes (bits : Nat) (l : List Nat) : List Byte := toBytes ((l.length * bits + 7) / 8) (packElems bits l)
/-- A row quantised: the writes of its codes, scales and bitmap, and its flags. -/
def qntzRow (fb : BitVec 512) (mode : Nat) (sat : Bool) (base r n : Nat) (xs : List Num) : List (Nat × List Byte) × Nat :=
  let f := codeFmt (fbFca fb)
  let win := windowGo (fbW fb) xs 0 0 none
  let ids := if fbBma fb then win.map (fun e => e.1) else blockIds (2 ^ 64) (fbLa fb + 1) none n 0 0 0
  let nb := blockCount ids
  let mx : Nat → Option Int := fun j =>
    if fbBma fb then ((win.filter (fun e => e.1 == j)).getLast?.map (fun e => e.2)).getD none else blockExp (xs.zip ids) j
  let sc := (List.range nb).map (fun j => scaleOf f (mx j))
  let cs := (xs.zip ids).map (fun (e : Num × Nat) => f.round mode sat false 0 (e.1.scale (127 - (sc.getD e.2 127 : Nat))))
  let starts := (List.range n).map (fun k => if k = 0 ∨ ids.getD k 0 ≠ ids.getD (k - 1) 0 then 1 else 0)
  ([(base + r * fbAstr fb, packCodes f.bits (cs.map (fun (c : Nat × Nat) => c.1))), (base + fbAsc fb + r * n, sc.map (fun s => BitVec.ofNat 8 s))]
     ++ (if fbBma fb then [(base + fbAbm fb + r * n / 8, packCodes 1 starts)] else []),
   cs.foldl (fun (z : Nat) (c : Nat × Nat) => z ||| c.2) 0)
/-- A row dequantised. -/
def dqntRow (mem : List Host.Cell) (fb : BitVec 512) (mode base dst r n : Nat) : List (Nat × List Byte) × Nat :=
  let f := codeFmt (fbFca fb)
  let u := codeFmt (fbFcc fb)
  let ids := rowIds mem fb base r n
  let sc := rowScales mem fb base r n (blockCount ids)
  let cs := (List.range n).map (fun k =>
    let j := ids.getD k 0
    let s := sc.getD j 127
    if s = 255 then (u.qnan, 0)
    else u.round mode false false 0 ((f.value (codeAt mem (base + r * fbAstr fb) f.bits k)).scale ((s : Int) - 127)))
  ([(dst + r * n * (u.bits / 8), packCodes u.bits (cs.map (fun (c : Nat × Nat) => c.1)))], cs.foldl (fun (z : Nat) (c : Nat × Nat) => z ||| c.2) 0)
/-- The fields that QNTZ and DQNT read. -/
def fbQuantOk (fb : BitVec 512) (qntz : Bool) (n : Nat) : Bool :=
  fbReservedOk fb && fcaQuant (fbFca fb) && (fbFcc fb == 2 || fbFcc fb == 3 || fbFcc fb == 4) && (!qntz || fbAsv fb) &&
  strideOk (fbAstr fb) n (codeBits (fbFca fb))
/-- A row of QNTZ or DQNT: its writes and its flags. -/
def quantRow (mem : List Host.Cell) (fb : BitVec 512) (qntz sat : Bool) (mode src : Nat) (qw : DWord) (r : Nat) : List (Nat × List Byte) × Nat :=
  let n := qwLen qw
  let u := codeFmt (fbFcc fb)
  if qntz then qntzRow fb mode sat (qwDst qw) r n ((List.range n).map (fun k => u.value (codeAt mem (src + r * n * (u.bits / 8)) u.bits k)))
  else dqntRow mem fb mode src (qwDst qw) r n
/-- Writes of every row. -/
def quantRows (mem : List Host.Cell) (fb : BitVec 512) (qntz sat : Bool) (mode src : Nat) (qw : DWord) : List (Nat × List Byte) :=
  (List.range (qwRows qw)).flatMap (fun r => (quantRow mem fb qntz sat mode src qw r).1)
/-- Byte runs that the source names. -/
def quantReads (mem : List Host.Cell) (fb : BitVec 512) (qntz : Bool) (src : Nat) (qw : DWord) : List (Nat × Nat) :=
  let n := qwLen qw
  if qntz then [(src, qwRows qw * n * ((codeFmt (fbFcc fb)).bits / 8))]
  else (List.range (qwRows qw)).flatMap (fun r => rowRuns mem fb src r n)
/-- QNTZ and DQNT enter the mill when the group's earlier accesses have performed; then they go row by row (R257). -/
def quantAct (s : State) (qntz : Bool) (rm : Rm) (sat : Bool) (a b : BitVec 7) : Act :=
  let g := s.curGroup
  let d := s.curJob.jd
  let t := s.curTeam
  let src := (g.sget a.toNat).toNat
  let fva := g.sget b.toNat
  let qw := g.sget (b.toNat + 1)
  if rm == .sr || qw.toNat / 2 ^ 34 != 0 then .trap (Trap.illegalOperand 0)
  else if fva.toNat % 64 ≠ 0 then s.accFault { cause := 0x08, rsn := 0 } 5 0 fva
  else if g.pathFull .m || !g.quiet then .hold
  else match s.readBlock s.cur.grp fva with
    | .error e => s.accFault e 5 0 fva
    | .ok (x, fb) =>
      if s.poisonNow (x.pa / 128) then .trap (poisonAt x.pa)
      else if !fbQuantOk fb qntz (qwLen qw) then .trap (Trap.illegalOperand 0)
      else
        let reads := quantReads t.mem fb qntz src qw
        let mode := rmode g.fmode false rm
        match reads.find? (fun r => (padBounds d .team r.1 r.2 0 1).isSome) with
        | some r => .trap { Trap.protection 8 0 (BitVec.ofNat 64 r.1) with at_ := 5 }
        | none =>
          let w := quantRows t.mem fb qntz sat mode src qw
          match w.find? (fun r => (padBounds d .team r.1 r.2.length 0 1).isSome) with
          | some r => .trap { Trap.protection 8 0 (BitVec.ofNat 64 r.1) with at_ := 6 }
          | none =>
            match reads.find? (fun r => wordsPoisoned t.poison r.1 r.2) with
            | some r => .trap (padPoisonAt r.1)
            | none =>
              if s.copies.any (fun c => reads.any (fun r => padMeets c s.cur.grp .team r.1 r.2) ||
                  w.any (fun r => padMeets c s.cur.grp .team r.1 r.2.length) || (c.grp == s.cur.grp && s.copyReach c x.pa 64 false)) then .hold
              else
                let o : MillOp := { kind := if qntz then .qntz else .dqnt, opc := if qntz then 0x76 else 0x77, z := false, mask := laneBit g.q,
                                    mem := [s.member 0 (g.sget a.toNat) fva qw], fb := fb, gt := [], shape := qw, kb := qwRows qw, slab := 0, side := [],
                                    pin := 0, buf := [], fl := 0, mode := mode, sat := sat, free := 0 }
                let u := (s.useXlate g.job g.place.die fva.toNat .mill x).readVia g.place.die (x.pa / 128)
                let v := u.setCurTeam { u.curTeam with mill := u.curTeam.mill ++ [o] }
                regAct v s.cur.lanes (.ok (g.raise (s.flight .m g.nextId true [])))
def execQntz (rm : Rm) (sat : Bool) (a b : BitVec 7) (s : State) : Host.Outcome State Fault Refusal := (quantAct s true rm sat a b).run s
def execDqnt (rm : Rm) (a b : BitVec 7) (s : State) : Host.Outcome State Fault Refusal := (quantAct s false rm false a b).run s

/-! ## Parts of loads and quantisations, and words read early -/

/-- A load of stones reads bytes through its pins: the number, or nothing where a page is not pinned. -/
def State.opByte (s : State) (o : MillOp) (va : Nat) : Byte :=
  match s.pinned o.pin va with
  | some (pa, kid, cl) => (s.engBytes kid cl pa 1).headD 0
  | none => 0
def State.opNum (s : State) (o : MillOp) (va n : Nat) : Nat := bufNum o.buf (s.opByte o) va n
/-- The first line of some runs that is poisoned. -/
def State.opPoison (s : State) (o : MillOp) (l : List (Nat × Nat)) : Option Nat :=
  (runWords l).findSome? (fun w => match s.pinned o.pin (8 * w) with
    | some (pa, _, _) => if (lookup o.buf w).isNone && s.poisonNow (pa / 128) then some pa else none
    | none => none)
/-- The next stone of a load (R254): poison traps (R49). -/
def State.stonePart (s : State) (tk i : Nat) (o : MillOp) (a : Arrival) : Option State :=
  let runs := stoneRuns o.fb a.a a.hs o.slab
  let die := (s.group (tk * 64 + a.q)).place.die
  if (runWords runs).any (fun w => (s.pinned o.pin (8 * w)).isNone) then none
  else match s.opPoison o runs with
    | some pa => s.millTrap tk i o (poisonAt pa)
    | none =>
      let t := ((runWords runs).filterMap (fun w => (s.pinned o.pin (8 * w)).map (fun p => p.1 / 128))).eraseDups.foldl (fun (t : State) la => t.readVia die la) s
      let x := loadStone (s.opNum o) (o.kind == .load true) o.fb a.a a.hb a.hs o.free o.slab
      let u := t.setTeam tk ((t.team tk).setStone (shSb a.hs + o.slab) x)
      some (if o.slab + 1 = o.kb then u.millDone tk i o
        else u.setTeam tk { u.team tk with mill := setAt (u.team tk).mill i (o.next [] 0) })
/-- The next row of QNTZ or DQNT (R257); the flags gathered enter FMODE.FF with the last. -/
def State.quantPart (s : State) (tk i : Nat) (o : MillOp) (a : Arrival) : Option State :=
  let t := s.team tk
  let d := (s.job (tk / 65536)).jd
  let w := quantRow (o.mem_ t.mem) o.fb (o.kind == .qntz) o.sat o.mode a.a.toNat o.shape o.slab
  match t.badRun o with
  | some r => s.millTrap tk i o (padPoisonAt r.1)
  | none =>
    match w.1.find? (fun r => (padBounds d .team r.1 r.2.length 0 1).isSome) with
    | some r => s.millTrap tk i o { Trap.protection 8 0 (BitVec.ofNat 64 r.1) with at_ := 6 }
    | none =>
      let t2 := w.1.foldl (fun (t : Team) r => t.put r.1 r.2 false) t
      if o.slab + 1 = o.kb then
        let k := tk * 64 + a.q
        let u := (s.setTeam tk t2).millDone tk i o
        some (u.setGroup k { u.group k with fmode := fmRaise (u.group k).fmode (o.fl ||| w.2) })
      else some (s.setTeam tk { t2 with mill := setAt t2.mill i (o.next [] (o.fl ||| w.2)) })
/-- The next part of a load or a quantisation. -/
def execMillPart (job team i : Nat) (s : State) : Host.Outcome State Fault Refusal :=
  let tk := tkey job team
  ev (match (s.team tk).mill[i]? with
    | none => none
    | some o =>
      if o.isMma || !s.teamRuns job team || !(s.team tk).millFirst i o then none
      else match o.mem with
        | [] => none
        | a :: _ => if o.isQuant then s.quantPart tk i o a else s.stonePart tk i o a)
/-- A row buffer, or a load, takes one word of the part under way before the others (R94); which is free. Poison is met when the part is made. Once a
stop has been requested no part is begun (R311). -/
def execMillRead (job team i : Nat) (s : State) : Host.Outcome State Fault Refusal :=
  let tk := tkey job team
  let t := s.team tk
  ev (match t.mill[i]? with
    | none => none
    | some o =>
      let isLoad := o.onStones && !o.isMma
      let l := (runWords (match isLoad, o.mem with
        | true, a :: _ => stoneRuns o.fb a.a a.hs o.slab
        | _, _ => o.runs (o.mem_ t.mem))).filter (fun w => (lookup o.buf w).isNone &&
          (if isLoad then (match s.pinned o.pin (8 * w) with | some p => !s.poisonNow (p.1 / 128) | none => false) else !wordsPoisoned t.poison (8 * w) 8))
      if !s.teamRuns job team || !t.millFirst i o || (o.buf.isEmpty && o.mem.any (fun a => s.stopAsked (tk * 64 + a.q))) then none
      else match l[Config.choice s.free % l.length]? with
        | none => none
        | some w =>
          let v := if isLoad then s.opNum o (8 * w) 8 else Memory.num t.mem (8 * w) 8
          let u := if isLoad then (match s.pinned o.pin (8 * w), o.mem with | some p, a :: _ => s.readVia (s.group (tk * 64 + a.q)).place.die (p.1 / 128) | _, _ => s) else s
          some ((u.setTeam tk { u.team tk with mill := setAt (u.team tk).mill i { o with buf := mapInsert o.buf w (BitVec.ofNat 64 v) } }).spend))

end Sys2Proof.Machine
end

