-- ==== Sys2Proof/Machine/Barrier.lean ====
section
/-!
DEFINITION. Async barriers (R263, R264), team and cluster barriers (R265), and the sluice (R127, R128, R266).
-/

namespace Sys2Proof.Machine

/-- A lane of the team waits at a BARWAIT on a barrier. -/
def State.barWaited (s : State) (tk b : Nat) : Bool :=
  (s.groupsOf tk).any (fun k => (s.group k).lanes.any (fun x => x.st == .bw && x.bw == .bar (BitVec.ofNat 4 b)))
/-- A copy counted against a barrier of a team is in flight. -/
def State.barCounted (s : State) (tk b : Nat) : Bool :=
  s.copies.any (fun c => (s.group c.grp).tk == tk && c.bar.toNat == b)
/-- BARINIT (R264). -/
def execBarinit (d : BitVec 4) (a : BitVec 7) (s : State) : Host.Outcome State Fault Refusal :=
  let ec := (s.curGroup.sget a.toNat).setWidth 16
  let tk := s.curGroup.tk
  (if ec = 0 then Act.trap (Trap.illegalOperand 0)
   else if s.barWaited tk d.toNat then .trap (Trap.illegalOperand 0)
   else if s.barCounted tk d.toNat then .hold
   else .done s.cur.lanes (s.setCurTeam (s.curTeam.setBar d.toNat { Barrier.zero with ec := ec })).advance).run s
/-- BAREXP (R264). -/
def execBarexp (d : BitVec 4) (a : BitVec 7) (s : State) : Host.Outcome State Fault Refusal :=
  let x := s.curGroup.sget a.toNat
  let b := s.curTeam.bar d.toNat
  (if b.ec = 0 then Act.trap (Trap.illegalOperand 0)
   else if 2 ^ 64 ≤ b.rv.toNat + x.toNat then .trap (Trap.illegalOperand 0)
   else .done s.cur.lanes (s.advance.updBar s.curGroup.tk d.toNat (fun b => { b with rv := b.rv + x }))).run s
/-- BARARR (R100, R264): a release; with AC = EC the arrival waits for the phase. -/
def execBararr (d : BitVec 7) (a : BitVec 4) (s : State) : Host.Outcome State Fault Refusal :=
  let g := s.curGroup
  let b := s.curTeam.bar a.toNat
  (if b.ec = 0 then Act.trap (Trap.illegalOperand 0)
   else if !g.quiet || b.ac == b.ec then .hold
   else
     let t := (s.setCurGroup (g.sset d.toNat (if b.ph then 1 else 0))).advance
     .done s.cur.lanes (t.updBar g.tk a.toNat (fun b => { b with ac := b.ac + 1 }))).run s
/-- Lanes of the issue state wait in BW. -/
def State.waitBw (s : State) (b : BwKind) : State :=
  (s.setCurGroup (s.curGroup.mapLanes s.cur.lanes (fun x => { x with st := .bw, bw := b, nxt := s.nextPc }))).afterLanes s.cur.grp
/-- The phase that a program passes has not completed. -/
def phaseOpen (s : State) (a : BitVec 4) (b : BitVec 7) : Bool :=
  (s.curTeam.bar a.toNat).ph == (s.curGroup.sget b.toNat).getLsbD 0
/-- BARWAIT (R264). -/
def execBarwait (a : BitVec 4) (b : BitVec 7) (s : State) : Host.Outcome State Fault Refusal :=
  (if (s.curTeam.bar a.toNat).ec = 0 then Act.trap (Trap.illegalOperand 0)
   else .done s.cur.lanes (if phaseOpen s a b then s.waitBw (.bar a) else s.advance)).run s
/-- BARTRY (R264). -/
def execBartry (d : BitVec 7) (a : BitVec 4) (b : BitVec 7) (s : State) : Host.Outcome State Fault Refusal :=
  (if (s.curTeam.bar a.toNat).ec = 0 then Act.trap (Trap.illegalOperand 0)
   else regAct s s.cur.lanes (.ok (s.curGroup.sset d.toNat (if phaseOpen s a b then 0 else 1)))).run s
/-- TBAR (R100, R265): the group's earlier accesses perform before its lanes wait. -/
def execTbar (s : State) : Host.Outcome State Fault Refusal :=
  (if s.curGroup.quiet then Act.done s.cur.lanes (s.waitBw .team) else .hold).run s
/-- CBAR (R100, R265). -/
def execCbar (s : State) : Host.Outcome State Fault Refusal :=
  (if s.curGroup.quiet then Act.done s.cur.lanes (s.waitBw .cluster) else .hold).run s

/-! ## The sluice (R127, R128, R266) -/

/-- Number of tiles. -/
def JobDesc.nTiles (d : JobDesc) : Nat := (d.xe.toNat + 1) * (d.ye.toNat + 1) * (d.ze.toNat + 1)
def tileX (d : JobDesc) (i : Nat) : Nat := i % (d.xe.toNat + 1)
def tileY (d : JobDesc) (i : Nat) : Nat := i / (d.xe.toNat + 1) % (d.ye.toNat + 1)
def tileZ (d : JobDesc) (i : Nat) : Nat := i / ((d.xe.toNat + 1) * (d.ye.toNat + 1))
/-- Four scalars from sd. -/
def Group.sset4 (g : Group) (d : Nat) (a b c e : DWord) : Group := (((g.sset d a).sset (d + 1) b).sset (d + 2) c).sset (d + 3) e
/-- TILEGET: one step at the sluice. -/
def State.tileget (s : State) (d : Nat) : State :=
  let j := s.curJob
  let g := s.curGroup.count 11 1
  if j.next < j.jd.nTiles then
    let i := j.next
    (s.setCurJob { j with next := i + 1 }).setCurGroup
      { g.sset4 d (BitVec.ofNat 64 i) (BitVec.ofNat 64 (tileX j.jd i)) (BitVec.ofNat 64 (tileY j.jd i)) (BitVec.ofNat 64 (tileZ j.jd i)) with
        hand := some (BitVec.ofNat 48 i) }
  else s.setCurGroup { g.sset4 d (~~~ 0) 0 0 0 with hand := none }
def execTileget (d : BitVec 7) (s : State) : Host.Outcome State Fault Refusal :=
  (Act.done s.cur.lanes (s.tileget d.toNat).advance).run s
/-- TILESTAT: nothing is dispensed. -/
def execTilestat (d : BitVec 7) (s : State) : Host.Outcome State Fault Refusal :=
  let j := s.curJob
  s.finish s.cur.lanes ((s.curGroup.sset d.toNat (BitVec.ofNat 64 j.next)).sset (d.toNat + 1) (BitVec.ofNat 64 j.jd.nTiles))

end Sys2Proof.Machine
end

