-- ==== Sys2Proof/Machine/Control.lean ====
section
/-!
DEFINITION. The control instructions (R193 to R206).
-/

namespace Sys2Proof.Machine

/-! ## Branches (R196) -/

/-- Target PC + 4 × DISP, modulo 2^57. -/
def State.target (s : State) (disp : BitVec 33) : VAddr := s.cur.pc + (disp.signExtend 57 <<< 2)
/-- The lanes of a mask branch, the other lanes of the issue state continue (R176, R196). -/
def State.branch (s : State) (m : DWord) (t : Nat → VAddr) : State :=
  let g := s.curGroup
  s.setCurGroup { g with lanes := g.lanes.mapIdx (fun i x =>
    if m.getLsbD i then x.branchTo s.cur.pc (t i)
    else if s.cur.lanes.getLsbD i then { x with pc := s.nextPc } else x) }
/-- Branch all lanes of the issue state, or none. -/
def branchAct (s : State) (take : Bool) (t : VAddr) : Act :=
  .done s.cur.lanes (s.branch (if take then s.cur.lanes else 0) (fun _ => t))

def execNop (s : State) : Host.Outcome State Fault Refusal := (Act.done s.cur.lanes s.advance).run s
def execBraSb (disp : BitVec 23) (s : State) : Host.Outcome State Fault Refusal :=
  (branchAct s true (s.target (disp.signExtend 33))).run s
def execBra (disp : BitVec 33) (s : State) : Host.Outcome State Fault Refusal := (branchAct s true (s.target disp)).run s
def execBrc (a : BitVec 7) (disp : BitVec 33) (s : State) : Host.Outcome State Fault Refusal :=
  (branchAct s (s.curGroup.sget a.toNat != 0) (s.target disp)).run s
def execBrcZ (a : BitVec 7) (disp : BitVec 33) (s : State) : Host.Outcome State Fault Refusal :=
  (branchAct s (s.curGroup.sget a.toNat == 0) (s.target disp)).run s
def execBrcLt (a : BitVec 7) (disp : BitVec 33) (s : State) : Host.Outcome State Fault Refusal :=
  (branchAct s ((s.curGroup.sget a.toNat).slt 0) (s.target disp)).run s
def execBrcGe (a : BitVec 7) (disp : BitVec 33) (s : State) : Host.Outcome State Fault Refusal :=
  (branchAct s (!(s.curGroup.sget a.toNat).slt 0) (s.target disp)).run s
def execBrx (gd : Guard) (disp : BitVec 33) (s : State) : Host.Outcome State Fault Refusal :=
  (Act.done (s.active gd) (s.branch (s.active gd) (fun _ => s.target disp))).run s

/-! ## Rejoin masks (R197, R198) -/

/-- Write a rejoin mask, continue, and check the join points. -/
def State.setJoin (s : State) (d : BitVec 3) (m : DWord) : State :=
  let g := s.curGroup
  ((s.setCurGroup (g.jset d.toNat (m &&& g.full))).advance).afterLanes s.cur.grp
def execJset (gd : Guard) (d : BitVec 3) (s : State) : Host.Outcome State Fault Refusal :=
  (Act.done (s.active gd) (s.setJoin d (s.active gd))).run s
def execJsetSc (d : BitVec 3) (a : BitVec 7) (s : State) : Host.Outcome State Fault Refusal :=
  (Act.done s.cur.lanes (s.setJoin d (s.curGroup.sget a.toNat))).run s
/-- The lanes of the issue state wait at the join point; the check releases it when it can. -/
def execJoin (a : BitVec 3) (disp : BitVec 33) (s : State) : Host.Outcome State Fault Refusal :=
  let t := s.target disp
  let h := s.curGroup.mapLanes s.cur.lanes (fun x => { x with st := .jw, jr := a, nxt := t })
  (Act.done s.cur.lanes ((s.setCurGroup h).afterLanes s.cur.grp)).run s

/-! ## Calls and returns (R199 to R202) -/

/-- The link word of an address in an object (R199). -/
def linkWord (o : Nat × CodeObj) (ret : VAddr) : DWord :=
  BitVec.ofNat 6 o.1 ++ (ret.setWidth 58 - o.2.base.setWidth 58)
/-- The lowest active lane that fails a check. -/
def firstLane (m : DWord) (f : Nat → Option Trap) : Option Trap := (lanesOf m).findSome? f
/-- The active lanes write their link in a pair, go one level deeper and branch. -/
def State.callTo (s : State) (m : DWord) (d : Nat) (o : Nat × CodeObj) (t : Nat → VAddr) : State :=
  let g := s.curGroup
  let h := (lanesOf m).foldl (fun k l => k.setV64 d l (linkWord o s.nextPc)) g
  (s.setCurGroup (h.mapLanes m (fun x => { x with depth := x.depth + 1 }))).branch m t
/-- Every active lane's depth admits a call. -/
def Group.depthTrap (g : Group) (l : Nat) : Option Trap :=
  if (g.lane l).depth = 255 then some (Trap.illegalOperand l) else none
/-- The PC lies in no code object: the lowest active lane is named (R199, R206). -/
def State.noObject (s : State) (m : DWord) : Trap := Trap.protection 7 (lowLane m) (Config.faultAddr (s.cur.pc.setWidth 64))
/-- CALL to one target (R200). With no active lane nothing is called and nothing is checked. -/
def callAct (s : State) (m : DWord) (a : Nat) (t : VAddr) : Act :=
  if m = 0 then .done m s.advance
  else match firstLane m s.curGroup.depthTrap with
    | some e => .trap e
    | none =>
      match s.curJob.objOf s.cur.pc with
      | some o => .done m (s.callTo m a o (fun _ => t))
      | none => .trap (s.noObject m)
def execCallSb (disp : BitVec 23) (s : State) : Host.Outcome State Fault Refusal :=
  (callAct s s.cur.lanes 0 (s.target (disp.signExtend 33))).run s
def execCall (gd : Guard) (a : BitVec 11) (disp : BitVec 33) (s : State) : Host.Outcome State Fault Refusal :=
  (callAct s (s.active gd) a.toNat (s.target disp)).run s
/-- A read of a code object by the core itself, checked as a load (R182); poison that it would consume is found (R49). -/
def State.objRead (s : State) (w : Nat) (va : DWord) : Except XFault (State × Nat × Option Nat) :=
  let g := s.curGroup
  (s.xlate g.job g.place.die .load w va).map (fun x =>
    let t := (s.useXlate g.job g.place.die va.toNat .load x).readVia g.place.die (x.pa / 128)
    (t, s.numNow x.kid x.pa w, if s.poisonNow (x.pa / 128) then some x.pa else none))
/-- Poisoned data of a code object: a trap when every older access has performed (R104). -/
def State.objPoison (s : State) (pa : Nat) : Act :=
  if s.curGroup.quiet then .trap { Trap.of 0x3F with code := 1, ap := true, addr := BitVec.ofNat 64 pa } else .hold
/-- CALL through a stub: with no active lane it reads nothing and completes (R169). -/
def stubAct (s : State) (m : DWord) (a n : Nat) : Act :=
  if m = 0 then .done m s.advance
  else match s.curJob.objOf s.cur.pc with
  | none => .trap (s.noObject m)
  | some o =>
    let va1 := o.2.base.setWidth 64 + 8
    match s.objRead 4 va1 with
    | .error e => s.accFault e 0 (lowLane m) va1
    | .ok (_, _, some pa) => s.objPoison pa
    | .ok (t, count, none) =>
      if count ≤ n then .trap (Trap.illegalOperand (lowLane m))
      else
        let va2 := o.2.base.setWidth 64 + 0x80 + BitVec.ofNat 64 (16 * n)
        match t.objRead 8 va2 with
        | .error e => s.accFault e 0 (lowLane m) va2
        | .ok (_, _, some pa) => s.objPoison pa
        | .ok (u, target, none) => callAct u m a (BitVec.ofNat 57 (target / 4 * 4))
def execCallStub (gd : Guard) (a : BitVec 11) (n : BitVec 33) (s : State) : Host.Outcome State Fault Refusal :=
  (stubAct s (s.active gd) a.toNat n.toNat).run s
def execCallx (gd : Guard) (d a : BitVec 11) (s : State) : Host.Outcome State Fault Refusal :=
  let g := s.curGroup
  let m := s.active gd
  let t := fun l => g.v64 a.toNat l
  (match firstLane m (fun l =>
     if (t l).toNat % 4 ≠ 0 then some { Trap.of 0x08 with lane := l, addr := t l }
     else if (t l).toNat / 2 ^ 57 ≠ 0 then some (Trap.protection 4 l (t l))
     else g.depthTrap l) with
   | some e => Act.trap e
   | none =>
     if m = 0 then .done m s.advance
     else match s.curJob.objOf s.cur.pc with
       | some o => .done m (s.callTo m d.toNat o (fun l => (t l).setWidth 57))
       | none => .trap (s.noObject m)).run s
/-- The address that a link word returns to (R202). -/
def Job.linkTarget (j : Job) (k : DWord) : Option VAddr :=
  match j.cot[field k.toNat 58 6]? with
  | some o =>
    let ofs := field k.toNat 0 58
    if o.size = 0 ∨ o.size ≤ ofs ∨ ofs % 4 ≠ 0 then none else some (o.base + BitVec.ofNat 57 ofs)
  | none => none
def retAct (s : State) (m : DWord) (a : Nat) : Act :=
  let g := s.curGroup
  let j := s.curJob
  match firstLane m (fun l =>
    if (g.lane l).depth = 0 then some (Trap.illegalOperand l)
    else match j.linkTarget (g.v64 a l) with
      | some _ => none
      | none => some (Trap.protection 7 l (Config.faultAddr (g.v64 a l)))) with
  | some e => .trap e
  | none =>
    .done m ((s.setCurGroup (g.mapLanes m (fun x => { x with depth := x.depth - 1 }))).branch m
      (fun l => (j.linkTarget (g.v64 a l)).getD 0))
def execRetSr (a : BitVec 7) (s : State) : Host.Outcome State Fault Refusal := (retAct s s.cur.lanes a.toNat).run s
def execRet (gd : Guard) (a : BitVec 11) (s : State) : Host.Outcome State Fault Refusal :=
  (retAct s (s.active gd) a.toNat).run s

/-! ## Ending and yielding (R203 to R205) -/

/-- Lanes end: status EX, their XM bits clear; the other lanes of the issue state continue. -/
def State.exitLanes (s : State) (m : DWord) : State :=
  let g := s.advance.curGroup
  (s.advance.setCurGroup { g.mapLanes m (fun x => { x with pc := s.cur.pc, st := .ex, jr := 0, bw := .none }) with
    xm := g.xm &&& ~~~ m }).afterLanes s.cur.grp
def execExitSr (s : State) : Host.Outcome State Fault Refusal :=
  (Act.done s.cur.lanes (s.exitLanes s.cur.lanes)).run s
def execExit (gd : Guard) (s : State) : Host.Outcome State Fault Refusal :=
  (Act.done (s.active gd) (s.exitLanes (s.active gd))).run s
def execExitchain (gd : Guard) (a : BitVec 7) (b : SLit) (s : State) : Host.Outcome State Fault Refusal :=
  let g := s.curGroup
  let m := s.active gd
  let e := g.sget a.toNat
  let arg : DWord := match b with | .reg r => g.sget r.toNat | .lit x => Config.exitchainHigh x ++ x
  let c := s.curTeam.chain
  (if m = 0 then Act.done m s.advance
   else if e.toNat / 2 ^ 57 ≠ 0 ∨ e.toNat % 4 ≠ 0 then .trap (Trap.illegalOperand 0)
   else if c.v ∧ (c.e.setWidth 64 ≠ e ∨ c.a ≠ arg) then .trap (Trap.illegalOperand 0)
   else .done m ((s.setCurTeam { s.curTeam with chain := { v := true, e := e.setWidth 57, a := arg } }).exitLanes m)).run s
def Sail.idle : Sail := { cur := none, rn := 0, yielded := false, first := none }
def State.sail (s : State) (k : Nat) : Sail := getD Sail.idle s.sails k
/-- Key of the sail of a place. -/
def Place.key (p : Place) : Nat := (p.die * 128 + p.core) * 4 + p.sail
/-- YIELD (R205): RUN of the group becomes 64, and a run of the sail from this group ends. -/
def State.yieldCur (s : State) : State :=
  let g := s.curGroup
  let k := g.place.key
  let sl := s.sail k
  { s.setCurGroup { g with run := 64 } with
    sails := mapInsert s.sails k { sl with yielded := sl.yielded || sl.cur == some s.cur.grp } }
def execYield (s : State) : Host.Outcome State Fault Refusal :=
  (Act.done s.cur.lanes s.advance.yieldCur).run s

/-! ## The execution mask (R193, R194) -/

def execXmrd (d : BitVec 7) (s : State) : Host.Outcome State Fault Refusal :=
  let g := s.curGroup
  s.finish s.cur.lanes (g.sset d.toNat (g.xm &&& g.full))
/-- One lane under a new execution mask: `b` its new bit. -/
def Lane.xm (b : Bool) (x : Lane) : Lane :=
  match x.st with
  | .ex => x
  | .pk => if b then { x with st := .run } else x
  | .run => if b then x else { x with st := .pk }
  | .sl => if b then x else { x with st := .pk, nxt := 0, wake := 0 }
  | .jw => if b then x else { x with st := .pk, nxt := 0, jr := 0 }
  | .bw => if b then x else { x with st := .pk, nxt := 0, bw := .none }
/-- Write XM: lanes that have ended keep their bit clear. -/
def Group.setXm (g : Group) (x : DWord) : Group :=
  { g with lanes := g.lanes.mapIdx (fun i y => y.xm (x.getLsbD i)),
           xm := x &&& g.full &&& g.lanesWith (fun y => y.st != .ex) }
def State.writeXm (s : State) (x : DWord) : State :=
  (s.advance.setCurGroup (s.advance.curGroup.setXm x)).afterLanes s.cur.grp
def execXmwr (a : BitVec 7) (s : State) : Host.Outcome State Fault Refusal :=
  (Act.done s.cur.lanes (s.writeXm (s.curGroup.sget a.toNat))).run s

end Sys2Proof.Machine
end

