-- ==== Sys2Proof/Machine/System.lean ====
section
/-!
DEFINITION. The system instructions (R274 to R292): traps and returns, special registers, time, sleep, events, checkpoint
openings and closes, debug and performance counters; and the lowering of in-flight counters (R93).
-/

namespace Sys2Proof.Machine

/-! ## TRAP, TRET, DBGBRK, DBGSTEP (R274, R275, R289, R290) -/

def execTrap (code : BitVec 16) (s : State) : Host.Outcome State Fault Refusal :=
  (Act.trap { Trap.of 0x22 with code := code.toNat, len := some 8 }).run s
/-- Lanes of FILM return (R274): RUN and JW lanes take FIPC and the key of the trap. -/
def Group.tret (g : Group) : Group :=
  let pc := g.fi.pc.setWidth 57
  let cc := g.fi.cc.setWidth 32
  let dep := (g.fi.cc >>> 32).setWidth 8
  { g.mapLanes g.fi.lm (fun x =>
      if x.st == .run || x.st == .jw then { x with pc := pc, cc := cc, depth := dep, st := .run, jr := 0, nxt := 0 } else x) with
    tm := false }
/-- Some lane of FILM is in SL or BW. -/
def Group.tretBlocked (g : Group) : Bool := (lanesOf g.fi.lm).any (fun l => (g.lane l).st == .sl || (g.lane l).st == .bw)
/-- A return sets SK, also where it is itself the first issue after one. -/
def State.setSk (s : State) : State := s.setCurGroup { s.curGroup with sk := true }
def execTret (s : State) : Host.Outcome State Fault Refusal :=
  let g := s.curGroup
  if !g.tm || g.tretBlocked then (Act.trap (Trap.illegalOperand 0)).run s
  else .next (s.retire s.cur.lanes ((s.setCurGroup g.tret).afterLanes s.cur.grp)).setSk
def execDbgbrk (s : State) : Host.Outcome State Fault Refusal := (Act.trap { Trap.of 0x20 with len := some 8 }).run s
/-- DBGSTEP: not counted itself. -/
def execDbgstep (a : BitVec 7) (s : State) : Host.Outcome State Fault Refusal :=
  let g := s.curGroup
  let s0 := s.setCurGroup { g with sc := 0 }
  let t := s0.retire s.cur.lanes s0.advance
  .next (t.setCurGroup { t.curGroup with sc := (g.sget a.toNat).setWidth 16 })

/-! ## Time (R279, R280) -/

/-- A group reads its job's timer: time has passed, and the value read is kept (R314, TLAST). -/
def State.readTimer (s : State) : State × DWord :=
  let t := s.passTime
  let j := s.curGroup.job
  let v := t.jobTimer j
  (t.setJob j { t.job j with tlast := v }, v)
/-- CCNT as read now: a free number of cycles has passed, such that two reads do not decrease. -/
def State.readCcnt (s : State) : State × DWord :=
  let g := s.curGroup
  let v := g.ccnt + BitVec.ofNat 64 (Config.ticks s.free % (2 ^ 64 - g.ccnt.toNat))
  (s.spend.setCurGroup { g with ccnt := v }, v)
/-- Write a value read to a scalar and continue. -/
def valueAct (s : State) (d : BitVec 7) (r : State × DWord) : Act :=
  regAct r.1 s.cur.lanes (.ok (r.1.curGroup.sset d.toNat r.2))
def execClock (d : BitVec 7) (s : State) : Host.Outcome State Fault Refusal := (valueAct s d s.readTimer).run s
def execClockC (d : BitVec 7) (s : State) : Host.Outcome State Fault Refusal := (valueAct s d s.readCcnt).run s
/-- Lanes of the issue state sleep until a time. -/
def State.sleepUntil (s : State) (w : DWord) : State :=
  (s.setCurGroup (s.curGroup.mapLanes s.cur.lanes (fun x => { x with st := .sl, nxt := s.nextPc, wake := w }))).afterLanes s.cur.grp
/-- SLEEP for a number of ticks (R280). -/
def sleepAct (s : State) (ticks : DWord) : Act :=
  if ticks = 0 then .done s.cur.lanes s.advance
  else
    let r := s.readTimer
    let w := if 2 ^ 64 ≤ r.2.toNat + ticks.toNat then (~~~ 0 : DWord) else r.2 + ticks
    .done s.cur.lanes (r.1.sleepUntil w)
def execSleep (a : BitVec 7) (s : State) : Host.Outcome State Fault Refusal := (sleepAct s (s.curGroup.sget a.toNat)).run s
def execSleepImm (i : Imm) (s : State) : Host.Outcome State Fault Refusal := (sleepAct s (immVal false i)).run s
/-- The earliest wake time of a group's sleeping lanes. -/
def Group.firstWake (g : Group) : Option DWord :=
  (g.lanes.filter (fun x => x.st == .sl)).foldl (fun (m : Option DWord) x => match m with
    | none => some x.wake
    | some w => some (if x.wake < w then x.wake else w)) none
/-- Lanes whose time has come return to RUN at their next instruction. -/
def Group.wakeSl (g : Group) (t : DWord) : Group :=
  { g with lanes := g.lanes.map (fun x => if x.st == .sl && x.wake ≤ t then { x with st := .run, pc := x.nxt, nxt := 0, wake := 0 } else x) }
/-- The cluster of a group is resident on cores. -/
def State.resident (s : State) (k : Nat) : Bool := let g := s.group k; g.live && s.teamRuns g.job g.team
/-- SLEEP_WAKE: the job timer has reached the earliest wake time of the group's sleeping lanes. -/
def execSleepWake (grp : Nat) (s : State) : Host.Outcome State Fault Refusal :=
  let g := s.group grp
  ev (match g.firstWake with
    | none => none
    | some w =>
      if !s.resident grp then none
      else
        let t := if s.jobTimer g.job < w then { s with timer := w - (s.job g.job).toff } else s
        some ((t.setGroup grp ((t.group grp).wakeSl (t.jobTimer g.job))).afterLanes grp))

/-! ## Special registers (R276 to R278) -/

/-- The value of a special register that needs no time to pass. -/
def csrValue (s : State) (n : Nat) : Option DWord :=
  let g := s.curGroup
  let j := s.curJob
  if n = 0 then some (g.fmode.setWidth 64)
  else if n = 1 then some (g.xm &&& g.full)
  else if n = 3 then some (BitVec.ofNat 64 (s.groupId g))
  else if n = 4 then some (BitVec.ofNat 64 g.team)
  else if n = 5 then some (BitVec.ofNat 64 (if j.jd.pr then 2 * g.team + g.q % 2 else g.team))
  else if n = 6 then some (BitVec.ofNat 64 g.job)
  else if n = 7 then some j.jd.seed
  else if n = 8 then some (g.draw.setWidth 64)
  else if n = 9 then some (BitVec.ofNat 64 j.nT)
  else if n = 0xA then some (BitVec.ofNat 64 g.width)
  else if n = 0xB then some ((if g.sk then 2 else 0) + (if g.tm then 1 else 0))
  else if n = 0x10 then some g.fi.cause
  else if n = 0x11 then some g.fi.pc
  else if n = 0x12 then some g.fi.info
  else if n = 0x13 then some g.fi.addr
  else if n = 0x14 then some g.fi.lm
  else if n = 0x15 then some g.fi.cc
  else if n = 0x18 then some (g.sc.setWidth 64)
  else if 0x20 ≤ n ∧ n ≤ 0x27 then some (getD 0 j.bpm (n - 0x20))
  else if n = 0x28 then some j.dbgctl
  else none
/-- CSRRD. -/
def csrReadAct (s : State) (d : BitVec 7) (n : Nat) : Act :=
  if n = 2 then valueAct s d s.readCcnt
  else if n = 0x30 then valueAct s d s.readTimer
  else match csrValue s n with
    | some v => regAct s s.cur.lanes (.ok (s.curGroup.sset d.toNat v))
    | none => .trap (Trap.illegalOperand 0)
def execCsrrd (d : BitVec 7) (n : BitVec 16) (s : State) : Host.Outcome State Fault Refusal := (csrReadAct s d n.toNat).run s
/-- CSRWR: FMODE, XM, and FIPC while TM = 1; every other number is read-only or unknown. -/
def csrWriteAct (s : State) (n : Nat) (x : DWord) : Act :=
  let g := s.curGroup
  if n = 0 then regAct s s.cur.lanes (.ok { g with fmode := x.setWidth 32 &&& 0x1FFFF })
  else if n = 1 then .done s.cur.lanes (s.writeXm x)
  else if n = 0x11 ∧ g.tm then
    regAct s s.cur.lanes (.ok { g with fi := { g.fi with pc := x &&& 0x01FFFFFFFFFFFFFC } })
  else .trap (Trap.illegalOperand 0)
def execCsrwr (n : BitVec 16) (a : BitVec 7) (s : State) : Host.Outcome State Fault Refusal :=
  (csrWriteAct s n.toNat (s.curGroup.sget a.toNat)).run s

/-! ## EVSIG (R281) -/

/-- EVSIG: a release; it waits while the job's buffer of 64 entries is full. -/
def execEvsig (a b : BitVec 7) (s : State) : Host.Outcome State Fault Refusal :=
  let g := s.curGroup
  let j := s.curJob
  (if !g.quiet || decide (64 ≤ j.evbuf.length) then Act.hold
   else
     let e := ((g.sget a.toNat).setWidth 32, g.sget b.toNat, g.team, s.groupId g)
     .done s.cur.lanes (s.setCurJob { j with evbuf := j.evbuf ++ [e] }).advance).run s

/-! ## Checkpoint intervals (R282 to R285) -/

/-- Open an interval if none is open; its close writes a full record. -/
def Job.open_ (j : Job) : Job := if j.opn then j else { j with iv := j.iv + 1, opn := true, full := true }
/-- CKOPEN (R283); during a close it waits (R285). -/
def execCkopen (d : BitVec 7) (s : State) : Host.Outcome State Fault Refusal :=
  let j := s.curJob
  (if j.jd.ckp = 0 then Act.trap (Trap.illegalOperand 0)
   else if j.close.isSome then .hold
   else regAct (s.setCurJob j.open_) s.cur.lanes (.ok (s.curGroup.sset d.toNat (j.open_.iv.setWidth 64)))).run s
/-- Ask for the close of the open interval, or join the close that waits (R285). -/
def Job.askClose (j : Job) (stop isMove : Bool) (by_ : List Joiner) : Job :=
  match j.close with
  | some c => { j with close := some { c with stop := c.stop || stop, isMove := c.isMove || isMove, joined := c.joined ++ by_ } }
  | none => { j with close := some { n := j.iv, stop := stop, isMove := isMove, asked := false, halted := false, joined := by_ } }
/-- CKCLOSE (R284): with no interval open it returns 0; otherwise the group holds at it until the close has been made. -/
def execCkclose (d a : BitVec 7) (s : State) : Host.Outcome State Fault Refusal :=
  let g := s.curGroup
  let j := s.curJob
  let x := g.sget a.toNat
  (if j.jd.ckp = 0 then Act.trap (Trap.illegalOperand 0)
   else if x.toNat / 2 ≠ 0 then .trap (Trap.illegalOperand 0)
   else if !j.opn then regAct s s.cur.lanes (.ok (g.sset d.toNat 0))
   else
     let w : Joiner := { grp := s.cur.grp, d := d, lanes := s.cur.lanes, pc := s.cur.pc, len := s.cur.len }
     .wait ((s.setCurJob (j.askClose (x.getLsbD 0) false [w])).setCurGroup { g with wait := .close })).run s

/-! ## Save cost (R286, R319) -/

/-- Live teams of a job, with their keys. -/
def State.teamsOf (s : State) (j : Nat) : List Nat :=
  ((List.range (s.job j).nT).map (fun t => tkey j t)).filter (fun tk => (s.team tk).live)
/-- Restart records of a group: its copies, loads of stones and quantisations under way (R316); its APND entries. -/
def State.restartCount (s : State) (k : Nat) : Nat :=
  (s.copies.filter (fun c => c.grp == k)).length +
  ((s.team (s.group k).tk).mill.filter (fun o => !o.isMma && o.mask.getLsbD (s.group k).q)).length
def State.apndCount (s : State) (k : Nat) : Nat := (s.hops.filter (fun h => h.grp == k && h.op == 0x20 && h.copy.isNone && h.start.isSome)).length
/-- An access that a stop leaves outstanding: to device I/O, a remote device, or a line of host memory (R311). -/
def Access.outside (a : Access) : Bool := a.kind == .deviceIo || a.kind == .remote || (a.kind.cached && regionOf (a.pa / 128 * 128) == .host)
/-- Entries of outstanding operations: SEALs and TAILRDs, and one for each lane of an access that a stop leaves (R316). -/
def State.outCount (s : State) (k : Nat) : Nat :=
  (s.hops.filter (fun h => h.grp == k && (h.op == 0x22 || h.op == 0x23))).length +
  (((s.pend.filter (fun a => a.grp == k && a.outside)).map (fun a => (a.flight, a.lane))).eraseDups).length
/-- Bytes of a group's section. -/
def State.groupCost (s : State) (d : JobDesc) (k : Nat) : Nat :=
  4096 + 192 + d.vr * 32 * d.width * 4 + 256 * s.restartCount k + 16 * s.apndCount k + 32 * s.outCount k
/-- Size of a team's line map (R317). -/
def lineMap (d : JobDesc) : Nat := ceilTo ((d.tmk * 1024 * (if d.pr then 2 else 1) / 128 + 7) / 8) 16
/-- Bytes of a team's section. -/
def State.teamCost (s : State) (d : JobDesc) (tk : Nat) : Nat :=
  let t := s.team tk
  4096 + lineMap d + d.tmk * 1024 * (if d.pr then 2 else 1) + 16 + 8192 * d.atl + 16
    + 55296 * (t.stones.filter (fun e => e.2.rcd.vl && !e.2.rcd.rl)).length + 256 * (t.mill.filter (fun o => o.isMma)).length
/-- Teams of the clusters that hold cores. -/
def State.placedTeams (s : State) (j : Nat) : List Nat :=
  (s.teamsOf j).filter (fun tk => s.teamHolds j (tk % 65536))
/-- The save cost of a job in bytes: a full image of all its placed clusters. -/
def State.costBytes (s : State) (j : Nat) : Nat :=
  let d := (s.job j).jd
  let ts := s.placedTeams j
  let gs := ts.flatMap s.groupsOf
  let sections := 1 + ts.length + gs.length + (if d.nw = 0 then 0 else 1)
  16 * sections + 1536 + (gs.map (s.groupCost d)).foldl (· + ·) 0 + (ts.map (s.teamCost d)).foldl (· + ·) 0
    + (if d.nw = 0 then 0 else 8 * d.nw + ceilTo ((d.nw + 7) / 8) 16 + 4096 * d.nw)
def State.costAc (s : State) (j : Nat) : Nat := (s.costBytes j + 1023) / 1024
/-- CKCOST (R286). -/
def execCkcost (d : BitVec 7) (s : State) : Host.Outcome State Fault Refusal :=
  let j := s.curGroup.job
  s.finish s.cur.lanes ((s.curGroup.sset d.toNat (BitVec.ofNat 64 (s.costBytes j))).sset (d.toNat + 1) (BitVec.ofNat 64 (s.costAc j)))

/-! ## Performance counters (R292) -/

/-- Counters that depend on timing have grown by a free amount. -/
def perfExact (k : Nat) : Bool := k == 0 || k == 1 || k == 7 || k == 8 || k == 10 || k == 11
def State.readPerf (s : State) (k : Nat) : State × DWord :=
  let g := s.curGroup
  if perfExact k then (s, getD 0 g.perf k)
  else
    let h := g.count k (Config.ticks s.free)
    (s.spend.setCurGroup h, getD 0 h.perf k)
/-- Counters of the group's mill and copy work hold what every earlier instruction comes to (R292): they are read when that work is done. -/
def State.perfReady (s : State) (k : Nat) : Bool :=
  (k != 8 || !(s.curTeam.mill.any (fun o => o.isMma && o.mask.getLsbD s.curGroup.q))) && (k != 10 || !(s.copies.any (fun c => c.grp == s.cur.grp)))
def execPerfrd (d a : BitVec 7) (s : State) : Host.Outcome State Fault Refusal :=
  let k := (s.curGroup.sget a.toNat).toNat
  (if 11 < k then Act.trap (Trap.illegalOperand 0) else if !s.perfReady k then .hold else valueAct s d (s.readPerf k)).run s

/-! ## In-flight counters (R93) -/

/-- A group with no lane left may end (R108), and counts as arrived at the barriers of its team and cluster from then on (R265). -/
def State.groupEnd (s : State) (k : Nat) : State :=
  let t := s.endCheck k
  let g := s.group k
  if (t.group k).live then t else (t.tbarCheck g.tk).cbarCheck g.job g.team
/-- The oldest instruction of a path is complete: its counter is lowered, and the group may end. -/
def execAccessComplete (grp : Nat) (p : Path) (s : State) : Host.Outcome State Fault Refusal :=
  ev (((s.group grp).lower p).map (fun g => (s.setGroup grp g).groupEnd grp))

end Sys2Proof.Machine
end

