-- ==== Sys2Proof/Machine/Service.lean ====
section
/-!
DEFINITION. Nolelavin's memory services: walks and invalidations (R111, R112), fault service (R115, R116), page moves (R44,
R120), scrub and fatal errors (R50, R343), key slots (R46, R351), code objects and text rewrites (R181 to R183, R329), private
breakpoints and the debug service (R287, R291, R330).
-/

namespace Sys2Proof.Machine

/-! ## Entries of a page (R18 to R21) -/

/-- Level and address of the last entry that a walk reads. -/
def State.walkEndFrom (s : State) (kid : BitVec 6) (va : Nat) : Nat → Nat → Nat × Nat
  | level, frame =>
    let ent := frame * 4096 + vaIndex level va * 8
    let e := s.entry kid ent
    match level with
    | 0 => (0, ent)
    | l + 1 => if pteV e && !pteLf e && tableOk e then s.walkEndFrom kid va l (pteFn e) else (l + 1, ent)
def State.walkEnd (s : State) (job va : Nat) : Nat × Nat :=
  s.walkEndFrom (s.part (s.job job).part).skid va 4 (s.job job).root.toNat
/-- Entries of a leaf's run at a level. -/
def runLen (level : Nat) (e : DWord) : Nat := match leafSize level (pteSz e) with | some (_, n) => n | none => 1
def pageSize (level : Nat) (e : DWord) : Nat := match leafSize level (pteSz e) with | some (n, _) => n | none => 4096
/-- Write an entry in its partition's tables, each by one 64-bit store. -/
def State.putEntry (s : State) (job a : Nat) (e : DWord) : State := s.poke (s.part (s.job job).part).skid a (toBytes 8 e.toNat)
/-- Write a leaf in every entry of its run, at the place where the walk of an address ends. -/
def State.putLeaf (s : State) (job va : Nat) (leaf : DWord) : State :=
  let w := s.walkEnd job va
  let n := runLen w.1 leaf
  let first := w.2 / (8 * n) * (8 * n)
  (List.range n).foldl (fun (t : State) i => t.putEntry job (first + 8 * i) leaf) s
/-- Copy a frame under one key id, by lines, with poison marks. -/
def State.copyFrame (s : State) (kid : BitVec 6) (src dst size : Nat) : State :=
  (List.range (size / 128)).foldl (fun (t : State) i =>
    let a := src / 128 + i
    let b := dst / 128 + i
    let u := (t.readHome a).poke kid (b * 128) (lineBytes (t.lineNow kid a))
    { u with poison := setD false u.poison b (t.poisonNow a) }) s
/-- A job under a root tag. -/
def State.rootJob (s : State) (rtag : Nat) : Option Nat := (s.jobs.find? (fun e => e.2.live && e.2.rtag == rtag)).map (fun e => e.1)

/-! ## Walks and invalidations -/

/-- A walk of a root for a die ends: on a resident page it fills the die's TLB and sets A, and D for a write that leaf and class admit. -/
def execWalkComplete (die rtag : Nat) (va : VAddr) (write : Bool) (s : State) : Host.Outcome State Fault Refusal :=
  .next (match s.rootJob rtag with
    | none => s
    | some j =>
      match s.walkOn j die va.toNat with
      | .page p =>
        if pteRs p.leaf then s.fillTlb j die va.toNat p (write && pteW p.leaf && classAdmits (pteCl p.leaf) .store == .yes) else s
      | _ => s)
/-- Nolelavin's invalidation of a page or a root begins. -/
def execTlbInvalidate (rtag : Nat) (page : Option VAddr) (s : State) : Host.Outcome State Fault Refusal :=
  .next { s with invals := s.invals ++ [{ rtag := rtag, page := page }] }
/-- An invalidation names a range of addresses under a root tag. -/
def Inval.names (i : Inval) (rtag va size : Nat) : Bool :=
  i.rtag == rtag && (match i.page with | none => true | some p => decide (va ≤ p.toNat) && decide (p.toNat < va + size))
/-- An entry of a walk cache leads to an address that an invalidation names. -/
def WalkEnt.under (c : WalkEnt) (i : Inval) : Bool := i.names c.rtag (c.pre * 2 ^ (12 + 9 * c.level)) (2 ^ (12 + 9 * c.level))
/-- It completes when every matching pin has been released: matching entries are gone from every TLB and walk cache. -/
def execTlbInvalidateComplete (i : Nat) (s : State) : Host.Outcome State Fault Refusal :=
  ev (match s.invals[i]? with
    | none => none
    | some v =>
      if s.pins.any (fun p => v.names p.rtag p.va p.size) then none
      else some { s with invals := dropAt s.invals i, tlb := s.tlb.filter (fun t => !(v.names t.rtag t.va.toNat t.size)),
                          wcache := s.wcache.filter (fun c => !(c.under v)) })

/-! ## Fault service (R115, R116) -/

/-- The record at an index of a die's queue. -/
def State.faultAt (s : State) (die i : Nat) : Option FaultRec := (s.faults.filter (fun f => f.die == die))[i]?
def State.dropFault (s : State) (f : FaultRec) : State := { s with faults := s.faults.filter (fun x => x.id != f.id) }
/-- A group still waits on a record. -/
def State.joinedTo (s : State) (f : FaultRec) (j : FaultJoin) : Bool := (s.group j.grp).wait == .fault f.die f.id
/-- The pages that a copy or check-out still names, from its restart point on (R110). -/
def State.restCover (s : State) (c : Copy) : Cover :=
  let g := s.group c.grp
  let rows := fun (k : AKind) (a st done : Nat) (v : Cover) =>
    if c.rows ≤ c.row then v
    else s.coverRows g.job c.die k c.len st (c.rows - c.row - 1) ((a + (c.row + 1) * st) % 2 ^ 64)
      (s.coverRange g.job c.die k 4098 ((a + c.row * st) % 2 ^ 64 + done) ((a + c.row * st) % 2 ^ 64 + c.len) v)
  match c.kind with
  | .bchkin =>
    (List.range c.cnt).foldl (fun (v : Cover) i =>
      let t := (s.job g.job).tag_ (c.ws + i)
      if c.row ≤ i ∧ t.st = 3 then s.coverRange g.job c.die .copyDst 2 (t.gva.toNat * 4096) (t.gva.toNat * 4096 + 4096) v else v) Cover.start
  | .bchk =>
    s.coverRange g.job c.die (if c.excl then .bchkEx else .bchk) 4098 (c.src.toNat + c.row * 4096 + c.off) (c.src.toNat + c.len) Cover.start
  | _ =>
    let v := if c.ss = .global then rows .copySrc c.src.toNat c.sstr (c.off + c.buf.length) Cover.start else Cover.start
    if c.kind == .bapnd then s.coverRange g.job c.die .bapnd 2 c.dst.toNat (c.dst.toNat + 1) v
    else if c.ds = .global then rows .copyDst c.dst.toNat c.dstr c.off v else v
/-- The pages that a load of stones still names, from its next stone on. -/
def State.restStones (s : State) (k : Nat) (o : MillOp) (a : Arrival) : Cover :=
  let g := s.group k
  ((List.range (o.kb - o.slab)).flatMap (fun i => stoneRuns o.fb a.a a.hs (o.slab + i))).foldl
    (fun v r => s.coverRange g.job g.place.die .mill 4098 r.1 (r.1 + r.2) v) Cover.start
/-- A fault of an engine that cannot be made precise stops the job, as a trap of the group that names its restart record (R110, R273). -/
def State.engineStop (s : State) (k : Nat) (pc : VAddr) (x : XFault) (at_ va : Nat) : State :=
  let g := s.group k
  let t : Trap := { Trap.of x.cause with rsn := x.rsn, at_ := at_, addr := BitVec.ofNat 64 va }
  let fi : FaultInfo := { cause := BitVec.ofNat 64 x.cause, pc := pc.setWidth 64, info := t.info 8, addr := t.addr, lm := 0, cc := 0 }
  let u := if g.tm then s else s.setGroup k { g with fi := fi }
  (u.stopJob g.job true).postJob g.job 0x03 (s.job g.job).tag.toNat g.team fi.cause fi.pc
/-- Pin an operation's pages again: a page fault waits on a record joined by no group, and with a full queue until an entry frees; another cause
stops the job (R110). -/
def State.pinAgain (s : State) (k die id : Nat) (pc : VAddr) (c : Cover) : State :=
  match c.fault with
  | some (e, va, kd) =>
    if e.cause = 0x10 then (match s.faultRecord k va e kd.at_ none (some id) with | some r => r.1 | none => s)
    else s.engineStop k pc e kd.at_ va
  | none => if s.pinRoom die c.pins.length then s.pin (s.group k).job die id c else s
/-- The mill operation that holds pins under a number, with its team and its member. -/
def State.pinOp (s : State) (id : Nat) : Option (Nat × MillOp × Arrival) :=
  s.teams.findSome? (fun e => (e.2.mill.find? (fun o => o.pin == id && id != 0)).bind (fun o => o.mem.head?.map (fun a => (e.1, o, a))))
/-- Group and PC of an engine operation. -/
def State.engineOf (s : State) (id : Nat) : Option (Nat × VAddr) :=
  match s.copyOf id with
  | some c => some (c.grp, c.pc)
  | none => (s.pinOp id).map (fun o => (o.1 * 64 + o.2.2.q, o.2.2.pc))
/-- An engine operation without pins, which waits on no record, goes on: it pins the pages that it still names. -/
def State.engineRepin (s : State) (id : Nat) : State :=
  if s.pins.any (fun p => p.copy == id) || s.faults.any (fun f => f.engines.contains id) then s
  else match s.copyOf id with
    | some c =>
      if c.stopped || (c.kind == .bchk && !c.filling) || !s.teamPlaced (s.group c.grp).job (s.group c.grp).team then s
      else s.pinAgain c.grp c.die id c.pc (s.restCover c)
    | none => match s.pinOp id with
      | some (tk, o, a) =>
        let k := tk * 64 + a.q
        if s.teamPlaced (s.group k).job (s.group k).team then s.pinAgain k (s.group k).place.die id a.pc (s.restStones k o a) else s
      | none => s
/-- The engines' operations. -/
def State.engineIds (s : State) : List Nat := s.copies.map (fun c => c.id) ++ (s.teams.flatMap (fun t => t.2.mill.map (fun o => o.pin))).filter (fun i => i != 0)
def execEngineRepin (id : Nat) (s : State) : Host.Outcome State Fault Refusal :=
  ev (if s.pins.any (fun p => p.copy == id) then none else if s.engineRepin id = s then none else some (s.engineRepin id))
/-- Clear a record and let everything joined to it go on: each group issues its instruction again, each engine takes its pins again. -/
def State.replayFault (s : State) (f : FaultRec) : State :=
  (f.joined.foldl (fun (t : State) j => if t.joinedTo f j then t.setGroup j.grp { t.group j.grp with wait := .none } else t) s).dropFault f
/-- Deliver a fault to the trap handler of every joined group; an engine's stops its job (R110, R116). -/
def State.deliverFault (s : State) (f : FaultRec) : State :=
  let t := f.joined.foldl (fun (t : State) j =>
    if t.joinedTo f j then
      (t.setGroup j.grp { t.group j.grp with wait := .none }).trapIssue j.grp j.lanes j.act j.pc j.len
        { Trap.of f.cause.toNat with rsn := f.rsn.toNat, at_ := j.at_, lane := j.lane, addr := j.addr }
    else t) s
  f.engines.foldl (fun (u : State) i => match u.engineOf i with
    | some (k, pc) => u.engineStop k pc { cause := f.cause.toNat, rsn := f.rsn.toNat } f.acc.toNat f.va.toNat
    | none => u) (t.dropFault f)
/-- Some of a page of a root is under a move of R44. -/
def State.moving (s : State) (rtag base size : Nat) : Bool := s.moves.any (fun m => m.rtag == rtag && overlap m.base m.size base size)
/-- A frame that a page may take: none of it retired, marked, or in another use (R50, R71, R86). -/
def State.frameFree (s : State) (lo size : Nat) : Bool :=
  lo % size == 0 && !s.frameTaken lo (lo + size) && !s.recordIn (homeOf lo) lo (lo + size)
def execFaultServiceResolve (die i : Nat) (how : Resolve) (s : State) : Host.Outcome State Fault Refusal :=
  ev (match s.faultAt die i with
    | none => none
    | some f =>
      let fwd := (s.part f.pt).rcd.fwd
      if s.moving f.rtag f.base f.size then none
      else match how with
      | .promote leaf =>
        let w := s.walkEnd f.js f.va.toNat
        let e := s.entry (s.part f.pt).skid w.2
        if f.rsn = 3 && pteV e && pteLf e && !pteRs e && pteRs leaf && leafOk s.boot.ddn w.1 leaf && pteSz leaf == pteSz e
            && pteKid leaf == pteKid e && s.frameFree (pteFn leaf * 4096) (pageSize w.1 leaf) then
          let t := s.copyFrame (pteKid leaf) (pteFn e * 4096) (pteFn leaf * 4096) (pageSize w.1 leaf)
          some ((t.putLeaf f.js f.va.toNat leaf).replayFault f)
        else none
      | .replay => some (s.replayFault f)
      | .forward =>
        if fwd && !f.forwarded then
          let t := { s with faults := s.faults.map (fun (x : FaultRec) => if x.id == f.id then { x with forwarded := true } else x) }
          some (t.postJob f.js 0x06 (s.job f.js).tag.toNat 0 f.w0 f.w1)
        else none
      | .deliver => if fwd then none else some (s.deliverFault f))
def execHostFaultAnswer (die i : Nat) (ans : FaultAnswer) (s : State) : Host.Outcome State Fault Refusal :=
  ev (match s.faultAt die i with
    | none => none
    | some f =>
      if !f.forwarded || s.moving f.rtag f.base f.size then none
      else match ans with
        | .entry leaf => some ((s.putLeaf f.js f.va.toNat leaf).replayFault f)
        | .refusal => some (s.deliverFault f))

/-! ## Page moves (R44) -/

/-- An unsealed append-seal page is never moved; a page of a frozen unit waits for its stream (R44, R323). -/
def State.mayMove (s : State) (pa size : Nat) : Bool :=
  (match s.recordAt pa with | some (_, r) => r.sl | none => true) &&
  !(s.frozen.any (fun e => decide (pa / 2 ^ 16 ≤ e.1) && decide (e.1 * 2 ^ 16 < pa + size)))
/-- The record of a sealed page follows its frame. -/
def State.moveRecord (s : State) (src dst : Nat) : State :=
  match s.recordAt src with
  | none => s
  | some (k, r) =>
    let home := homeOf dst
    let r2 := { r with bfn := BitVec.ofNat 40 (dst / 4096) }
    let idx := s.freeRec home
    let t := { s with replicas := s.replicas.map (fun (p : Replica) => if p.sfn == r.bfn then { p with sfn := r2.bfn } else p) }
    if home * 65536 ≤ k ∧ k < home * 65536 + 65536 then t.setRec k r2 else (t.setRec k { r with v := false }).setRec (recKey home idx) r2
/-- The move of a page that an address names. -/
def State.moveOf (s : State) (rtag : Nat) (va : VAddr) : Option Move := s.moves.find? (fun m => m.rtag == rtag && m.va == va)
/-- One step of a move: the entry is cleared, the frame copied once no TLB, walk or pin holds the page, the new entry written, which names the
frame that was filled. A move changes no byte, class, key id or permission; an old frame in a marked region is retired (R50). -/
def execPageMove (rtag : Nat) (va : VAddr) (step : MoveStep) (s : State) : Host.Outcome State Fault Refusal :=
  ev (match s.rootJob rtag with
    | none => none
    | some j =>
      match step with
      | .clear rs =>
        let w := s.walkEnd j va.toNat
        let e := s.entry (s.part (s.job j).part).skid w.2
        let size := pageSize w.1 e
        let base := va.toNat / size * size
        if pteV e && pteLf e && pteRs e && !s.moving rtag base size && s.mayMove (pteFn e * 4096) size then
          let m : Move := { rtag := rtag, va := va, base := base, size := size, old := e, copied := none }
          some { s.putLeaf j va.toNat (if rs then e &&& ~~~ 0x10000 else e &&& ~~~ 1) with moves := s.moves ++ [m] }
        else none
      | .copy f =>
        (match s.moveOf rtag va with
         | none => none
         | some m =>
           let held := s.tlb.any (fun t => t.rtag == rtag && overlap t.va.toNat t.size m.base m.size) ||
             s.pins.any (fun p => p.rtag == rtag && overlap p.va p.size m.base m.size) ||
             s.invals.any (fun v => v.names rtag m.base m.size)
           let pa := pteFn m.old * 4096
           if !held && s.mayMove pa m.size && s.frameFree (f.toNat * 4096) m.size then
             some { s.copyFrame (pteKid m.old) pa (f.toNat * 4096) m.size with
               moves := s.moves.map (fun (x : Move) => if x == m then { x with copied := some f } else x) }
           else none)
      | .write leaf =>
        (match s.moveOf rtag va with
         | none => none
         | some m =>
           let e := m.old
           let same := pteCl leaf == pteCl e && pteKid leaf == pteKid e && pteW leaf == pteW e && pteX leaf == pteX e && pteSz leaf == pteSz e
           let pa := pteFn e * 4096
           if same && pteV leaf && pteLf leaf && m.copied == some (BitVec.ofNat 40 (pteFn leaf)) then
             let t := s.putLeaf j va.toNat leaf
             let u := if s.inMarked pa (pa + m.size) then t.retire_ pa (pa + m.size) else t
             some { (if pteRs leaf then u.moveRecord pa (pteFn leaf * 4096) else u) with moves := s.moves.filter (fun x => x != m) }
           else none))

/-! ## Errors (R48 to R50, R343) -/

/-- Key of a 2 MiB region's error count. -/
def errRegion (pa : Nat) : Nat := pa / 2 ^ 21
/-- A line with an uncorrectable error is poisoned where it is in memory. -/
def State.poisonLine (s : State) (la : Nat) : State := { s with poison := setD false s.poison la true }
/-- A region that has met the threshold takes no new page, and its unsealed append-seal pages are retired when they are freed (R50). -/
def State.markRegion (s : State) (r : Nat) : State :=
  { s with
    marked := setD false s.marked r true,
    records := s.records.map (fun e =>
      if e.2.v && !e.2.sl && e.2.bfn.toNat * 4096 / 2 ^ 21 == r then (e.1, { e.2 with retire := true }) else e) }
/-- Number of a structure among a die's counts of corrected errors. -/
def Store.code : Store → Nat
  | .regs => 0 | .tiles => 1 | .l1 => 2 | .team => 3 | .comb => 4 | .stones => 5 | .l2 => 6 | .tags => 7 | .hbm => 8 | .pool => 9
/-- A corrected error is counted for its structure and die (R48, R50). -/
def State.countError (s : State) (die : Nat) (u : Store) : State :=
  { s with errcount := setD 0 s.errcount (die * 16 + Store.code u) (getD 0 s.errcount (die * 16 + Store.code u) + 1) }
/-- Ticks of the device timer in 24 hours (R50, R279). -/
def dayTicks : Nat := 24 * 3600 * 10 ^ 8
/-- A corrected error of HBM: counted, and with 16 of its 2 MiB region within 24 hours the region is marked (R50). -/
def State.corrected (s : State) (la : Nat) : State :=
  let r := errRegion (la * 128)
  let now := s.timer.toNat
  let l := (getD [] s.errTimes r).filter (fun t => decide (now < t + dayTicks)) ++ [now]
  let u := { s.countError (dieOf (la * 128)) .hbm with errlog := setD 0 s.errlog r (getD 0 s.errlog r + 1), errTimes := setD [] s.errTimes r l }
  if 16 ≤ l.length then u.markRegion r else u
/-- An uncorrectable error of HBM: the line is poisoned, and its region marked. -/
def State.uncorrected (s : State) (la : Nat) : State := (s.poisonLine la).markRegion (errRegion (la * 128))
/-- A scrub pass of a die: corrected errors are counted, uncorrectable lines poisoned, and the counts reported. -/
def execScrubPass (die : Nat) (corrected bad : List Nat) (s : State) : Host.Outcome State Fault Refusal :=
  let mine := fun (la : Nat) => regionOf (la * 128) == .hbm && dieOf (la * 128) == die
  let s1 := (corrected.filter mine).foldl State.corrected s
  let s2 := (bad.filter mine).foldl State.uncorrected s1
  let hit := (corrected ++ bad).filter mine
  let ps := s2.parts.filter (fun e => e.2.setUp && e.2.rcd.frames.any (fun f => hit.any (fun la => decide (f.1 ≤ la / 32) && decide (la / 32 < f.2))))
  .next (ps.foldl (fun (t : State) e =>
    (t.post e.1 e.2.rcd.ring (evRecord 0x08 0 e.1 0 0 0 (Config.free64 t.free) (Config.free64 (t.free + 1)))).spend.spend) s2)
/-- A fatal error (R343): kinds 1 to 4. -/
def execFatalError (kind die : Nat) (s : State) : Host.Outcome State Fault Refusal :=
  ev (if 1 ≤ kind ∧ kind ≤ 4 then some (s.fatal kind die) else none)

/-! ## Key slots (R46, R47, R351) -/

/-- Extend a measurement register (R350). -/
def State.extend (s : State) (i : Nat) (d : List Byte) : State :=
  let m := getD 0 s.boot.meas i
  { s with boot := { s.boot with meas := setD 0 s.boot.meas i (shake256 (toBytes 32 m.toNat ++ d)) } }
/-- Every L2 line last accessed under a slot is written back and invalidated. -/
def State.flushL2 (s : State) (slot : BitVec 6) : State :=
  let hit := s.l2.filter (fun e => e.2.kid == slot && keyed (e.1 % 2 ^ 45 * 128))
  hit.foldl (fun (t : State) e =>
    let la := e.1 % 2 ^ 45
    let x := e.2
    let h := t.holding la
    let u := if x.ow && x.dt then t.homeStore x.kid la x.data x.pz else t
    { (if x.isSealed then u else u.setHolding la { tc := h.tc + x.tc, ow := h.ow || x.ow }) with l2 := remove u.l2 e.1 }) s
/-- Agent of the home of a segment's run (R38). -/
def SegTag.home (t : SegTag) : Nat := if t.hm = 4 then 8 else t.hm.toNat + 4
/-- The frame of a checked-out segment, from its range-table entry (R37). -/
def State.segFrame (s : State) (j seg : Nat) : Option Nat :=
  let jb := s.job j
  let t := jb.tag_ seg
  (s.ranges.find? (fun e => e.home == t.home && e.idx == t.ix.toNat && e.js == j)).map
    (fun e => e.bfn.toNat + (seg - jb.combSegs.findIdx (fun x => x == e.seg)))
/-- A comb segment last accessed under a slot is written back, if it is in O, with its poison, and returns to I. -/
def State.flushSeg (s : State) (j seg : Nat) (slot : BitVec 6) : State :=
  let jb := s.job j
  let t := jb.tag_ seg
  if (t.st == 1 || t.st == 2) && getD 0 jb.segKid seg == slot then
    let u := match (if t.st == 2 then s.segFrame j seg else none) with
      | some f => (List.range 32).foldl (fun (u : State) i =>
          let a := seg * 4096 + 128 * i
          let v := u.poke slot (f * 4096 + 128 * i) (Memory.readN jb.comb a 128)
          { v with poison := setD false v.poison (f * 32 + i) (wordsPoisoned jb.combPoison a 128) }) s
      | none => s
    (u.setJob j ((u.job j).setTag seg SegTag.idle)).releaseSeg t.home t.ix.toNat
  else s
/-- The partition of a slot. -/
def State.slotPart (s : State) (slot : BitVec 6) : Nat := match lookup s.keys slot.toNat with | some k => k.part.toNat | none => 16
/-- Jobs of a partition that hold comb segments of a die now. -/
def State.combJobs (s : State) (part : Nat) : List Nat :=
  (s.jobs.filter (fun e => e.2.live && e.2.part == part && e.2.clusters.any (fun c => c.st == .placed || c.st == .stopping || c.st == .halted))).map (fun e => e.1)
/-- A segment last accessed under a slot is in T: its fill or write-back ends first. -/
def State.slotBusy (s : State) (slot : BitVec 6) : Bool :=
  (s.combJobs (s.slotPart slot)).any (fun j => (s.job j).tags.any (fun e => e.2.st == 3 && getD 0 (s.job j).segKid e.1 == slot))
/-- Every L2 line and comb segment of a slot's partition last accessed under it is written back and invalidated (R46). -/
def State.flushSlot (s : State) (slot : BitVec 6) : State :=
  (s.combJobs (s.slotPart slot)).foldl (fun (t : State) j => ((t.job j).tags.map (fun e => e.1)).foldl (fun (u : State) seg => u.flushSeg j seg slot) t) (s.flushL2 slot)
/-- The lines of HBM and pool that lie under a slot; slot 0 is the slot of every line that names no other. -/
def State.linesUnder (s : State) (slot : BitVec 6) : List Nat :=
  if slot = 0 then ((s.mem.map (fun e => e.1 / 128)).filter (fun la => keyed (la * 128) && getD 0 s.lineKid la == 0)).eraseDups
  else (s.lineKid.filter (fun e => e.2 == slot)).map (fun e => e.1)
/-- The lines written under a slot stay as its key has written them: only the same key material reads them back (R45, R46; log 10). -/
def State.loseKey (s : State) (slot : BitVec 6) : State :=
  { s with lineOld := (s.linesUnder slot).foldl (fun (m : SMap (BitVec 512)) la =>
      if (lookup m la).isSome then m else mapInsert m la (s.keyOf slot)) s.lineOld }
/-- Load a slot with key material of a secure session, for the partition it names; MEAS5 is extended with slot and partition. -/
def execKeySlotLoad (slot : BitVec 6) (part : BitVec 4) (key : BitVec 512) (s : State) : Host.Outcome State Fault Refusal :=
  ev (if !s.boot.session || slot = 0 || s.slotBusy slot || s.parts.any (fun e => e.1 != part.toNat && e.2.setUp && e.2.rcd.slots.getLsbD slot.toNat) then none
    else
      let t := if (lookup s.keys slot.toNat).isSome then (s.flushSlot slot).loseKey slot else s
      some ({ t with keys := mapInsert t.keys slot.toNat { part := part, key := key } }.extend 5 [slot.setWidth 8, part.setWidth 8]))
/-- Clear a slot: an access under it raises KEY_FAULT until it is loaded again. -/
def State.clearSlot (s : State) (slot : BitVec 6) : State :=
  let t := s.flushSlot slot
  { t.loseKey slot with keys := remove t.keys slot.toNat }
def execKeySlotClear (slot : BitVec 6) (s : State) : Host.Outcome State Fault Refusal :=
  ev (if slot = 0 || s.slotBusy slot then none else some (s.clearSlot slot))

/-! ## Code objects (R181 to R183, R329) -/

/-- Little-endian number of bytes of an image. -/
def imgNum (l : List Byte) (o n : Nat) : Nat := ofBytes ((l.drop o).take n)
/-- Sizes of a stored object: header range, text, read-only data, data, zero tail, stubs. -/
def objHsz (l : List Byte) : Nat := ceilTo (128 + 16 * imgNum l 8 4) 4096
def objSize (l : List Byte) : Nat := objHsz l + imgNum l 0x10 8 + imgNum l 0x18 8 + imgNum l 0x20 8
/-- The checks of the load service (R181): header fields and digest, over every byte that the object carries. -/
def objOk (l : List Byte) : Bool :=
  imgNum l 0 4 == 0x57454331 && imgNum l 4 4 == 1 && decide (imgNum l 8 4 ≤ 65536) && imgNum l 0xC 4 == 0 &&
  imgNum l 0x10 8 % 4096 == 0 && imgNum l 0x18 8 % 4096 == 0 && imgNum l 0x20 8 % 4096 == 0 && decide (imgNum l 0x28 8 ≤ imgNum l 0x20 8) &&
  imgNum l 0x30 16 == 0 && imgNum l 0x60 32 == 0 && l.length == objSize l &&
  (shake256 (l.take 0x40 ++ List.replicate 32 (0 : Byte) ++ l.drop 0x60)).toNat == imgNum l 0x40 32
/-- Permissions of a byte of an object: W, X. -/
def objPerm (l : List Byte) (o : Nat) : Bool × Bool :=
  if o < objHsz l then (false, false)
  else if o < objHsz l + imgNum l 0x10 8 then (false, true)
  else if o < objHsz l + imgNum l 0x10 8 + imgNum l 0x18 8 then (false, false)
  else (true, false)
/-- A 4 KiB leaf of normal class. -/
def mkLeaf (frame : Nat) (kid : BitVec 6) (w x : Bool) : DWord :=
  BitVec.ofNat 64 (frame * 2 ^ 20 + 2 ^ 16 + kid.toNat * 2 ^ 6 + 8 + (if x then 4 else 0) + (if w then 2 else 0) + 1)
/-- Zero a table frame under the partition's system key. -/
def State.zeroFrame (s : State) (job f : Nat) : State :=
  (List.range 32).foldl (fun (t : State) i => t.poke (t.part (t.job job).part).skid (f * 4096 + 128 * i) (List.replicate 128 0)) s
/-- Map one 4 KiB page; a missing table takes the next free frame, zeroed (log 35). The first number bounds the levels. -/
def State.mapPage (s : State) (job va : Nat) (leaf : DWord) : Nat → Nat → State × Nat
  | 0, f => (s, f)
  | n + 1, f =>
    let w := s.walkEnd job va
    if w.1 = 0 then (s.putEntry job w.2 leaf, f)
    else
      let t := (s.zeroFrame job f).putEntry job w.2 (BitVec.ofNat 64 (f * 2 ^ 20 + 1))
      t.mapPage job va leaf n (f + 1)
/-- Write bytes at a virtual address of a job under a key id, page by page, whatever W says: a write of the load service. -/
def State.putText (s : State) (job va : Nat) (bs : List Byte) : State :=
  ((List.range bs.length).zip bs).foldl (fun (t : State) e =>
    match t.walk job (va + e.1) with
    | .page p =>
      let pa := pteFn p.leaf * 4096 + (va + e.1) % p.size
      t.poke (pteKid p.leaf) pa [e.2]
    | _ => t) s
/-- The physical 4 KiB frames of a range of a job's addresses. -/
def State.framesOf (s : State) (job lo hi : Nat) : List Nat :=
  (List.range ((hi + 4095) / 4096 - lo / 4096)).filterMap (fun i =>
    match s.walk job ((lo / 4096 + i) * 4096) with
    | .page p => some ((pteFn p.leaf * 4096 + (lo / 4096 + i) * 4096 % p.size) / 4096)
    | _ => none)
/-- Drop the words of a job's cores that were fetched in a range of addresses, and those that fetches might still find (R107, R329 step 2). -/
def State.dropFetched (s : State) (job lo hi : Nat) : State :=
  let fs := s.framesOf job lo hi
  { s with
    ibuf := s.ibuf.filter (fun e => !(e.1 / 2 ^ 66 == job && decide (lo ≤ e.1 % 2 ^ 57) && decide (e.1 % 2 ^ 57 < hi))),
    stale := s.stale.filter (fun e => !fs.contains (e.1 / 1024)) }
/-- Pages of an object from its first frame on: contiguous frames, with the permissions of each page. -/
def State.mapObject (s : State) (job base : Nat) (l : List Byte) (frame : Nat) (kid : BitVec 6) : State :=
  let n := objSize l / 4096
  ((List.range n).foldl (fun (r : State × Nat) i =>
    let p := objPerm l (4096 * i)
    r.1.mapPage job (base + 4096 * i) (mkLeaf (frame + i) kid p.1 p.2) 5 r.2) (s, frame + n)).1
/-- Stub slots after relocation: TARGET = base + offset, GEN = 1 (R182). -/
def relocated (base : Nat) (l : List Byte) : List Byte :=
  (List.range (imgNum l 8 4)).foldl (fun (b : List Byte) n =>
    let o := 0x80 + 16 * n
    b.take o ++ toBytes 8 ((base + imgNum l o 8) % 2 ^ 57) ++ toBytes 8 1 ++ b.drop (o + 16)) l
/-- The load service (R181, R182): a refused object changes nothing; otherwise it is mapped, written, and entered in the table. -/
def execCodeObjectLoad (job : Nat) (base : VAddr) (image : List Byte) (frame : BitVec 40) (kid : BitVec 6) (s : State) :
    Host.Outcome State Fault Refusal :=
  let j := s.job job
  if !j.live || !objOk image || decide (64 ≤ j.cot.length) || base.toNat % 4096 != 0 ||
      decide (2 ^ 57 < base.toNat + objSize image) || !s.keyOk kid.toNat j.part then .next s
  else
    let t := s.mapObject job base.toNat image frame.toNat kid
    let zsz := imgNum image 0x28 8
    let bytes := (relocated base.toNat image).take (image.length - zsz) ++ List.replicate zsz (0 : Byte)
    let u := (t.putText job base.toNat bytes).dropFetched job base.toNat (base.toNat + objSize image)
    .next (u.setJob job { u.job job with cot := j.cot ++ [({ base := base, size := objSize image } : CodeObj)] })
/-- A stub slot takes a new target with GEN one higher, by one store (R182, R329). -/
def State.setStub (s : State) (job : Nat) (e : Nat × VAddr) : State :=
  s.putText job e.1 (toBytes 8 e.2.toNat)
/-- GEN of a slot grows by one. -/
def State.bumpGen (s : State) (job va : Nat) : State :=
  match s.walk job (va + 8) with
  | .page p =>
    let pa := pteFn p.leaf * 4096 + (va + 8) % p.size
    s.putText job (va + 8) (toBytes 4 ((s.numNow (pteKid p.leaf) pa 4 + 1) % 2 ^ 32))
  | _ => s
/-- Words of a text page are rewritten: written, dropped where fetched, and the stub slots given (slot number in the object that
holds the words, and its target) rewritten (R329). -/
def execTextRewrite (job : Nat) (va : VAddr) (words : List Word) (stubs : List (Nat × VAddr)) (s : State) : Host.Outcome State Fault Refusal :=
  ev (if !(s.job job).live || va.toNat % 4 != 0 then none
    else
      let t := s.putText job va.toNat (words.flatMap (fun w => toBytes 4 w.toNat))
      let u := t.dropFetched job (va.toNat / 4096 * 4096) ((va.toNat + 4 * words.length + 4095) / 4096 * 4096)
      match (s.job job).objOf va with
      | none => some u
      | some o =>
        some (stubs.foldl (fun (x : State) e =>
          let slot := o.2.base.toNat + 0x80 + 16 * e.1
          (x.setStub job (slot, e.2)).bumpGen job slot) u))

/-! ## Debug service (R287, R291, R330) -/

/-- Copies of the tables on the path to an address, from a new frame on. -/
def State.clonePath (s : State) (kid : BitVec 6) (va : Nat) : Nat → Nat → Nat → State
  | 0, old, new => s.copyFrame kid (old * 4096) (new * 4096) 4096
  | l + 1, old, new =>
    let t := s.copyFrame kid (old * 4096) (new * 4096) 4096
    let o := vaIndex (l + 1) va * 8
    let e := s.entry kid (old * 4096 + o)
    if pteV e && !pteLf e then
      (t.poke kid (new * 4096 + o) (toBytes 8 ((e.toNat - pteFn e * 2 ^ 20) + (new + 1) * 2 ^ 20))).clonePath kid va l (pteFn e) (new + 1)
    else t
/-- A root is used by another job. -/
def State.rootShared (s : State) (job : Nat) : Bool :=
  s.jobs.any (fun e => e.1 != job && e.2.live && e.2.root == (s.job job).root)
/-- A root tag of 12 bits that no job bears (R111, R115). -/
def State.freeTag (s : State) : Nat := ((List.range 4096).find? (fun i => !(s.jobs.any (fun e => e.2.live && e.2.rtag == i)))).getD 0
/-- The job takes private copies of the tables on a path, under a root tag of its own. -/
def State.privatePath (s : State) (job va frame : Nat) : State :=
  let j := s.job job
  let tag := s.freeTag
  let t := s.clonePath (s.part j.part).skid va 4 j.root.toNat frame
  t.setJob job { t.job job with root := BitVec.ofNat 40 frame, rtag := tag }
/-- The TLBs hold no entry for an address of a root. -/
def State.dropTlb (s : State) (rtag va : Nat) : State :=
  { s with tlb := s.tlb.filter (fun t => !(t.rtag == rtag && decide (t.va.toNat ≤ va) && decide (va < t.va.toNat + t.size))) }
/-- The private copy of a page with the debug word at the breakpoint; the frames after the page's hold the private tables. -/
def execDebugPrivateBreakpoint (job : Nat) (va : VAddr) (frame : BitVec 40) (s : State) : Host.Outcome State Fault Refusal :=
  let j := s.job job
  ev (match s.walk job va.toNat with
    | .page p =>
      if !j.live || j.st != .stopped || va.toNat % 4 != 0 || frame.toNat * 4096 % p.size != 0 then none
      else
        let t := s.copyFrame (pteKid p.leaf) (pteFn p.leaf * 4096) (frame.toNat * 4096) p.size
        let u := if s.rootShared job then t.privatePath job va.toNat (frame.toNat + p.size / 4096) else t
        let leaf := BitVec.ofNat 64 (p.leaf.toNat - pteFn p.leaf * 2 ^ 20 + frame.toNat * 2 ^ 20)
        let x := (u.putLeaf job va.toNat leaf).dropTlb (u.job job).rtag va.toNat
        let y := (x.putText job va.toNat (toBytes 4 0xFFFFFFFF)).dropFetched job (va.toNat / 4096 * 4096) (va.toNat / 4096 * 4096 + 4096)
        some (y.setJob job { y.job job with priv := j.priv ++ [(va, p.leaf)] })
    | _ => none)
/-- The private copies are dropped: the original leaves come back. -/
def State.dropPrivate (s : State) (job : Nat) : State :=
  let t := (s.job job).priv.foldr (fun e (t : State) =>
    ((t.putLeaf job e.1.toNat e.2).dropTlb (t.job job).rtag e.1.toNat).dropFetched job (e.1.toNat / 4096 * 4096) (e.1.toNat / 4096 * 4096 + 4096)) s
  t.setJob job { t.job job with priv := [] }
/-- The debug service: breakpoint registers and DBGCTL at any time, the context of a stopped job, and its resumption. Reserved
bits are not kept. -/
def execDebugServiceRequest (job : Nat) (op : DebugOp) (s : State) : Host.Outcome State Fault Refusal :=
  let j := s.job job
  let onGroup := fun (team q : Nat) (f : Group → Group) =>
    let k := gkey job team q
    if j.st == .stopped && (s.group k).live then some (s.setGroup k (f (s.group k))) else none
  let onTeam := fun (team : Nat) (f : Team → Team) =>
    if j.st == .stopped && (s.team (tkey job team)).live then some (s.setTeam (tkey job team) (f (s.team (tkey job team)))) else none
  ev (if !j.live then none
    else match op with
    | .bpm i v => some (s.setJob job { j with bpm := setD 0 j.bpm i.toNat (v &&& 0x81FFFFFFFFFFFFFC) })
    | .ctl v =>
      let t := s.setJob job { j with dbgctl := v &&& 1 }
      some (if v.getLsbD 0 then t else t.dropPrivate job)
    | .writeS team q r v => onGroup team q (fun g => g.sset r.toNat v)
    | .writeV team q l r v => onGroup team q (fun g => g.setV32 r.toNat l.toNat v)
    | .writePc team q l pc => onGroup team q (fun g => g.mapLanes (laneBit l.toNat) (fun x => { x with pc := pc &&& ~~~ 3 }))
    | .writeP team q r v => onGroup team q (fun g => g.psetMask r.toNat g.full v)
    | .writeJ team q r v => onGroup team q (fun g => g.jset r.toNat (v &&& g.full))
    | .writeXm team q v => onGroup team q (fun g => g.setXm v)
    | .writeSc team q v => onGroup team q (fun g => { g with sc := v })
    | .writeFmode team q v => onGroup team q (fun g => { g with fmode := v &&& 0x1FFFF })
    | .writeTile team tile r c v => onTeam team (fun t => if tile < 64 ∧ r < 16 ∧ c < 128 then t.setAcc tile r c v else t)
    | .writeTeam team a bs => onTeam team (fun t => if a.toNat + bs.length ≤ 2 ^ 20 then t.put a.toNat bs false else t)
    | .resume => if j.held && j.st == .stopped then some (s.setJob job { j with held := false }) else none)

/-! ## Answers from outside (R17, R94, R346) -/

/-- A device-I/O load takes its answer at H0, a store is sent, in the order of its lane and after older accesses of the same bytes (R98, R106). -/
def execDeviceIoAnswer (i : Nat) (data : BitVec 128) (s : State) : Host.Outcome State Fault Refusal :=
  ev (match s.pend[i]? with
    | none => none
    | some a =>
      if a.kind != .deviceIo || s.blockedAt i a then none
      else some ((({ s with pend := dropAt s.pend i } : State).gave a (data.toNat % 2 ^ (8 * a.w)) false).finishFlight a.grp a.flight))
/-- The group of an access has issued nothing since: a trap of it is precise. -/
def State.precise (s : State) (a : Access) : Bool :=
  let g := s.group a.grp
  g.olderDone a.flight && (g.wait == .access a.flight || (match g.flightOf a.flight with | some f => g.standsAfter f | none => false))
/-- Kind of access that a remote access reports (R115). -/
def Access.at_ (a : Access) : Nat := match a.op with | .load _ _ => (if a.dep.isSome then 7 else 0) | .store _ => 1 | .atom _ _ _ _ => 2
/-- A refused remote access: PROTECTION, reason 9 (R17). -/
def Access.refusal (a : Access) : Trap := { Trap.of 0x11 with rsn := 9, at_ := a.at_, lane := a.lane.toNat, addr := a.va.setWidth 64 }
/-- The response of a remote device, with the line of a sealed page, which the L2 keeps if it has room (R29, R89). A refusal traps at the access:
the group has held there (log 55). -/
def execRemoteAccessAnswer (i : Nat) (data : Option (BitVec 128)) (line : Option (BitVec 1024)) (s : State) : Host.Outcome State Fault Refusal :=
  ev (match s.pend[i]? with
    | none => none
    | some a =>
      if a.kind != .remote || s.blockedAt i a then none
      else match data with
        | none => if s.precise a then some (s.lateTrap a a.refusal) else none
        | some d =>
          let t := match line with
            | some x => s.keepSealed a.die { Msg.zero with la := a.pa / 128, data := x, d := true }
            | none => s
          some ((({ t with pend := dropAt t.pend i } : State).gave a (d.toNat % 2 ^ (8 * a.w)) false).finishFlight a.grp a.flight))
/-- The completion of a pool read of a line (by line address) gives memory at H0 the data the pool holds; with no decoder, or
with an error, it completes with poison and is logged. -/
def execPoolCompletion (i : Nat) (data : Option (BitVec 1024)) (s : State) : Host.Outcome State Fault Refusal :=
  ev (if regionOf (i * 128) != .pool then none
    else match data with
      | some d =>
        if s.poolDark i then some { s with errlog := setD 0 s.errlog (errRegion (i * 128)) (getD 0 s.errlog (errRegion (i * 128)) + 1) }
        else some (s.memPutLine (getD 0 s.lineKid i) i d false)
      | none => some { s.poisonLine i with errlog := setD 0 s.errlog (errRegion (i * 128)) (getD 0 s.errlog (errRegion (i * 128)) + 1) })

end Sys2Proof.Machine
end

