-- ==== Sys2Proof/Machine/Image.lean ====
section
/-!
DEFINITION. The job descriptor as bytes (R123), context sections (R313 to R318), restart records (R316), the checkpoint set
(R321) and the bytes of a record (R324).
-/

namespace Sys2Proof.Machine

def bitsByte (l : List Bool) : Nat := (l.mapIdx (fun i b => if b then 2 ^ i else 0)).foldl (· + ·) 0
/-- A presence map of `n` bytes, bit i of the map for part i. -/
def presence (n : Nat) (l : List Bool) : List Byte := toBytes n (bitsByte l)

/-! ## Job descriptors (R123) -/

def JobDesc.bytes (d : JobDesc) : List Byte :=
  toBytes 8 d.entry.toNat ++ toBytes 8 d.argp.toNat ++ toBytes 8 d.seed.toNat ++ toBytes 8 d.trapv.toNat ++ toBytes 8 d.jsb.toNat
  ++ toBytes 8 (d.wd.toNat * 2 ^ 62 + d.vr * 2 ^ 56 + d.gpt * 2 ^ 49 + (if d.pr then 2 ^ 48 else 0) + d.cs * 2 ^ 43 + d.tmk * 2 ^ 34
      + d.atl * 2 ^ 27 + d.stn * 2 ^ 20 + d.mtc * 2 ^ 15)
  ++ toBytes 8 d.xe.toNat ++ toBytes 8 (d.ye.toNat * 2 ^ 24 + d.ze.toNat) ++ toBytes 8 (d.sps / 16 * 2 ^ 45 + d.spb.toNat)
  ++ toBytes 8 d.rmask.toNat
  ++ toBytes 8 (d.rdie * 2 ^ 62 + d.rhalf * 2 ^ 61 + d.pri * 2 ^ 58 + d.dc * 2 ^ 55 + d.ckw * 2 ^ 47 + d.nw * 2 ^ 32 + d.brt)
  ++ toBytes 8 (d.ckp.toNat * 2 ^ 62 + d.cki * 2 ^ 40 + d.fmi.toNat) ++ zeros 32
/-- Word `i` of a descriptor of 16 words. -/
def jdW (w : List DWord) (i : Nat) : Nat := (w.getD i 0).toNat
/-- The fields of a descriptor. -/
def JobDesc.ofWords (w : List DWord) : JobDesc :=
  { entry := BitVec.ofNat 57 (jdW w 0), argp := BitVec.ofNat 57 (jdW w 1), seed := w.getD 2 0, trapv := BitVec.ofNat 57 (jdW w 3),
    jsb := BitVec.ofNat 57 (jdW w 4), wd := BitVec.ofNat 2 (field (jdW w 5) 62 2), vr := field (jdW w 5) 56 6, gpt := field (jdW w 5) 49 7,
    pr := bitAt (jdW w 5) 48, cs := field (jdW w 5) 43 5, tmk := field (jdW w 5) 34 9, atl := field (jdW w 5) 27 7,
    stn := field (jdW w 5) 20 7, mtc := field (jdW w 5) 15 5, xe := BitVec.ofNat 48 (jdW w 6), ye := BitVec.ofNat 24 (field (jdW w 7) 24 24),
    ze := BitVec.ofNat 24 (field (jdW w 7) 0 24), sps := field (jdW w 8) 45 13 * 16, spb := BitVec.ofNat 45 (field (jdW w 8) 0 45),
    rmask := w.getD 9 0, rdie := field (jdW w 10) 62 2, rhalf := field (jdW w 10) 61 1, pri := field (jdW w 10) 58 3,
    dc := field (jdW w 10) 55 3, ckw := field (jdW w 10) 47 8, nw := field (jdW w 10) 32 15, brt := field (jdW w 10) 0 32,
    ckp := BitVec.ofNat 2 (field (jdW w 11) 62 2), cki := field (jdW w 11) 40 22, fmi := BitVec.ofNat 32 (field (jdW w 11) 0 32) }
/-- Reserved bits are zero (R124), and the alignments of the table hold (R123): one that does not is taken as a reserved bit that is not zero
(log 68). -/
def jdReservedOk (w : List DWord) : Bool :=
  field (jdW w 0) 57 7 == 0 && field (jdW w 1) 57 7 == 0 && field (jdW w 3) 57 7 == 0 && field (jdW w 4) 57 7 == 0 &&
  field (jdW w 4) 0 6 == 0 && field (jdW w 5) 0 15 == 0 && field (jdW w 6) 48 16 == 0 && field (jdW w 7) 48 16 == 0 &&
  field (jdW w 8) 58 6 == 0 && field (jdW w 11) 32 8 == 0 && (List.range 4).all (fun i => jdW w (12 + i) == 0)

/-! ## Sections (R313) -/

def SegTag.word (t : SegTag) : Nat :=
  t.st.toNat * 2 ^ 62 + (if t.td then 2 ^ 61 else 0) + (if t.md then 2 ^ 60 else 0) + t.hm.toNat * 2 ^ 57 + t.gva.toNat * 2 ^ 12 + t.ix.toNat
/-- The job section (R314). -/
def jobSection (j : Job) : List Byte :=
  section_ 1 0 (toBytes 4 0x4A435458 ++ toBytes 4 1 ++ toBytes 8 j.next ++ toBytes 8 (j.iv.toNat + (if j.opn then 2 ^ 32 else 0))
    ++ toBytes 8 j.tlast.toNat ++ (List.range 8).flatMap (fun i => toBytes 8 (getD 0 j.bpm i).toNat) ++ toBytes 8 j.dbgctl.toNat
    ++ toBytes 8 j.cot.length ++ toBytes 32 j.ckdig.toNat ++ zeros 0x70
    ++ (List.range 64).flatMap (fun i => match j.cot[i]? with | some o => toBytes 8 o.base.toNat ++ toBytes 8 o.size | none => zeros 16)
    ++ j.jd.bytes ++ zeros 0x80)
/-- A lane record (R315). -/
def Lane.bytes (x : Lane) : List Byte :=
  let st : Nat := match x.st with | .run => 0 | .sl => 1 | .jw => 2 | .bw => 3 | .pk => 4 | .ex => 5
  toBytes 32 (x.wake.toNat * 2 ^ 192 + x.cc.toNat * 2 ^ 96 + x.depth.toNat * 2 ^ 88 + st * 2 ^ 85 + x.jr.toNat * 2 ^ 82 + x.pc.toNat)
/-- Major opcode and function of a copy's instruction. -/
def CopyKind.code : CopyKind → Nat × Nat
  | .bcopy => (0x78, 0) | .bcopy2d => (0x78, 1) | .bapnd => (0x78, 2) | .bchk => (0x79, 0) | .bchkin => (0x79, 1)
def Space.code : Space → Nat | .global => 0 | .team => 1 | .comb => 2
/-- A copy's restart record (R316). -/
def Copy.bytes (c : Copy) : List Byte :=
  let ctl := Space.code c.ss + Space.code c.ds * 4 + (if c.excl then 16 else 0)
  let opv : List Nat := match c.kind with
    | .bcopy => [c.src.toNat, c.dst.toNat, c.len, ctl, 0, 0]
    | .bcopy2d => [c.src.toNat, c.dst.toNat, c.len, ctl, c.rows % 2 ^ 32, c.sstr + c.dstr * 2 ^ 32]
    | .bapnd => [c.src.toNat, c.dst.toNat, c.len, ctl, 0, 0]
    | .bchk => [c.src.toNat, 0, 0, 0, c.ws + (c.cnt - 1) * 2 ^ 14 + (if c.excl then 2 ^ 22 else 0), 0]
    | .bchkin => [0, 0, 0, 0, c.ws + (c.cnt - 1) * 2 ^ 14, 0]
  let pg : Nat × Nat := match c.kind with
    | .bcopy2d => (c.row, c.off) | .bchk => (c.ws + c.row, if c.filling then 1 else 0) | .bchkin => (c.ws + c.row, 0) | _ => (c.off, 0)
  toBytes 8 (c.bar.toNat * 2 ^ 14 + (CopyKind.code c.kind).2 * 2 ^ 8 + (CopyKind.code c.kind).1) ++ toBytes 8 c.pc.toNat
    ++ opv.flatMap (toBytes 8) ++ toBytes 8 pg.1 ++ toBytes 8 pg.2 ++ toBytes 8 c.tw.toNat ++ zeros (0x100 - 0x58)
/-- Function of a mill operation's instruction. -/
def MillOp.fn (o : MillOp) : Nat :=
  match o.kind with | .mma => if o.z then 1 else 0 | .load g => if g then 1 else 0 | .qntz => 0 | .dqnt => 0
/-- A mill operation's restart record (R316): operands are those of its first member; the place mask and tiles are a gang's. -/
def MillOp.bytes (o : MillOp) : List Byte :=
  let a := o.mem.head?
  toBytes 8 (o.fn * 2 ^ 8 + o.opc) ++ toBytes 8 ((a.map (fun a => a.pc.toNat)).getD 0)
    ++ [((a.map (fun a => a.a.toNat)).getD 0), 0, 0, 0, ((a.map (fun a => a.hb.toNat)).getD 0), ((a.map (fun a => a.hs.toNat)).getD 0)].flatMap (toBytes 8)
    ++ toBytes 8 o.slab ++ toBytes 8 o.fl ++ zeros 8 ++ toBytes 8 (if o.isMma then o.mask.toNat else 0) ++ toBytes 64 o.fb.toNat
    ++ (List.range 6).flatMap (fun i => toBytes 2 ((o.gt.getD i 0).toNat)) ++ zeros 4
    ++ toBytes 8 (if o.isMma then (o.mem.mapIdx (fun i a => a.tile * 2 ^ (6 * i))).foldl (· + ·) 0 else 0) ++ zeros 0x48
/-- The virtual address of the page of a home operation. -/
def State.hopPage (s : State) (h : Hop) : Nat :=
  let size := match s.recordAt h.pa with | some e => asSize e.2.ps | none => 4096
  h.va.toNat / size * size
/-- An APND entry (R316): where the reservation begins, and its length. -/
def State.apndEntry (s : State) (h : Hop) : List Byte := toBytes 8 (s.hopPage h + h.start.getD 0) ++ toBytes 8 h.len
/-- An outstanding entry (R316). -/
def outEntry (va reg kind res : Nat) : List Byte := toBytes 8 va ++ toBytes 8 (reg + kind * 2 ^ 12) ++ toBytes 16 res
/-- A group section (R315). Registers named by a test are present. -/
def groupSection (s : State) (all : Bool) (ark k : Nat) : List Byte :=
  let g := s.group k
  let d := (s.job g.job).jd
  let n := g.vr
  let has := fun (r : Nat) => decide (r < n) && (all || getD false g.dirtyV r)
  let cs := (s.copies.filter (fun c => c.grp == k)).map Copy.bytes ++
    ((s.team g.tk).mill.filter (fun o => !o.isMma && o.mask.getLsbD g.q)).map MillOp.bytes
  let ap := s.hops.filter (fun h => h.grp == k && h.op == 0x20 && h.copy.isNone && h.start.isSome)
  let os := (s.hops.filter (fun h => h.grp == k && (h.op == 0x22 || h.op == 0x23))).map
      (fun h => outEntry (s.hopPage h) h.st.toNat (if h.op == 0x22 then 1 else 2) 0) ++
    g.outs.map (fun o => outEntry o.va.toNat o.reg 3 (o.res.getD 0))
  section_ 3 (g.team * d.gpt + g.q)
    (toBytes 8 g.xm.toNat ++ (List.range 8).flatMap (fun i => toBytes 8 (g.jget i).toNat) ++ (List.range 4).flatMap (fun i => toBytes 8 (g.gget i).toNat)
    ++ toBytes 8 (g.fmode.toNat + (if g.tm then 2 ^ 32 else 0) + (if g.sk then 2 ^ 33 else 0) + g.sc.toNat * 2 ^ 48)
    ++ toBytes 8 g.draw.toNat
    ++ toBytes 8 (g.cnt.m.toNat * 2 ^ 56 + g.cnt.c.toNat * 2 ^ 48 + g.cnt.k.toNat * 2 ^ 40 + g.cnt.t.toNat * 2 ^ 32 + g.cnt.g.toNat * 2 ^ 24
        + g.last * 2 ^ 13 + g.run * 2 ^ 6 + g.rp)
    ++ toBytes 8 g.ccnt.toNat
    ++ [g.fi.cause, g.fi.pc, g.fi.info, g.fi.addr, g.fi.lm, g.fi.cc].flatMap (fun x => toBytes 8 x.toNat)
    ++ toBytes 8 (match g.hand with | some h => h.toNat | none => 2 ^ 64 - 1)
    ++ (List.range 127).flatMap (fun i => toBytes 8 (g.sget (i + 1)).toNat) ++ zeros 0x48
    ++ (List.range 12).flatMap (fun i => toBytes 8 (getD 0 g.perf i).toNat)
    ++ toBytes 8 (os.length * 2 ^ 32 + ap.length * 2 ^ 16 + cs.length) ++ toBytes 8 ark ++ zeros 16
    ++ (List.range 15).flatMap (fun i => toBytes 8 (g.pmask (i + 1)).toNat) ++ zeros 8
    ++ (List.range g.width).flatMap (fun l => (g.lane l).bytes) ++ zeros (0xA00 - 32 * g.width)
    ++ presence 192 ((List.range 1536).map has)
    ++ ((List.range n).filter has).flatMap (fun r => (List.range g.width).flatMap (fun l => toBytes 4 (g.v32 r l).toNat))
    ++ cs.flatten ++ ap.flatMap s.apndEntry ++ os.flatten)
def Barrier.bytes (b : Barrier) : List Byte :=
  toBytes 32 (b.rv.toNat * 2 ^ 192 + b.ac.toNat * 2 ^ 144 + b.ec.toNat * 2 ^ 128 + (if b.ph then 2 ^ 64 else 0) + b.pb.toNat)
def StoneRec.bytes (r : StoneRec) : List Byte :=
  toBytes 32 (r.fva.toNat * 2 ^ 192 + r.lva.toNat * 2 ^ 128 + r.shw.toNat * 2 ^ 64 + (if r.vl then 2 ^ 63 else 0) + (if r.rl then 2 ^ 62 else 0)
    + r.fcb.toNat * 2 ^ 56 + r.spn.toNat * 2 ^ 53 + r.ki.toNat * 2 ^ 50 + r.ni.toNat * 2 ^ 47 + (if r.hf then 2 ^ 46 else 0) + r.ssd.toNat)
/-- A stone image (R246). -/
def Stone.bytes (x : Stone) : List Byte :=
  (List.range 16384).map (fun i => getD 0 x.ints i)
    ++ (List.range 128).flatMap (fun c => presence 16 ((List.range 128).map (fun k => getD false x.starts (128 * k + c))))
    ++ (List.range 128).flatMap (fun c => (List.range 32).map (fun k4 =>
        BitVec.ofNat 8 (((List.range 4).map (fun i => (getD 0 x.classes (128 * (4 * k4 + i) + c)).toNat * 4 ^ i)).foldl (· + ·) 0)))
    ++ (List.range 128).flatMap (fun c => (List.range 128).flatMap (fun j => toBytes 2 (getD 0 x.exps (256 * c + j)).toNat))
/-- Address of line `i` of a team's memory. -/
def teamLine (d : JobDesc) (i : Nat) : Nat := if i < d.tmk * 8 then 128 * i else 2 ^ 19 + 128 * (i - d.tmk * 8)
/-- A team section (R317). -/
def teamSection (s : State) (all : Bool) (tk : Nat) : List Byte :=
  let t := s.team tk
  let d := (s.job (tk / 65536)).jd
  let lines := d.tmk * 8 * (if d.pr then 2 else 1)
  let gang := t.mill.filter MillOp.isMma
  let hasL := fun (i : Nat) => all || getD false t.dirtyM (teamLine d i / 128)
  let hasT := fun (i : Nat) => decide (i < d.atl) && (all || getD false t.dirtyT i)
  let hasS := fun (i : Nat) => decide (i < d.stn) && (t.stone i).rcd.vl && !(t.stone i).rcd.rl && (all || getD false t.dirtyS i)
  section_ 2 (tk % 65536)
    (toBytes 8 (tk % 65536) ++ toBytes 8 (if t.chain.v then 1 else 0) ++ toBytes 8 t.chain.e.toNat ++ toBytes 8 t.chain.a.toNat
    ++ toBytes 8 gang.length ++ zeros 0x18 ++ (List.range 16).flatMap (fun i => (t.bar i).bytes)
    ++ (List.range 64).flatMap (fun i => (t.stone i).rcd.bytes) ++ zeros (0x1000 - 0xA40)
    ++ presence (lineMap d) ((List.range lines).map hasL)
    ++ ((List.range lines).filter hasL).flatMap (fun i => Memory.readN t.mem (teamLine d i) 128)
    ++ presence 16 ((List.range 64).map hasT)
    ++ ((List.range 64).filter hasT).flatMap (fun i => (List.range 2048).flatMap (fun e => toBytes 4 (getD 0 t.acc (i * 2048 + e)).toNat))
    ++ presence 16 ((List.range 64).map hasS) ++ ((List.range 64).filter hasS).flatMap (fun i => (t.stone i).bytes)
    ++ gang.flatMap MillOp.bytes)
/-- The comb section (R318). -/
def combSection (all : Bool) (j : Job) : List Byte :=
  let n := j.jd.nw
  let has := fun (i : Nat) => all || getD false j.dirtyC i
  section_ 4 0 ((List.range n).flatMap (fun i => toBytes 8 (SegTag.word (j.tag_ i)))
    ++ presence (ceilTo ((n + 7) / 8) 16) ((List.range n).map has)
    ++ ((List.range n).filter has).flatMap (fun i => Memory.readN j.comb (4096 * i) 4096))

/-! ## The checkpoint set (R321) and records (R324) -/

/-- Leaves of a job's set: resident pages in device HBM. -/
def State.setLeaves (s : State) (j : Nat) : List (Nat × DWord × Nat) :=
  (s.leavesFrom (s.part (s.job j).part).skid 4 (s.job j).root.toNat 0).filter (fun e => pteRs e.2.1 && regionOf (pteFn e.2.1 * 4096) == .hbm)
/-- Units of a job's set, each once, ascending. -/
def State.setUnits (s : State) (j : Nat) : List Nat :=
  ((s.setLeaves j).foldl (fun (m : SMap Bool) e =>
    let u := unitOf (pteFn e.2.1 * 4096)
    (List.range ((e.2.2 + 65535) / 65536)).foldl (fun m i => mapInsert m (u + i) true) m) []).map (fun e => e.1)
/-- A frame of the set holds a line. -/
def State.inSet (s : State) (j la : Nat) : Bool :=
  (s.setLeaves j).any (fun e => decide (pteFn e.2.1 * 4096 ≤ la * 128) && decide (la * 128 < pteFn e.2.1 * 4096 + e.2.2))
/-- The map of a job's set as it stands, A and D zero (R324). -/
def State.mapOf (s : State) (j : Nat) : List MapEnt := (s.setLeaves j).map (fun e => { va := e.1, leaf := e.2.1 &&& ~~~ 0xC000, size := e.2.2 })
def mapSection (l : List MapEnt) : List Byte := section_ 5 0 (l.flatMap (fun e => toBytes 8 e.va ++ toBytes 8 e.leaf.toNat))
/-- A unit's entry. -/
def unitEntry (e : Nat × List Byte) : List Byte := toBytes 8 e.1 ++ zeros 8 ++ e.2
/-- The header of a section of a length. -/
def sectionHead (ty idx len : Nat) : List Byte := toBytes 16 (ty * 2 ^ 112 + idx * 2 ^ 64 + len)
/-- Age rank of a group among those on its sail whose clusters hold it (R309, R315). -/
def State.ageRank (s : State) (k : Nat) : Nat :=
  let g := s.group k
  (s.groups.filter (fun e => e.2.live && e.2.place == g.place && s.teamHolds e.2.job e.2.team &&
    (decide (e.2.age < g.age) || (e.2.age == g.age && decide (e.1 < k))))).length
/-- Sections of teams and their groups, and the job's and the comb's (R313). -/
def State.sectionsOf (s : State) (all : Bool) (j : Nat) (ts : List Nat) : List Byte :=
  jobSection (s.job j) ++ ts.flatMap (teamSection s all) ++ (ts.flatMap s.groupsOf).flatMap (fun k => groupSection s all (s.ageRank k) k)
    ++ (if (s.job j).jd.nw = 0 then [] else combSection all (s.job j))
/-- Sections of the job's context: job, teams, groups, comb. -/
def State.contextBytes (s : State) (all : Bool) (j : Nat) : List Byte := s.sectionsOf all j (s.teamsOf j)
/-- A record's bytes before its units: header, context, map, and the head of the units section (R324); `n`: the units of the section. -/
def Record.front (r : Record) (job part n : Nat) : List Byte :=
  toBytes 4 0x4B435244 ++ toBytes 4 1 ++ toBytes 4 r.iv.toNat ++ toBytes 4 r.kind.toNat ++ toBytes 8 job ++ toBytes 8 part
    ++ toBytes 32 r.pred.toNat ++ zeros 0xC0 ++ r.ctx ++ mapSection r.pages ++ sectionHead 6 0 (n * 65552)
/-- A record's bytes before its trailer. -/
def Record.bytes (r : Record) (job part : Nat) : List Byte := r.front job part r.units.length ++ r.units.flatMap unitEntry
/-- DIG of a record. -/
def Record.digest (r : Record) (job part : Nat) : BitVec 256 := shake256 (r.bytes job part)
/-- The trailer of a record: its digest, and its length with the trailer. -/
def Record.trailer (dig : BitVec 256) (n : Nat) : List Byte := toBytes 32 dig.toNat ++ toBytes 8 (n + 64) ++ zeros 24
/-- The sections of an image: every type is one of the table's, the reserved field is zero, and no length runs past the end (R313, R326). The first
number bounds the sections. -/
def sectionsOk : Nat → List Byte → Bool
  | 0, _ => false
  | n + 1, l =>
    if l.isEmpty then true
    else
      let h := ofBytes (l.take 16)
      let size := 16 + ceilTo (field h 0 64) 16
      decide (16 ≤ l.length) && decide (1 ≤ field h 112 16) && decide (field h 112 16 ≤ 6) && field h 96 16 == 0 && decide (size ≤ l.length) &&
      sectionsOk n (l.drop size)
/-- The context of a job as data. -/
def State.imageOf (s : State) (j : Nat) : Image :=
  let jb := s.job j
  let ts := s.teamsOf j
  let ks := ts.flatMap s.groupsOf
  { groups := ks.map (fun k => (k, { s.group k with age := s.ageRank k })), teams := ts.map (fun t => (t, s.team t)), comb := jb.comb, tags := jb.tags, next := jb.next,
    iv := jb.iv, opn := jb.opn, tlast := jb.tlast, bpm := jb.bpm, dbgctl := jb.dbgctl, cot := jb.cot, ckdig := jb.ckdig, jd := jb.jd, clusters := jb.clusters,
    copies := s.copies.filter (fun c => ks.contains c.grp), hops := s.hops.filter (fun h => ks.contains h.grp),
    pend := s.pend.filter (fun a => ks.contains a.grp) }

end Sys2Proof.Machine
end

