-- ==== Sys2Proof/Machine/Checkpoint.lean ====
section
/-!
DEFINITION. Stops and saves (R311, R312), what resumes with a cluster (R326), closes of checkpoint intervals, streaming and
records (R282 to R285, R322 to R325, R327), the job status block (R320).
-/

namespace Sys2Proof.Machine

/-! ## Job state -/

/-- A change of JST; the job status block is due (R320). -/
def State.setJst (s : State) (j : Nat) (st : JState) : State :=
  { s.setJob j { s.job j with st := st } with agenda := s.agenda ++ [.jsbUpdate j] }
/-- Nolelavin writes the job status block with a fresh save cost. -/
def execJsbUpdate (job : Nat) (s : State) : Host.Outcome State Fault Refusal :=
  let j := s.job job
  .next (s.putJsb job 0 (toBytes 8 j.jst ++ toBytes 8 (s.costBytes job) ++ toBytes 8 (s.costAc job) ++ toBytes 8 j.liv.toNat ++ toBytes 32 j.ldig.toNat))
/-- The clusters of a job, its teams and groups. -/
def State.clusterOf (s : State) (j c : Nat) : Option Cluster := (s.job j).clusters[c]?
def State.setCluster (s : State) (j c : Nat) (f : Cluster → Cluster) : State :=
  let jb := s.job j
  s.setJob j { jb with clusters := jb.clusters.mapIdx (fun i x => if i = c then f x else x) }
def State.teamsIn (s : State) (j c : Nat) : List Nat :=
  let cs := (s.job j).jd.cs
  ((List.range cs).map (fun i => tkey j (c * cs + i))).filter (fun tk => (s.team tk).live)
def State.groupsIn (s : State) (tks : List Nat) : List Nat := tks.flatMap s.groupsOf
/-- No cluster of the job holds a core. -/
def Job.offCores (j : Job) : Bool := j.clusters.all (fun c => c.st == .waiting || c.st == .saved || c.st == .ended)

/-! ## Restart points (R311) -/

/-- An instruction in flight whose unperformed loads a stop takes back: every lane stands right after it, and none of its accesses is a store, an
atomic, or one that a stop leaves outstanding (R104, R311). -/
def State.takesBack (s : State) (k : Nat) (f : Flight) : Bool :=
  let mine := s.pend.filter (fun a => a.grp == k && a.flight == f.id)
  !f.done && !mine.isEmpty && mine.all (fun a => !a.op.isWrite && !a.outside) && (s.group k).standsAfter f
/-- The lanes of an instruction in flight stand at it again, and nothing of it is under way. -/
def State.takeBack (s : State) (k : Nat) (f : Flight) : State :=
  let g := s.group k
  { s with pend := s.pend.filter (fun a => !(a.grp == k && a.flight == f.id)) }.setGroup k
    { (g.rewind f).discard f.id with wait := if g.wait = GroupWait.access f.id then .none else g.wait }
/-- A group's loads that a stop takes back, the youngest first. -/
def State.dropLoads (s : State) (k : Nat) : State :=
  (s.group k).flights.reverse.foldl (fun (t : State) f => if t.takesBack k f then t.takeBack k f else t) s
/-- A home operation lets its group stop: its append is reserved, or it goes back to its instruction, or it is a SEAL or TAILRD, which is
outstanding (R84, R234). -/
def State.hopRests (s : State) (h : Hop) : Bool :=
  if h.op == 0x20 then h.start.isSome || (h.retry && s.backable h) else h.op == 0x22 || h.op == 0x23
/-- A copy stands at a restart point: a check-out or check-in that has begun at a segment's first byte (R262). -/
def Copy.rests (c : Copy) : Bool :=
  match c.kind with
  | .bchk => !c.filling || c.off == 0
  | .bchkin => c.off == 0
  | .bcopy => true
  | .bcopy2d => true
  | .bapnd => true
/-- A group stands at a restart point once its loads are taken back: no load or atomic of it is under way but those left outstanding, and its home
operations and copies rest. -/
def State.atRest (s : State) (k : Nat) : Bool :=
  let t := s.dropLoads k
  t.pend.all (fun a => !(a.grp == k) || a.outside || !a.op.reads) &&
  (t.hops.filter (fun h => h.grp == k)).all t.hopRests && (t.copies.filter (fun c => c.grp == k)).all Copy.rests
/-- The mill works on no part of an operation of the team. -/
def Team.rests (t : Team) : Bool := t.mill.all (fun o => o.buf.isEmpty)
/-- Every group of some teams stands at a restart point, and every engine operation that they issued (R311). -/
def State.teamsRest (s : State) (tks : List Nat) : Bool :=
  (s.groupsIn tks).all s.atRest && tks.all (fun tk => (s.team tk).rests)
/-- Arrivals at latches that are not complete are discarded: each member is at its MMA (R249). -/
def State.dropArrivals (s : State) (tk : Nat) : State :=
  let l := (s.team tk).latches.flatMap (fun l => l.arr)
  let t := s.setTeam tk { s.team tk with latches := [] }
  l.foldl (fun (u : State) a => u.setGroup (tk * 64 + a.q) { (u.group (tk * 64 + a.q)).discard a.id with wait := .none }) t
/-- An append that was answered RY goes back to its APND or BAPND, as if it had not begun (R84, R261). -/
def State.backAppend (s : State) (h : Hop) : State :=
  match h.copy.bind s.copyOf with
  | some c => s.cancelBapnd c
  | none =>
    let g := s.group h.grp
    match g.flightOf h.flight with
    | some f => (s.dropHop h).setGroup h.grp ((g.rewind f).discard f.id)
    | none => s.dropHop h
/-- A home operation or access that a stop leaves outstanding (R316): where it went, its lane and the register that its result goes to. -/
def Access.outst (a : Access) : Outst :=
  { va := a.va, lane := a.lane.toNat, flight := a.flight, res := none,
    reg := match a.op with | .load _ d => d.toNat | .atom _ d _ _ => d.toNat | .store _ => 0 }
/-- One entry for each lane of a group's accesses that a stop leaves. -/
def outEntries (l : List Access) : List Outst :=
  l.foldl (fun (r : List Outst) a => if r.any (fun o => o.flight == a.flight && o.lane == a.lane.toNat) then r else r ++ [a.outst]) []
/-- A group that waits on fault service is at its faulting instruction (R117), and stays counted by its record until it rejoins or its record clears
(log 67); a check-out not yet registered is at its start; appends not reserved are taken back; what is left under way is outstanding. -/
def State.haltGroup (s : State) (k : Nat) : State :=
  let s1 := s.dropLoads k
  let s2 := (s1.hops.filter (fun h => h.grp == k && h.op == 0x20 && h.start.isNone)).foldl (fun (t : State) h => t.backAppend h) s1
  let s3 := match (s2.group k).wait with
    | .fault _ _ => s2.setGroup k { s2.group k with wait := .none }
    | .hop id => (match s2.copyOf id with | some c => s2.cancelCheckout c | none => s2)
    | _ => s2
  s3.setGroup k { s3.group k with outs := outEntries (s3.pend.filter (fun a => a.grp == k && a.outside)) }
/-- A copy stops: its pins are released, what it has read and not written is dropped, and its requests for lines end. -/
def State.stopCopy (s : State) (c : Copy) : State :=
  let t := (s.setCopy { c with stopped := true, buf := [], bufPz := false, wants := [] }).unpin c.id
  (c.wants.map (fun w => w.1)).eraseDups.foldl (fun (u : State) la => u.closeReqs c.die la) t
/-- The groups of teams come to their restart points; their engines stop, their pins are released, and home operations under way are outstanding:
an answer that comes is discarded (R84, R234). -/
def State.haltTeams (s : State) (tks : List Nat) : State :=
  let ks := s.groupsIn tks
  let s1 := tks.foldl (fun (t : State) tk => t.dropArrivals tk) s
  let s2 := ks.foldl (fun (t : State) k => t.haltGroup k) s1
  let s3 := (s2.copies.filter (fun c => ks.contains c.grp)).foldl (fun (t : State) c => t.stopCopy c) s2
  let pins := tks.flatMap (fun tk => (s3.team tk).mill.map (fun o => o.pin))
  { s3 with
    pins := s3.pins.filter (fun p => !pins.contains p.copy || p.copy == 0),
    hops := s3.hops.map (fun (h : Hop) => if ks.contains h.grp then { h with retry := true } else h) }
/-- An append entry's data is still on its way: an ADAT of a group's home operation. -/
def State.adatUnderWay (s : State) (ks : List Nat) : Bool :=
  s.msgs.any (fun m => m.ty == 10 && m.op == 0x21 && s.hops.any (fun h => ks.contains h.grp && h.id == ridKey m.src.toNat m.rid))
/-- Every departed store, atomic and ADAT of stopped groups has performed, and every outstanding access has its result (R312). -/
def State.saveReady (s : State) (ks : List Nat) : Bool :=
  !(s.pend.any (fun a => ks.contains a.grp)) && !s.adatUnderWay ks && ks.all (fun k => (s.group k).outs.all (fun o => o.res.isSome))
/-- The counters that a save keeps count what resumes from a record or entry: every other instruction is complete (R312). -/
def Group.countResumed (g : Group) : Group := (g.flights.filter (fun f => f.done)).foldl (fun h f => h.discard f.id) g
/-- Home operations of saved groups give up their requesters until they are issued again. -/
def State.parkHops (s : State) (ks : List Nat) : State :=
  let top := s.hops.foldl (fun m h => if m ≤ h.id then h.id + 1 else m) parkBase
  let ids := (s.hops.filter (fun h => ks.contains h.grp && decide (h.id < parkBase))).map (fun h => h.id)
  let new := fun (i : Nat) => if ids.contains i then top + ids.findIdx (fun x => x == i) else i
  { s with hops := s.hops.map (fun (h : Hop) => { h with id := new h.id }),
           copies := s.copies.map (fun (c : Copy) => { c with hop := c.hop.map new }) }
/-- The groups of teams as a save or a close captures them. -/
def State.captureGroups (s : State) (ks : List Nat) : State :=
  (ks.foldl (fun (t : State) k => t.setGroup k (t.group k).countResumed) s).parkHops ks
/-- A home operation of a group that goes on again is issued again: a SEAL or TAILRD as it was, for an append whose data has all left a TAILRD that
asks whether it is published (R84, R326). -/
def execHopReissue (i : Nat) (s : State) : Host.Outcome State Fault Refusal :=
  ev (match s.hops[i]? with
    | none => none
    | some h =>
      let die := (s.group h.grp).place.die
      if h.id < parkBase ∨ !s.running h.grp ∨ !s.ridRoom die 1 then none
      else
        let left := match h.copy.bind s.copyOf with | some c => decide (c.off < c.len) | none => false
        let x := { h with id := s.nextHop die, die := die, retry := left }
        let t := { s with hops := setAt s.hops i x, copies := s.copies.map (fun (c : Copy) => if c.hop == some h.id then { c with hop := some x.id } else c) }
        some (if h.op = 0x20 then (if left then t else t.send (tailrdMsg x))
          else t.send { mkMsg 10 die x.home x.la with rid := x.id % 4096, kid := x.kid, op := x.op, d := true }))
/-- Loads whose stones are to be reloaded: the record fields that name each. -/
def Team.reloads (t : Team) : List (VAddr × VAddr × BitVec 12) :=
  ((t.stones.filter (fun e => e.2.rcd.rl)).map (fun e => (e.2.rcd.fva, e.2.rcd.lva, e.2.rcd.shw))).eraseDups
def StoneRec.ofLoad (r : StoneRec) (l : VAddr × VAddr × BitVec 12) : Bool := r.rl && r.fva == l.1 && r.lva == l.2.1 && r.shw == l.2.2
/-- Nolelavin repeats a load; a read that faults or a page that is not sealed leaves its stones zero (R253). -/
def State.reload (s : State) (tk k : Nat) (l : VAddr × VAddr × BitVec 12) : State :=
  let t := s.team tk
  let src : DWord := l.2.1.setWidth 64
  let fva : DWord := l.1.setWidth 64
  let hs : DWord := l.2.2.setWidth 64
  let new : Team := match s.loadCheck k true src fva hs with
    | .ok (_, fb, c) => s.loadStones c true fb src fva hs Team.dead
    | .error _ => Team.dead
  s.setTeam tk { t with stones := t.stones.filterMap (fun e =>
    if e.2.rcd.ofLoad l then (if new.stone e.1 = Stone.zero then none else some (e.1, new.stone e.1)) else some e) }
/-- A group goes on: what its outstanding accesses brought is written, and they are complete. -/
def State.wakeGroup (s : State) (k : Nat) : State :=
  let g := s.group k
  ((g.outs.map (fun o => o.flight)).eraseDups).foldl (fun (t : State) i => t.finishFlight k i) (s.setGroup k { g with outs := [] })
/-- The groups of teams go on from their restart points: stones reloaded, outstanding results written, copies continued; pins are taken again and
outstanding operations issued again as they go (R326). -/
def State.restartTeams (s : State) (reload : Bool) (tks : List Nat) : State :=
  let ks := s.groupsIn tks
  let s1 := if reload then tks.foldl (fun (t : State) tk =>
      match t.groupsOf tk with
      | k :: _ => ((t.team tk).reloads).foldl (fun (u : State) l => u.reload tk k l) t
      | [] => t) s
    else s
  let s2 := ks.foldl (fun (t : State) k => t.wakeGroup k) s1
  { s2 with
    copies := s2.copies.map (fun (c : Copy) => if ks.contains c.grp then { c with stopped := false, die := (s2.group c.grp).place.die } else c) }

/-! ## Stop and save (R311, R312) -/

/-- The partition's interface is in ERROR: its jobs are stopped and not saved (R355). -/
def State.inError (s : State) (j : Nat) : Bool := (s.part (s.job j).part).tdisp == .error
def execStopRequest (job cl : Nat) (s : State) : Host.Outcome State Fault Refusal :=
  ev (match s.clusterOf job cl with
    | some c =>
      if (s.job job).live && c.st == .placed then
        let t := s.setCluster job cl (fun c => { c with st := .stopping })
        some (if (t.job job).clusters.all (fun c => c.st != .placed) then t.setJst job .stopping else t)
      else none
    | none => none)
/-- A close has asked for the job's stop: other stops join it (R328). -/
def Job.closing (j : Job) : Bool := match j.close with | some c => c.asked | none => false
/-- The stop of a cluster ends, which is its new entry time (R306). -/
def State.endStop (s : State) (job cl : Nat) : State :=
  let u := s.passTime
  let v := u.setCluster job cl (fun c => { c with st := .halted, entry := u.timer.toNat })
  if s.inError job && (v.job job).clusters.all (fun c => c.st != .stopping) then v.setJst job .stopped else v
/-- The cores of teams, as (die, core). -/
def State.coresOf (s : State) (tk : Nat) : List (Nat × Nat) :=
  let t := s.team tk
  if (s.job (tk / 65536)).jd.pr then [(t.die, t.core), (t.die, t.core + 1)] else [(t.die, t.core)]
/-- Cores become free: their distributor has it as an event (R301). -/
def State.freeCores (s : State) (l : List (Nat × Nat)) : State :=
  { s with agenda := s.agenda ++ l.eraseDups.map (fun e => Instr.coreFree e.1 e.2) }
/-- Zeros up to a whole number of lines. -/
def padLine (l : List Byte) : List Byte := l ++ zeros (ceilTo l.length 128 - l.length)
/-- The system key id of a job's partition. -/
def State.skidOf (s : State) (j : Nat) : BitVec 6 := (s.part (s.job j).part).skid
/-- The image of a cluster of stopped groups is written at an address of the save region under the partition's system key (R47, R313); groups keep
their age ranks. -/
def State.writeImage (s : State) (job cl base : Nat) (tks ks : List Nat) : State :=
  let im := s.sectionsOf true job tks
  let t := s.storeRange (s.skidOf job) base (padLine im)
  let u := ks.foldl (fun (t : State) k => t.setGroup k { t.group k with age := s.ageRank k }) t
  u.setJob job { u.job job with saved := mapInsert (u.job job).saved cl (base, im), image := some (s.imageOf job) }
/-- The save of a stopped cluster captures its context and writes its image, and its cores are free (R312, R313). With no cluster on a core the
job is stopped. -/
def execSaveComplete (job cl : Nat) (s : State) : Host.Outcome State Fault Refusal :=
  ev (match s.clusterOf job cl, (s.job job).saveBase cl with
    | some c, some base =>
      let tks := s.teamsIn job cl
      let ks := s.groupsIn tks
      if c.st != .halted || s.inError job || (s.job job).closing || !s.saveReady ks then none
      else
        let u := (s.captureGroups ks).writeImage job cl base tks ks
        let v := (u.setCluster job cl (fun c => { c with st := .saved })).freeCores (tks.flatMap s.coresOf)
        some (if (v.job job).offCores then v.setJst job .stopped else v)
    | _, _ => none)
/-- The image of a saved cluster, read back under the system key, is as it was written, and its sections are whole (R313, R326; log 70). -/
def State.imageGood (s : State) (job cl : Nat) : Bool :=
  match lookup (s.job job).saved cl with
  | some (base, im) =>
    let l := s.rangeBytes (s.skidOf job) base im.length
    sectionsOk (im.length + 1) l && l == im && !s.rangePoison base im.length
  | none => false

/-! ## Closing an interval (R282 to R285, R322) -/

/-- A request that acts as CKOPEN, or as CKCLOSE with stop bit 0 (R282). -/
def Job.ckRequest (j : Job) : Job := if j.opn then j.askClose false false [] else j.open_
def execCheckpointTimer (job : Nat) (s : State) : Host.Outcome State Fault Refusal :=
  let j := s.job job
  ev (if j.live && j.jd.ckp == 2 then some (s.setJob job j.ckRequest) else none)
/-- A move directed by the host (R327): a close of the open interval, or of one opened for it. -/
def execMove (job : Nat) (s : State) : Host.Outcome State Fault Refusal :=
  let j := s.job job
  ev (if j.live then some (s.setJob job (j.open_.askClose false true [])) else none)
/-- Dirty lines of the set that an L2 holds, by die and line. -/
def State.dirtyInSet (s : State) (j : Nat) : List (Nat × Nat) :=
  ((s.l2.filter (fun e => e.2.dt && s.inSet j (e.1 % 2 ^ 45))).map (fun e => (e.1 / 2 ^ 45, e.1 % 2 ^ 45)))
/-- WB of a line: the L2 keeps its tokens, and holds them until WBACK (R57). -/
def State.sendWb (s : State) (e : Nat × Nat) : State :=
  let x := s.l2line e.1 e.2
  (s.setL2 e.1 e.2 { x with wb := true }).send
    { mkMsg 14 e.1 (homeOf (e.2 * 128)) e.2 with d := true, dt := true, pz := x.pz, kid := x.kid, data := x.data }
/-- A joined group has closed its interval: sd holds its number and the group goes on after its CKCLOSE. -/
def State.joinDone (s : State) (n : Word) (w : Joiner) : State :=
  let g := s.group w.grp
  let h := g.sset w.d.toNat (n.setWidth 64)
  let h2 := { h.mapLanes w.lanes (fun x => { x with pc := w.pc + BitVec.ofNat 57 w.len }) with wait := .none }
  s.setGroup w.grp (g.retire (s.job g.job).da w.lanes h2)
/-- Clear the dirty marks of a job's context. -/
def State.clearMarks (s : State) (j : Nat) : State :=
  let ts := s.teamsOf j
  let t := (s.groupsIn ts).foldl (fun (t : State) k => t.setGroup k { t.group k with dirtyV := [] }) s
  let u := ts.foldl (fun (t : State) k => t.setTeam k { t.team k with dirtyM := [], dirtyT := [], dirtyS := [] }) t
  u.setJob j { u.job j with dirtyC := [] }
/-- The capture of a close (R322 steps 4 and 5): the record, with its context written in the job's save area, the frozen map, the marks. The captured
IV and OPN are those after the close (log 36). A full record answers the mark that asked for one. -/
def State.capture (s : State) (j : Nat) (c : Close) (ks : List Nat) : State :=
  let s0 := s.captureGroups ks
  let s1 := c.joined.foldl (fun (t : State) w => t.joinDone c.n w) s0
  let jb := s1.job j
  let full := jb.full || c.isMove
  let jb2 := if c.stop then { jb with opn := false, close := none, full := false } else { jb with iv := c.n + 1, close := none, full := false }
  let s2 := s1.setJob j jb2
  let set := s.setUnits j
  let units := if full then set else set.filter (fun u => getD false s.track u)
  let ctx := s2.contextBytes full j
  let r : Record :=
    { iv := c.n, kind := if c.isMove then 2 else if full then 0 else 1, pred := if full then 0 else jb.ckdig, dig := 0, img := s2.imageOf j,
      ctx := ctx, pages := s.mapOf j, units := [], bad := [], keys := [], complete := false }
  let s3 := { s2 with frozen := units.foldl (fun m u => mapInsert m u j) s2.frozen, track := s2.track.filter (fun e => !(set.contains e.1)) }
  let s4 := match jb.saveAt with | some a => s3.storeRange (s.skidOf j) a (padLine ctx) | none => s3
  (s4.clearMarks j).setJob j { (s4.clearMarks j).job j with stream := some r, todo := units }
/-- Teams of a job that hold cores. -/
def State.closeTeams (s : State) (j : Nat) : List Nat := (s.teamsOf j).filter (fun tk => s.teamHolds j (tk % 65536))
/-- A cluster goes on after a close: one that was to be stopped has stopped with it, and is saved from what was captured (R328). -/
def State.afterClose (s : State) (j : Nat) (tks : List Nat) : State :=
  let cs := (s.job j).jd.cs
  let is := fun (st : ClState) (tk : Nat) => match s.clusterOf j (tk % 65536 / cs) with | some c => c.st == st | none => false
  let t := s.restartTeams false (tks.filter (is .placed))
  (((tks.filter (is .stopping)).map (fun tk => tk % 65536 / cs)).eraseDups).foldl (fun (u : State) cl => u.endStop j cl) t
/-- A move leaves nothing of the job on a core (R327). -/
def State.moveOut (s : State) (job : Nat) (tks : List Nat) : State :=
  let u := s.setJob job { s.job job with
    clusters := (s.job job).clusters.map (fun x => if x.holds then { x with st := .saved } else x), held := true, image := some (s.imageOf job) }
  ((({ u with agenda := u.agenda ++ [Instr.jsbUpdate job] } : State).setJst job .stopped)).freeCores (tks.flatMap s.coresOf)
/-! ## Streaming (R91, R323 to R325) -/

/-- KID of the leaf that maps a line of a unit, from the set's map (R47); of a line that none maps, the first leaf's of the unit. -/
def Record.lineKid (r : Record) (pa : Nat) : BitVec 6 :=
  let on := fun (e : MapEnt) => decide (pteFn e.leaf * 4096 ≤ pa) && decide (pa < pteFn e.leaf * 4096 + e.size)
  let near := fun (e : MapEnt) => decide (pteFn e.leaf * 4096 < (unitOf pa + 1) * 2 ^ 16) && decide (unitOf pa * 2 ^ 16 < pteFn e.leaf * 4096 + e.size)
  match r.pages.find? on with
  | some e => pteKid e.leaf
  | none => ((r.pages.find? near).map (fun e => pteKid e.leaf)).getD 0
/-- Bytes of a frozen unit as the record takes them: a staged sector in place of memory. -/
def State.unitBytes (s : State) (r : Record) (u : Nat) : List Byte :=
  let st := s.staged.filter (fun e => e.1 / 65536 == u)
  (List.range 256).flatMap (fun i =>
    let a := u * 65536 + 256 * i
    if (lookup st a).isSome then (List.range 256).map (fun k => (lookup st (a + k)).getD 0)
    else s.rangeBytes (r.lineKid a) a 128 ++ s.rangeBytes (r.lineKid (a + 128)) (a + 128) 128)
/-- Lines of a unit that are poisoned, of those that are not staged (R49). -/
def State.unitBad (s : State) (u : Nat) : List Nat :=
  (s.poison.filter (fun e => unitOf (e.1 * 128) == u && (lookup s.staged (e.1 / 2 * 256)).isNone)).map (fun e => e.1)
/-- The next unit: one that holds staged sectors first, then the lowest. -/
def State.nextUnit (s : State) (l : List Nat) : Option Nat :=
  match l.find? (fun u => s.staged.any (fun e => e.1 / 65536 == u)) with | some u => some u | none => l.head?
/-- The engine's append of bytes to a log page: RT and CT advance (R73 to R77, told as one step). -/
def State.logWrite (s : State) (k : Nat) (r : PageRec) (bs : List Byte) (bad : List Nat) : State :=
  let a := r.bfn.toNat * 4096 + r.ct
  let t := (s.storeRange r.kid a bs).setRec k { r with rt := r.rt + bs.length, ct := r.ct + bs.length }
  { t with poison := (bad.flatMap (fun o => [(a + o) / 128, (a + o + 127) / 128])).foldl (fun m la => setD false m la true) t.poison }
/-- Seal a log page. -/
def State.sealLog (s : State) (k : Nat) : State :=
  match lookup s.records k with | some r => s.setRec k { r with sl := true } | none => s
/-- The engine appends the next part of a record to its last log page, or, where it does not fit, seals that and appends to a fresh page of 2 MiB in the
pool under the partition's system key (R91); none when the log is exhausted. `bad`: offsets of poisoned lines in the part. -/
def State.logPart (s : State) (job : Nat) (r : Record) (bs : List Byte) (bad : List Nat) : Option (State × Record) :=
  match r.keys.getLast?.bind (fun k => (lookup s.records k).bind (fun p => if p.v && !p.sl && decide (p.ct + bs.length ≤ asSize p.ps) then some (k, p) else none)) with
  | some (k, p) => some (s.logWrite k p bs bad, r)
  | none =>
    match s.sparePool (2 ^ 21) with
    | none => none
    | some a =>
      let t := match r.keys.getLast? with | some k => s.sealLog k | none => s
      let i := t.freeRec 8
      let u := t.newRecord 8 i (BitVec.ofNat 40 (a / 4096)) 2 (BitVec.ofNat 4 (s.job job).part) (s.skidOf job)
      (lookup u.records (recKey 8 i)).map (fun p => (u.logWrite (recKey 8 i) p bs bad, { r with keys := r.keys ++ [recKey 8 i] }))
/-- Pieces of at most 64 KiB. -/
def pieces : Nat → List Byte → List (List Byte)
  | 0, _ => []
  | n + 1, l => if l.isEmpty then [] else l.take 65536 :: pieces n (l.drop 65536)
/-- The parts of a record before its units, with its context as the save area holds it (R47); a record that has begun has them. -/
def State.logFront (s : State) (job : Nat) (r : Record) : Option (State × Record) :=
  if !r.keys.isEmpty then some (s, r)
  else
    let j := s.job job
    let r1 := match j.saveAt with | some a => { r with ctx := s.rangeBytes (s.skidOf job) a r.ctx.length } | none => r
    let l := r1.front job j.part j.todo.length
    (pieces (l.length / 65536 + 1) l).foldl (fun (x : Option (State × Record)) p => x.bind (fun e => e.1.logPart job e.2 p [])) (some (s, r1))
/-- A record that cannot complete: CKF is set, its frozen units go back, and the next record is full (R325). -/
def State.recordFails (s : State) (job : Nat) (r : Record) : State :=
  let j := s.job job
  let t := s.setJob job { j with stream := none, todo := [], ckf := true, full := true }
  let u := { t with frozen := t.frozen.filter (fun e => e.2 != job), staged := t.staged.filter (fun e => !(j.todo.contains (e.1 / 65536))),
                    agenda := t.agenda ++ [Instr.jsbUpdate job] }
  u.postJob job 0x05 j.tag.toNat 0 (r.iv.setWidth 64) 1
/-- The next unit of a record is appended to the log; with no page left for it the record cannot complete. -/
def execUnitStreamed (job : Nat) (s : State) : Host.Outcome State Fault Refusal :=
  let j := s.job job
  ev (match j.stream, s.nextUnit j.todo with
    | some r, some u =>
      let e := (u, s.unitBytes r u)
      let bad := s.unitBad u
      some (match (s.logFront job r).bind (fun x => x.1.logPart job x.2 (unitEntry e) (bad.map (fun la => 16 + (la * 128 - u * 65536)))) with
        | none => s.recordFails job r
        | some (t, r2) =>
          let v := t.setJob job { t.job job with
            stream := some { r2 with units := r2.units ++ [e], bad := r2.bad ++ bad }, todo := j.todo.filter (fun x => x != u) }
          { v with frozen := remove v.frozen u, staged := v.staged.filter (fun e => e.1 / 65536 != u) })
    | _, _ => none)
/-- A job ends (R131): its engines' work stops, its comb segments are discarded, its range entries released, its window zeroed (R40), its incomplete
appends completed with zeros (R85), its private pages dropped (R330), its save region and its cores free. Event records that wait in its buffer
stay there until they are posted (R281). -/
def State.endJob (s : State) (j : Nat) (st : JState) : State :=
  let jb := s.job j
  let s0 := s.dropPrivate j
  let ofJob := fun (k : Nat) => (s.group k).job == j
  let mine := fun (k : Nat) => k / 65536 == j
  let engines := (s0.copies.filter (fun c => ofJob c.grp)).map (fun c => c.id) ++
    ((s0.teams.filter (fun e => mine e.1)).flatMap (fun e => e.2.mill.map (fun o => o.pin))).filter (fun i => i != 0)
  let s1 := { s0 with
    copies := s0.copies.filter (fun c => !(ofJob c.grp)), rangeWait := s0.rangeWait.filter (fun w => !engines.contains w.2.1),
    pins := s0.pins.filter (fun p => !engines.contains p.copy) }
  let idx := (s1.ranges.filter (fun e => e.js == j)).map (fun e => (e.home, e.idx))
  let s2 := idx.foldl (fun (t : State) e => t.releaseRun e.1 e.2) s1
  let recs := ((s2.appends.filter (fun a => a.job == j && a.rb != a.ln)).map (fun a => recKey a.home a.rcd)).eraseDups
  let s3 := recs.foldl (fun (t : State) k => t.fillAppends k (fun a => a.job == j)) s2
  let s4 := { s3 with groups := s3.groups.filter (fun e => !(e.2.job == j)), teams := s3.teams.filter (fun e => !(mine e.1)),
                      hops := s3.hops.filter (fun h => !(ofJob h.grp)), pend := s3.pend.filter (fun a => !(ofJob a.grp)),
                      reserved := s3.reserved.filter (fun e => e.2 / 4096 != j) }
  let cores := ((s.teamsOf j).filter (fun tk => s.teamHolds j (tk % 65536))).flatMap s.coresOf
  ((s4.setJob j { s4.job j with
      live := false, accepted := false, standing := false, held := false, close := none, clusters := jb.clusters.map (fun c => { c with st := .ended }),
      combSegs := [], tags := [], comb := [], combPoison := [], cot := [], saveAt := none, saved := [] }).setJst j st).freeCores cores
/-- The trailer is appended, the record's last page sealed and the record reported (R91, R322 step 8); after a move the job ends on this package
(R327). -/
def execRecordComplete (job : Nat) (s : State) : Host.Outcome State Fault Refusal :=
  let j := s.job job
  ev (match j.stream with
    | none => none
    | some r =>
      if !j.todo.isEmpty then none
      else
        let d := (fun (x : Record) => x.digest job j.part)
        some (match (s.logFront job r).bind (fun x =>
            x.1.logPart job x.2 (Record.trailer (d x.2) (x.2.bytes job j.part).length) []) with
          | none => s.recordFails job r
          | some (t0, r1) =>
            let r2 := { r1 with dig := d r1, complete := true }
            let t := match r2.keys.getLast? with | some k => t0.sealLog k | none => t0
            let u := t.setJob job { t.job job with stream := none, log := j.log ++ [r2], liv := r2.iv, ldig := r2.dig, ckdig := r2.dig, ckf := false }
            let v := ({ u with agenda := u.agenda ++ [Instr.jsbUpdate job] } : State).postJob job 0x05 j.tag.toNat 0 (r2.iv.setWidth 64) 0
            if r1.kind = 2 then v.endJob job .ended else v))
/-- A fault of a write to the log: the record cannot complete (R325). -/
def execRecordFailed (job : Nat) (s : State) : Host.Outcome State Fault Refusal :=
  ev (((s.job job).stream).map (fun r => s.recordFails job r))

end Sys2Proof.Machine
end

