-- ==== Sys2Proof/Machine/Scalar.lean ====
section
/-!
DEFINITION. The scalar instructions (R185 to R191).
-/

namespace Sys2Proof.Machine

/-! ## Shared operations -/

/-- A scalar instruction: write the destination, continue. It is active in every lane of the issue state. -/
def scalarWrite (s : State) (d : BitVec 7) (x : DWord) : Host.Outcome State Fault Refusal :=
  s.finish s.cur.lanes (s.curGroup.sset d.toNat x)

/-- Exact integer operations of R187. -/
inductive SArith | add | sub | mul | div | min | max
deriving DecidableEq, Repr

def sArith (f : SArith) (sg : Bool) (n : Nat) (x y : Int) : Int :=
  match f with
  | .add => x + y
  | .sub => x - y
  | .mul => x * y
  | .div => if y = 0 then (if sg then -1 else thi sg n) else Int.tdiv x y
  | .min => if x ≤ y then x else y
  | .max => if x ≤ y then y else x

/-- R187 on 64-bit registers. -/
def sArithVal (f : SArith) (ty : STy) (sat : Bool) (a b : DWord) : DWord :=
  tput ty.signed ty.nb
    (clampIf sat ty.signed ty.nb (sArith f ty.signed ty.nb (tval ty.signed ty.nb a.toNat) (tval ty.signed ty.nb b.toNat)))

def execArith (f : SArith) (sat : Bool) (x : SBin) (s : State) : Host.Outcome State Fault Refusal :=
  scalarWrite s x.d (sArithVal f x.ty sat (s.curGroup.sget x.a.toNat) (ssrc s.curGroup x.ty.signed x.b))
/-- The SR form: 64-bit signed (TY = 0). -/
def execArithSr (f : SArith) (sat : Bool) (r : SR3) (s : State) : Host.Outcome State Fault Refusal :=
  execArith f sat { ty := .s64, d := r.d, a := r.a, b := .reg r.b } s

/-- Bit operations of R189. -/
inductive SBits | and | or | xor | andn | shl | shr | sra | rot
deriving DecidableEq, Repr

def sBits (f : SBits) (n : Nat) (xa yb : Nat) : Nat :=
  let c := if n = 64 then yb % 64 else yb % 32
  match f with
  | .and => xa &&& yb
  | .or => xa ||| yb
  | .xor => xa ^^^ yb
  | .andn => xa - (xa &&& yb)
  | .shl => (xa <<< c) % 2 ^ n
  | .shr => xa >>> c
  | .sra => sar n xa c
  | .rot => rotr n xa c
/-- Extend an `n`-bit pattern by the type. -/
def sExt (ty : STy) (r : Nat) : DWord := if ty.signed then sext64 ty.nb r else zext64 ty.nb r
def sBitsVal (f : SBits) (ty : STy) (a b : DWord) : DWord :=
  sExt ty (sBits f ty.nb (a.toNat % 2 ^ ty.nb) (b.toNat % 2 ^ ty.nb))
/-- `sx`: the immediate is sign-extended. -/
def execBits (f : SBits) (sx : Bool) (x : SBin) (s : State) : Host.Outcome State Fault Refusal :=
  scalarWrite s x.d (sBitsVal f x.ty (s.curGroup.sget x.a.toNat) (ssrc s.curGroup sx x.b))
def execBitsSr (f : SBits) (r : SR3) (s : State) : Host.Outcome State Fault Refusal :=
  execBits f false { ty := .s64, d := r.d, a := r.a, b := .reg r.b } s

/-- Counting operations of R190. -/
inductive BitFn | pop | clz | ctz | rev
deriving DecidableEq, Repr

def bitFn (f : BitFn) (n x : Nat) : Nat :=
  match f with
  | .pop => popcount n x
  | .clz => clz n x
  | .ctz => ctz n x
  | .rev => revBits n x
def execBitFn (f : BitFn) (x : SUn) (s : State) : Host.Outcome State Fault Refusal :=
  scalarWrite s x.d (sExt x.ty (bitFn f x.ty.nb ((s.curGroup.sget x.a.toNat).toNat % 2 ^ x.ty.nb)))

/-- Field extract of R190: `n`-bit pattern, 12-bit control word. -/
def fieldExtract (sg : Bool) (n x q : Nat) : Int :=
  let pos := q % 64
  let len := q / 64 % 64 + 1
  let f := field (x % 2 ^ n) pos len
  if sg then toSigned len f else f
/-- Field insert of R190: background `d`, source `a`. -/
def fieldInsert (n d a q : Nat) : Nat :=
  let pos := q % 64
  let len := q / 64 % 64 + 1
  let m := (2 ^ len - 1) * 2 ^ pos % 2 ^ n
  ((d % 2 ^ n) - (d % 2 ^ n &&& m)) + (a * 2 ^ pos % 2 ^ n &&& m)
/-- The control word q of SBFX. -/
def ctlWord (g : Group) (b : SSrc) : Nat := (ssrc g false b).toNat % 4096

/-- SCMP (R188). -/
def sCompare (x y : Int) : Int := if x < y then -1 else if x = y then 0 else 1
def relHolds (r : Rel) (x y : Int) : Bool :=
  match r with
  | .eq => decide (x = y) | .ne => decide (x ≠ y) | .lt => decide (x < y)
  | .le => decide (x ≤ y) | .gt => decide (y < x) | .ge => decide (y ≤ x)
def sTval (ty : STy) (x : DWord) : Int := tval ty.signed ty.nb x.toNat

/-! ## Meanings -/

def execSaddSr (sat : Bool) (r : SR3) (s : State) : Host.Outcome State Fault Refusal := execArithSr .add sat r s
/-- The SI form: a = d, IMM14 sign-extended (R166, R186). -/
def execSaddSi (sat : Bool) (d : BitVec 7) (imm : BitVec 14) (s : State) : Host.Outcome State Fault Refusal :=
  execArith .add sat { ty := .s64, d := d, a := d, b := .imm (imm.signExtend 16) } s
def execSadd (sat : Bool) (x : SBin) (s : State) : Host.Outcome State Fault Refusal := execArith .add sat x s
def execSsubSr (sat : Bool) (r : SR3) (s : State) : Host.Outcome State Fault Refusal := execArithSr .sub sat r s
def execSsub (sat : Bool) (x : SBin) (s : State) : Host.Outcome State Fault Refusal := execArith .sub sat x s
def execSmulSr (sat : Bool) (r : SR3) (s : State) : Host.Outcome State Fault Refusal := execArithSr .mul sat r s
def execSmul (sat : Bool) (x : SBin) (s : State) : Host.Outcome State Fault Refusal := execArith .mul sat x s
def execSdiv (sat : Bool) (x : SBin) (s : State) : Host.Outcome State Fault Refusal := execArith .div sat x s
def execSmin (x : SBin) (s : State) : Host.Outcome State Fault Refusal := execArith .min false x s
def execSmax (x : SBin) (s : State) : Host.Outcome State Fault Refusal := execArith .max false x s

def execSandSr (r : SR3) (s : State) : Host.Outcome State Fault Refusal := execBitsSr .and r s
def execSorSr (r : SR3) (s : State) : Host.Outcome State Fault Refusal := execBitsSr .or r s
def execSxorSr (r : SR3) (s : State) : Host.Outcome State Fault Refusal := execBitsSr .xor r s
def execSandnSr (r : SR3) (s : State) : Host.Outcome State Fault Refusal := execBitsSr .andn r s
def execSand (x : SBin) (s : State) : Host.Outcome State Fault Refusal := execBits .and true x s
def execSor (x : SBin) (s : State) : Host.Outcome State Fault Refusal := execBits .or true x s
def execSxor (x : SBin) (s : State) : Host.Outcome State Fault Refusal := execBits .xor true x s
def execSandn (x : SBin) (s : State) : Host.Outcome State Fault Refusal := execBits .andn true x s
def execSshlSr (r : SR3) (s : State) : Host.Outcome State Fault Refusal := execBitsSr .shl r s
def execSshrSr (r : SR3) (s : State) : Host.Outcome State Fault Refusal := execBitsSr .shr r s
def execSsraSr (r : SR3) (s : State) : Host.Outcome State Fault Refusal := execBitsSr .sra r s
def execSrotSr (r : SR3) (s : State) : Host.Outcome State Fault Refusal := execBitsSr .rot r s
def execSshl (x : SBin) (s : State) : Host.Outcome State Fault Refusal := execBits .shl false x s
def execSshr (x : SBin) (s : State) : Host.Outcome State Fault Refusal := execBits .shr false x s
def execSsra (x : SBin) (s : State) : Host.Outcome State Fault Refusal := execBits .sra false x s
def execSrot (x : SBin) (s : State) : Host.Outcome State Fault Refusal := execBits .rot false x s

/-- SCMP function 0: −1, 0 or 1 as a 64-bit signed integer (R188). -/
def execScmp (x : SBin) (s : State) : Host.Outcome State Fault Refusal :=
  scalarWrite s x.d (BitVec.ofInt 64
    (sCompare (sTval x.ty (s.curGroup.sget x.a.toNat)) (sTval x.ty (ssrc s.curGroup x.ty.signed x.b))))
/-- SCMP functions 1 to 6: 1 or 0 (R188). -/
def execScmpRel (r : Rel) (x : SBin) (s : State) : Host.Outcome State Fault Refusal :=
  scalarWrite s x.d (if relHolds r (sTval x.ty (s.curGroup.sget x.a.toNat)) (sTval x.ty (ssrc s.curGroup x.ty.signed x.b))
    then 1 else 0)
/-- SSEL (R191). -/
def execSsel (d a : BitVec 7) (b : SLit) (c : BitVec 7) (s : State) : Host.Outcome State Fault Refusal :=
  let g := s.curGroup
  let vb : DWord := match b with | .reg r => g.sget r.toNat | .lit x => x.signExtend 64
  scalarWrite s d (if g.sget c.toNat ≠ 0 then g.sget a.toNat else vb)
/-- SLEA (R191): the base of the object that holds the instruction; PROTECTION reason 0x7 with no such object. -/
def execSlea (d a : BitVec 7) (i : Imm) (s : State) : Host.Outcome State Fault Refusal :=
  let g := s.curGroup
  match s.curJob.objOf s.cur.pc with
  | some o => scalarWrite s d (o.2.base.setWidth 64 + g.sget a.toNat + immVal true i)
  | none => (Act.trap (Trap.protection 7 0 (Config.faultAddr (s.cur.pc.setWidth 64)))).run s
/-- SLI (R191): shift left by k and OR the low k bits of the immediate. -/
def sliVal (k : Nat) (a i : DWord) : DWord := (a <<< k) ||| BitVec.ofNat 64 (i.toNat % 2 ^ k)
def execSliSi (d : BitVec 7) (imm : BitVec 16) (s : State) : Host.Outcome State Fault Refusal :=
  scalarWrite s d (sliVal 16 (s.curGroup.sget d.toNat) (imm.setWidth 64))
def execSli (d a : BitVec 7) (i : Imm) (s : State) : Host.Outcome State Fault Refusal :=
  scalarWrite s d (sliVal 16 (s.curGroup.sget a.toNat) (immVal false i))
def execSliW (d a : BitVec 7) (i : Imm) (s : State) : Host.Outcome State Fault Refusal :=
  scalarWrite s d (sliVal 32 (s.curGroup.sget a.toNat) (immVal false i))
/-- SMOV (R191): converts between widths. -/
def execSmovSr (d a : BitVec 7) (s : State) : Host.Outcome State Fault Refusal :=
  scalarWrite s d (s.curGroup.sget a.toNat)
def execSmov (ty : STy) (d : BitVec 7) (x : SMov) (s : State) : Host.Outcome State Fault Refusal :=
  let v : DWord := match x with | .reg a => s.curGroup.sget a.toNat | .imm i => immVal ty.signed i
  scalarWrite s d (tput ty.signed ty.nb (sTval ty v))

def execSbit (x : SUn) (s : State) : Host.Outcome State Fault Refusal := execBitFn .pop x s
def execSbitClz (x : SUn) (s : State) : Host.Outcome State Fault Refusal := execBitFn .clz x s
def execSbitCtz (x : SUn) (s : State) : Host.Outcome State Fault Refusal := execBitFn .ctz x s
def execSbitRev (x : SUn) (s : State) : Host.Outcome State Fault Refusal := execBitFn .rev x s
/-- SBFX (R190): extract. -/
def execSbfx (x : SBin) (s : State) : Host.Outcome State Fault Refusal :=
  let g := s.curGroup
  scalarWrite s x.d (tput x.ty.signed x.ty.nb
    (fieldExtract x.ty.signed x.ty.nb (g.sget x.a.toNat).toNat (ctlWord g x.b)))
/-- SBFX insert (R190). -/
def execSbfxIns (x : SBin) (s : State) : Host.Outcome State Fault Refusal :=
  let g := s.curGroup
  scalarWrite s x.d (sExt x.ty (fieldInsert x.ty.nb (g.sget x.d.toNat).toNat (g.sget x.a.toNat).toNat (ctlWord g x.b)))

end Sys2Proof.Machine
end

