-- ==== Sys2Proof/Machine/Vector.lean ====
section
/-!
DEFINITION. The vector integer, logic, select, compare and move instructions (R207, R209 to R212).
-/

namespace Sys2Proof.Machine

/-! ## Shared operations -/

/-- Write an operand of `k` registers in each active lane and continue. -/
def vecWrite (s : State) (gd : Guard) (k : Nat) (d : BitVec 11) (f : Nat → Nat) : Host.Outcome State Fault Refusal :=
  s.finish (s.active gd) (s.curGroup.setLanes k d.toNat (lanesOf (s.active gd)) f)

/-- An element operation of list I on va and vb or the immediate; `sx` extends the immediate. -/
def vecI (s : State) (x : VBin) (sx : Bool) (f : Nat → Nat → Nat) : Host.Outcome State Fault Refusal :=
  let g := s.curGroup
  vecWrite s x.g x.ty.regs x.d (fun l =>
    mapElems x.ty.width x.ty.count (fun a b _ => f a b) (g.vN x.ty.regs x.a.toNat l)
      (vsrc g x.ty.regs x.ty.width x.ty.count sx l x.b) 0)
/-- An element operation of list I on va. -/
def vecI1 (s : State) (x : VUn) (f : Nat → Nat) : Host.Outcome State Fault Refusal :=
  let g := s.curGroup
  vecWrite s x.g x.ty.regs x.d (fun l =>
    mapElems x.ty.width x.ty.count (fun a _ _ => f a) (g.vN x.ty.regs x.a.toNat l) 0 0)
/-- An operation of list B on va and vb or the immediate. -/
def vecB (s : State) (x : BBin) (f : Nat → Nat → Nat) : Host.Outcome State Fault Refusal :=
  let g := s.curGroup
  vecWrite s x.g x.ty.regs x.d (fun l =>
    f (g.vN x.ty.regs x.a.toNat l) (vsrc g x.ty.regs x.ty.width 1 true l x.b) % 2 ^ x.ty.width)

/-- Exact integer operations of R210 on elements. -/
inductive VArith | add | sub | mul | mulHi | div | rem | min | max
deriving DecidableEq, Repr

def vArith (f : VArith) (sg : Bool) (n : Nat) (x y : Int) : Int :=
  match f with
  | .add => x + y
  | .sub => x - y
  | .mul => x * y
  | .mulHi => Int.fdiv (x * y) (2 ^ n : Nat)
  | .div => if y = 0 then (if sg then -1 else thi sg n) else Int.tdiv x y
  | .rem => if y = 0 then x else x - y * Int.tdiv x y
  | .min => if x ≤ y then x else y
  | .max => if x ≤ y then y else x
def vArithElem (f : VArith) (ty : ITy) (sat : Bool) (a b : Nat) : Nat :=
  wrap ty.width (clampIf sat ty.signed ty.width
    (vArith f ty.signed ty.width (tval ty.signed ty.width a) (tval ty.signed ty.width b)))
def execVArith (f : VArith) (sat : Bool) (x : VBin) (s : State) : Host.Outcome State Fault Refusal :=
  vecI s x x.ty.signed (vArithElem f x.ty sat)

/-- The guard of a short form: every lane of the issue state. -/
def noGuard : Guard := { gp := 0, gn := false }
/-- An SR word as a 32-bit signed long form (TY = 0). -/
def srI (r : SR3) : VBin :=
  { g := noGuard, ty := .s32, d := r.d.setWidth 11, a := r.a.setWidth 11, b := .reg (r.b.setWidth 11) }
def srB (r : SR3) : BBin :=
  { g := noGuard, ty := .b32, d := r.d.setWidth 11, a := r.a.setWidth 11, b := .reg (r.b.setWidth 11) }

/-- Shifts of R211: the count is the low log2 n bits of y. -/
inductive VShift | shl | shr | rot
deriving DecidableEq, Repr

def vShift (f : VShift) (sg : Bool) (n a b : Nat) : Nat :=
  let c := b % n
  match f with
  | .shl => a <<< c
  | .shr => if sg then sar n a c else a >>> c
  | .rot => rotr n a c
def execVShift (f : VShift) (x : VBin) (s : State) : Host.Outcome State Fault Refusal :=
  vecI s x false (vShift f x.ty.signed x.ty.width)

/-- The control word of VBFX in a lane: the low 12 bits of vb, IMM16 or the literal. -/
def vctl (g : Group) (l : Nat) : VSrc → Nat
  | .reg b => (g.v32 b.toNat l).toNat % 4096
  | .rlit x => x.toNat % 4096
  | .imm x => x.toNat % 4096
  | .ilit x => x.toNat % 4096

/-! ## Meanings -/

def execVaddSr (sat : Bool) (r : SR3) (s : State) : Host.Outcome State Fault Refusal := execVArith .add sat (srI r) s
def execVadd (sat : Bool) (x : VBin) (s : State) : Host.Outcome State Fault Refusal := execVArith .add sat x s
def execVsubSr (sat : Bool) (r : SR3) (s : State) : Host.Outcome State Fault Refusal := execVArith .sub sat (srI r) s
def execVsub (sat : Bool) (x : VBin) (s : State) : Host.Outcome State Fault Refusal := execVArith .sub sat x s
/-- VMUL SR: SUB 0 low half, 1 saturating, 2 high half. -/
def execVmulSr (fn : BitVec 2) (r : SR3) (s : State) : Host.Outcome State Fault Refusal :=
  if fn = 2 then execVArith .mulHi false (srI r) s else execVArith .mul (fn == 1) (srI r) s
def execVmul (sat : Bool) (x : VBin) (s : State) : Host.Outcome State Fault Refusal := execVArith .mul sat x s
def execVmulHi (x : VBin) (s : State) : Host.Outcome State Fault Refusal := execVArith .mulHi false x s
def execVdiv (x : VBin) (s : State) : Host.Outcome State Fault Refusal := execVArith .div false x s
def execVdivRem (x : VBin) (s : State) : Host.Outcome State Fault Refusal := execVArith .rem false x s
def execVmin (x : VBin) (s : State) : Host.Outcome State Fault Refusal := execVArith .min false x s
def execVmax (x : VBin) (s : State) : Host.Outcome State Fault Refusal := execVArith .max false x s
/-- VMAD (R210): x × y + z, wrapping. -/
def execVmad (x : VTri) (s : State) : Host.Outcome State Fault Refusal :=
  let g := s.curGroup
  let n := x.ty.width
  vecWrite s x.g x.ty.regs x.d (fun l =>
    mapElems n x.ty.count (fun a b c => wrap n ((a * b + c : Nat) : Int)) (g.vN x.ty.regs x.a.toNat l)
      (vlit g x.ty.regs n x.ty.count x.ty.signed l x.b) (g.vN x.ty.regs x.c.toNat l))
def execVabs (x : VUn) (s : State) : Host.Outcome State Fault Refusal :=
  vecI1 s x (fun a => wrap x.ty.width (tval x.ty.signed x.ty.width a).natAbs)
def execVneg (x : VUn) (s : State) : Host.Outcome State Fault Refusal :=
  vecI1 s x (fun a => wrap x.ty.width (-(a : Int)))

def execVandSr (r : SR3) (s : State) : Host.Outcome State Fault Refusal := vecB s (srB r) (fun a b => a &&& b)
def execVand (x : BBin) (s : State) : Host.Outcome State Fault Refusal := vecB s x (fun a b => a &&& b)
def execVorSr (r : SR3) (s : State) : Host.Outcome State Fault Refusal := vecB s (srB r) (fun a b => a ||| b)
def execVor (x : BBin) (s : State) : Host.Outcome State Fault Refusal := vecB s x (fun a b => a ||| b)
def execVxorSr (r : SR3) (s : State) : Host.Outcome State Fault Refusal := vecB s (srB r) (fun a b => a ^^^ b)
def execVxor (x : BBin) (s : State) : Host.Outcome State Fault Refusal := vecB s x (fun a b => a ^^^ b)
def execVandn (x : BBin) (s : State) : Host.Outcome State Fault Refusal := vecB s x (fun a b => a - (a &&& b))
def execVnot (x : BUn) (s : State) : Host.Outcome State Fault Refusal :=
  let g := s.curGroup
  vecWrite s x.g x.ty.regs x.d (fun l => 2 ^ x.ty.width - 1 - g.vN x.ty.regs x.a.toNat l)

def execVshlSr (r : SR3) (s : State) : Host.Outcome State Fault Refusal := execVShift .shl (srI r) s
def execVshl (x : VBin) (s : State) : Host.Outcome State Fault Refusal := execVShift .shl x s
def execVshrSr (r : SR3) (s : State) : Host.Outcome State Fault Refusal := execVShift .shr (srI r) s
def execVshr (x : VBin) (s : State) : Host.Outcome State Fault Refusal := execVShift .shr x s
def execVrot (x : VBin) (s : State) : Host.Outcome State Fault Refusal := execVShift .rot x s
def execVbit (x : VUn) (s : State) : Host.Outcome State Fault Refusal := vecI1 s x (bitFn .pop x.ty.width)
def execVbitClz (x : VUn) (s : State) : Host.Outcome State Fault Refusal := vecI1 s x (bitFn .clz x.ty.width)
def execVbitCtz (x : VUn) (s : State) : Host.Outcome State Fault Refusal := vecI1 s x (bitFn .ctz x.ty.width)
def execVbitRev (x : VUn) (s : State) : Host.Outcome State Fault Refusal := vecI1 s x (bitFn .rev x.ty.width)
/-- VBFX (R211): extract, with the control word of each lane. -/
def execVbfx (x : VBin) (s : State) : Host.Outcome State Fault Refusal :=
  let g := s.curGroup
  let n := x.ty.width
  vecWrite s x.g x.ty.regs x.d (fun l =>
    wrap n (fieldExtract x.ty.signed n (g.vN x.ty.regs x.a.toNat l) (vctl g l x.b)))
/-- VBFX insert: vd is the background. -/
def execVbfxIns (x : VBin) (s : State) : Host.Outcome State Fault Refusal :=
  let g := s.curGroup
  let n := x.ty.width
  vecWrite s x.g x.ty.regs x.d (fun l =>
    fieldInsert n (g.vN x.ty.regs x.d.toNat l) (g.vN x.ty.regs x.a.toNat l) (vctl g l x.b))

/-- VSEL (R212). -/
def execVsel (gd : Guard) (ty : BTy) (d a : BitVec 11) (b : VLit) (c : BitVec 4) (s : State) : Host.Outcome State Fault Refusal :=
  let g := s.curGroup
  vecWrite s gd ty.regs d (fun l =>
    if g.pred c.toNat l then g.vN ty.regs a.toNat l else vlit g ty.regs ty.width 1 true l b)
/-- VCMP (R212). -/
def execVcmp (r : Rel) (x : VCmp) (s : State) : Host.Outcome State Fault Refusal :=
  let g := s.curGroup
  let n := x.ty.width
  let holds := fun l => relHolds r (tval x.ty.signed n (g.vN x.ty.regs x.a.toNat l))
    (tval x.ty.signed n (vsrc g x.ty.regs n x.ty.count x.ty.signed l x.b))
  s.finish (s.active x.g) (g.psetMask x.d.toNat (s.active x.g) (maskOf ((lanesOf (s.active x.g)).filter holds)))
def execVmovSr (d a : BitVec 7) (s : State) : Host.Outcome State Fault Refusal :=
  vecWrite s noGuard 1 (d.setWidth 11) (fun l => (s.curGroup.v32 a.toNat l).toNat)
def execVmov (gd : Guard) (ty : BTy) (d : BitVec 11) (x : VMov) (s : State) : Host.Outcome State Fault Refusal :=
  let g := s.curGroup
  vecWrite s gd ty.regs d (fun l =>
    match x with
    | .reg a => g.vN ty.regs a.toNat l
    | .imm i => (immVal true i).toNat % 2 ^ ty.width)
def execVmovS2v (gd : Guard) (ty : BTy) (d : BitVec 11) (a : BitVec 7) (s : State) : Host.Outcome State Fault Refusal :=
  vecWrite s gd ty.regs d (fun _ => (s.curGroup.sget a.toNat).toNat % 2 ^ ty.width)
/-- VDOT (R210): the exact sum of element products added to vc, low 32 bits. -/
def execVdot (x : VTri) (s : State) : Host.Outcome State Fault Refusal :=
  let g := s.curGroup
  let n := x.ty.width
  vecWrite s x.g 1 x.d (fun l =>
    let ps := (elems n x.ty.count (g.vN 1 x.a.toNat l)).zip (elems n x.ty.count (vlit g 1 n x.ty.count x.ty.signed l x.b))
    wrap 32 (ps.foldl (fun r p => r + tval x.ty.signed n p.1 * tval x.ty.signed n p.2) (tval x.ty.signed 32 (g.v32 x.c.toNat l).toNat)))

end Sys2Proof.Machine
end

