-- ==== Sys2Proof/Machine/Float.lean ====
section
/-!
DEFINITION. The vector floating-point instructions and the special functions (R208, R213 to R217).
-/

namespace Sys2Proof.Machine

/-! ## Shared operations -/

/-- Elements of a floating operand with their numbers, results and flags: pack the codes, OR the flags. -/
def fElems (n : Nat) (rs : List (Nat × Nat)) : Nat × Nat :=
  (packElems n (rs.map (fun r => r.1)), rs.foldl (fun a r => a ||| r.2) 0)

/-- A floating instruction that rounds: `op mode a b c` on values, sources as packed operands by lane. -/
def fRound (s : State) (gd : Guard) (rm : Rm) (ty : FTy) (d : BitVec 11) (srcs : List Nat) (immFl : Nat)
    (a b c : Nat → Nat) (op : Nat → Num → Num → Num → Res) : Host.Outcome State Fault Refusal :=
  let g := s.curGroup
  let m := s.active gd
  let f := ftyFmt ty
  let mode := rmode g.fmode true rm
  let daz := fmDaz g.fmode
  let one := fun l =>
    fElems ty.width ((((elems ty.width ty.count (a l)).zip ((elems ty.width ty.count (b l)).zip
        (elems ty.width ty.count (c l)))).zip (List.range ty.count)).map (fun p =>
      let r := op mode (f.read daz p.1.1) (f.read daz p.1.2.1) (f.read daz p.1.2.2)
      let q := f.round mode false (fmFz g.fmode) (if mode = 6 then srWord s l p.2 else 0) r.1
      (q.1, q.2 ||| r.2)))
  (match uninit g m srcs with
   | some t => Act.trap t
   | none => fpAct s m (mode == 6) (fun l => (one l).2 ||| immFl)
       (fun h => h.setLanes ty.regs d.toNat (lanesOf m) (fun l => (one l).1))).run s

def fBin (x : FBin) (op : Nat → Num → Num → Res) (s : State) : Host.Outcome State Fault Refusal :=
  let g := s.curGroup
  let b := fsrc g x.ty x.rm x.b
  let va := fun l => g.vN x.ty.regs x.a.toNat l
  fRound s x.g x.rm x.ty x.d (regRun x.a.toNat x.ty.regs ++ vsrcRegs x.ty.regs x.b) b.2 va b.1 va (fun m p q _ => op m p q)
/-- SR form: binary32, the rounding mode of FMODE. -/
def srF (r : SR3) : FBin :=
  { g := noGuard, rm := .dyn, ty := .f32, d := r.d.setWidth 11, a := r.a.setWidth 11, b := .reg (r.b.setWidth 11) }
def fSub (mode : Nat) (a b : Num) : Res := fAdd mode a b.negate

/-- VFMIN and VFMAX. -/
def fMinMaxExec (isMax : Bool) (x : FBin) (s : State) : Host.Outcome State Fault Refusal :=
  let g := s.curGroup
  let m := s.active x.g
  let n := x.ty.width
  let b := fsrc g x.ty x.rm x.b
  let one := fun l => fElems n (((elems n x.ty.count (g.vN x.ty.regs x.a.toNat l)).zip (elems n x.ty.count (b.1 l))).map
    (fun p => fMinMax (ftyFmt x.ty) (fmDaz g.fmode) isMax p.1 p.2))
  (match uninit g m (regRun x.a.toNat x.ty.regs ++ vsrcRegs x.ty.regs x.b) with
   | some t => Act.trap t
   | none => fpAct s m false (fun l => (one l).2 ||| b.2)
       (fun h => h.setLanes x.ty.regs x.d.toNat (lanesOf m) (fun l => (one l).1))).run s

/-- A bit operation on the sign of each element (R145, R215): no marker check, no flag. -/
def fSign (s : State) (gd : Guard) (ty : FTy) (d : BitVec 11) (a b : Nat → Nat) (op : Bool → Bool → Bool) :
    Host.Outcome State Fault Refusal :=
  let n := ty.width
  vecWrite s gd ty.regs d (fun l =>
    mapElems n ty.count (fun x y _ => x % 2 ^ (n - 1) + (if op (bitAt x (n - 1)) (bitAt y (n - 1)) then 2 ^ (n - 1) else 0))
      (a l) (b l) 0)

/-- A special function (R216). -/
def execSpecial (k : SpFn) (x : FUn) (s : State) : Host.Outcome State Fault Refusal :=
  let g := s.curGroup
  let m := s.active x.g
  let n := x.ty.width
  let mode := rmode g.fmode false x.rm
  let one := fun l => fElems n ((elems n x.ty.count (g.vN x.ty.regs x.a.toNat l)).map
    (fun c => spApply k (ftyFmt x.ty) mode (fmDaz g.fmode) (fmFz g.fmode) c))
  (match uninit g m (regRun x.a.toNat x.ty.regs) with
   | some t => Act.trap t
   | none => fpAct s m false (fun l => (one l).2)
       (fun h => h.setLanes x.ty.regs x.d.toNat (lanesOf m) (fun l => (one l).1))).run s

/-! ## Meanings -/

def execVfaddSr (r : SR3) (s : State) : Host.Outcome State Fault Refusal := fBin (srF r) fAdd s
def execVfadd (x : FBin) (s : State) : Host.Outcome State Fault Refusal := fBin x fAdd s
def execVfsubSr (r : SR3) (s : State) : Host.Outcome State Fault Refusal := fBin (srF r) fSub s
def execVfsub (x : FBin) (s : State) : Host.Outcome State Fault Refusal := fBin x fSub s
def execVfmulSr (r : SR3) (s : State) : Host.Outcome State Fault Refusal := fBin (srF r) (fun _ => fMul) s
def execVfmul (x : FBin) (s : State) : Host.Outcome State Fault Refusal := fBin x (fun _ => fMul) s
def execVfdiv (x : FBin) (s : State) : Host.Outcome State Fault Refusal := fBin x (fun _ => fDiv) s
/-- VFMA (R214): one rounding. -/
def execVfma (x : FTri) (s : State) : Host.Outcome State Fault Refusal :=
  let g := s.curGroup
  let b := flit g x.ty x.rm x.b
  fRound s x.g x.rm x.ty x.d (regRun x.a.toNat x.ty.regs ++ vlitRegs x.ty.regs x.b ++ regRun x.c.toNat x.ty.regs) b.2
    (fun l => g.vN x.ty.regs x.a.toNat l) b.1 (fun l => g.vN x.ty.regs x.c.toNat l) fFma
def execVfsqrt (x : FUn) (s : State) : Host.Outcome State Fault Refusal :=
  let g := s.curGroup
  let va := fun l => g.vN x.ty.regs x.a.toNat l
  fRound s x.g x.rm x.ty x.d (regRun x.a.toNat x.ty.regs) 0 va va va (fun _ a _ _ => fSqrt a)
def execVfmin (x : FBin) (s : State) : Host.Outcome State Fault Refusal := fMinMaxExec false x s
def execVfmax (x : FBin) (s : State) : Host.Outcome State Fault Refusal := fMinMaxExec true x s
/-- VFCMP (R215). -/
def execVfcmp (r : FRel) (x : FCmp) (s : State) : Host.Outcome State Fault Refusal :=
  let g := s.curGroup
  let m := s.active x.g
  let f := ftyFmt x.ty
  let b := fsrc g x.ty .dyn x.b
  let one := fun l => fCompare r (f.read (fmDaz g.fmode) (g.vN x.ty.regs x.a.toNat l % 2 ^ x.ty.width))
    (f.read (fmDaz g.fmode) (b.1 l % 2 ^ x.ty.width))
  (match uninit g m (regRun x.a.toNat x.ty.regs ++ vsrcRegs x.ty.regs x.b) with
   | some t => Act.trap t
   | none => fpAct s m false (fun l => (one l).2 ||| b.2)
       (fun h => h.psetMask x.d.toNat m (maskOf ((lanesOf m).filter (fun l => (one l).1))))).run s
/-- VFCLASS (R215): a 32-bit mask; for .f64 the odd register of the pair is zero. -/
def execVfclass (x : FUn) (s : State) : Host.Outcome State Fault Refusal :=
  let g := s.curGroup
  vecWrite s x.g x.ty.regs x.d (fun l => fClass (ftyFmt x.ty) (g.vN x.ty.regs x.a.toNat l % 2 ^ x.ty.width))
def execVfabs (x : FUn) (s : State) : Host.Outcome State Fault Refusal :=
  let va := fun l => s.curGroup.vN x.ty.regs x.a.toNat l
  fSign s x.g x.ty x.d va va (fun _ _ => false)
def execVfneg (x : FUn) (s : State) : Host.Outcome State Fault Refusal :=
  let va := fun l => s.curGroup.vN x.ty.regs x.a.toNat l
  fSign s x.g x.ty x.d va va (fun p _ => !p)
def execVfsgn (gd : Guard) (ty : FTy) (d a : BitVec 11) (b : VLit) (s : State) : Host.Outcome State Fault Refusal :=
  let g := s.curGroup
  fSign s gd ty d (fun l => g.vN ty.regs a.toNat l) (flit g ty .dyn b).1 (fun _ q => q)

def execVrcp (x : FUn) (s : State) : Host.Outcome State Fault Refusal := execSpecial .rcp x s
def execVrsqrt (x : FUn) (s : State) : Host.Outcome State Fault Refusal := execSpecial .rsqrt x s
def execVexp2 (x : FUn) (s : State) : Host.Outcome State Fault Refusal := execSpecial .exp2 x s
def execVlog2 (x : FUn) (s : State) : Host.Outcome State Fault Refusal := execSpecial .log2 x s
def execVsin (x : FUn) (s : State) : Host.Outcome State Fault Refusal := execSpecial .sin x s
def execVcos (x : FUn) (s : State) : Host.Outcome State Fault Refusal := execSpecial .cos x s
def execVtanh (x : FUn) (s : State) : Host.Outcome State Fault Refusal := execSpecial .tanh x s
def execVsigm (x : FUn) (s : State) : Host.Outcome State Fault Refusal := execSpecial .sigm x s

end Sys2Proof.Machine
end

