-- ==== Sys2Proof/Machine/Convert.lean ====
section
/-!
DEFINITION. VCVT, VRAND and VRSEED (R218 to R220).
-/

namespace Sys2Proof.Machine

/-- Conversion of one element (R219). -/
def cvtElem (src dst : Fmt) (mode : Nat) (sat : Bool) (fmode : Word) (rnd : Nat) (c : Nat) : Nat × Nat :=
  match src.kind, dst.kind with
  | .int _, .int sg =>
    match src.value c with
    | .fin neg m _ _ => (wrap dst.bits (clampIf sat sg dst.bits (if neg then -(m : Int) else m)), 0)
    | _ => (0, 0)
  | .int _, _ => dst.round mode sat (fmFz fmode) rnd (src.value c)
  | _, .int _ => dst.round mode false false rnd (src.read (fmDaz fmode) c)
  | _, _ => dst.round mode sat (fmFz fmode) rnd (src.read (fmDaz fmode) c)

/-- Registers of an operand of a width. -/
def cvtRegs (n : Nat) : Nat := if n = 64 then 2 else 1
def slotsOf (n : Nat) : Nat := if n = 64 then 1 else 32 / n

/-- VCVT (R218, R219). -/
def execVcvt (gd : Guard) (rm : Rm) (sat : Bool) (part : BitVec 2) (dst src : BitVec 6) (d a : BitVec 11) (s : State) :
    Host.Outcome State Fault Refusal :=
  let g := s.curGroup
  let m := s.active gd
  (match Fmt.ofCode dst.toNat, Fmt.ofCode src.toNat with
   | some fd, some fs =>
     let ws := fs.bits
     let wd := fd.bits
     let wm := if ws < wd then wd else ws
     let wn := if ws < wd then ws else wd
     let n := slotsOf wm
     let slots := slotsOf wn
     let p := part.toNat * n
     if (part.toNat + 1) * n > slots then Act.trap (Trap.illegalOperand 0)
     else
       let mode := rmode g.fmode true rm
       let one : Nat → List (Nat × Nat) := fun l =>
         let x := g.vN (cvtRegs ws) a.toNat l
         (List.range n).map (fun i =>
           cvtElem fs fd mode sat g.fmode (if mode = 6 then srWord s l i else 0) (elem x (if ws < wd then i + p else i) ws))
       let put : Nat → Nat := fun l =>
         let rs := one l
         if wd < ws then
           ((List.range n).zip rs).foldl (fun (r : Nat) (e : Nat × Nat × Nat) => putElem r (e.1 + p) wd e.2.1) (g.v32 d.toNat l).toNat
         else packElems wd (rs.map (fun (r : Nat × Nat) => r.1))
       let isInt := match fs.kind with | .int _ => true | _ => false
       match (if isInt then none else uninit g m (regRun a.toNat (cvtRegs ws))) with
       | some t => Act.trap t
       | none => fpLanes s m (lanesOf m) (if mode = 6 then (n + 3) / 4 else 0) (fun l => (one l).foldl (fun (z : Nat) (r : Nat × Nat) => z ||| r.2) 0)
           (fun h => h.setLanes (cvtRegs wd) d.toNat (lanesOf m) put)
   | _, _ => Act.trap (Trap.illegalOperand 0)).run s

/-- The binary32 value (w >> 8) × 2^−24, exact (R220). -/
def unifWord (w : Nat) : Nat := (Fmt.f32.round 1 false false 0 (.fin false (w / 256) (-24) false)).1

/-- VRAND: four words of stream t per lane; the draw count advances once. A `.vu` form with no active lane does nothing (R139). -/
def vrandAct (s : State) (gd : Guard) (d : BitVec 11) (a : RandSrc) (f : Nat → Nat) : Act :=
  let g := s.curGroup
  let m := s.active gd
  let none := match a with | .reg _ => false | .vu _ => decide (m = 0)
  if none then regAct s m (.ok g)
  else match (match a with | .reg r => .ok (g.sget r.toNat) | .vu r => (uniformV g m r.toNat).map (fun w => w.setWidth 64) : Except Trap DWord) with
  | .error t => .trap t
  | .ok v =>
    let t := v.toNat % 2 ^ 16
    if 0xFF00 ≤ t then .trap (Trap.illegalOperand 0)
    else
      let seed := (s.job g.job).jd.seed
      let h := g.setLanes 4 d.toNat (lanesOf m) (fun l =>
        let w := drawWords seed (s.groupId g) g.draw l t
        packElems 32 [f w.1, f w.2.1, f w.2.2.1, f w.2.2.2])
      regAct s m (.ok { h with draw := g.draw + 1 })
def execVrand (gd : Guard) (d : BitVec 11) (a : RandSrc) (s : State) : Host.Outcome State Fault Refusal :=
  (vrandAct s gd d a id).run s
def execVrandUnif (gd : Guard) (d : BitVec 11) (a : RandSrc) (s : State) : Host.Outcome State Fault Refusal :=
  (vrandAct s gd d a unifWord).run s
def execVrseed (x : SeedSrc) (s : State) : Host.Outcome State Fault Refusal :=
  let g := s.curGroup
  let v : DWord := match x with | .reg a => g.sget a.toNat | .imm i => immVal false i
  s.finish s.cur.lanes { g with draw := v.extractLsb' 0 48 }

end Sys2Proof.Machine
end

