-- ==== Sys2Proof/Machine/CrossLane.lean ====
section
/-!
DEFINITION. The cross-lane instructions (R221 to R224, R379).
-/

namespace Sys2Proof.Machine

/-- Copy an operand from a source lane to each active lane; every read comes before any write. -/
def laneCopy (s : State) (gd : Guard) (ty : BTy) (d a : BitVec 11) (src : Nat → Nat) : Act :=
  let g := s.curGroup
  let m := s.active gd
  regAct s m (.ok (g.setLanes ty.regs d.toNat (lanesOf m) (fun l => g.vN ty.regs a.toNat (src l))))

/-- A shuffle whose count is the uniform operand. -/
def execShuf (x : Shuf) (src : Nat → Nat → Nat → Nat) (s : State) : Host.Outcome State Fault Refusal :=
  let g := s.curGroup
  (match usrc g (s.active x.g) x.b with
   | .error t => Act.trap t
   | .ok k => laneCopy s x.g x.ty x.d x.a (fun l => src g.width l k.toNat)).run s

/-- Source lanes of R222: width, lane, count. -/
def srcXor (w l k : Nat) : Nat := if w ≤ l ^^^ k then l else l ^^^ k
def srcUp (_w l k : Nat) : Nat := if l < k then l else l - k
def srcDn (w l k : Nat) : Nat := if w ≤ l + k then l else l + k
def srcRot (w l k : Nat) : Nat := (l + k) % w

def execVshuf (x : Shuf) (s : State) : Host.Outcome State Fault Refusal := execShuf x srcXor s
def execVshufUp (x : Shuf) (s : State) : Host.Outcome State Fault Refusal := execShuf x srcUp s
def execVshufDn (x : Shuf) (s : State) : Host.Outcome State Fault Refusal := execShuf x srcDn s
def execVshufRot (x : Shuf) (s : State) : Host.Outcome State Fault Refusal := execShuf x srcRot s
def execVperm (gd : Guard) (ty : BTy) (d a : BitVec 11) (b : VLit) (s : State) : Host.Outcome State Fault Refusal :=
  let g := s.curGroup
  (laneCopy s gd ty d a (fun l =>
    (match b with | .reg r => (g.v32 r.toNat l).toNat | .lit x => x.toNat) % g.width)).run s
def execVbcast (gd : Guard) (ty : BTy) (d a : BitVec 11) (b : BcSrc) (s : State) : Host.Outcome State Fault Refusal :=
  let g := s.curGroup
  let k : Except Trap Nat := match b with
    | .reg r => .ok ((g.sget r.toNat).toNat % 2 ^ 32)
    | .vu r => (uniformV g (s.active gd) r.toNat).map (fun w => w.toNat)
    | .rlit x => .ok x.toNat
    | .imm x => .ok x.toNat
    | .ilit x => .ok x.toNat
  (match k with
   | .error t => Act.trap t
   | .ok k => laneCopy s gd ty d a (fun _ => k % g.width)).run s

/-! ## Reductions and scans (R223) -/

/-- Combine two elements: code and flags. -/
def redCombine (o : RedOp) (fmode : Word) (rm : Rm) (a b : Nat) : Nat × Nat :=
  match o with
  | .int f ty =>
    let n := ty.width
    let x := tval ty.signed n a
    let y := tval ty.signed n b
    (match f with
     | .add => (a + b) % 2 ^ n
     | .min => if x ≤ y then a else b
     | .max => if x ≤ y then b else a
     | .and => a &&& b
     | .or => a ||| b
     | .xor => a ^^^ b, 0)
  | .flt f ty =>
    let fm := ftyFmt ty
    let daz := fmDaz fmode
    match f with
    | .fadd =>
      let mode := rmode fmode false rm
      let r := fAdd mode (fm.read daz a) (fm.read daz b)
      let q := fm.round mode false (fmFz fmode) 0 r.1
      (q.1, q.2 ||| r.2)
    | .fmin => fMinMax fm daz false a b
    | .fmax => fMinMax fm daz true a b
/-- First value of an exclusive scan. -/
def redFirst (o : RedOp) : Nat :=
  match o with
  | .int f ty =>
    let n := ty.width
    match f with
    | .add => 0
    | .min => wrap n (thi ty.signed n)
    | .max => wrap n (tlo ty.signed n)
    | .and => 2 ^ n - 1
    | .or => 0
    | .xor => 0
  | .flt f ty => match f with | .fadd => (ftyFmt ty).signBit true | .fmin => (ftyFmt ty).qnan | .fmax => (ftyFmt ty).qnan
def redWidth : RedOp → Nat | .int _ ty => ty.width | .flt _ ty => ty.width
def redCount : RedOp → Nat | .int _ ty => ty.count | .flt _ ty => ty.count
def redFloat : RedOp → Bool | .int _ _ => false | .flt _ _ => true

/-- Combine where either side may be absent; flags accumulate. -/
def redOpt (f : Nat → Nat → Nat × Nat) (a b : Option Nat) : Option Nat × Nat :=
  match a, b with
  | some x, some y => let r := f x y; (some r.1, r.2)
  | some x, none => (some x, 0)
  | none, y => (y, 0)
/-- One level of the tree of VRED: neighbours `st` lanes apart are combined, each in the lower lane, with that lane's flags. -/
def redLevel (f : Nat → Nat → Nat × Nat) (st : Nat) : Nat → List (Option Nat) → List (Option Nat) × List (Nat × Nat)
  | i, a :: b :: l =>
    let r := redOpt f a b
    let t := redLevel f st (i + 2 * st) l
    (r.1 :: t.1, (i, r.2) :: t.2)
  | _, l => (l, [])
/-- The tree of VRED over a power of two of lanes: the result, and the flags by lane. -/
def redTree (f : Nat → Nat → Nat × Nat) : Nat → Nat → List (Option Nat) → Option Nat × List (Nat × Nat)
  | 0, _, l => (l.headD none, [])
  | k + 1, st, l =>
    let r := redLevel f st 0 l
    let t := redTree f k (2 * st) r.1
    (t.1, r.2 ++ t.2)
/-- The scan over the active lanes in ascending order: results and flags by lane. -/
def redScan (f : Nat → Nat → Nat × Nat) (ex : Option Nat) : Option Nat → List (Nat × Nat) → List Nat × List (Nat × Nat)
  | _, [] => ([], [])
  | acc, (i, x) :: l =>
    let c := redOpt f acc (some x)
    let t := redScan f ex c.1 l
    ((match ex with | some first => acc.getD first | none => c.1.getD 0) :: t.1, (i, c.2) :: t.2)
/-- The flags that a list gives a lane. -/
def flagsAt (fs : List (Nat × Nat)) (l : Nat) : Nat := fs.foldl (fun z e => if e.1 = l then z ||| e.2 else z) 0

/-- A source element as R145 and R208 read it: DAZ, a NaN as the canonical one; a signalling NaN raises NV. -/
def redRead (o : RedOp) (fmode : Word) (c : Nat) : Nat × Nat :=
  match o with
  | .int _ _ => (c, 0)
  | .flt _ ty =>
    let fm := ftyFmt ty
    let x := fm.read (fmDaz fmode) c
    (if x.isNan then fm.qnan else if x.isZero then fm.zeroCode x.neg else c, nvIf x.isSig)
/-- Element `i` of va in a lane, as read, with its flag. -/
def redElem (g : Group) (o : RedOp) (a i l : Nat) : Nat × Nat := redRead o g.fmode (elem (g.vN o.regs a l) i (redWidth o))
/-- Element `i` of va in every lane, absent where inactive. -/
def redInputs (g : Group) (o : RedOp) (m : DWord) (a i : Nat) : List (Option Nat) :=
  (List.range g.width).map (fun l => if m.getLsbD l then some (redElem g o a i l).1 else none)
/-- The flags of the source elements of the active lanes. -/
def redFlags (g : Group) (o : RedOp) (m : DWord) (a : Nat) : List (Nat × Nat) :=
  (List.range (redCount o)).flatMap (fun i => (lanesOf m).map (fun l => (l, (redElem g o a i l).2)))

/-- VRED: every active lane receives the result; the flags of a combination are raised in the lowest active lane of its left operand's group
(R208; log 20). -/
def execVred (o : RedOp) (gd : Guard) (rm : Rm) (d a : BitVec 11) (s : State) : Host.Outcome State Fault Refusal :=
  let g := s.curGroup
  let m := s.active gd
  let rs := (List.range (redCount o)).map (fun i =>
    redTree (redCombine o g.fmode rm) (Nat.log2 g.width) 1 (redInputs g o m a.toNat i))
  let val := packElems (redWidth o) (rs.map (fun r => r.1.getD 0))
  let fl := rs.flatMap (fun r => r.2.map (fun e => (((lanesOf m).find? (fun l => decide (e.1 ≤ l))).getD e.1, e.2))) ++ redFlags g o m a.toNat
  (match (if redFloat o then uninit g m (regRun a.toNat o.regs) else none) with
   | some t => Act.trap t
   | none => fpLanes s m (lanesOf m) 0 (flagsAt fl) (fun h => h.setLanes o.regs d.toNat (lanesOf m) (fun _ => val))).run s

/-- VSCAN, inclusive (`ex` none) or exclusive with its first value. -/
def scanAct (o : RedOp) (ex : Option Nat) (gd : Guard) (rm : Rm) (d a : BitVec 11) (s : State) : Act :=
  let g := s.curGroup
  let m := s.active gd
  let ls := lanesOf m
  let rs := (List.range (redCount o)).map (fun i =>
    redScan (redCombine o g.fmode rm) ex none (ls.map (fun l => (l, (redElem g o a.toNat i l).1))))
  let fl := rs.flatMap (fun r => r.2) ++ redFlags g o m a.toNat
  let val := fun l => packElems (redWidth o) (rs.map (fun r => ((ls.zip r.1).lookup l).getD 0))
  match (if redFloat o then uninit g m (regRun a.toNat o.regs) else none) with
  | some t => .trap t
  | none => fpLanes s m ls 0 (flagsAt fl) (fun h => h.setLanes o.regs d.toNat ls val)
def execVscan (o : RedOp) (gd : Guard) (rm : Rm) (d a : BitVec 11) (s : State) : Host.Outcome State Fault Refusal :=
  (scanAct o none gd rm d a s).run s
def execVscanEx (o : RedOp) (gd : Guard) (rm : Rm) (d a : BitVec 11) (s : State) : Host.Outcome State Fault Refusal :=
  (scanAct o (some (redFirst o)) gd rm d a s).run s

/-! ## Ballots and lane reads (R224) -/

def execVballot (gd : Guard) (d : BitVec 7) (a : BitVec 4) (s : State) : Host.Outcome State Fault Refusal :=
  s.finish (s.active gd) (s.curGroup.sset d.toNat (s.active gd &&& s.curGroup.pmask a.toNat))
def execVballotCnt (gd : Guard) (d : BitVec 7) (a : BitVec 4) (s : State) : Host.Outcome State Fault Refusal :=
  s.finish (s.active gd) (s.curGroup.sset d.toNat
    (BitVec.ofNat 64 (popcount 64 (s.active gd &&& s.curGroup.pmask a.toNat).toNat)))
/-- VLANE reads one lane; the .vu form compares over the lanes of the issue state. -/
def execVlane (ty : BTy) (d : BitVec 7) (a : BitVec 11) (b : USrc) (s : State) : Host.Outcome State Fault Refusal :=
  let g := s.curGroup
  (match usrc g s.cur.lanes b with
   | .error t => Act.trap t
   | .ok k => regAct s s.cur.lanes (.ok (g.sset d.toNat (BitVec.ofNat 64 (g.vN ty.regs a.toNat (k.toNat % g.width)))))).run s
def execVlaneId (gd : Guard) (d : BitVec 11) (s : State) : Host.Outcome State Fault Refusal :=
  vecWrite s gd 1 d (fun l => l)

end Sys2Proof.Machine
end

