-- ==== Sys2Proof/Machine/Schedule.lean ====
section
/-!
DEFINITION. Admission (R124, R298, R299), launch (R122, R125, R126), the distributor's pass (R294 to R306), resumes (R307, R326),
deadline classes (R299, R300), and the end of teams and jobs (R131, R308).
-/

namespace Sys2Proof.Machine

/-! ## Admission -/

/-- Groups of a team on its fullest sail (R122). -/
def JobDesc.perSail (d : JobDesc) : Nat := if d.pr then ((d.gpt + 1) / 2 + 3) / 4 else (d.gpt + 3) / 4
/-- MTC teams fit (R124). -/
def JobDesc.fits (d : JobDesc) : Bool :=
  decide (d.mtc * d.perSail ≤ 16) && decide (d.mtc * d.perSail * (d.vr * 32 * d.width * 4) ≤ 196608) &&
  decide (d.mtc * (d.tmk + 1) ≤ 512) && decide (d.mtc * d.atl ≤ 64) && decide (d.mtc * d.stn ≤ 64)
/-- One core of a pair without the other. -/
def oddPair (m : DWord) : Bool := (List.range 32).any (fun k => m.getLsbD (2 * k) != m.getLsbD (2 * k + 1))
/-- The checks of R124 on a descriptor of 16 words. -/
def jdOk (w : List DWord) : Bool :=
  let d := JobDesc.ofWords w
  jdReservedOk w && d.wd != 3 && d.entry.toNat % 4 == 0 && decide (1 ≤ d.vr) && decide (d.vr ≤ 48) &&
  (if d.pr then decide (2 ≤ d.gpt) && decide (d.gpt ≤ 64) else decide (1 ≤ d.gpt) && decide (d.gpt ≤ 32)) &&
  decide (1 ≤ d.cs) && decide (d.cs ≤ 16) && decide (d.nw ≤ 16384) && decide (d.sps ≤ 65536) && decide (1 ≤ d.mtc) &&
  decide (d.nTiles ≤ 2 ^ 48) && !(d.ckp == 2 && d.cki == 0) && d.rmask != 0 && !(d.pr && oddPair d.rmask) &&
  decide (d.nT % d.cs = 0) && d.fits
/-- Cores of a partition on a half of a die. -/
def Part.coreMask (p : Part) (die half : Nat) : DWord := p.rcd.cores.getD (2 * die + half) 0
/-- A deadline-class entry (R297). -/
def Part.cls (p : Part) (k : Nat) : BitVec 128 := p.rcd.classes.getD (k - 1) 0
/-- The test of R299. -/
def deadlineOk (p : Part) (d : JobDesc) : Bool :=
  let e := (p.cls d.dc).toNat
  bitAt e 63 && field e 61 2 == d.rdie && field e 60 1 == d.rhalf && d.rmask &&& ~~~ BitVec.ofNat 64 (field e 64 64) == 0 && d.brt != 0 &&
  decide (4 + field e 24 16 + d.brt ≤ field e 40 20)
/-- Free physical comb segments of a die for a window: the lowest free ones, which the spec leaves open (log 66). -/
def State.allocComb (s : State) (die nw : Nat) : List Nat :=
  let used := (s.jobs.filter (fun e => e.2.live && e.2.jd.rdie == die)).flatMap (fun e => e.2.combSegs)
  ((List.range 16384).filter (fun i => !used.contains i)).take nw
/-- The slot of a new job: the lowest that has never been used, else the lowest whose job has ended and has no event record left to post (R281). -/
def State.freeSlot (s : State) : Option Nat :=
  match (List.range 4096).find? (fun i => (lookup s.jobs i).isNone) with
  | some i => some i
  | none => (List.range 4096).find? (fun i => !(s.job i).live && (s.job i).evbuf.isEmpty)
/-- Root tag: that of another job under the same root, else one that no job bears. -/
def State.rootTag (s : State) (part : Nat) (root : BitVec 40) : Nat :=
  match s.jobs.find? (fun e => e.2.live && e.2.part == part && e.2.root == root) with
  | some e => e.2.rtag
  | none => s.freeTag
/-- The refusals of R298 and R321, of a partition that is not in RUN (R353), of a root under which a job of another partition runs (R15), and of a
window that the die has no segments for (log 69). -/
def State.jobOk (s : State) (part : Nat) (d : JobDesc) (root : BitVec 40) : Bool :=
  let p := s.part part
  p.tdisp == .run && d.rmask &&& ~~~ p.coreMask d.rdie d.rhalf == 0 && (d.dc == 0 || deadlineOk p d) &&
  !(d.ckp != 0 && s.jobs.any (fun e => e.2.live && e.2.root == root && e.2.jd.ckp != 0)) &&
  !(s.jobs.any (fun e => e.2.live && e.2.root == root && e.2.part != part)) &&
  (s.allocComb d.rdie d.nw).length == d.nw
/-- A job's save region in its die's HBM, if its partition's share has room (R313; log 70). -/
def State.findSave (s : State) (j : Job) : Option Nat := s.spareHbm j.part j.jd.rdie j.saveSize 4096 s.inUse
/-- Admit a job of a queue; none if refused, also where no slot is free (log 69). Its slot is the queue's latest (R294). -/
def State.admitJob (s : State) (q : Nat) (tag : Word) (w : List DWord) (root : BitVec 40) : Option (State × Nat) :=
  let d := JobDesc.ofWords w
  let qu := s.queue q
  if !jdOk w || !s.jobOk qu.part d root then none
  else match s.freeSlot with
    | none => none
    | some i =>
      let t := s.passTime
      let c : Cluster := { st := .waiting, entry := t.timer.toNat, placedAt := 0 }
      let jb : Job := { Job.dead with
        live := true, jd := d, part := qu.part, queue := q, tag := tag, root := root, rtag := s.rootTag qu.part root, st := .queued,
        clusters := List.replicate (d.nT / d.cs) c, admitted := t.timer.toNat, combSegs := s.allocComb d.rdie d.nw }
      let u : State := { t.setJob i { jb with saveAt := s.findSave jb } with
        queues := t.queues.map (fun e => (e.1, { e.2 with jobs := e.2.jobs.filter (fun k => k != i) })) }
      some ({ u.setQueue q { qu with jobs := (u.queue q).jobs ++ [i] } with agenda := t.agenda ++ [Instr.jsbUpdate i] }, i)

/-! ## Cores -/

/-- Cores held by the teams of clusters, with job and cluster. -/
def State.heldCores (s : State) : List ((Nat × Nat) × Nat × Nat) :=
  s.jobs.flatMap (fun e => ((List.range e.2.clusters.length).zip e.2.clusters).flatMap (fun c =>
    if c.2.holds then ((s.teamsIn e.1 c.1).flatMap s.coresOf).map (fun x => (x, e.1, c.1)) else []))
def resKey (die core : Nat) : Nat := die * 128 + core
/-- A cluster's name in a reservation, and that of all clusters of an accepted deadline job. -/
def resOf (j c : Nat) : Nat := j * 4096 + c
def resAll (j : Nat) : Nat := j * 4096 + 4095
/-- A reservation is held for a cluster. -/
def resFor (r : Nat) (h : Nat × Nat) : Bool := r == resOf h.1 h.2 || r == resAll h.1
/-- Core sets that one team of the job may take in its region: single cores, or pairs. -/
def JobDesc.seats (d : JobDesc) : List (List Nat) :=
  let l := (lanesOf d.rmask).map (fun i => d.rhalf * 64 + i)
  if d.pr then (l.filter (fun c => c % 2 == 0)).map (fun c => [c, c + 1]) else l.map (fun c => [c])
/-- Seats that are free under a list of held cores and not reserved for another cluster. -/
def State.freeSeats (s : State) (held : List (Nat × Nat)) (j c : Nat) : List (List Nat) :=
  let d := (s.job j).jd
  d.seats.filter (fun seat => seat.all (fun core =>
    !held.contains (d.rdie, core) && (match lookup s.reserved (resKey d.rdie core) with | some r => resFor r (j, c) | none => true)))
/-- Teams that the cluster is to place: those saved, or all. -/
def State.teamsToPlace (s : State) (j c : Nat) : List Nat :=
  match s.clusterOf j c with
  | some x => if x.st == .saved then (s.teamsIn j c).map (fun tk => tk % 65536)
    else (List.range (s.job j).jd.cs).map (fun i => c * (s.job j).jd.cs + i)
  | none => []
/-- choose(H) (R302). -/
def State.choose (s : State) (held : List (Nat × Nat)) (j c : Nat) : Option (List (List Nat)) :=
  let l := s.freeSeats held j c
  let n := (s.teamsToPlace j c).length
  if l.length < n then none else some (l.take n)

/-! ## Launch (R122, R126) and restore (R309, R326) -/

/-- Where a group of a team sits. -/
def JobDesc.placeOf (d : JobDesc) (die core q : Nat) : Place :=
  if d.pr then { die := die, core := core + q % 2, sail := q / 2 % 4 } else { die := die, core := core, sail := q % 4 }
def State.nextAge (s : State) : Nat := s.groups.foldl (fun m e => if m ≤ e.2.age then e.2.age + 1 else m) 0
/-- The lowest group slot of a sail that no group of a cluster on its cores has, but for some groups that are yet to be seated (R115, R122). -/
def State.freeGs (s : State) (p : Place) (yet : List Nat) : Nat :=
  ((List.range 16).find? (fun i => !(s.groups.any (fun e =>
    e.2.live && e.2.place == p && e.2.slot == i && s.teamHolds e.2.job e.2.team && !yet.contains e.1)))).getD 0
/-- A group at launch (R126); FMI's bits above those of FMODE are not kept (R277). -/
def launchGroup (d : JobDesc) (j team q : Nat) (p : Place) (age : Nat) (entry : VAddr) (arg : DWord) : Group :=
  let w := d.width
  { Group.dead with
    live := true, job := j, team := team, q := q, place := p, width := w, vr := d.vr * 32,
    lanes := List.replicate w { Lane.dead with pc := entry, st := .run }, xm := maskBelow w, s := setD 0 [] 1 arg, fmode := d.fmi &&& 0x1FFFF,
    rp := w - 1, last := w - 1, age := age }
/-- Start the groups of a team. -/
def State.launchGroups (s : State) (j team : Nat) (entry : VAddr) (arg : DWord) : State :=
  let d := (s.job j).jd
  let t := s.team (tkey j team)
  let age := s.nextAge
  (List.range d.gpt).foldl (fun (u : State) q =>
    let p := d.placeOf t.die t.core q
    u.setGroup (gkey j team q) { launchGroup d j team q p age entry arg with slot := u.freeGs p [] }) s
def State.launchTeam (s : State) (j team core : Nat) : State :=
  let d := (s.job j).jd
  (s.setTeam (tkey j team) { Team.dead with live := true, die := d.rdie, core := core }).launchGroups j team d.entry (d.argp.setWidth 64)
/-- Insert a group key by age rank, then key. -/
def insAge (s : State) (k : Nat) : List Nat → List Nat
  | [] => [k]
  | x :: l => if (s.group k).age < (s.group x).age ∨ ((s.group k).age = (s.group x).age ∧ k < x) then k :: x :: l else x :: insAge s k l
/-- A saved team is placed on a core; `yet`: groups of the cluster that are yet to be seated. -/
def State.seatTeam (s : State) (j team core : Nat) (yet : List Nat) : State :=
  let d := (s.job j).jd
  let tk := tkey j team
  let t := s.setTeam tk { s.team tk with die := d.rdie, core := core }
  (t.groupsOf tk).foldl (fun (u : State) k =>
    let p := d.placeOf d.rdie core (u.group k).q
    u.setGroup k { u.group k with place := p, slot := u.freeGs p (yet.dropWhile (fun x => x != k)) }) t
/-- Groups restored together take their places in age order by their saved ranks. -/
def State.rankRestored (s : State) (ks : List Nat) : State :=
  let l := ks.foldl (fun l k => insAge s k l) []
  let a := s.nextAge
  (l.mapIdx (fun i k => (i, k))).foldl (fun (t : State) e => t.setGroup e.2 { t.group e.2 with age := a + e.1 }) s
/-- Place a cluster's teams on seats, in order: launched, or restored with all that resumes. -/
def State.placeCluster (s : State) (j c : Nat) (cores : List Nat) : State :=
  let saved : Bool := match s.clusterOf j c with | some x => x.st == ClState.saved | none => false
  let teams := s.teamsToPlace j c
  let t := s.passTime
  let jb := t.job j
  let t1 := t.setJob j { jb with
    clusters := jb.clusters.mapIdx (fun i (x : Cluster) => if i = c then { x with st := ClState.placed, placedAt := t.timer.toNat } else x) }
  let t2 := if jb.st == .running then t1 else t1.setJst j .running
  let pairs := teams.zip cores
  let yet := t2.groupsIn (teams.map (fun team => tkey j team))
  let t3 := if saved then pairs.foldl (fun (u : State) (e : Nat × Nat) => u.seatTeam j e.1 e.2 yet) t2
    else pairs.foldl (fun (u : State) (e : Nat × Nat) => u.launchTeam j e.1 e.2) t2
  let t4 := { t3 with reserved := t3.reserved.filter (fun e => e.2 != resOf j c),
                      boot := { t3.boot with idle := t3.boot.idle.filter (fun d => d != jb.jd.rdie) } }
  if saved then
    let tks := t4.teamsIn j c
    let ks := t4.groupsIn tks
    let t5 := t4.setJob j { t4.job j with toff := (t4.job j).tlast - t4.timer, saved := remove (t4.job j).saved c }
    (t5.rankRestored ks).restartTeams true tks
  else t4

/-! ## The pass (R302 to R305) -/

/-- A cluster waits for placement: never placed, or saved with its image in place. -/
def Job.waits (j : Job) (c : Nat) (st : ClState) : Bool :=
  match j.clusters[c]? with
  | some x => x.st == st && (st == .waiting || (lookup j.saved c).isSome)
  | none => false
/-- The lowest saved cluster of a job, or else the lowest that was never placed. -/
def Job.nextCluster (j : Job) : Option Nat :=
  let find := fun (st : ClState) => (List.range j.clusters.length).find? (fun c => j.waits c st)
  match find .saved with
  | some c => some c
  | none => find .waiting
/-- The earliest admitted job of a queue that has a cluster waiting; a held job does not wait for placement. -/
def State.headJob (s : State) (q : Nat) : Option Nat :=
  (s.queue q).jobs.find? (fun j => (s.job j).live && !(s.job j).held && (s.job j).nextCluster.isSome)
/-- A queue's head cluster (R294): of its earliest admitted job with a cluster that waits, the lowest pre-empted, else the lowest
never placed. A job that waits at admission holds its queue. -/
def State.headOf (s : State) (q : Nat) : Option (Nat × Nat) :=
  match s.headJob q with
  | none => none
  | some j => if (s.job j).jd.dc != 0 && !(s.job j).accepted then none else (s.job j).nextCluster.map (fun c => (j, c))
def State.entryOf (s : State) (h : Nat × Nat) : Nat := match s.clusterOf h.1 h.2 with | some c => c.entry | none => 0
/-- Rank order of heads (R295). -/
def State.ranksBefore (s : State) (a b : Nat × Nat) : Bool :=
  let x := s.job a.1
  let y := s.job b.1
  if x.standing != y.standing then x.standing
  else if x.jd.pri ≠ y.jd.pri then decide (y.jd.pri < x.jd.pri)
  else if s.entryOf a ≠ s.entryOf b then decide (s.entryOf a < s.entryOf b)
  else decide (x.queue < y.queue)
def State.insHead (s : State) (h : Nat × Nat) : List (Nat × Nat) → List (Nat × Nat)
  | [] => [h]
  | x :: l => if s.ranksBefore h x then h :: x :: l else x :: s.insHead h l
/-- When held teams end, in ac of the device timer: placement time plus BRT; never without BRT (R303). -/
def State.endOf (s : State) (j c : Nat) : Option Nat :=
  if (s.job j).jd.brt = 0 then none else (s.clusterOf j c).map (fun x => x.placedAt * 7 + (s.job j).jd.brt * 1024)
/-- Insert in ascending order. -/
def insNat (n : Nat) : List Nat → List Nat
  | [] => [n]
  | x :: l => if n ≤ x then n :: x :: l else x :: insNat n l
/-- EW(B) in ac, and the seats that choose(B) takes then; none if never (R303). -/
def State.expectedWait (s : State) (h : Nat × Nat) : Option (Nat × List (List Nat)) :=
  let now := s.timer.toNat * 7
  let held := s.heldCores
  let times := (held.filterMap (fun e => s.endOf e.2.1 e.2.2)).foldl (fun l t => insNat (if t < now then now else t) l) []
  (now :: times).findSome? (fun t =>
    let left := held.filter (fun e => match s.endOf e.2.1 e.2.2 with | some x => decide (t < (if x < now then now else x)) | none => true)
    (s.choose (left.map (fun e => e.1)) h.1 h.2).map (fun l => (t - now, l)))
/-- Backfill is allowed on cores of a blocked head of higher rank only if it ends in time (R302). -/
def State.backfillOk (s : State) (h : Nat × Nat) (seats : List (List Nat)) (blocked : List (Nat × Nat)) : Bool :=
  let d := (s.job h.1).jd
  blocked.all (fun b =>
    let e := (s.job b.1).jd
    if e.rdie == d.rdie && seats.flatten.any (fun c => e.seats.any (fun x => x.contains c)) then
      d.brt != 0 && (match s.expectedWait b with | some w => decide (d.brt * 1024 ≤ w.1) | none => true)
    else true)
/-- reserve(H) (R304): a core already reserved keeps its reservation. -/
def State.reserve (s : State) (h : Nat × Nat) : State :=
  let d := (s.job h.1).jd
  let l := match s.expectedWait h with | some w => w.2.flatten | none => d.seats.flatten
  { s with reserved := l.foldl (fun (m : SMap Nat) c => if (lookup m (resKey d.rdie c)).isSome then m else mapInsert m (resKey d.rdie c) (resOf h.1 h.2)) s.reserved }
/-- A running cluster is pre-empted: its stop is requested. -/
def State.preempt (s : State) (j c : Nat) : State :=
  match s.clusterOf j c with
  | some x =>
    if x.st == .placed then
      let t := s.setCluster j c (fun x => { x with st := .stopping })
      if (t.job j).clusters.all (fun x => x.st != .placed) then t.setJst j .stopping else t
    else s
  | none => s
def Part.pthr (p : Part) : Nat := field p.rcd.sched.toNat 8 16
def Part.agl (p : Part) : Nat := field p.rcd.sched.toNat 24 16
/-- preempt_for(H) (R305). -/
def State.preemptFor (s : State) (h : Nat × Nat) : State :=
  let hj := s.job h.1
  let vs := (s.heldCores.filter (fun e => (match lookup s.reserved (resKey e.1.1 e.1.2) with | some r => resFor r h | none => false) && e.2 != h)).map (fun e => e.2)
  vs.eraseDups.foldl (fun (t : State) v =>
    let vj := t.job v.1
    if (hj.standing && !vj.standing) ||
        (decide (vj.jd.pri < hj.jd.pri) && decide (t.costAc v.1 ≤ (t.part hj.part).pthr * 1024)) then t.preempt v.1 v.2 else t) s
/-- The age limit of a head is reached (R302): the timer's ticks are 7 ac. -/
def State.aged (s : State) (h : Nat × Nat) : Bool :=
  decide ((s.part (s.job h.1).part).agl * 1024 ≤ (s.timer.toNat - s.entryOf h) * 7)
/-- A blocked head reserves once it is old enough, and a head with a reservation pre-empts for it. -/
def State.blockHead (s : State) (h : Nat × Nat) : State :=
  let mine := fun (t : State) => t.reserved.any (fun e => resFor e.2 h)
  let t := if s.aged h && !mine s then s.reserve h else s
  if mine t then t.preemptFor h else t
/-- A resume that is refused: nothing runs, and the host is told why (R326). A cluster that was to resume from its image no longer waits with it. -/
def State.refuseResume (s : State) (job reason : Nat) (iv : Word) : State :=
  let t := if (s.job job).offCores then s.setJst job .stopped else s
  t.postJob job 0x0C (s.job job).tag.toNat 0 (BitVec.ofNat 64 reason) (iv.setWidth 64)
/-- A head takes its cores; a saved cluster whose image is not whole resumes nowhere (R326). -/
def State.placeHead (s : State) (h : Nat × Nat) (cores : List Nat) : State :=
  let j := s.job h.1
  if j.waits h.2 .saved && !s.imageGood h.1 h.2 then
    (s.setJob h.1 { j with saved := remove j.saved h.2 }).refuseResume h.1 1 0
  else s.placeCluster h.1 h.2 cores
/-- The loop of the pass over ranked heads; `blocked` are the heads met before. -/
def State.passGo (s : State) (die : Nat) : Nat → List (Nat × Nat) → List (Nat × Nat) → State
  | 0, _, _ => s
  | _, [], _ => s
  | n + 1, h :: hs, blocked =>
    let fit := (s.choose (s.heldCores.map (fun e => e.1)) h.1 h.2).filter (fun l => s.backfillOk h l blocked)
    match fit with
    | some l =>
      let t := s.placeHead h (l.filterMap (fun x => x.head?))
      let next := match t.headOf (s.job h.1).queue with
        | some g => if (t.job g.1).jd.rdie == die then [g] else []
        | none => []
      t.passGo die n (next ++ hs) blocked
    | none => (s.blockHead h).passGo die n hs (blocked ++ [h])
/-- While a deadline class has no accepted job, a cluster on its cores is pre-empted once its save cost exceeds SCAP (R300). -/
def State.classPreempt (s : State) (die : Nat) : State :=
  let owed := s.parts.flatMap (fun p => (List.range 7).flatMap (fun i =>
    let e := (p.2.cls (i + 1)).toNat
    if bitAt e 63 && field e 61 2 == die && !(s.jobs.any (fun j => j.2.live && j.2.accepted && j.2.part == p.1 && j.2.jd.dc == i + 1)) then
      (s.heldCores.filter (fun x => x.1.1 == die && x.1.2 / 64 == field e 60 1 && bitAt (field e 64 64) (x.1.2 % 64) &&
        decide (field e 24 16 * 1024 < s.costAc x.2.1))).map (fun x => x.2)
    else []))
  owed.eraseDups.foldl (fun (t : State) v => t.preempt v.1 v.2) s
/-- The distributor's pass of a die (R302). -/
def State.pass (s : State) (die : Nat) : State :=
  let t := s.classPreempt die
  let heads := (t.queues.filterMap (fun e => t.headOf e.1)).filter (fun h => (t.job h.1).jd.rdie == die)
  let ranked := heads.foldl (fun l h => t.insHead h l) []
  t.passGo die (t.jobs.foldl (fun n e => n + e.2.clusters.length) heads.length) ranked []
def execCoreFree (die _core : Nat) (s : State) : Host.Outcome State Fault Refusal := .next (s.pass die)
/-- Every group of the cluster is at a restart point: the stop ends, and the distributor's pass runs (R301, R306, R311). -/
def execStopComplete (job cl : Nat) (s : State) : Host.Outcome State Fault Refusal :=
  ev (match s.clusterOf job cl with
    | some c =>
      let tks := s.teamsIn job cl
      if (s.job job).live && c.st == .stopping && !(s.job job).closing && s.teamsRest tks then
        some (((s.haltTeams tks).endStop job cl).pass (s.job job).jd.rdie)
      else none
    | none => none)
/-- The steps of a close. Delivered first when the previous record has streamed, it requests the stop; then the groups come to their restart points;
then, with everything performed that R312 names, it writes dirty lines of the set back; then it captures, freezes and resumes, or for a move leaves
the job stopped. A cluster whose stop has joined the close's has stopped with it. -/
def execCloseStop (job : Nat) (s : State) : Host.Outcome State Fault Refusal :=
  let j := s.job job
  ev (match j.close with
    | none => none
    | some c =>
      let tks := s.closeTeams job
      let dirty := s.dirtyInSet job
      if j.stream.isSome || !j.live then none
      else if !c.asked then some (s.setJob job { j with close := some { c with asked := true } })
      else if !c.halted then
        (if s.teamsRest tks then
          let t := s.haltTeams tks
          some (t.setJob job { t.job job with close := some { c with halted := true } })
        else none)
      else if !s.saveReady (s.groupsIn tks) then none
      else if dirty.any (fun e => !(s.l2line e.1 e.2).wb) then
        some ((dirty.filter (fun e => !(s.l2line e.1 e.2).wb)).foldl (fun (t : State) e => t.sendWb e) s)
      else if !dirty.isEmpty then none
      else
        let t := s.capture job c (s.groupsIn tks)
        let u := t.afterClose job tks
        some (if c.isMove then t.moveOut job tks else if j.clusters.any (fun x => x.st == .stopping) then u.pass j.jd.rdie else u))
/-- A time unit elapses: time has passed, and the pass ages the heads. -/
def execDistributorTimeUnit (die : Nat) (s : State) : Host.Outcome State Fault Refusal :=
  .next (({ s with timer := s.timer + 147 }).passTime.pass die)

/-! ## Deadline jobs (R299, R300) -/

/-- The cores of a job's region. -/
def JobDesc.coreKeys (d : JobDesc) : List Nat := (lanesOf d.rmask).map (fun i => resKey d.rdie (d.rhalf * 64 + i))
/-- Acceptance, of the job that its queue's head is: no accepted, unfinished deadline job has a core in common. Every core is reserved for all its
clusters; a head that loses a core loses its reservation, and reserves again in its next pass (R308); the clusters on them are pre-empted. -/
def execDeadlineAccept (job : Nat) (s : State) : Host.Outcome State Fault Refusal :=
  let j := s.job job
  let ks := j.jd.coreKeys
  ev (if !j.live || j.jd.dc = 0 || j.accepted || s.headJob j.queue != some job || s.jobs.any (fun e => e.2.live && e.2.accepted && e.2.jd.coreKeys.any (fun k => ks.contains k)) then none
    else
      let t := s.setJob job { j with accepted := true, standing := true }
      let lost := (t.reserved.filter (fun e => ks.contains e.1)).map (fun e => e.2)
      let u := { t with reserved := ks.foldl (fun (m : SMap Nat) k => mapInsert m k (resAll job)) (t.reserved.filter (fun e => !lost.contains e.2)) }
      let vs := (u.heldCores.filter (fun e => ks.contains (resKey e.1.1 e.1.2) && e.2.1 != job)).map (fun e => e.2)
      some ((vs.eraseDups.foldl (fun (t : State) v => t.preempt v.1 v.2) u).pass j.jd.rdie))
/-- The job has run past BRT: it ranks by PRI alone, and the overrun is reported. -/
def execDeadlineOverrun (job : Nat) (s : State) : Host.Outcome State Fault Refusal :=
  let j := s.job job
  ev (match j.clusters.find? (fun c => c.holds) with
    | none => none
    | some c =>
      if !j.live || !j.standing then none
      else
        let due := c.placedAt + (j.jd.brt * 1024 + 6) / 7
        let t := if s.timer.toNat < due then { s with timer := BitVec.ofNat 64 due } else s
        let u := t.setJob job { j with standing := false, ovr := true }
        let v := { u with reserved := u.reserved.filter (fun e => e.2 / 4096 != job), agenda := u.agenda ++ [Instr.jsbUpdate job] }
        some (v.postJob job 0x0B j.tag.toNat 0 0 0))

/-! ## The end of teams (R131, R308) -/

/-- Every group has ended and every copy of the team is complete. -/
def State.teamOver (s : State) (tk : Nat) : Bool :=
  (s.team tk).live && (s.groupsOf tk).isEmpty && !(s.copies.any (fun c => (s.group c.grp).tk == tk))
/-- A team without a chain is over: its cores free, and its cluster and job end with their last team. -/
def State.endTeam (s : State) (j team : Nat) : State :=
  let tk := tkey j team
  let cs := s.coresOf tk
  let c := team / (s.job j).jd.cs
  let t := (s.setTeam tk Team.dead).freeCores cs
  if (t.teamsIn j c).isEmpty then
    let u := t.setCluster j c (fun x => { x with st := .ended })
    if (u.job j).clusters.all (fun x => x.st == .ended) then
      (u.endJob j .ended).postJob j 0x02 (u.job j).tag.toNat 0 0 0
    else u
  else t
/-- A team ends: its successor starts in place with its memory, barriers, tiles and stones, or it is over. -/
def execTeamEnd (job team : Nat) (s : State) : Host.Outcome State Fault Refusal :=
  let tk := tkey job team
  let t := s.team tk
  ev (if !s.teamRuns job team || !s.teamOver tk then none
    else if t.chain.v then
      some ((s.setTeam tk { t with chain := Chain.clear, latches := [], mill := [] }).launchGroups job team t.chain.e t.chain.a)
    else some (s.endTeam job team))

/-! ## Resume (R307, R326, R328) -/

/-- Seats for a resumed cluster: as many as teams if free, else fewer with at most MTC teams each; teams are spread evenly. -/
def spread (mtc : Nat) (seats : List (List Nat)) (n : Nat) : Option (List Nat) :=
  let m := if n ≤ seats.length then n else seats.length
  if n = 0 then some []
  else if m = 0 ∨ mtc * m < n then none
  else some ((List.range n).map (fun i => ((seats.getD (i * m / n) []).head?).getD 0))
/-- Range-table entries of a job name a die and new segments in place of its old ones (R40). -/
def State.moveRanges (s : State) (job die : Nat) (old new : List Nat) : State :=
  { s with ranges := s.ranges.map (fun (e : RangeEnt) =>
      if e.js == job then { e with hd := die, seg := new.getD (old.findIdx (fun x => x == e.seg)) e.seg } else e) }
/-- The region is rewritten; on another die the comb window and its range-table entries move (R40, R318), and later saves go to that die's HBM
(R313); none if the die has no room for the window. -/
def State.moveRegion (s : State) (job die half : Nat) (mask : DWord) : Option State :=
  let j := s.job job
  let d := { j.jd with rdie := die, rhalf := half, rmask := mask }
  if die = j.jd.rdie then some (s.setJob job { j with jd := d })
  else
    let segs := s.allocComb die j.jd.nw
    if segs.length ≠ j.jd.nw then none
    else
      let n := { j with jd := d, combSegs := segs, saveAt := none }
      some ((s.moveRanges job die j.combSegs segs).setJob job { n with saveAt := (s.setJob job n).findSave n })
/-- The key slots of the partition that the resume reads under are loaded. -/
def State.keysOk (s : State) (job : Nat) (leaves : List (Nat × DWord)) : Bool :=
  let p := (s.job job).part
  s.keyOk (s.part p).skid.toNat p && leaves.all (fun e => s.keyOk (pteKid e.2).toNat p)
/-- The chain of a record, oldest first; none if a predecessor is missing. -/
def chainOf (log : List Record) (r : Record) : Nat → Option (List Record)
  | 0 => none
  | n + 1 =>
    if r.kind = 0 ∨ r.kind = 2 then some [r]
    else match log.find? (fun x => x.complete && x.dig == r.pred) with
      | none => none
      | some p => (chainOf log p n).map (fun l => l ++ [r])
/-- Level and entries of a leaf of a size (R19). -/
def leafLevel (size : Nat) : Nat := if size < 2 ^ 21 then 0 else if size < 2 ^ 30 then 1 else 2
/-- The entry of an address at a level, or the last on the way to it. -/
def State.reachEntry (s : State) (kid : BitVec 6) (va target : Nat) : Nat → Nat → Nat × Nat
  | level, frame =>
    let ent := frame * 4096 + vaIndex level va * 8
    if level = target then (level, ent)
    else match level with
      | 0 => (0, ent)
      | l + 1 =>
        let e := s.entry kid ent
        if pteV e && !pteLf e && tableOk e then s.reachEntry kid va target l (pteFn e) else (l + 1, ent)
/-- Map a leaf at its level, in every entry of its run; a missing table takes a frame of the partition's share, zeroed. The first number bounds the
levels; none if no frame is free. -/
def State.mapLeaf (s : State) (job : Nat) (e : MapEnt) : Nat → List (Nat × Nat) → Option (State × List (Nat × Nat))
  | 0, _ => none
  | n + 1, used =>
    let j := s.job job
    let w := s.reachEntry (s.skidOf job) e.va (leafLevel e.size) 4 j.root.toNat
    if w.1 = leafLevel e.size then
      let k := runLen w.1 e.leaf
      some ((List.range k).foldl (fun (t : State) i => t.putEntry job (w.2 / (8 * k) * (8 * k) + 8 * i) e.leaf) s, used)
    else match s.spareHbm j.part j.jd.rdie 4096 4096 used with
      | none => none
      | some a => ((s.zeroFrame job (a / 4096)).putEntry job w.2 (BitVec.ofNat 64 (a / 4096 * 2 ^ 20 + 1))).mapLeaf job e n ((a, a + 4096) :: used)
/-- The pages of a record's map take frames of the partition's HBM share on the die of the placement (R326), mapped as they were; with the leaves
that name them. -/
def State.mapPages (s : State) (job : Nat) : List MapEnt → List (Nat × Nat) → Option (State × List MapEnt)
  | [], _ => some (s, [])
  | e :: l, used =>
    let j := s.job job
    match s.spareHbm j.part j.jd.rdie e.size e.size used with
    | none => none
    | some a =>
      let x := { e with leaf := BitVec.ofNat 64 (e.leaf.toNat - pteFn e.leaf * 2 ^ 20 + a / 4096 * 2 ^ 20) }
      match s.mapLeaf job x 6 ((a, a + e.size) :: used) with
      | none => none
      | some (t, u) => ((t.dropTlb j.rtag e.va).mapPages job l u).map (fun r => (r.1, x :: r.2))
/-- Where the new map puts a line that a record's map had at an address: its address and key id. -/
def newPlace (old new : List MapEnt) (pa : Nat) : Option (Nat × BitVec 6) :=
  (old.find? (fun e => decide (pteFn e.leaf * 4096 ≤ pa) && decide (pa < pteFn e.leaf * 4096 + e.size))).bind (fun e =>
    let va := e.va + (pa - pteFn e.leaf * 4096)
    (new.find? (fun m => decide (m.va ≤ va) && decide (va < m.va + m.size))).map (fun m => (pteFn m.leaf * 4096 + (va - m.va), pteKid m.leaf)))
/-- A unit's bytes go to the frames that the new map gives for their addresses, under the leaves' keys. -/
def State.putUnit (s : State) (old new : List MapEnt) (e : Nat × List Byte) : State :=
  (List.range 16).foldl (fun (t : State) i =>
    match newPlace old new (e.1 * 65536 + 4096 * i) with
    | some p => t.storeRange p.2 p.1 ((e.2.drop (4096 * i)).take 4096)
    | none => t) s
/-- The units of a record, with the poison marks that its lines bore. -/
def State.putRecord (s : State) (new : List MapEnt) (x : Record) : State :=
  let t := x.units.foldl (fun (u : State) e => u.putUnit x.pages new e) s
  { t with poison := x.bad.foldl (fun m la => match newPlace x.pages new (la * 128) with | some p => setD false m (p.1 / 128) true | none => m) t.poison }
/-- The context and pages of a chain of records: the context of the last, each unit of the newest that holds it, in new frames; range-table entries
of the job name its new window (R40). Its clusters then wait as saved, with no image to read back. None where the die's share, or its comb, has no
room. -/
def State.applyChain (s : State) (job : Nat) (l : List Record) (r : Record) : Option State :=
  let im := r.img
  let j := s.job job
  let segs := (s.setJob job { j with combSegs := [] }).allocComb j.jd.rdie im.jd.nw
  let n : Job := { j with
    live := true, jd := { im.jd with rdie := j.jd.rdie, rhalf := j.jd.rhalf, rmask := j.jd.rmask }, next := im.next, iv := im.iv, opn := im.opn,
    tlast := im.tlast, bpm := im.bpm, dbgctl := im.dbgctl, cot := im.cot, ckdig := r.dig, full := true, comb := im.comb, tags := im.tags,
    clusters := im.clusters.map (fun c => if c.holds then { c with st := .saved } else c), close := none, stream := none, todo := [],
    held := false, combSegs := segs, saveAt := none, saved := [] }
  let s1 := (s.moveRanges job j.jd.rdie j.combSegs segs).setJob job n
  let s2 : State := { s1 with
    groups := im.groups.foldl (fun m e => mapInsert m e.1 e.2) (s1.groups.filter (fun e => e.2.job != job)),
    teams := im.teams.foldl (fun m e => mapInsert m e.1 e.2) (s1.teams.filter (fun e => e.1 / 65536 != job)),
    copies := s1.copies.filter (fun c => (s.group c.grp).job != job) ++ im.copies, hops := s1.hops.filter (fun h => (s.group h.grp).job != job) ++ im.hops,
    pend := s1.pend.filter (fun a => (s.group a.grp).job != job) ++ im.pend }
  if segs.length ≠ im.jd.nw then none
  else (s2.mapPages job r.pages s2.inUse).map (fun p =>
    let t := l.foldl (fun (t : State) x => t.putRecord p.2 x) p.1
    let c := t.job job
    let wait := (List.range c.clusters.length).filter (fun i => match c.clusters[i]? with | some x => x.st == .saved | none => false)
    t.setJob job { c with saveAt := t.findSave c, saved := wait.map (fun i => (i, (0, []))) })
/-- Place the lowest saved cluster of a job in its region. -/
def State.seatSaved (s : State) (job : Nat) : Option State :=
  let j := s.job job
  match (List.range j.clusters.length).find? (fun c => j.waits c .saved) with
  | none => none
  | some c => (spread j.jd.mtc (s.freeSeats (s.heldCores.map (fun e => e.1)) job c) (s.teamsToPlace job c).length).map (fun l => s.placeHead (job, c) l)
/-- The bytes of a record in its log pages, read under the partition's system key: none if a page is missing or not sealed (R91, R326). -/
def State.logBytes (s : State) (job : Nat) (r : Record) : Option (List Byte) :=
  if r.keys.all (fun k => match lookup s.records k with | some p => p.v && p.sl | none => false) then
    some (r.keys.flatMap (fun k => match lookup s.records k with
      | some p => s.rangeBytes (s.skidOf job) (p.bfn.toNat * 4096) p.ct
      | none => []))
  else none
/-- Why a chain of records is refused (R326): 3 a page is missing, 2 a digest does not match, 1 a section is not well formed, 4 a key. -/
def State.chainRefused (s : State) (job : Nat) (l : List Record) (r : Record) : Option Nat :=
  let part := (s.job job).part
  if !s.keysOk job (r.pages.map (fun e => (e.va, e.leaf))) then some 4
  else if l.any (fun x => (s.logBytes job x).isNone) then some 3
  else if l.any (fun x => s.logBytes job x != some (x.bytes job part ++ Record.trailer x.dig (x.bytes job part).length) || x.digest job part != x.dig) then some 2
  else if l.any (fun x => !sectionsOk (x.ctx.length + 1) x.ctx) then some 1
  else none
/-- RESUME: the coordinator names a die, half and cores of the partition. A job with a saved context resumes from it; any other
job resumes from its last complete record and the chain that record names. -/
def execResume (job die half : Nat) (mask : DWord) (s : State) : Host.Outcome State Fault Refusal :=
  let j := s.job job
  let p := s.part j.part
  ev (if mask &&& ~~~ p.coreMask die half != 0 || mask = 0 || (j.jd.pr && oddPair mask) || j.held || decide (4 ≤ die) || decide (2 ≤ half) then none
    else if j.live && (List.range j.clusters.length).any (fun c => j.waits c .saved) then
      if die != j.jd.rdie && !j.offCores then none
      else if !s.keysOk job [] then some (s.refuseResume job 4 0)
      else (s.moveRegion job die half mask).bind (fun t => t.seatSaved job)
    else if j.live && j.st != .stopped then none
    else match (j.log.filter (fun r => r.complete)).getLast? with
      | none => none
      | some r =>
        match chainOf j.log r (j.log.length + 1) with
        | none => some (s.refuseResume job 3 r.iv)
        | some l =>
          match s.chainRefused job l r with
          | some why => some (s.refuseResume job why r.iv)
          | none =>
            let t := s.setJob job { j with jd := { j.jd with rdie := die, rhalf := half, rmask := mask } }
            (t.applyChain job l r).bind (fun u => u.seatSaved job))

end Sys2Proof.Machine
end

