-- ==== Sys2Proof/Machine/Packets.lean ====
section
/-!
DEFINITION. The command processor: queues, packets, look-ahead (R335 to R340), doorbells (R345), event rings (R341, R342).
-/

namespace Sys2Proof.Machine

/-! ## Words of a queue -/

/-- The key id under which Nolelavin reads or writes a partition's system data (R47). -/
def State.fwKid (s : State) (part pa : Nat) : BitVec 6 := if keyed pa then (s.part part).skid else 0
/-- An address lies in a frame of a partition: its HBM frames, an enabled pool decoder, or host memory. -/
def State.assigned (s : State) (part pa : Nat) : Bool :=
  match regionOf pa with
  | .hbm => (s.part part).rcd.frames.any (fun f => decide (f.1 ≤ pa / 4096) && decide (pa / 4096 < f.2))
  | .pool => !s.poolDark (pa / 128)
  | .host => true
  | _ => false
def State.fwRead (s : State) (part pa n : Nat) : Nat := s.numNow (s.fwKid part pa) pa n
def State.fwWrite (s : State) (part pa : Nat) (bs : List Byte) : State :=
  s.poke (s.fwKid part pa) pa bs
/-- Address of ring word `p` (R335). -/
def Queue.wordAt (q : Queue) (p : Nat) : Nat := q.rbf * 4096 + 8 * (p % 2 ^ q.rsz)
/-- Where the queue's next packet stands: addresses of words follow one another in a buffer, and modulo the ring in the ring. -/
def Queue.addr (q : Queue) (i : Nat) : Nat := match q.buf with | b :: _ => b.1 + 8 * i | [] => q.wordAt (q.ip + i)
/-- Words that may be read: to the end of a buffer, or to the doorbell. -/
def Queue.left (q : Queue) : Nat := match q.buf with | b :: _ => b.2 | [] => (q.db + 2 ^ 32 - q.ip) % 2 ^ 32
/-- Word `i` of the packet at hand: a word read ahead, or memory now, as the look-ahead stage happened to read it (R338). -/
def State.qword (s : State) (q i : Nat) : DWord :=
  let x := s.queue q
  let a := x.addr i
  let now : DWord := BitVec.ofNat 64 (s.fwRead x.part a 8)
  match x.look.find? (fun e => e.1 == a) with
  | some e => if Config.choice (s.free + i) % 2 = 1 then e.2 else now
  | none => now
/-- Words that the look-ahead stage may read, packet after packet: from the buffers of CALLs under way (address and words left), the
innermost first, else from the ring (pointer and words left), into the buffer of each CALL, back at its end or at a RET, up to a JOIN. -/
def State.lookGo (s : State) (x : Queue) : Nat → List (Nat × Nat) → Nat → Nat → List Nat
  | 0, _, _, _ => []
  | k + 1, buf, p, left =>
    let inBuf := !buf.isEmpty
    let at_ := buf.headD (0, left)
    if at_.2 = 0 then (if inBuf then s.lookGo x k (buf.drop 1) p left else [])
    else
      let word := fun i => if inBuf then at_.1 + 8 * i else x.wordAt (p + i)
      let h := s.fwRead x.part (word 0) 8
      let n := min (field h 48 8 + 1) at_.2
      let ws := (List.range n).map word
      let after := if inBuf then (at_.1 + 8 * n, at_.2 - n) :: buf.drop 1 else []
      let p1 := if inBuf then p else p + n
      let left1 := if inBuf then left else left - n
      let ty := field h 56 8
      if ty = 4 || ty = 3 && !inBuf then ws
      else if ty = 3 then ws ++ s.lookGo x k (buf.drop 1) p1 left1
      else if ty = 2 then
        let callee := (s.fwRead x.part (word 1) 8 % 2 ^ 52 / 8 * 8, min (s.fwRead x.part (word 2) 8 % 2 ^ 32) 1024)
        ws ++ s.lookGo x k (callee :: after) p1 left1
      else ws ++ s.lookGo x k after p1 left1
/-- The words from the packet at hand on, up to 1,024. A CALL under way stands at the ring's pointer until it returns. -/
def State.ahead (s : State) (x : Queue) : List Nat :=
  let p := if x.buf.isEmpty then x.ip else x.ip + 3
  (s.lookGo x 1024 x.buf p ((x.db + 2 ^ 32 - p % 2 ^ 32) % 2 ^ 32)).take 1024
/-- The look-ahead stage reads: each word may be read now, or keep what was read before. -/
def State.lookAhead (s : State) (q : Nat) : State :=
  let x := s.queue q
  let l := s.ahead x
  let look := l.mapIdx (fun i a => match x.look.find? (fun e => e.1 == a) with
    | some e => if Config.choice (s.free + i) % 2 = 1 then e else (a, (BitVec.ofNat 64 (s.fwRead x.part a 8) : DWord))
    | none => (a, (BitVec.ofNat 64 (s.fwRead x.part a 8) : DWord)))
  { s.setQueue q { x with look := look } with free := s.free + l.length }
/-- A word ahead has changed since it was read, or has not been read: the look-ahead stage may read. -/
def State.mayLook (s : State) (q : Nat) : Bool :=
  let x := s.queue q
  x.qs == 1 && x.left != 0 && (s.ahead x).any (fun a => match x.look.find? (fun e => e.1 == a) with
    | some e => e.2 != BitVec.ofNat 64 (s.fwRead x.part a 8)
    | none => true)
/-- The look-ahead stage at work between two steps (R338). -/
def lookMove (q : Nat) (s : State) : Host.Outcome State Fault Refusal := ev (if s.mayLook q then some (s.lookAhead q) else none)
/-- What was read of packets now processed is of no more use. -/
def State.trimLook (s : State) (q : Nat) : State :=
  let x := s.queue q
  if x.look.isEmpty then s else
    let l := s.ahead x
    s.setQueue q { x with look := x.look.filter (fun e => l.contains e.1) }

/-! ## Event rings (R341, R342) -/

/-- Nolelavin reads ERD: the host may have consumed any of the records written (a free value). -/
def State.readErd (s : State) (part ring : Nat) : State :=
  let r := s.ring part ring
  let n := (r.ewr - r.erd).toNat
  (s.setRing part ring { r with erd := r.erd + BitVec.ofNat 32 (Config.choice s.free % (n + 1)) }).spend
/-- Write one record to a ring with space, and advance EWR as a release. -/
def State.writeRecord (s : State) (part ring : Nat) (e : EvRec) : State :=
  let r := s.ring part ring
  (s.fwWrite part (r.ebf.toNat * 4096 + 32 * (r.ewr.toNat % r.size)) (toBytes 32 e.toNat)).setRing part ring { r with ewr := r.ewr + 1 }
/-- An EVSIG entry that waits for a ring, with its job. -/
def State.evsigFor (s : State) (part ring : Nat) : Option (Nat × (Word × DWord × Nat × Nat)) :=
  s.jobs.findSome? (fun e => if e.2.part == part && (s.queue e.2.queue).evr == ring then e.2.evbuf.head?.map (fun x => (e.1, x)) else none)
/-- Nolelavin reads ERD and, if the ring has space, writes the next record: deferred errors before any other. Nothing is written for a partition in ERROR (R355). -/
def execEventRecordPost (part ring : Nat) (s0 : State) : Host.Outcome State Fault Refusal :=
  let s := s0.readErd part ring
  let r := s.ring part ring
  ev (if (s.part part).tdisp == .error then none
    else if r.full then some s
    else if r.latched != 0 then
      some ((s.setRing part ring { r with latched := 0 }).writeRecord part ring (evRecord 0x07 0 part 0 0 0 (BitVec.ofNat 64 r.latched) 0))
    else match r.wait with
      | e :: l => some ((s.setRing part ring { r with wait := l }).writeRecord part ring e)
      | [] =>
        match s.evsigFor part ring with
        | some (j, (code, v, team, gi)) =>
          let jb := s.job j
          let t := s.setJob j { jb with evbuf := jb.evbuf.drop 1 }
          some (t.writeRecord part ring (evRecord 0x04 jb.queue part code.toNat j team v (BitVec.ofNat 64 gi)))
        | none => none)

/-! ## Packet errors and progress (R336, R337) -/

/-- Change fields of the live QCB and commit. -/
def State.setQcb (s : State) (q : Nat) (f : BitVec 512 → BitVec 512) : State :=
  let x := s.queue q
  s.setQueue q (x.commit (f x.qcb))
/-- A packet error halts the queue in state error; it is reported, or latched where the ring is full (R337, R342). -/
def State.packetError (s : State) (q code : Nat) (tag : Nat) : State :=
  let x := s.queue q
  let t := s.setQcb q (fun b => setFld (setFld (setFld b 376 8 code) 344 32 x.ip) 320 3 3)
  let u := t.readErd x.part x.evr
  let r := u.ring x.part x.evr
  if r.full then u.setRing x.part x.evr { r with ovf := r.ovf + 1, latched := r.latched + 1 }
  else u.post x.part x.evr (evRecord 0x01 q x.part tag 0 0 (BitVec.ofNat 64 (code * 2 ^ 56 + x.ip * 2 ^ 24)) 0)
/-- A return: to the word after the CALL, in the ring or in the outer buffer. -/
def State.popCall (s : State) (q : Nat) : State :=
  let x := s.queue q
  let t := s.setQueue q { x with buf := x.buf.drop 1 }
  t.setQcb q (fun b =>
    let c := setFld b 182 2 (x.dep - 1)
    if x.dep = 1 then setFld (setFld c 96 32 ((x.ip + 3) % 2 ^ 32)) 192 64 0 else setFld c 256 64 0)
/-- The outer buffer may end with the CALL. -/
def State.popIfEnd (s : State) (q : Nat) : State :=
  match (s.queue q).buf with | b :: _ => if b.2 = 0 then s.popCall q else s | [] => s
/-- Go on after a packet of `n` words; a buffer that ends returns. -/
def State.goOn (s : State) (q n : Nat) : State :=
  let x := s.queue q
  match x.buf with
  | [] => s.setQcb q (fun b => setFld b 96 32 ((x.ip + n) % 2 ^ 32))
  | b :: l =>
    let t := s.setQueue q { x with buf := (b.1 + 8 * n, b.2 - n) :: l }
    if b.2 ≤ n then (t.popCall q).popIfEnd q else t
/-- What every packet goes through: the queue runs, its words are there, TYPE and NW. `f` gives the action of a good packet. -/
def State.packet (s : State) (q ty nw : Nat) (f : DWord → Option State) : Option State :=
  let x := s.queue q
  let h := s.qword q 0
  let t := field h.toNat 56 8
  if x.qs ≠ 1 then none
  else if x.buf.isEmpty ∧ 2 ^ x.rsz < x.left then some (s.packetError q 0x09 0)
  else if x.left = 0 then none
  else if 9 < t then some (s.packetError q 0x01 (field h.toNat 0 32))
  else if t ≠ ty then none
  else if ty ≠ 0 ∧ field h.toNat 48 8 ≠ nw then some (s.packetError q 0x02 (field h.toNat 0 32))
  else if x.left ≤ field h.toNat 48 8 then none
  else (f h).map (fun u => ({ u with free := u.free + 4 } : State).trimLook q)
/-- An address of a packet: 8-byte aligned in a frame of the partition. -/
def State.addrOk (s : State) (q a : Nat) : Bool := a % 8 == 0 && s.assigned (s.queue q).part a
def tagOf (h : DWord) : Nat := field h.toNat 0 32

/-! ## Packets -/

def execPacketNop (q : Nat) (s : State) : Host.Outcome State Fault Refusal :=
  ev (s.packet q 0 0 (fun h => some (s.goOn q (field h.toNat 48 8 + 1))))
/-- JOB: admitted or refused; an admitted job without a deadline class joins its distributor, which has it as an event. -/
def execPacketJob (q : Nat) (s : State) : Host.Outcome State Fault Refusal :=
  ev (s.packet q 1 2 (fun h =>
    let a := (s.qword q 1).toNat % 2 ^ 52
    let root : BitVec 40 := BitVec.ofNat 40 (field (s.qword q 2).toNat 12 40)
    if a % 128 != 0 || !s.addrOk q a || !s.assigned (s.queue q).part (root.toNat * 4096) then some (s.packetError q 0x03 (tagOf h))
    else
      let w := (List.range 16).map (fun i => (BitVec.ofNat 64 (s.fwRead (s.queue q).part (a + 8 * i) 8) : DWord))
      match s.admitJob q (h.setWidth 32) w root with
      | none => some (s.packetError q 0x04 (tagOf h))
      | some (t, i) =>
        let u := t.goOn q 3
        some (if (u.job i).jd.dc = 0 then u.pass (u.job i).jd.rdie else u)))
def execPacketCall (q : Nat) (s : State) : Host.Outcome State Fault Refusal :=
  ev (s.packet q 2 2 (fun h =>
    let a := (s.qword q 1).toNat % 2 ^ 52
    let n := (s.qword q 2).toNat % 2 ^ 32
    let x := s.queue q
    if !s.addrOk q a || n = 0 || decide (2 ^ 24 < n) || !s.assigned x.part (a + 8 * n - 1) then some (s.packetError q 0x03 (tagOf h))
    else if x.dep = 2 then some (s.packetError q 0x05 (tagOf h))
    else
      let ret := x.addr 3
      let outer := match x.buf with | b :: l => (b.1 + 24, b.2 - 3) :: l | [] => []
      let t := s.setQueue q { x with buf := (a, n) :: outer }
      some (t.setQcb q (fun b => setFld (setFld b 182 2 (x.dep + 1)) (if x.dep = 0 then 192 else 256) 64 ret))))
def execPacketRet (q : Nat) (s : State) : Host.Outcome State Fault Refusal :=
  ev (s.packet q 3 0 (fun h =>
    if (s.queue q).dep = 0 then some (s.packetError q 0x06 (tagOf h))
    else
      some ((s.popCall q).popIfEnd q)))
/-- JOIN: what the look-ahead stage has read is dropped; it reads afresh from here. -/
def execPacketJoin (q : Nat) (s : State) : Host.Outcome State Fault Refusal :=
  ev (s.packet q 4 0 (fun _ => let t := s.goOn q 1; some (t.setQueue q { t.queue q with look := [] })))
/-- The condition of a WAITV. -/
def waitvHolds (w x : Nat) (c : Nat) : Bool :=
  if c = 0 then w == x else if c = 1 then w != x else if c = 2 then decide (x ≤ w) else decide (w < x)
def State.waitvNow (s : State) (q : Nat) : Bool :=
  waitvHolds (s.fwRead (s.queue q).part ((s.qword q 1).toNat % 2 ^ 52) 8) (s.qword q 2).toNat ((s.qword q 3).toNat % 4)
/-- WAITV: processed once its condition has held; the read is an acquire. -/
def execPacketWaitv (q : Nat) (s : State) : Host.Outcome State Fault Refusal :=
  ev (s.packet q 5 3 (fun h =>
    if !s.addrOk q ((s.qword q 1).toNat % 2 ^ 52) then some (s.packetError q 0x03 (tagOf h))
    else if s.waitvNow q then some (s.goOn q 4) else none))
def execWaitvTimeout (q : Nat) (s : State) : Host.Outcome State Fault Refusal :=
  ev (s.packet q 5 3 (fun h =>
    if s.waitvNow q || field (s.qword q 3).toNat 32 32 = 0 then none else some (s.packetError q 0x07 (tagOf h))))
/-- SIGV: every job from earlier JOB packets of the queue has ended; a release. The words 2 and 3 of its event are open. -/
def execPacketSigv (q : Nat) (s : State) : Host.Outcome State Fault Refusal :=
  ev (s.packet q 6 3 (fun h =>
    let x := s.queue q
    let a := (s.qword q 1).toNat % 2 ^ 52
    let v := s.qword q 2
    let c := (s.qword q 3).toNat
    if !s.addrOk q a then some (s.packetError q 0x03 (tagOf h))
    else if x.jobs.any (fun j => (s.job j).live && (s.job j).queue == q) then none
    else
      let n := if bitAt c 0 then (s.fwRead x.part a 8 + v.toNat) % 2 ^ 64 else v.toNat
      let t := (s.fwWrite x.part a (toBytes 8 n)).goOn q 4
      some (if bitAt c 1 then (t.post x.part x.evr (evRecord 0x0A q x.part (tagOf h) 0 0 (Config.free64 (s.free + 4)) (Config.free64 (s.free + 5)))).spend.spend
        else t)))
/-- A job that a queue may name: live, launched from a queue of the same partition (R336). -/
def State.ownJob (s : State) (q j : Nat) : Bool := (s.job j).live && (s.job j).part == (s.queue q).part
def execPacketCkpt (q : Nat) (s : State) : Host.Outcome State Fault Refusal :=
  ev (s.packet q 7 1 (fun h =>
    let j := (s.qword q 1).toNat % 2 ^ 32
    let jb := s.job j
    if !s.ownJob q j || !(jb.jd.ckp == 1 || jb.jd.ckp == 2) then some (s.packetError q 0x08 (tagOf h))
    else some ((s.setJob j jb.ckRequest).goOn q 2)))
/-- PREEMPT: the job is stopped and held, or released to its distributor. -/
def execPacketPreempt (q : Nat) (s : State) : Host.Outcome State Fault Refusal :=
  ev (s.packet q 8 1 (fun h =>
    let w := (s.qword q 1).toNat
    let j := w % 2 ^ 32
    if !s.ownJob q j then some (s.packetError q 0x08 (tagOf h))
    else if bitAt w 32 then
      let t := s.setJob j { s.job j with held := false }
      some ((t.goOn q 2).pass (s.job j).jd.rdie)
    else
      let t := s.stopJob j true
      let u := if (t.job j).offCores then t.setJst j .stopped else t
      some (u.goOn q 2)))
def execPacketHalt (q : Nat) (s : State) : Host.Outcome State Fault Refusal :=
  ev (s.packet q 9 0 (fun _ => let t := s.goOn q 1; some (t.setQcb q (fun b => setFld b 320 3 2))))

/-! ## Queue service and doorbells (R337, R345) -/

/-- Bits of bytes 0x00 to 0x37 that are not reserved (R339). -/
def qcbMask : BitVec 512 :=
  BitVec.ofNat 512 (0xFFFFFFFFFF01F + 0xFFFFFFFFFFFFFFFF * 2 ^ 64 + 0xFFC0000000000FFF * 2 ^ 128 + 0xFFFFFFFFFFFFFFF8 * 2 ^ 192
    + 0xFFFFFFFFFFFFFFF8 * 2 ^ 256 + 0xFFFFFFFFFF000007 * 2 ^ 320)
/-- The host rewrites a QCB: bytes 0x00 to 0x37, for the queue and its partition, reserved bits zero (R7, R339). MMIO of a partition in ERROR
is discarded. -/
def execQcbRewrite (q : Nat) (words : List DWord) (s : State) : Host.Outcome State Fault Refusal :=
  let x := s.queue q
  ev (if words.length != 7 || (lookup s.queues q).isNone then none
    else if (s.part x.part).tdisp == .error then some s
    else
      let b : BitVec 512 := BitVec.ofNat 512 ((words.mapIdx (fun i w => w.toNat * 2 ^ (64 * i))).foldl (· + ·) 0) &&& qcbMask
      let c := setFld (setFld b 188 4 x.part) 128 12 q
      some (s.setQueue q { x.commit c with look := [], buf := [] }))
/-- The queue mapped to a thread (nqmap). -/
def Thread.queue? (t : Thread) : Option Nat := if t.nqmap.getLsbD 63 then some (t.nqmap.toNat % 4096) else none
def State.thread (s : State) (t : Nat) : Thread := getD Thread.reset s.threads t
def State.setThread (s : State) (t : Nat) (x : Thread) : State := { s with threads := mapInsert s.threads t x }
/-- x0 reads zero and ignores writes. -/
def Thread.xget (t : Thread) (r : Nat) : DWord := if r = 0 then 0 else getD 0 t.x r
def Thread.xset (t : Thread) (r : Nat) (v : DWord) : Thread := if r = 0 then t else { t with x := setD 0 t.x r v }
/-- A thread's instruction of `n` bytes is done. -/
def Thread.goOn (t : Thread) (n : Nat) : Thread := { t with pc := t.pc + BitVec.ofNat 64 n, minstret := t.minstret + 1 }
/-- A blocked WAITPKT whose wait is over returns the doorbell value. -/
def State.wakeThread (s : State) (t : Nat) : State :=
  let th := s.thread t
  match th.blocked, th.queue? with
  | some (rd, v), some q =>
    let db : DWord := BitVec.ofNat 64 (s.queue q).db
    if db != v || th.nevpend then s.setThread t { (th.xset rd.toNat db).goOn 4 with blocked := none } else s
  | _, _ => s
/-- The supervisor maps a queue to a thread of the command processor: a free one, else one whose queue is idle (R334). Which
free thread, and which idle queue is the one of longest standing, is a free choice (log 19). -/
def State.mapQueue (s : State) (q : Nat) : State :=
  let ts := (List.range 32).map (fun i => 32 + i)
  if ts.any (fun t => (s.thread t).queue? == some q) then s
  else
    let free := ts.filter (fun t => (s.thread t).queue?.isNone)
    let idle := ts.filter (fun t => match (s.thread t).queue? with | some x => (s.queue x).left == 0 | none => false)
    let l := if free.isEmpty then idle else free
    match l[Config.choice s.free % l.length]? with
    | some t => (s.setThread t { s.thread t with nqmap := BitVec.ofNat 64 (2 ^ 63 + q) }).spend
    | none => s
/-- A doorbell write takes effect for a queue of the function's partition in RUN; it is counted where the queue is another's,
and discarded before RUN and in ERROR (R345, R353, R355). -/
def execDoorbellWrite (fn slot : Nat) (v : Word) (s : State) : Host.Outcome State Fault Refusal :=
  let n := fn - 1
  let p := s.part n
  let q := slot
  ev (if fn = 0 || decide (16 < fn) || decide (4096 ≤ slot) then none
    else if p.tdisp != .run then some s
    else if !(p.rcd.queues.contains q) then some (s.setPart n { p with errs := p.errs + 1 })
    else
      let t := s.setQcb q (fun b => let c := setFld b 64 32 v.toNat; if (s.queue q).qs = 0 then setFld c 320 3 1 else c)
      let u := (t.lookAhead q).mapQueue q
      some (((List.range 32).map (fun i => 32 + i)).foldl (fun (w : State) th => if (w.thread th).queue? == some q then w.wakeThread th else w) u))

end Sys2Proof.Machine
end

