-- ==== Sys2Proof/Machine/Firmware.lean ====
section
/-!
DEFINITION. The Nolelavin threads: custom instructions, registers, watchdogs, loads and stores, exceptions (R331 to R333).
-/

namespace Sys2Proof.Machine

/-! ## Custom instructions (R332) -/

/-- The thread whose turn it is has executed: its turn is over. -/
def State.turnOver (s : State) (t : Nat) (x : Thread) : State := { s.setThread t x with turn := none }
/-- The thread whose turn it is. -/
def State.turnThread (s : State) : Nat := s.turn.getD 0
/-- WAITPKT. -/
def execWaitpkt (rd rs1 : BitVec 5) (s : State) : Host.Outcome State Fault Refusal :=
  let t := s.turnThread
  let th := s.thread t
  let v := th.xget rs1.toNat
  .next (match th.queue? with
    | none => s.turnOver t ((th.xset rd.toNat v).goOn 4)
    | some q =>
      let db : DWord := BitVec.ofNat 64 (s.queue q).db
      if db != v || th.nevpend then s.turnOver t ((th.xset rd.toNat db).goOn 4)
      else s.turnOver t { th with blocked := some (rd, v) })
/-- EVWAKE: a thread of the same core. -/
def execEvwake (rs1 : BitVec 5) (s : State) : Host.Outcome State Fault Refusal :=
  let t := s.turnThread
  let th := s.thread t
  let u := t / 32 * 32 + (th.xget rs1.toNat).toNat % 32
  let s1 := s.turnOver t (th.goOn 4)
  .next ((s1.setThread u { s1.thread u with nevpend := true }).wakeThread u)
/-- CRC32C over the 8 bytes of rs2, with no inversion. -/
def execCrc32c (rd rs1 rs2 : BitVec 5) (s : State) : Host.Outcome State Fault Refusal :=
  let t := s.turnThread
  let th := s.thread t
  let c := crcBytes ((th.xget rs1.toNat).setWidth 32) (toBytes 8 (th.xget rs2.toNat).toNat)
  .next (s.turnOver t ((th.xset rd.toNat (c.setWidth 64)).goOn 4))

/-! ## Registers and watchdogs (R333) -/

/-- Each write of nwdog reloads the watchdog; the reserved half is not kept. -/
def Thread.putNwdog (t : Thread) (v : DWord) : Thread := { t with nwdog := v &&& 0xFFFFFFFF, wleft := v &&& 0xFFFFFFFF }
/-- Writing 0 clears the bit; writing 1 changes nothing. -/
def Thread.putNevpend (t : Thread) (v : DWord) : Thread := if v.getLsbD 0 then t else { t with nevpend := false }
def execNwdogWrite (thread : Nat) (v : DWord) (s : State) : Host.Outcome State Fault Refusal :=
  .next (s.setThread thread ((s.thread thread).putNwdog v))
def execNevpendWrite (thread : Nat) (v : DWord) (s : State) : Host.Outcome State Fault Refusal :=
  .next (if v.getLsbD 0 then s else s.setThread thread ((s.thread thread).putNevpend v))
/-- A watchdog expires: the thread restarts at nentry. That of the supervisor is fatal (R343). -/
def execWatchdogExpiry (thread : Nat) (s : State) : Host.Outcome State Fault Refusal :=
  let th := s.thread thread
  ev (if th.nwdog = 0 then none
    else
      let x := { th with nwdcnt := if th.nwdcnt = 0xFFFFFFFF then th.nwdcnt else th.nwdcnt + 1, pc := th.nentry, blocked := none, wleft := th.nwdog, on := true }
      let t := s.setThread thread x
      let u := if s.turn = some thread then { t with turn := none } else t
      some (if thread = 0 then u.fatal 4 0xF else u))
def ctlKey : CtlReg → Nat
  | .hbcfg => 0 | .hbtctl => 1 | .hbscrub => 2 | .lkctl => 3 | .lkide => 4 | .dumpPtr => 5
/-- A register of control space that only holds what was written. -/
def execRegisterWrite (r : CtlReg) (unit : Nat) (v : DWord) (s : State) : Host.Outcome State Fault Refusal :=
  .next { s with boot := { s.boot with ctl := setD 0 s.boot.ctl (ctlKey r * 256 + unit) v } }

/-! ## Exceptions, loads and stores (R331) -/

/-- A machine-mode exception of a thread (log 8): mepc, mcause, mtval, the interrupt-enable stack of mstatus, and mtvec. -/
def State.threadTrap (s : State) (t cause : Nat) (tval : DWord) : State :=
  let th := s.thread t
  let ie := if th.mstatus.getLsbD 3 then (0x80 : DWord) else 0
  s.turnOver t { th with mepc := th.pc, mcause := BitVec.ofNat 64 cause, mtval := tval, mstatus := (th.mstatus &&& ~~~ (0x88 : DWord)) ||| ie ||| 0x1800,
                         pc := th.mtvec &&& ~~~ 3, blocked := none }
/-- An undefined or read-only register, a custom word outside R332: mcause 2. -/
def execNolelavinIllegalInstruction (thread : Nat) (s : State) : Host.Outcome State Fault Refusal := .next (s.threadTrap thread 2 0)
/-- An access that another device or the host's I/O space answers: a load's value is open, a store leaves this device. -/
def State.outsideAccess (s : State) (thread : Nat) (store : Bool) (reg : BitVec 5) (n : Nat) : State :=
  let th := s.thread thread
  let x := if store then th else th.xset reg.toNat (Config.free64 s.free)
  s.spend.turnOver thread (x.goOn n)
/-- A data access of a thread, aligned to its width: refused with nonzero high bits, else performed at H0 under the slot that the
address names (`mem`, in the state in which the home has gathered a line that is read, log 52), or answered outside the device (`far`). -/
def State.threadAccess (s : State) (thread : Nat) (addr : DWord) (w : Nat) (store : Bool) (mem : State → Nat → BitVec 6 → Host.Outcome State Fault Refusal)
    (far : Host.Outcome State Fault Refusal) : Host.Outcome State Fault Refusal :=
  let pa := addr.toNat % 2 ^ 52
  if addr.toNat / 2 ^ 58 ≠ 0 then .next (s.threadTrap thread (if store then 7 else 5) addr)
  else if !([1, 2, 4, 8].contains w) || pa % w != 0 then .next (s.threadTrap thread (if store then 6 else 4) addr)
  else match regionOf pa with
    | .reserved => .fault .noSuchAddress
    | .control => .fault .outsideUnit
    | .io => far
    | .remote => far
    | _ => mem (if store then s else s.readHome (pa / 128)) pa (if keyed pa then addr.extractLsb' 52 6 else 0)
/-- Bytes that a thread's store leaves at H0. -/
def State.threadPut (s : State) (pa : Nat) (kid : BitVec 6) (w v : Nat) : State :=
  s.poke kid pa (toBytes w v)
/-- A load or store of a thread. The event is the access alone: a narrow load leaves its bytes zero-extended (log 8). -/
def execNolelavinLoadStore (thread : Nat) (kind : NKind) (addr : DWord) (w : Nat) (reg : BitVec 5) (s : State) : Host.Outcome State Fault Refusal :=
  let th := s.thread thread
  let store := kind == .store
  s.threadAccess thread addr w store
    (fun u pa kid =>
      if store then .next ((u.threadPut pa kid w (th.xget reg.toNat).toNat).turnOver thread (th.goOn 4))
      else .next (u.turnOver thread ((th.xset reg.toNat (BitVec.ofNat 64 (u.numNow kid pa w))).goOn 4)))
    (.next (s.outsideAccess thread store reg 4))

end Sys2Proof.Machine
end

