-- ==== Sys2Proof/Decode.lean ====
section
/-!
DEFINITION. Decoding (R164 to R174) and, after it, the encoder written from the same tables. A word is split into the
fields of its format (`Raw`), then each opcode and function reads its operands from the fields. `decode` is total: it
answers an instruction with its length, or names the row of R174 that refuses the word.
-/

namespace Sys2Proof

/-! ## Codes of the small fields -/

def STy.ofCode (c : BitVec 3) : Option STy :=
  if c = 0 then some .s64 else if c = 1 then some .n64 else if c = 2 then some .s32 else if c = 3 then some .n32 else none
def STy.code : STy → BitVec 3 | .s64 => 0 | .n64 => 1 | .s32 => 2 | .n32 => 3
def ITy.ofCode (c : BitVec 3) : ITy :=
  if c = 0 then .s32 else if c = 1 then .n32 else if c = 2 then .s64 else if c = 3 then .n64
  else if c = 4 then .s16x2 else if c = 5 then .n16x2 else if c = 6 then .s8x4 else .n8x4
def ITy.code : ITy → BitVec 3
  | .s32 => 0 | .n32 => 1 | .s64 => 2 | .n64 => 3 | .s16x2 => 4 | .n16x2 => 5 | .s8x4 => 6 | .n8x4 => 7
def FTy.ofCode (c : BitVec 3) : Option FTy :=
  if c = 0 then some .f32 else if c = 1 then some .f64 else if c = 2 then some .f16x2 else if c = 3 then some .bf16x2
  else if c = 4 then some .f16 else if c = 5 then some .bf16 else none
def FTy.code : FTy → BitVec 3 | .f32 => 0 | .f64 => 1 | .f16x2 => 2 | .bf16x2 => 3 | .f16 => 4 | .bf16 => 5
def BTy.ofCode (c : BitVec 3) : Option BTy := if c = 0 then some .b32 else if c = 1 then some .b64 else none
def BTy.code : BTy → BitVec 3 | .b32 => 0 | .b64 => 1
def Width.ofCode (c : BitVec 3) : Option Width :=
  if c = 0 then some .w8 else if c = 1 then some .w16 else if c = 2 then some .w32 else if c = 3 then some .w64
  else if c = 4 then some .w128 else none
def Width.code : Width → BitVec 3 | .w8 => 0 | .w16 => 1 | .w32 => 2 | .w64 => 3 | .w128 => 4
def Rm.ofCode (c : BitVec 3) : Option Rm :=
  if c = 0 then some .dyn else if c = 1 then some .rne else if c = 2 then some .rtz else if c = 3 then some .up
  else if c = 4 then some .dn else if c = 5 then some .rna else if c = 6 then some .sr else none
def Rm.code : Rm → BitVec 3 | .dyn => 0 | .rne => 1 | .rtz => 2 | .up => 3 | .dn => 4 | .rna => 5 | .sr => 6
def Ord.ofCode (c : BitVec 3) : Option Ord :=
  if c = 0 then some .plain else if c = 1 then some .acq else if c = 2 then some .rel else if c = 3 then some .acqRel
  else none
def Ord.code : Ord → BitVec 3 | .plain => 0 | .acq => 1 | .rel => 2 | .acqRel => 3
def AtomOp.ofCode (c : BitVec 4) : Option AtomOp :=
  if c = 0 then some .add else if c = 1 then some .min else if c = 2 then some .max else if c = 3 then some .and
  else if c = 4 then some .or else if c = 5 then some .xor else if c = 6 then some .xchg else if c = 7 then some .cas
  else if c = 8 then some .fadd else if c = 9 then some .minu else if c = 10 then some .maxu else none
def AtomOp.code : AtomOp → BitVec 4
  | .add => 0 | .min => 1 | .max => 2 | .and => 3 | .or => 4 | .xor => 5 | .xchg => 6 | .cas => 7 | .fadd => 8
  | .minu => 9 | .maxu => 10

/-! ## Raw fields of the eight formats (R165) -/

/-- Fields of an LQ word pair; `lit` is word 2 of the 96-bit form. -/
structure LQ where
  lit : Option Word
  c : BitVec 11
  b : BitVec 11
  a : BitVec 11
  d : BitVec 11
  gn : BitVec 1
  gp : BitVec 4
  rm : BitVec 3
  ty : BitVec 3
deriving DecidableEq, Repr
structure LR where
  lit : Option Word
  md : BitVec 5
  fn : BitVec 6
  b : BitVec 11
  a : BitVec 11
  d : BitVec 11
  gn : BitVec 1
  gp : BitVec 4
  rm : BitVec 3
  ty : BitVec 3
deriving DecidableEq, Repr
structure LI where
  lit : Option Word
  fn : BitVec 6
  imm : BitVec 16
  a : BitVec 11
  d : BitVec 11
  gn : BitVec 1
  gp : BitVec 4
  rm : BitVec 3
  ty : BitVec 3
deriving DecidableEq, Repr
structure LM where
  lit : Option Word
  off : BitVec 8
  fn4 : BitVec 4
  am : BitVec 3
  x : BitVec 11
  base : BitVec 7
  d : BitVec 11
  gn : BitVec 1
  gp : BitVec 4
  ord : BitVec 3
  wd : BitVec 3
deriving DecidableEq, Repr
structure LB where
  disp : BitVec 33
  a : BitVec 11
  gn : BitVec 1
  gp : BitVec 4
  r3 : BitVec 3
  fn3 : BitVec 3
deriving DecidableEq, Repr
structure SR where
  sub : BitVec 2
  b : BitVec 7
  a : BitVec 7
  d : BitVec 7
deriving DecidableEq, Repr
/-- SI keeps bits [31:16] whole; SADD splits them (R165). -/
structure SI where
  imm : BitVec 16
  d : BitVec 7
deriving DecidableEq, Repr
structure SB where
  disp : BitVec 23
deriving DecidableEq, Repr

def LQ.ofWord (lit : Option Word) (w : IWord) : LQ :=
  { lit := lit, c := w.extractLsb' 53 11, b := w.extractLsb' 42 11, a := w.extractLsb' 31 11, d := w.extractLsb' 20 11,
    gn := w.extractLsb' 19 1, gp := w.extractLsb' 15 4, rm := w.extractLsb' 12 3, ty := w.extractLsb' 9 3 }
def LR.ofWord (lit : Option Word) (w : IWord) : LR :=
  { lit := lit, md := w.extractLsb' 59 5, fn := w.extractLsb' 53 6, b := w.extractLsb' 42 11, a := w.extractLsb' 31 11,
    d := w.extractLsb' 20 11, gn := w.extractLsb' 19 1, gp := w.extractLsb' 15 4, rm := w.extractLsb' 12 3,
    ty := w.extractLsb' 9 3 }
def LI.ofWord (lit : Option Word) (w : IWord) : LI :=
  { lit := lit, fn := w.extractLsb' 58 6, imm := w.extractLsb' 42 16, a := w.extractLsb' 31 11, d := w.extractLsb' 20 11,
    gn := w.extractLsb' 19 1, gp := w.extractLsb' 15 4, rm := w.extractLsb' 12 3, ty := w.extractLsb' 9 3 }
def LM.ofWord (lit : Option Word) (w : IWord) : LM :=
  { lit := lit, off := w.extractLsb' 56 8, fn4 := w.extractLsb' 52 4, am := w.extractLsb' 49 3, x := w.extractLsb' 38 11,
    base := w.extractLsb' 31 7, d := w.extractLsb' 20 11, gn := w.extractLsb' 19 1, gp := w.extractLsb' 15 4,
    ord := w.extractLsb' 12 3, wd := w.extractLsb' 9 3 }
def LB.ofWord (w : IWord) : LB :=
  { disp := w.extractLsb' 31 33, a := w.extractLsb' 20 11, gn := w.extractLsb' 19 1, gp := w.extractLsb' 15 4,
    r3 := w.extractLsb' 12 3, fn3 := w.extractLsb' 9 3 }
def SR.ofWord (w : IWord) : SR :=
  { sub := w.extractLsb' 30 2, b := w.extractLsb' 23 7, a := w.extractLsb' 16 7, d := w.extractLsb' 9 7 }
def SI.ofWord (w : IWord) : SI := { imm := w.extractLsb' 16 16, d := w.extractLsb' 9 7 }
def SB.ofWord (w : IWord) : SB := { disp := w.extractLsb' 9 23 }

/-! ## Operand readers: `none` is ILLEGAL_OPERAND (R174 rows 6 to 8) -/

def guardOf (gp : BitVec 4) (gn : BitVec 1) : Guard := { gp := gp, gn := gn == 1 }
def s7 (x : BitVec 11) : Bool := decide (x.toNat < 128)
def p4 (x : BitVec 11) : Bool := decide (x.toNat < 16)
def t6 (x : BitVec 11) : Bool := decide (x.toNat < 64)
def LR.noG (r : LR) : Bool := r.gp == 0 && r.gn == 0
def LI.noG (r : LI) : Bool := r.gp == 0 && r.gn == 0
def LQ.noG (r : LQ) : Bool := r.gp == 0 && r.gn == 0
def LB.noG (r : LB) : Bool := r.gp == 0 && r.gn == 0
def LR.g (r : LR) : Guard := guardOf r.gp r.gn
def LI.g (r : LI) : Guard := guardOf r.gp r.gn
def LQ.g (r : LQ) : Guard := guardOf r.gp r.gn
def LM.g (r : LM) : Guard := guardOf r.gp r.gn
def LB.g (r : LB) : Guard := guardOf r.gp r.gn
/-- The operand of slot b, or the literal, whose slot must be zero (R167). -/
def LR.slot (r : LR) (lim : Bool) : Bool := match r.lit with | none => lim | some _ => r.b == 0
def LQ.slot (r : LQ) (lim : Bool) : Bool := match r.lit with | none => lim | some _ => r.b == 0
def LI.imm? (r : LI) : Option Imm :=
  match r.lit with | none => some (.i16 r.imm) | some x => if r.imm == 0 then some (.i32 x) else none
def LR.ssrc (r : LR) : SSrc := match r.lit with | none => .reg (r.b.setWidth 7) | some x => .rlit x
def LI.ssrc (r : LI) : SSrc := match r.lit with | none => .imm r.imm | some x => .ilit x
def LR.vsrc (r : LR) : VSrc := match r.lit with | none => .reg r.b | some x => .rlit x
def LI.vsrc (r : LI) : VSrc := match r.lit with | none => .imm r.imm | some x => .ilit x
def LR.vlit (r : LR) : VLit := match r.lit with | none => .reg r.b | some x => .lit x
def LQ.vlit (r : LQ) : VLit := match r.lit with | none => .reg r.b | some x => .lit x
def LR.slit (r : LR) : SLit := match r.lit with | none => .reg (r.b.setWidth 7) | some x => .lit x
def LQ.slit (r : LQ) : SLit := match r.lit with | none => .reg (r.b.setWidth 7) | some x => .lit x
/-- An LI word without a literal, or whose IMM16 slot is zero. -/
def LI.slot (r : LI) : Bool := match r.lit with | none => true | some _ => r.imm == 0

def SBin.ofLR (r : LR) : Option SBin :=
  match STy.ofCode r.ty with
  | none => none
  | some ty =>
    if r.noG && r.rm == 0 && r.md == 0 && s7 r.d && s7 r.a && r.slot (s7 r.b) then
      some { ty := ty, d := r.d.setWidth 7, a := r.a.setWidth 7, b := r.ssrc } else none
def SBin.ofLI (r : LI) : Option SBin :=
  match STy.ofCode r.ty with
  | none => none
  | some ty =>
    if r.noG && r.rm == 0 && s7 r.d && s7 r.a && r.slot then
      some { ty := ty, d := r.d.setWidth 7, a := r.a.setWidth 7, b := r.ssrc } else none
def SUn.ofLR (r : LR) : Option SUn :=
  match STy.ofCode r.ty with
  | none => none
  | some ty =>
    if r.noG && r.rm == 0 && r.md == 0 && s7 r.d && s7 r.a && r.b == 0 then
      some { ty := ty, d := r.d.setWidth 7, a := r.a.setWidth 7 } else none
def P3.ofLR (r : LR) : Option P3 :=
  if r.rm == 0 && r.ty == 0 && r.md == 0 && p4 r.d && p4 r.a && p4 r.b then
    some { g := r.g, d := r.d.setWidth 4, a := r.a.setWidth 4, b := r.b.setWidth 4 } else none
def VBin.ofLR (r : LR) : Option VBin :=
  if r.rm == 0 && r.md == 0 && r.slot true then
    some { g := r.g, ty := ITy.ofCode r.ty, d := r.d, a := r.a, b := r.vsrc } else none
def VBin.ofLI (r : LI) : Option VBin :=
  if r.rm == 0 && r.slot then
    some { g := r.g, ty := ITy.ofCode r.ty, d := r.d, a := r.a, b := r.vsrc } else none
def VUn.ofLR (r : LR) : Option VUn :=
  if r.rm == 0 && r.md == 0 && r.b == 0 then some { g := r.g, ty := ITy.ofCode r.ty, d := r.d, a := r.a } else none
def VTri.ofLQ (r : LQ) : Option VTri :=
  if r.rm == 0 && r.slot true then
    some { g := r.g, ty := ITy.ofCode r.ty, d := r.d, a := r.a, b := r.vlit, c := r.c } else none
def BBin.ofLR (r : LR) : Option BBin :=
  match BTy.ofCode r.ty with
  | none => none
  | some ty =>
    if r.rm == 0 && r.md == 0 && r.slot true then some { g := r.g, ty := ty, d := r.d, a := r.a, b := r.vsrc } else none
def BBin.ofLI (r : LI) : Option BBin :=
  match BTy.ofCode r.ty with
  | none => none
  | some ty => if r.rm == 0 && r.slot then some { g := r.g, ty := ty, d := r.d, a := r.a, b := r.vsrc } else none
def BUn.ofLR (r : LR) : Option BUn :=
  match BTy.ofCode r.ty with
  | none => none
  | some ty => if r.rm == 0 && r.md == 0 && r.b == 0 then some { g := r.g, ty := ty, d := r.d, a := r.a } else none
def VCmp.ofLR (r : LR) : Option VCmp :=
  if r.rm == 0 && r.md == 0 && r.slot true && p4 r.d then
    some { g := r.g, ty := ITy.ofCode r.ty, d := r.d.setWidth 4, a := r.a, b := r.vsrc } else none
def VCmp.ofLI (r : LI) : Option VCmp :=
  if r.rm == 0 && r.slot && p4 r.d then
    some { g := r.g, ty := ITy.ofCode r.ty, d := r.d.setWidth 4, a := r.a, b := r.vsrc } else none
def FBin.ofLR (r : LR) : Option FBin :=
  match FTy.ofCode r.ty, Rm.ofCode r.rm with
  | some ty, some rm =>
    if r.md == 0 && r.slot true then some { g := r.g, rm := rm, ty := ty, d := r.d, a := r.a, b := r.vsrc } else none
  | _, _ => none
def FBin.ofLI (r : LI) : Option FBin :=
  match FTy.ofCode r.ty, Rm.ofCode r.rm with
  | some ty, some rm =>
    if r.slot then some { g := r.g, rm := rm, ty := ty, d := r.d, a := r.a, b := r.vsrc } else none
  | _, _ => none
def FUn.ofLR (r : LR) : Option FUn :=
  match FTy.ofCode r.ty, Rm.ofCode r.rm with
  | some ty, some rm =>
    if r.md == 0 && r.b == 0 then some { g := r.g, rm := rm, ty := ty, d := r.d, a := r.a } else none
  | _, _ => none
def FTri.ofLQ (r : LQ) : Option FTri :=
  match FTy.ofCode r.ty, Rm.ofCode r.rm with
  | some ty, some rm =>
    if r.slot true then some { g := r.g, rm := rm, ty := ty, d := r.d, a := r.a, b := r.vlit, c := r.c } else none
  | _, _ => none
def FCmp.ofLR (r : LR) : Option FCmp :=
  match FTy.ofCode r.ty with
  | none => none
  | some ty =>
    if r.rm == 0 && r.md == 0 && r.slot true && p4 r.d then
      some { g := r.g, ty := ty, d := r.d.setWidth 4, a := r.a, b := r.vsrc } else none
def FCmp.ofLI (r : LI) : Option FCmp :=
  match FTy.ofCode r.ty with
  | none => none
  | some ty =>
    if r.rm == 0 && r.slot && p4 r.d then
      some { g := r.g, ty := ty, d := r.d.setWidth 4, a := r.a, b := r.vsrc } else none
/-- The uniform operand of an LR word: MD[3] selects .vu (R379); the literal of a 96-bit word, the same in every lane, is its operand with MD[3]
either way (log 21). -/
def USrc.ofLR (r : LR) : Option USrc :=
  match r.lit with
  | some x => if r.b == 0 && (r.md == 0 || r.md == 8) then some (.lit x) else none
  | none =>
    if r.md == 0 then (if s7 r.b then some (.reg (r.b.setWidth 7)) else none)
    else if r.md == 8 then some (.vu r.b) else none
def BcSrc.ofLR (r : LR) : Option BcSrc :=
  match USrc.ofLR r with
  | some (.reg b) => some (.reg b)
  | some (.vu b) => some (.vu b)
  | some (.lit x) => some (.rlit x)
  | none => none
def RandSrc.ofLR (r : LR) : Option RandSrc :=
  if r.md == 0 then (if s7 r.a then some (.reg (r.a.setWidth 7)) else none)
  else if r.md == 8 then some (.vu r.a) else none
def Shuf.ofLR (r : LR) : Option Shuf :=
  match BTy.ofCode r.ty, USrc.ofLR r with
  | some ty, some b => if r.rm == 0 then some { g := r.g, ty := ty, d := r.d, a := r.a, b := b } else none
  | _, _ => none
def Off.ofLM (r : LM) : Option Off :=
  match r.lit with | none => some (.o8 r.off) | some x => if r.off == 0 then some (.o32 x) else none
/-- AM of R172; a field that the mode does not use must be zero. -/
def Addr.ofLM (r : LM) : Option Addr :=
  if r.am = 0 then (if r.x == 0 then some (.base r.base) else none)
  else if r.am = 1 then some (.zx r.base r.x)
  else if r.am = 2 then some (.sx r.base r.x)
  else if r.am = 3 then (if r.base == 0 then some (.vec r.x) else none)
  else if r.am = 4 then (if r.base == 0 && r.x == 0 then some .spill else none)
  else none
def Mem.ofLM (r : LM) : Option Mem :=
  match Ord.ofCode r.ord, Width.ofCode r.wd, Addr.ofLM r, Off.ofLM r with
  | some o, some w, some ad, some off => some { g := r.g, ord := o, w := w, d := r.d, ad := ad, off := off }
  | _, _, _, _ => none
/-- PGREQ, PREF, MEMHINT: WD 0, plain, d zero (R225, R228). -/
def hintOf (r : LM) (k : Guard → Addr → Off → Instr) : Option Instr :=
  match Addr.ofLM r, Off.ofLM r with
  | some ad, some off => if r.ord == 0 && r.wd == 0 && r.d == 0 then some (k r.g ad off) else none
  | _, _ => none
def ApndOp.ofLM (r : LM) : Option ApndOp :=
  match Width.ofCode r.wd, Off.ofLM r with
  | some w, some off =>
    if r.am == 0 && r.ord == 0 then
      some { g := r.g, w := w, d := r.d, base := r.base, st := r.x.extractLsb' 4 7, pf := r.x.extractLsb' 0 4,
             cnt := r.fn4, off := off } else none
  | _, _ => none
def PageOp.ofLM (r : LM) : Option PageOp :=
  match Off.ofLM r with
  | some off =>
    if r.am == 0 && r.ord == 0 && r.wd == 0 && r.x == 0 && r.gp == 0 && r.gn == 0 && s7 r.d then
      some { d := r.d.setWidth 7, base := r.base, off := off } else none
  | none => none
/-- An LR word of opcodes 0x70 to 0x7E: no type, no rounding, MD zero, no guard. -/
def LR.sys (r : LR) : Bool := r.noG && r.rm == 0 && r.ty == 0 && r.md == 0
def LR.dz (r : LR) : Bool := r.d == 0
def LR.az (r : LR) : Bool := r.a == 0
def LR.bz (r : LR) : Bool := r.b == 0
def MmaOp.ofLR (z : Bool) (r : LR) : Option MmaOp :=
  if r.noG && r.rm == 0 && r.ty == 0 && decide (r.md.toNat < 4) && t6 r.d && s7 r.a && s7 r.b then
    some { z := z, d := r.d.setWidth 6, gang := r.md.setWidth 2, a := r.a.setWidth 7, b := r.b.setWidth 7 } else none
def redOf (o : BitVec 3 → Option RedOp) (k : RedOp → Guard → Rm → BitVec 11 → BitVec 11 → Instr) (r : LR) : Option Instr :=
  match o r.ty, Rm.ofCode r.rm with
  | some o, some rm => if r.md == 0 && r.b == 0 then some (k o r.g rm r.d r.a) else none
  | _, _ => none
def redI (f : RedFn) (c : BitVec 3) : Option RedOp := some (.int f (ITy.ofCode c))
def redF (f : FRedFn) (c : BitVec 3) : Option RedOp := (FTy.ofCode c).map (.flt f)

/-! ## Functions of each opcode (R173, R186, R192, R195, R209, R213, R221, R225, R231, R235, R269)

An entry is (the function admits the 96-bit length, the instruction read from the fields). -/

/-- Functions of the SR words: `fn` is SUB, or bit [30] for SADD (R165). -/
def srFn (op fn : Nat) (r : SR) : Option (Bool × Option Instr) :=
  match op with
  | 0 =>
    match fn with
    | 1 => some (false, if r.d == 0 && r.a == 0 && r.b == 0 then some .nop else none)
    | _ => none
  | 8 =>
    match fn with
    | 0 => some (false, if r.d == 0 && r.b == 0 then some (.retSr r.a) else none)
    | _ => none
  | 9 =>
    match fn with
    | 0 => some (false, if r.d == 0 && r.a == 0 && r.b == 0 then some .exitSr else none)
    | _ => none
  | 11 =>
    match fn with
    | 0 => some (false, if r.d == 0 && r.a == 0 && r.b == 0 then some .yield else none)
    | _ => none
  | 16 =>
    match fn with
    | 0 => some (false, some (.saddSr false { d := r.d, a := r.a, b := r.b }))
    | 1 => some (false, some (.saddSr true { d := r.d, a := r.a, b := r.b }))
    | _ => none
  | 17 =>
    match fn with
    | 0 => some (false, some (.ssubSr false { d := r.d, a := r.a, b := r.b }))
    | 1 => some (false, some (.ssubSr true { d := r.d, a := r.a, b := r.b }))
    | _ => none
  | 18 =>
    match fn with
    | 0 => some (false, some (.smulSr false { d := r.d, a := r.a, b := r.b }))
    | 1 => some (false, some (.smulSr true { d := r.d, a := r.a, b := r.b }))
    | _ => none
  | 20 =>
    match fn with
    | 0 => some (false, some (.sandSr { d := r.d, a := r.a, b := r.b }))
    | 1 => some (false, some (.sorSr { d := r.d, a := r.a, b := r.b }))
    | 2 => some (false, some (.sxorSr { d := r.d, a := r.a, b := r.b }))
    | 3 => some (false, some (.sandnSr { d := r.d, a := r.a, b := r.b }))
    | _ => none
  | 21 =>
    match fn with
    | 0 => some (false, some (.sshlSr { d := r.d, a := r.a, b := r.b }))
    | 1 => some (false, some (.sshrSr { d := r.d, a := r.a, b := r.b }))
    | 2 => some (false, some (.ssraSr { d := r.d, a := r.a, b := r.b }))
    | 3 => some (false, some (.srotSr { d := r.d, a := r.a, b := r.b }))
    | _ => none
  | 27 =>
    match fn with
    | 0 => some (false, if r.b == 0 then some (.smovSr r.d r.a) else none)
    | _ => none
  | 32 =>
    match fn with
    | 0 => some (false, some (.vaddSr false { d := r.d, a := r.a, b := r.b }))
    | 1 => some (false, some (.vaddSr true { d := r.d, a := r.a, b := r.b }))
    | _ => none
  | 33 =>
    match fn with
    | 0 => some (false, some (.vsubSr false { d := r.d, a := r.a, b := r.b }))
    | 1 => some (false, some (.vsubSr true { d := r.d, a := r.a, b := r.b }))
    | _ => none
  | 34 =>
    match fn with
    | 0 => some (false, some (.vmulSr 0 { d := r.d, a := r.a, b := r.b }))
    | 1 => some (false, some (.vmulSr 1 { d := r.d, a := r.a, b := r.b }))
    | 2 => some (false, some (.vmulSr 2 { d := r.d, a := r.a, b := r.b }))
    | _ => none
  | 40 =>
    match fn with
    | 0 => some (false, some (.vandSr { d := r.d, a := r.a, b := r.b }))
    | _ => none
  | 41 =>
    match fn with
    | 0 => some (false, some (.vorSr { d := r.d, a := r.a, b := r.b }))
    | _ => none
  | 42 =>
    match fn with
    | 0 => some (false, some (.vxorSr { d := r.d, a := r.a, b := r.b }))
    | _ => none
  | 44 =>
    match fn with
    | 0 => some (false, some (.vshlSr { d := r.d, a := r.a, b := r.b }))
    | _ => none
  | 45 =>
    match fn with
    | 0 => some (false, some (.vshrSr { d := r.d, a := r.a, b := r.b }))
    | _ => none
  | 51 =>
    match fn with
    | 0 => some (false, if r.b == 0 then some (.vmovSr r.d r.a) else none)
    | _ => none
  | 56 =>
    match fn with
    | 0 => some (false, some (.vfaddSr { d := r.d, a := r.a, b := r.b }))
    | _ => none
  | 57 =>
    match fn with
    | 0 => some (false, some (.vfsubSr { d := r.d, a := r.a, b := r.b }))
    | _ => none
  | 58 =>
    match fn with
    | 0 => some (false, some (.vfmulSr { d := r.d, a := r.a, b := r.b }))
    | _ => none
  | _ => none

/-- Functions of the SI words: `fn` is bit [30] for SADD, 0 for SLI. -/
def siFn (op fn : Nat) (r : SI) : Option (Bool × Option Instr) :=
  match op with
  | 16 =>
    match fn with
    | 0 => some (false, some (.saddSi false r.d (r.imm.setWidth 14)))
    | 1 => some (false, some (.saddSi true r.d (r.imm.setWidth 14)))
    | _ => none
  | 26 =>
    match fn with
    | 0 => some (false, some (.sliSi r.d r.imm))
    | _ => none
  | _ => none

/-- Functions of the SB words. -/
def sbFn (op fn : Nat) (r : SB) : Option (Bool × Option Instr) :=
  match op with
  | 1 =>
    match fn with
    | 0 => some (false, some (.braSb r.disp))
    | _ => none
  | 6 =>
    match fn with
    | 0 => some (false, some (.callSb r.disp))
    | _ => none
  | _ => none

/-- Functions of the LB words: `fn` is FN3. -/
def lbFn (op fn : Nat) (r : LB) : Option (Bool × Option Instr) :=
  match op with
  | 1 =>
    match fn with
    | 0 => some (false, if r.r3 == 0 && r.noG && r.a == 0 then some (.bra r.disp) else none)
    | _ => none
  | 2 =>
    match fn with
    | 0 => some (false, if r.r3 == 0 && r.noG && s7 r.a then some (.brc (r.a.setWidth 7) r.disp) else none)
    | 1 => some (false, if r.r3 == 0 && r.noG && s7 r.a then some (.brcZ (r.a.setWidth 7) r.disp) else none)
    | 2 => some (false, if r.r3 == 0 && r.noG && s7 r.a then some (.brcLt (r.a.setWidth 7) r.disp) else none)
    | 3 => some (false, if r.r3 == 0 && r.noG && s7 r.a then some (.brcGe (r.a.setWidth 7) r.disp) else none)
    | _ => none
  | 3 =>
    match fn with
    | 0 => some (false, if r.r3 == 0 && r.a == 0 then some (.brx r.g r.disp) else none)
    | _ => none
  | 5 =>
    match fn with
    | 0 => some (false, if r.r3 == 0 && r.noG && decide (r.a.toNat < 8) then some (.join (r.a.setWidth 3) r.disp) else none)
    | _ => none
  | 6 =>
    match fn with
    | 0 => some (false, if r.r3 == 0 then some (.call r.g r.a r.disp) else none)
    | 1 => some (false, if r.r3 == 0 then some (.callStub r.g r.a r.disp) else none)
    | _ => none
  | _ => none

/-- Functions of the LQ words. -/
def lqFn (op fn : Nat) (r : LQ) : Option (Bool × Option Instr) :=
  match op with
  | 24 =>
    match fn with
    | 0 => some (true, if r.noG && r.rm == 0 && r.ty == 0 && s7 r.d && s7 r.a && s7 r.c && r.slot (s7 r.b) then some (.ssel (r.d.setWidth 7) (r.a.setWidth 7) r.slit (r.c.setWidth 7)) else none)
    | _ => none
  | 35 =>
    match fn with
    | 0 => some (true, (VTri.ofLQ r).map Instr.vmad)
    | _ => none
  | 49 =>
    match fn with
    | 0 => some (true, (BTy.ofCode r.ty).bind fun ty => if r.rm == 0 && p4 r.c && r.slot true then some (.vsel r.g ty r.d r.a r.vlit (r.c.setWidth 4)) else none)
    | _ => none
  | 52 =>
    match fn with
    | 0 => some (true, (VTri.ofLQ r).map Instr.vdot)
    | _ => none
  | 59 =>
    match fn with
    | 0 => some (true, (FTri.ofLQ r).map Instr.vfma)
    | _ => none
  | _ => none

/-- Functions of the LM words: `fn` is FN4. -/
def lmFn (op fn : Nat) (r : LM) : Option (Bool × Option Instr) :=
  match op with
  | 96 =>
    match fn with
    | 0 => some (true, (Mem.ofLM r).map (Instr.ld false))
    | 1 => some (true, (Mem.ofLM r).map (Instr.ld true))
    | _ => none
  | 97 =>
    match fn with
    | 0 => some (true, (Mem.ofLM r).map Instr.st)
    | _ => none
  | 98 =>
    match fn with
    | 0 => some (true, (Mem.ofLM r).map (Instr.lds false))
    | 1 => some (true, (Mem.ofLM r).map (Instr.lds true))
    | _ => none
  | 99 =>
    match fn with
    | 0 => some (true, (Mem.ofLM r).map Instr.sts)
    | _ => none
  | 100 =>
    match fn with
    | 0 => some (true, (Mem.ofLM r).map (Instr.ldk false))
    | 1 => some (true, (Mem.ofLM r).map (Instr.ldk true))
    | _ => none
  | 101 =>
    match fn with
    | 0 => some (true, (Mem.ofLM r).map Instr.stk)
    | _ => none
  | 102 =>
    match fn with
    | 0 => some (true, (Mem.ofLM r).map (Instr.ldnr 0))
    | 1 => some (true, (Mem.ofLM r).map (Instr.ldnr 1))
    | 2 => some (true, (Mem.ofLM r).map (Instr.ldnr 2))
    | 3 => some (true, (Mem.ofLM r).map (Instr.ldnr 3))
    | 4 => some (true, (Mem.ofLM r).map (Instr.ldnr 4))
    | 5 => some (true, (Mem.ofLM r).map (Instr.ldnr 5))
    | 6 => some (true, (Mem.ofLM r).map (Instr.ldnr 6))
    | 7 => some (true, (Mem.ofLM r).map (Instr.ldnr 7))
    | 8 => some (true, (Mem.ofLM r).map (Instr.ldnr 8))
    | 9 => some (true, (Mem.ofLM r).map (Instr.ldnr 9))
    | 10 => some (true, (Mem.ofLM r).map (Instr.ldnr 10))
    | 11 => some (true, (Mem.ofLM r).map (Instr.ldnr 11))
    | 12 => some (true, (Mem.ofLM r).map (Instr.ldnr 12))
    | 13 => some (true, (Mem.ofLM r).map (Instr.ldnr 13))
    | 14 => some (true, (Mem.ofLM r).map (Instr.ldnr 14))
    | 15 => some (true, (Mem.ofLM r).map (Instr.ldnr 15))
    | _ => none
  | 103 =>
    match fn with
    | 0 => some (true, hintOf r (Instr.pgreq))
    | 1 => some (true, hintOf r (Instr.pref))
    | 2 => some (true, hintOf r (Instr.prefL2))
    | 3 => some (true, hintOf r (Instr.memhint .none))
    | 4 => some (true, hintOf r (Instr.memhint .cold))
    | 5 => some (true, hintOf r (Instr.memhint .warm))
    | 6 => some (true, hintOf r (Instr.memhint .hot))
    | 7 => some (true, hintOf r (Instr.memhint .repl))
    | _ => none
  | 104 =>
    match fn with
    | 0 => some (true, (Mem.ofLM r).map (Instr.atom .add))
    | 1 => some (true, (Mem.ofLM r).map (Instr.atom .min))
    | 2 => some (true, (Mem.ofLM r).map (Instr.atom .max))
    | 3 => some (true, (Mem.ofLM r).map (Instr.atom .and))
    | 4 => some (true, (Mem.ofLM r).map (Instr.atom .or))
    | 5 => some (true, (Mem.ofLM r).map (Instr.atom .xor))
    | 6 => some (true, (Mem.ofLM r).map (Instr.atom .xchg))
    | 7 => some (true, (Mem.ofLM r).map (Instr.atom .cas))
    | 8 => some (true, (Mem.ofLM r).map (Instr.atom .fadd))
    | 9 => some (true, (Mem.ofLM r).map (Instr.atom .minu))
    | 10 => some (true, (Mem.ofLM r).map (Instr.atom .maxu))
    | _ => none
  | 105 =>
    match fn with
    | 0 => some (true, (Mem.ofLM r).map (Instr.atomH .add))
    | 1 => some (true, (Mem.ofLM r).map (Instr.atomH .min))
    | 2 => some (true, (Mem.ofLM r).map (Instr.atomH .max))
    | 3 => some (true, (Mem.ofLM r).map (Instr.atomH .and))
    | 4 => some (true, (Mem.ofLM r).map (Instr.atomH .or))
    | 5 => some (true, (Mem.ofLM r).map (Instr.atomH .xor))
    | 6 => some (true, (Mem.ofLM r).map (Instr.atomH .xchg))
    | 7 => some (true, (Mem.ofLM r).map (Instr.atomH .cas))
    | 8 => some (true, (Mem.ofLM r).map (Instr.atomH .fadd))
    | 9 => some (true, (Mem.ofLM r).map (Instr.atomH .minu))
    | 10 => some (true, (Mem.ofLM r).map (Instr.atomH .maxu))
    | _ => none
  | 107 =>
    match fn with
    | 0 => some (true, (ApndOp.ofLM r).map Instr.apnd)
    | 1 => some (true, (ApndOp.ofLM r).map Instr.apnd)
    | 2 => some (true, (ApndOp.ofLM r).map Instr.apnd)
    | 3 => some (true, (ApndOp.ofLM r).map Instr.apnd)
    | 4 => some (true, (ApndOp.ofLM r).map Instr.apnd)
    | 5 => some (true, (ApndOp.ofLM r).map Instr.apnd)
    | 6 => some (true, (ApndOp.ofLM r).map Instr.apnd)
    | 7 => some (true, (ApndOp.ofLM r).map Instr.apnd)
    | 8 => some (true, (ApndOp.ofLM r).map Instr.apnd)
    | 9 => some (true, (ApndOp.ofLM r).map Instr.apnd)
    | 10 => some (true, (ApndOp.ofLM r).map Instr.apnd)
    | 11 => some (true, (ApndOp.ofLM r).map Instr.apnd)
    | 12 => some (true, (ApndOp.ofLM r).map Instr.apnd)
    | 13 => some (true, (ApndOp.ofLM r).map Instr.apnd)
    | 14 => some (true, (ApndOp.ofLM r).map Instr.apnd)
    | 15 => some (true, (ApndOp.ofLM r).map Instr.apnd)
    | _ => none
  | 108 =>
    match fn with
    | 0 => some (true, (PageOp.ofLM r).map Instr.seal)
    | _ => none
  | 109 =>
    match fn with
    | 0 => some (true, (PageOp.ofLM r).map Instr.tailrd)
    | _ => none
  | _ => none

/-- Functions of the LI words: `fn` is FN[4:0]. -/
def liFn (op fn : Nat) (r : LI) : Option (Bool × Option Instr) :=
  match op with
  | 16 =>
    match fn with
    | 0 => some (true, (SBin.ofLI r).map (Instr.sadd false))
    | 1 => some (true, (SBin.ofLI r).map (Instr.sadd true))
    | _ => none
  | 17 =>
    match fn with
    | 0 => some (true, (SBin.ofLI r).map (Instr.ssub false))
    | 1 => some (true, (SBin.ofLI r).map (Instr.ssub true))
    | _ => none
  | 18 =>
    match fn with
    | 0 => some (true, (SBin.ofLI r).map (Instr.smul false))
    | 1 => some (true, (SBin.ofLI r).map (Instr.smul true))
    | _ => none
  | 19 =>
    match fn with
    | 0 => some (true, (SBin.ofLI r).map (Instr.sdiv false))
    | 1 => some (true, (SBin.ofLI r).map (Instr.sdiv true))
    | _ => none
  | 20 =>
    match fn with
    | 0 => some (true, (SBin.ofLI r).map Instr.sand)
    | 1 => some (true, (SBin.ofLI r).map Instr.sor)
    | 2 => some (true, (SBin.ofLI r).map Instr.sxor)
    | 3 => some (true, (SBin.ofLI r).map Instr.sandn)
    | _ => none
  | 21 =>
    match fn with
    | 0 => some (true, (SBin.ofLI r).map Instr.sshl)
    | 1 => some (true, (SBin.ofLI r).map Instr.sshr)
    | 2 => some (true, (SBin.ofLI r).map Instr.ssra)
    | 3 => some (true, (SBin.ofLI r).map Instr.srot)
    | _ => none
  | 22 =>
    match fn with
    | 0 => some (true, (SBin.ofLI r).map Instr.smin)
    | 1 => some (true, (SBin.ofLI r).map Instr.smax)
    | _ => none
  | 23 =>
    match fn with
    | 0 => some (true, (SBin.ofLI r).map Instr.scmp)
    | 1 => some (true, (SBin.ofLI r).map (Instr.scmpRel .eq))
    | 2 => some (true, (SBin.ofLI r).map (Instr.scmpRel .ne))
    | 3 => some (true, (SBin.ofLI r).map (Instr.scmpRel .lt))
    | 4 => some (true, (SBin.ofLI r).map (Instr.scmpRel .le))
    | 5 => some (true, (SBin.ofLI r).map (Instr.scmpRel .gt))
    | 6 => some (true, (SBin.ofLI r).map (Instr.scmpRel .ge))
    | _ => none
  | 25 =>
    match fn with
    | 0 => some (true, if r.noG && r.rm == 0 && r.ty == 0 && s7 r.d && s7 r.a then r.imm?.map (Instr.slea (r.d.setWidth 7) (r.a.setWidth 7)) else none)
    | _ => none
  | 26 =>
    match fn with
    | 0 => some (true, if r.noG && r.rm == 0 && r.ty == 0 && s7 r.d && s7 r.a then r.imm?.map (Instr.sli (r.d.setWidth 7) (r.a.setWidth 7)) else none)
    | 1 => some (true, if r.noG && r.rm == 0 && r.ty == 0 && s7 r.d && s7 r.a then r.imm?.map (Instr.sliW (r.d.setWidth 7) (r.a.setWidth 7)) else none)
    | _ => none
  | 27 =>
    match fn with
    | 0 => some (true, (STy.ofCode r.ty).bind fun ty => if r.noG && r.rm == 0 && s7 r.d && r.a == 0 then r.imm?.map (fun i => .smov ty (r.d.setWidth 7) (.imm i)) else none)
    | _ => none
  | 29 =>
    match fn with
    | 0 => some (true, (SBin.ofLI r).map Instr.sbfx)
    | 1 => some (true, (SBin.ofLI r).map Instr.sbfxIns)
    | _ => none
  | 32 =>
    match fn with
    | 0 => some (true, (VBin.ofLI r).map (Instr.vadd false))
    | 1 => some (true, (VBin.ofLI r).map (Instr.vadd true))
    | _ => none
  | 33 =>
    match fn with
    | 0 => some (true, (VBin.ofLI r).map (Instr.vsub false))
    | 1 => some (true, (VBin.ofLI r).map (Instr.vsub true))
    | _ => none
  | 34 =>
    match fn with
    | 0 => some (true, (VBin.ofLI r).map (Instr.vmul false))
    | 1 => some (true, (VBin.ofLI r).map (Instr.vmul true))
    | 2 => some (true, (VBin.ofLI r).map Instr.vmulHi)
    | _ => none
  | 36 =>
    match fn with
    | 0 => some (true, (VBin.ofLI r).map Instr.vdiv)
    | 1 => some (true, (VBin.ofLI r).map Instr.vdivRem)
    | _ => none
  | 37 =>
    match fn with
    | 0 => some (true, (VBin.ofLI r).map Instr.vmin)
    | _ => none
  | 38 =>
    match fn with
    | 0 => some (true, (VBin.ofLI r).map Instr.vmax)
    | _ => none
  | 40 =>
    match fn with
    | 0 => some (true, (BBin.ofLI r).map Instr.vand)
    | _ => none
  | 41 =>
    match fn with
    | 0 => some (true, (BBin.ofLI r).map Instr.vor)
    | _ => none
  | 42 =>
    match fn with
    | 0 => some (true, (BBin.ofLI r).map Instr.vxor)
    | _ => none
  | 43 =>
    match fn with
    | 1 => some (true, (BBin.ofLI r).map Instr.vandn)
    | _ => none
  | 44 =>
    match fn with
    | 0 => some (true, (VBin.ofLI r).map Instr.vshl)
    | _ => none
  | 45 =>
    match fn with
    | 0 => some (true, (VBin.ofLI r).map Instr.vshr)
    | _ => none
  | 46 =>
    match fn with
    | 0 => some (true, (VBin.ofLI r).map Instr.vrot)
    | _ => none
  | 48 =>
    match fn with
    | 0 => some (true, (VBin.ofLI r).map Instr.vbfx)
    | 1 => some (true, (VBin.ofLI r).map Instr.vbfxIns)
    | _ => none
  | 50 =>
    match fn with
    | 0 => some (true, (VCmp.ofLI r).map (Instr.vcmp .eq))
    | 1 => some (true, (VCmp.ofLI r).map (Instr.vcmp .ne))
    | 2 => some (true, (VCmp.ofLI r).map (Instr.vcmp .lt))
    | 3 => some (true, (VCmp.ofLI r).map (Instr.vcmp .le))
    | 4 => some (true, (VCmp.ofLI r).map (Instr.vcmp .gt))
    | 5 => some (true, (VCmp.ofLI r).map (Instr.vcmp .ge))
    | _ => none
  | 51 =>
    match fn with
    | 0 => some (true, (BTy.ofCode r.ty).bind fun ty => if r.rm == 0 && r.a == 0 then r.imm?.map (fun i => .vmov r.g ty r.d (.imm i)) else none)
    | _ => none
  | 56 =>
    match fn with
    | 0 => some (true, (FBin.ofLI r).map Instr.vfadd)
    | _ => none
  | 57 =>
    match fn with
    | 0 => some (true, (FBin.ofLI r).map Instr.vfsub)
    | _ => none
  | 58 =>
    match fn with
    | 0 => some (true, (FBin.ofLI r).map Instr.vfmul)
    | _ => none
  | 60 =>
    match fn with
    | 0 => some (true, (FBin.ofLI r).map Instr.vfmin)
    | _ => none
  | 61 =>
    match fn with
    | 0 => some (true, (FBin.ofLI r).map Instr.vfmax)
    | _ => none
  | 62 =>
    match fn with
    | 0 => some (true, (FCmp.ofLI r).map (Instr.vfcmp .eq))
    | 1 => some (true, (FCmp.ofLI r).map (Instr.vfcmp .ne))
    | 2 => some (true, (FCmp.ofLI r).map (Instr.vfcmp .lt))
    | 3 => some (true, (FCmp.ofLI r).map (Instr.vfcmp .le))
    | 4 => some (true, (FCmp.ofLI r).map (Instr.vfcmp .gt))
    | 5 => some (true, (FCmp.ofLI r).map (Instr.vfcmp .ge))
    | 6 => some (true, (FCmp.ofLI r).map (Instr.vfcmp .un))
    | _ => none
  | 64 =>
    match fn with
    | 0 => some (true, (FBin.ofLI r).map Instr.vfdiv)
    | _ => none
  | 77 =>
    match fn with
    | 0 => some (true, if r.noG && r.rm == 0 && r.ty == 0 && r.d == 0 && r.a == 0 then r.imm?.map (fun i => .vrseed (.imm i)) else none)
    | _ => none
  | 81 =>
    match fn with
    | 0 => some (true, if r.rm == 0 && r.ty == 0 && r.a == 0 && p4 r.d then r.imm?.map (Instr.pmovImm r.g (r.d.setWidth 4)) else none)
    | _ => none
  | 88 =>
    match fn with
    | 0 => some (true, (BTy.ofCode r.ty).bind fun ty => if r.rm == 0 && r.slot then some (.vbcast r.g ty r.d r.a (match r.lit with | none => .imm r.imm | some x => .ilit x)) else none)
    | _ => none
  | 124 =>
    match fn with
    | 0 => some (false, if r.noG && r.rm == 0 && r.ty == 0 && r.d == 0 && r.a == 0 then some (.trap r.imm) else none)
    | 2 => some (false, if r.noG && r.rm == 0 && r.ty == 0 && s7 r.d && r.a == 0 then some (.csrrd (r.d.setWidth 7) r.imm) else none)
    | 3 => some (false, if r.noG && r.rm == 0 && r.ty == 0 && r.d == 0 && s7 r.a then some (.csrwr r.imm (r.a.setWidth 7)) else none)
    | 6 => some (true, if r.noG && r.rm == 0 && r.ty == 0 && r.d == 0 && r.a == 0 then r.imm?.map Instr.sleepImm else none)
    | _ => none
  | _ => none

/-- Functions of the LR words but VCVT: `fn` is FN. -/
def lrFn (op fn : Nat) (r : LR) : Option (Bool × Option Instr) :=
  match op with
  | 4 =>
    match fn with
    | 0 => some (false, if r.rm == 0 && r.ty == 0 && r.md == 0 && decide (r.d.toNat < 8) && r.az && r.bz then some (.jset r.g (r.d.setWidth 3)) else none)
    | 1 => some (false, if r.sys && decide (r.d.toNat < 8) && s7 r.a && r.bz then some (.jsetSc (r.d.setWidth 3) (r.a.setWidth 7)) else none)
    | _ => none
  | 7 =>
    match fn with
    | 0 => some (false, if r.rm == 0 && r.ty == 0 && r.md == 0 && r.bz then some (.callx r.g r.d r.a) else none)
    | _ => none
  | 8 =>
    match fn with
    | 0 => some (false, if r.rm == 0 && r.ty == 0 && r.md == 0 && r.dz && r.bz then some (.ret r.g r.a) else none)
    | _ => none
  | 9 =>
    match fn with
    | 0 => some (false, if r.rm == 0 && r.ty == 0 && r.md == 0 && r.dz && r.az && r.bz then some (.exit r.g) else none)
    | _ => none
  | 10 =>
    match fn with
    | 0 => some (true, if r.rm == 0 && r.ty == 0 && r.md == 0 && r.dz && s7 r.a && r.slot (s7 r.b) then some (.exitchain r.g (r.a.setWidth 7) r.slit) else none)
    | _ => none
  | 12 =>
    match fn with
    | 0 => some (false, if r.sys && s7 r.d && r.az && r.bz then some (.xmrd (r.d.setWidth 7)) else none)
    | 1 => some (false, if r.sys && r.dz && s7 r.a && r.bz then some (.xmwr (r.a.setWidth 7)) else none)
    | _ => none
  | 16 =>
    match fn with
    | 0 => some (true, (SBin.ofLR r).map (Instr.sadd false))
    | 1 => some (true, (SBin.ofLR r).map (Instr.sadd true))
    | _ => none
  | 17 =>
    match fn with
    | 0 => some (true, (SBin.ofLR r).map (Instr.ssub false))
    | 1 => some (true, (SBin.ofLR r).map (Instr.ssub true))
    | _ => none
  | 18 =>
    match fn with
    | 0 => some (true, (SBin.ofLR r).map (Instr.smul false))
    | 1 => some (true, (SBin.ofLR r).map (Instr.smul true))
    | _ => none
  | 19 =>
    match fn with
    | 0 => some (true, (SBin.ofLR r).map (Instr.sdiv false))
    | 1 => some (true, (SBin.ofLR r).map (Instr.sdiv true))
    | _ => none
  | 20 =>
    match fn with
    | 0 => some (true, (SBin.ofLR r).map Instr.sand)
    | 1 => some (true, (SBin.ofLR r).map Instr.sor)
    | 2 => some (true, (SBin.ofLR r).map Instr.sxor)
    | 3 => some (true, (SBin.ofLR r).map Instr.sandn)
    | _ => none
  | 21 =>
    match fn with
    | 0 => some (true, (SBin.ofLR r).map Instr.sshl)
    | 1 => some (true, (SBin.ofLR r).map Instr.sshr)
    | 2 => some (true, (SBin.ofLR r).map Instr.ssra)
    | 3 => some (true, (SBin.ofLR r).map Instr.srot)
    | _ => none
  | 22 =>
    match fn with
    | 0 => some (true, (SBin.ofLR r).map Instr.smin)
    | 1 => some (true, (SBin.ofLR r).map Instr.smax)
    | _ => none
  | 23 =>
    match fn with
    | 0 => some (true, (SBin.ofLR r).map Instr.scmp)
    | 1 => some (true, (SBin.ofLR r).map (Instr.scmpRel .eq))
    | 2 => some (true, (SBin.ofLR r).map (Instr.scmpRel .ne))
    | 3 => some (true, (SBin.ofLR r).map (Instr.scmpRel .lt))
    | 4 => some (true, (SBin.ofLR r).map (Instr.scmpRel .le))
    | 5 => some (true, (SBin.ofLR r).map (Instr.scmpRel .gt))
    | 6 => some (true, (SBin.ofLR r).map (Instr.scmpRel .ge))
    | _ => none
  | 27 =>
    match fn with
    | 0 => some (false, (STy.ofCode r.ty).bind fun ty => if r.noG && r.rm == 0 && r.md == 0 && s7 r.d && s7 r.a && r.b == 0 then some (.smov ty (r.d.setWidth 7) (.reg (r.a.setWidth 7))) else none)
    | _ => none
  | 28 =>
    match fn with
    | 0 => some (false, (SUn.ofLR r).map Instr.sbit)
    | 1 => some (false, (SUn.ofLR r).map Instr.sbitClz)
    | 2 => some (false, (SUn.ofLR r).map Instr.sbitCtz)
    | 3 => some (false, (SUn.ofLR r).map Instr.sbitRev)
    | _ => none
  | 29 =>
    match fn with
    | 0 => some (true, (SBin.ofLR r).map Instr.sbfx)
    | 1 => some (true, (SBin.ofLR r).map Instr.sbfxIns)
    | _ => none
  | 32 =>
    match fn with
    | 0 => some (true, (VBin.ofLR r).map (Instr.vadd false))
    | 1 => some (true, (VBin.ofLR r).map (Instr.vadd true))
    | _ => none
  | 33 =>
    match fn with
    | 0 => some (true, (VBin.ofLR r).map (Instr.vsub false))
    | 1 => some (true, (VBin.ofLR r).map (Instr.vsub true))
    | _ => none
  | 34 =>
    match fn with
    | 0 => some (true, (VBin.ofLR r).map (Instr.vmul false))
    | 1 => some (true, (VBin.ofLR r).map (Instr.vmul true))
    | 2 => some (true, (VBin.ofLR r).map Instr.vmulHi)
    | _ => none
  | 36 =>
    match fn with
    | 0 => some (true, (VBin.ofLR r).map Instr.vdiv)
    | 1 => some (true, (VBin.ofLR r).map Instr.vdivRem)
    | _ => none
  | 37 =>
    match fn with
    | 0 => some (true, (VBin.ofLR r).map Instr.vmin)
    | _ => none
  | 38 =>
    match fn with
    | 0 => some (true, (VBin.ofLR r).map Instr.vmax)
    | _ => none
  | 39 =>
    match fn with
    | 0 => some (false, (VUn.ofLR r).map Instr.vabs)
    | 1 => some (false, (VUn.ofLR r).map Instr.vneg)
    | _ => none
  | 40 =>
    match fn with
    | 0 => some (true, (BBin.ofLR r).map Instr.vand)
    | _ => none
  | 41 =>
    match fn with
    | 0 => some (true, (BBin.ofLR r).map Instr.vor)
    | _ => none
  | 42 =>
    match fn with
    | 0 => some (true, (BBin.ofLR r).map Instr.vxor)
    | _ => none
  | 43 =>
    match fn with
    | 0 => some (false, (BUn.ofLR r).map Instr.vnot)
    | 1 => some (true, (BBin.ofLR r).map Instr.vandn)
    | _ => none
  | 44 =>
    match fn with
    | 0 => some (true, (VBin.ofLR r).map Instr.vshl)
    | _ => none
  | 45 =>
    match fn with
    | 0 => some (true, (VBin.ofLR r).map Instr.vshr)
    | _ => none
  | 46 =>
    match fn with
    | 0 => some (true, (VBin.ofLR r).map Instr.vrot)
    | _ => none
  | 47 =>
    match fn with
    | 0 => some (false, (VUn.ofLR r).map Instr.vbit)
    | 1 => some (false, (VUn.ofLR r).map Instr.vbitClz)
    | 2 => some (false, (VUn.ofLR r).map Instr.vbitCtz)
    | 3 => some (false, (VUn.ofLR r).map Instr.vbitRev)
    | _ => none
  | 48 =>
    match fn with
    | 0 => some (true, (VBin.ofLR r).map Instr.vbfx)
    | 1 => some (true, (VBin.ofLR r).map Instr.vbfxIns)
    | _ => none
  | 50 =>
    match fn with
    | 0 => some (true, (VCmp.ofLR r).map (Instr.vcmp .eq))
    | 1 => some (true, (VCmp.ofLR r).map (Instr.vcmp .ne))
    | 2 => some (true, (VCmp.ofLR r).map (Instr.vcmp .lt))
    | 3 => some (true, (VCmp.ofLR r).map (Instr.vcmp .le))
    | 4 => some (true, (VCmp.ofLR r).map (Instr.vcmp .gt))
    | 5 => some (true, (VCmp.ofLR r).map (Instr.vcmp .ge))
    | _ => none
  | 51 =>
    match fn with
    | 0 => some (false, (BTy.ofCode r.ty).bind fun ty => if r.rm == 0 && r.md == 0 && r.b == 0 then some (.vmov r.g ty r.d (.reg r.a)) else none)
    | 1 => some (false, (BTy.ofCode r.ty).bind fun ty => if r.rm == 0 && r.md == 0 && r.b == 0 && s7 r.a then some (.vmovS2v r.g ty r.d (r.a.setWidth 7)) else none)
    | _ => none
  | 56 =>
    match fn with
    | 0 => some (true, (FBin.ofLR r).map Instr.vfadd)
    | _ => none
  | 57 =>
    match fn with
    | 0 => some (true, (FBin.ofLR r).map Instr.vfsub)
    | _ => none
  | 58 =>
    match fn with
    | 0 => some (true, (FBin.ofLR r).map Instr.vfmul)
    | _ => none
  | 60 =>
    match fn with
    | 0 => some (true, (FBin.ofLR r).map Instr.vfmin)
    | _ => none
  | 61 =>
    match fn with
    | 0 => some (true, (FBin.ofLR r).map Instr.vfmax)
    | _ => none
  | 62 =>
    match fn with
    | 0 => some (true, (FCmp.ofLR r).map (Instr.vfcmp .eq))
    | 1 => some (true, (FCmp.ofLR r).map (Instr.vfcmp .ne))
    | 2 => some (true, (FCmp.ofLR r).map (Instr.vfcmp .lt))
    | 3 => some (true, (FCmp.ofLR r).map (Instr.vfcmp .le))
    | 4 => some (true, (FCmp.ofLR r).map (Instr.vfcmp .gt))
    | 5 => some (true, (FCmp.ofLR r).map (Instr.vfcmp .ge))
    | 6 => some (true, (FCmp.ofLR r).map (Instr.vfcmp .un))
    | _ => none
  | 63 =>
    match fn with
    | 0 => some (false, (FUn.ofLR r).map Instr.vfclass)
    | _ => none
  | 64 =>
    match fn with
    | 0 => some (true, (FBin.ofLR r).map Instr.vfdiv)
    | _ => none
  | 65 =>
    match fn with
    | 0 => some (false, (FUn.ofLR r).map Instr.vfsqrt)
    | _ => none
  | 66 =>
    match fn with
    | 0 => some (false, (FUn.ofLR r).map Instr.vfabs)
    | 1 => some (false, (FUn.ofLR r).map Instr.vfneg)
    | 2 => some (true, (FTy.ofCode r.ty).bind fun ty => if r.rm == 0 && r.md == 0 && r.slot true then some (.vfsgn r.g ty r.d r.a r.vlit) else none)
    | _ => none
  | 67 =>
    match fn with
    | 0 => some (false, (FUn.ofLR r).map Instr.vrcp)
    | _ => none
  | 68 =>
    match fn with
    | 0 => some (false, (FUn.ofLR r).map Instr.vrsqrt)
    | _ => none
  | 69 =>
    match fn with
    | 0 => some (false, (FUn.ofLR r).map Instr.vexp2)
    | _ => none
  | 70 =>
    match fn with
    | 0 => some (false, (FUn.ofLR r).map Instr.vlog2)
    | _ => none
  | 71 =>
    match fn with
    | 0 => some (false, (FUn.ofLR r).map Instr.vsin)
    | _ => none
  | 72 =>
    match fn with
    | 0 => some (false, (FUn.ofLR r).map Instr.vcos)
    | _ => none
  | 73 =>
    match fn with
    | 0 => some (false, (FUn.ofLR r).map Instr.vtanh)
    | _ => none
  | 74 =>
    match fn with
    | 0 => some (false, (FUn.ofLR r).map Instr.vsigm)
    | _ => none
  | 76 =>
    match fn with
    | 0 => some (false, (RandSrc.ofLR r).bind fun a => if r.rm == 0 && r.ty == 0 && r.b == 0 then some (.vrand r.g r.d a) else none)
    | 1 => some (false, (RandSrc.ofLR r).bind fun a => if r.rm == 0 && r.ty == 0 && r.b == 0 then some (.vrandUnif r.g r.d a) else none)
    | _ => none
  | 77 =>
    match fn with
    | 0 => some (false, if r.sys && r.d == 0 && r.b == 0 && s7 r.a then some (.vrseed (.reg (r.a.setWidth 7))) else none)
    | _ => none
  | 80 =>
    match fn with
    | 0 => some (false, (P3.ofLR r).map Instr.pand)
    | 1 => some (false, (P3.ofLR r).map Instr.por)
    | 2 => some (false, (P3.ofLR r).map Instr.pxor)
    | 3 => some (false, if r.rm == 0 && r.ty == 0 && r.md == 0 && r.b == 0 && p4 r.d && p4 r.a then some (.pnot r.g (r.d.setWidth 4) (r.a.setWidth 4)) else none)
    | _ => none
  | 81 =>
    match fn with
    | 0 => some (false, if r.rm == 0 && r.ty == 0 && r.md == 0 && r.b == 0 && p4 r.d && p4 r.a then some (.pmov r.g (r.d.setWidth 4) (r.a.setWidth 4)) else none)
    | 1 => some (false, if r.rm == 0 && r.ty == 0 && r.md == 0 && r.b == 0 && p4 r.d && s7 r.a then some (.pmovS2p r.g (r.d.setWidth 4) (r.a.setWidth 7)) else none)
    | 2 => some (false, if r.rm == 0 && r.ty == 0 && r.md == 0 && r.b == 0 && s7 r.d && p4 r.a then some (.pmovP2s r.g (r.d.setWidth 7) (r.a.setWidth 4)) else none)
    | _ => none
  | 82 =>
    match fn with
    | 0 => some (true, (Shuf.ofLR r).map Instr.vshuf)
    | 1 => some (true, (Shuf.ofLR r).map Instr.vshufUp)
    | 2 => some (true, (Shuf.ofLR r).map Instr.vshufDn)
    | 3 => some (true, (Shuf.ofLR r).map Instr.vshufRot)
    | _ => none
  | 83 =>
    match fn with
    | 0 => some (true, (BTy.ofCode r.ty).bind fun ty => if r.rm == 0 && r.md == 0 && r.slot true then some (.vperm r.g ty r.d r.a r.vlit) else none)
    | _ => none
  | 84 =>
    match fn with
    | 0 => some (false, redOf (redI .add) Instr.vred r)
    | 1 => some (false, redOf (redI .min) Instr.vred r)
    | 2 => some (false, redOf (redI .max) Instr.vred r)
    | 3 => some (false, redOf (redI .and) Instr.vred r)
    | 4 => some (false, redOf (redI .or) Instr.vred r)
    | 5 => some (false, redOf (redI .xor) Instr.vred r)
    | 6 => some (false, redOf (redF .fadd) Instr.vred r)
    | 7 => some (false, redOf (redF .fmin) Instr.vred r)
    | 8 => some (false, redOf (redF .fmax) Instr.vred r)
    | _ => none
  | 85 =>
    match fn with
    | 0 => some (false, redOf (redI .add) Instr.vscan r)
    | 1 => some (false, redOf (redI .min) Instr.vscan r)
    | 2 => some (false, redOf (redI .max) Instr.vscan r)
    | 3 => some (false, redOf (redI .and) Instr.vscan r)
    | 4 => some (false, redOf (redI .or) Instr.vscan r)
    | 5 => some (false, redOf (redI .xor) Instr.vscan r)
    | 6 => some (false, redOf (redF .fadd) Instr.vscan r)
    | 7 => some (false, redOf (redF .fmin) Instr.vscan r)
    | 8 => some (false, redOf (redF .fmax) Instr.vscan r)
    | 16 => some (false, redOf (redI .add) Instr.vscanEx r)
    | 17 => some (false, redOf (redI .min) Instr.vscanEx r)
    | 18 => some (false, redOf (redI .max) Instr.vscanEx r)
    | 19 => some (false, redOf (redI .and) Instr.vscanEx r)
    | 20 => some (false, redOf (redI .or) Instr.vscanEx r)
    | 21 => some (false, redOf (redI .xor) Instr.vscanEx r)
    | 22 => some (false, redOf (redF .fadd) Instr.vscanEx r)
    | 23 => some (false, redOf (redF .fmin) Instr.vscanEx r)
    | 24 => some (false, redOf (redF .fmax) Instr.vscanEx r)
    | _ => none
  | 86 =>
    match fn with
    | 0 => some (false, if r.rm == 0 && r.ty == 0 && r.md == 0 && r.b == 0 && s7 r.d && p4 r.a then some (.vballot r.g (r.d.setWidth 7) (r.a.setWidth 4)) else none)
    | 1 => some (false, if r.rm == 0 && r.ty == 0 && r.md == 0 && r.b == 0 && s7 r.d && p4 r.a then some (.vballotCnt r.g (r.d.setWidth 7) (r.a.setWidth 4)) else none)
    | _ => none
  | 87 =>
    match fn with
    | 0 => some (true, match BTy.ofCode r.ty, USrc.ofLR r with | some ty, some b => if r.noG && r.rm == 0 && s7 r.d then some (.vlane ty (r.d.setWidth 7) r.a b) else none | _, _ => none)
    | 1 => some (false, if r.rm == 0 && r.ty == 0 && r.md == 0 && r.b == 0 && r.a == 0 then some (.vlaneId r.g r.d) else none)
    | _ => none
  | 88 =>
    match fn with
    | 0 => some (true, match BTy.ofCode r.ty, BcSrc.ofLR r with | some ty, some b => if r.rm == 0 then some (.vbcast r.g ty r.d r.a b) else none | _, _ => none)
    | _ => none
  | 106 =>
    match fn with
    | 0 => some (false, if r.sys && r.dz && r.az && r.bz then some .fence else none)
    | 1 => some (false, if r.sys && r.dz && r.az && r.bz then some .fenceA else none)
    | 2 => some (false, if r.sys && r.dz && r.az && r.bz then some .fenceR else none)
    | 3 => some (false, if r.sys && r.dz && r.bz && s7 r.a then some (.waitc .g (r.a.setWidth 7)) else none)
    | 4 => some (false, if r.sys && r.dz && r.bz && s7 r.a then some (.waitc .t (r.a.setWidth 7)) else none)
    | 5 => some (false, if r.sys && r.dz && r.bz && s7 r.a then some (.waitc .k (r.a.setWidth 7)) else none)
    | 6 => some (false, if r.sys && r.dz && r.bz && s7 r.a then some (.waitc .c (r.a.setWidth 7)) else none)
    | 7 => some (false, if r.sys && r.dz && r.bz && s7 r.a then some (.waitc .m (r.a.setWidth 7)) else none)
    | _ => none
  | 112 =>
    match fn with
    | 0 => some (false, if r.sys && decide (r.d.toNat < 4) && r.bz && s7 r.a then some (.gangset (r.d.setWidth 2) (r.a.setWidth 7)) else none)
    | _ => none
  | 113 =>
    match fn with
    | 0 => some (false, (MmaOp.ofLR false r).map Instr.mma)
    | 1 => some (false, (MmaOp.ofLR true r).map Instr.mma)
    | _ => none
  | 114 =>
    match fn with
    | 0 => some (false, (MmaOp.ofLR false r).map Instr.mmas)
    | 1 => some (false, (MmaOp.ofLR true r).map Instr.mmas)
    | _ => none
  | 115 =>
    match fn with
    | 0 => some (false, (MmaOp.ofLR false r).map Instr.mmag)
    | 1 => some (false, (MmaOp.ofLR true r).map Instr.mmag)
    | _ => none
  | 116 =>
    match fn with
    | 0 => some (false, if r.sys && r.dz && s7 r.a && s7 r.b then some (.bload (r.a.setWidth 7) (r.b.setWidth 7)) else none)
    | 1 => some (false, if r.sys && r.dz && s7 r.a && s7 r.b then some (.bloadg (r.a.setWidth 7) (r.b.setWidth 7)) else none)
    | 2 => some (false, if r.sys && r.dz && r.bz && s7 r.a then some (.brel (r.a.setWidth 7)) else none)
    | _ => none
  | 117 =>
    match fn with
    | 0 => some (false, if r.noG && r.rm == 0 && r.ty == 0 && r.az && r.bz && t6 r.d then some (.accz (r.d.setWidth 6) r.md) else none)
    | 1 => some (false, if r.rm == 0 && r.ty == 0 && r.md == 0 && t6 r.a && s7 r.b then some (.accrd r.g r.d (r.a.setWidth 6) (r.b.setWidth 7)) else none)
    | 2 => some (false, if r.rm == 0 && r.ty == 0 && r.md == 0 && t6 r.d && s7 r.b then some (.accwr r.g (r.d.setWidth 6) r.a (r.b.setWidth 7)) else none)
    | _ => none
  | 118 =>
    match fn with
    | 0 => some (false, (Rm.ofCode r.rm).bind fun rm => if r.noG && r.ty == 0 && decide (r.md.toNat < 2) && r.dz && s7 r.a && s7 r.b then some (.qntz rm (r.md == 1) (r.a.setWidth 7) (r.b.setWidth 7)) else none)
    | _ => none
  | 119 =>
    match fn with
    | 0 => some (false, (Rm.ofCode r.rm).bind fun rm => if r.noG && r.ty == 0 && r.md == 0 && r.dz && s7 r.a && s7 r.b then some (.dqnt rm (r.a.setWidth 7) (r.b.setWidth 7)) else none)
    | _ => none
  | 120 =>
    match fn with
    | 0 => some (false, if r.sys && p4 r.d && s7 r.a && r.bz then some (.bcopy (r.d.setWidth 4) (r.a.setWidth 7)) else none)
    | 1 => some (false, if r.sys && p4 r.d && s7 r.a && s7 r.b then some (.bcopy2d (r.d.setWidth 4) (r.a.setWidth 7) (r.b.setWidth 7)) else none)
    | 2 => some (false, if r.sys && p4 r.d && s7 r.a && s7 r.b then some (.bapnd (r.d.setWidth 4) (r.a.setWidth 7) (r.b.setWidth 7)) else none)
    | _ => none
  | 121 =>
    match fn with
    | 0 => some (false, if r.sys && p4 r.d && s7 r.a && s7 r.b then some (.bchk (r.d.setWidth 4) (r.a.setWidth 7) (r.b.setWidth 7)) else none)
    | 1 => some (false, if r.sys && p4 r.d && r.az && s7 r.b then some (.bchkin (r.d.setWidth 4) (r.b.setWidth 7)) else none)
    | _ => none
  | 122 =>
    match fn with
    | 0 => some (false, if r.sys && p4 r.d && s7 r.a && r.bz then some (.barinit (r.d.setWidth 4) (r.a.setWidth 7)) else none)
    | 1 => some (false, if r.sys && p4 r.d && s7 r.a && r.bz then some (.barexp (r.d.setWidth 4) (r.a.setWidth 7)) else none)
    | 2 => some (false, if r.sys && s7 r.d && p4 r.a && r.bz then some (.bararr (r.d.setWidth 7) (r.a.setWidth 4)) else none)
    | 3 => some (false, if r.sys && r.dz && p4 r.a && s7 r.b then some (.barwait (r.a.setWidth 4) (r.b.setWidth 7)) else none)
    | 4 => some (false, if r.sys && s7 r.d && p4 r.a && s7 r.b then some (.bartry (r.d.setWidth 7) (r.a.setWidth 4) (r.b.setWidth 7)) else none)
    | 5 => some (false, if r.sys && r.dz && r.az && r.bz then some .tbar else none)
    | 6 => some (false, if r.sys && r.dz && r.az && r.bz then some .cbar else none)
    | _ => none
  | 123 =>
    match fn with
    | 0 => some (false, if r.sys && s7 r.d && r.az && r.bz then some (.tileget (r.d.setWidth 7)) else none)
    | 1 => some (false, if r.sys && s7 r.d && r.az && r.bz then some (.tilestat (r.d.setWidth 7)) else none)
    | _ => none
  | 124 =>
    match fn with
    | 1 => some (false, if r.sys && r.dz && r.az && r.bz then some .tret else none)
    | 4 => some (false, if r.sys && s7 r.d && r.az && r.bz then some (.clock (r.d.setWidth 7)) else none)
    | 5 => some (false, if r.sys && s7 r.d && r.az && r.bz then some (.clockC (r.d.setWidth 7)) else none)
    | 6 => some (false, if r.sys && r.dz && s7 r.a && r.bz then some (.sleep (r.a.setWidth 7)) else none)
    | 7 => some (false, if r.sys && r.dz && s7 r.a && s7 r.b then some (.evsig (r.a.setWidth 7) (r.b.setWidth 7)) else none)
    | _ => none
  | 125 =>
    match fn with
    | 0 => some (false, if r.sys && s7 r.d && r.az && r.bz then some (.ckopen (r.d.setWidth 7)) else none)
    | 1 => some (false, if r.sys && s7 r.d && s7 r.a && r.bz then some (.ckclose (r.d.setWidth 7) (r.a.setWidth 7)) else none)
    | 2 => some (false, if r.sys && s7 r.d && r.az && r.bz then some (.ckcost (r.d.setWidth 7)) else none)
    | _ => none
  | 126 =>
    match fn with
    | 0 => some (false, if r.sys && r.dz && r.az && r.bz then some .dbgbrk else none)
    | 1 => some (false, if r.sys && r.dz && s7 r.a && r.bz then some (.dbgstep (r.a.setWidth 7)) else none)
    | 2 => some (false, if r.sys && s7 r.d && s7 r.a && r.bz then some (.perfrd (r.d.setWidth 7) (r.a.setWidth 7)) else none)
    | _ => none
  | _ => none

/-- VCVT names its destination format in FN (R218); every FN value is a function. -/
def vcvtOf (r : LR) : Option Instr :=
  (Rm.ofCode r.rm).bind fun rm =>
    if r.ty == 0 && decide (r.md.toNat < 8) && decide (r.b.toNat < 64) then
      some (.vcvt r.g rm (r.md.getLsbD 0) (r.md.extractLsb' 1 2) r.fn (r.b.setWidth 6) r.d r.a) else none

/-- Formats of the long words of an opcode (R173): 1 LB, 2 LQ, 3 LM, 4 LR, 5 LI, 6 LR and LI; 0 none. -/
def longFmt (op : Nat) : Nat :=
  if op ∈ [1, 2, 3, 5, 6] then 1 else
  if op ∈ [24, 35, 49, 52, 59] then 2 else
  if op ∈ [96, 97, 98, 99, 100, 101, 102, 103, 104, 105, 107, 108, 109] then 3 else
  if op ∈ [16, 17, 18, 19, 20, 21, 22, 23, 27, 29, 32, 33, 34, 36, 37, 38, 40, 41, 42, 43, 44, 45, 46, 48, 50, 51, 56, 57, 58, 60, 61, 62, 64, 77, 81, 88, 124] then 6 else
  if op ∈ [4, 7, 8, 9, 10, 12, 28, 39, 47, 63, 65, 66, 67, 68, 69, 70, 71, 72, 73, 74, 75, 76, 80, 82, 83, 84, 85, 86, 87, 106, 112, 113, 114, 115, 116, 117, 118, 119, 120, 121, 122, 123, 125, 126] then 4 else
  if op ∈ [25, 26] then 5 else
  0
/-- Formats of the short words (R173): 1 SR, 2 SI, 3 SB, 4 SR and SI (SADD); 0 none. -/
def shortFmt (op : Nat) : Nat :=
  if op ∈ [16] then 4 else
  if op ∈ [0, 8, 9, 11, 17, 18, 20, 21, 27, 32, 33, 34, 40, 41, 42, 44, 45, 51, 56, 57, 58] then 1 else
  if op ∈ [26] then 2 else
  if op ∈ [1, 6] then 3 else
  0
/-- Opcodes of which some function admits the 96-bit length (R167, R173). -/
def admits96 (op : Nat) : Bool := decide (op ∈ [10, 16, 17, 18, 19, 20, 21, 22, 23, 24, 25, 26, 27, 29, 32, 33, 34, 35, 36, 37, 38, 40, 41, 42, 43, 44, 45, 46, 48, 49, 50, 51, 52, 56, 57, 58, 59, 60, 61, 62, 64, 66, 77, 81, 82, 83, 87, 88, 96, 97, 98, 99, 100, 101, 102, 103, 104, 105, 107, 108, 109, 124])

/-! ## Decoding a word (R174) -/

/-- Why a word is not an instruction: the cause of R174. -/
inductive DecodeError
  /-- rows 1 to 4: ILLEGAL_OPCODE. -/
  | opcode
  /-- rows 5 to 8: ILLEGAL_OPERAND. -/
  | operand
deriving DecidableEq, Repr

/-- Bytes that bits [1:0] of word 0 give (R164); 4 for 0b11. -/
def lenOf (w : IWord) : Nat :=
  let l := w.extractLsb' 0 2
  if l = 1 then 8 else if l = 2 then 12 else 4
def opOf (w : IWord) : Nat := (w.extractLsb' 2 7).toNat

/-- Rows 4 to 8 once the function has been looked up: the static limits are `Instr.wf`. -/
def finish (is96 : Bool) : Option (Bool × Option Instr) → Except DecodeError Instr
  | none => .error .opcode
  | some (l96, i) =>
    if is96 && !l96 then .error .operand
    else match i with
      | none => .error .operand
      | some i => if i.wf then .ok i else .error .operand

/-- A one-word instruction. -/
def decodeShort (w : IWord) : Except DecodeError Instr :=
  let op := opOf w
  let k := shortFmt op
  if k = 1 then finish false (srFn op (SR.ofWord w).sub.toNat (SR.ofWord w))
  else if k = 2 then finish false (siFn op 0 (SI.ofWord w))
  else if k = 3 then finish false (sbFn op 0 (SB.ofWord w))
  else if k = 4 then
    if w.getLsbD 31 then finish false (siFn op (if w.getLsbD 30 then 1 else 0) (SI.ofWord w))
    else finish false (srFn op (if w.getLsbD 30 then 1 else 0) (SR.ofWord w))
  else .error .operand

/-- A two- or three-word instruction. -/
def decodeLong (is96 : Bool) (w : IWord) : Except DecodeError Instr :=
  let op := opOf w
  let lit : Option Word := if is96 then some (w.extractLsb' 64 32) else none
  let k := longFmt op
  if is96 && !admits96 op then .error .operand
  else if k = 1 then finish is96 (lbFn op (LB.ofWord w).fn3.toNat (LB.ofWord w))
  else if k = 2 then finish is96 (lqFn op 0 (LQ.ofWord lit w))
  else if k = 3 then finish is96 (lmFn op (LM.ofWord lit w).fn4.toNat (LM.ofWord lit w))
  else if op = 0x4B then finish is96 (some (false, vcvtOf (LR.ofWord lit w)))
  else if k = 4 then finish is96 (lrFn op (LR.ofWord lit w).fn.toNat (LR.ofWord lit w))
  else if k = 5 then
    if w.getLsbD 63 then finish is96 (liFn op ((LI.ofWord lit w).fn.toNat % 32) (LI.ofWord lit w)) else .error .opcode
  else if k = 6 then
    if w.getLsbD 63 then finish is96 (liFn op ((LI.ofWord lit w).fn.toNat % 32) (LI.ofWord lit w))
    else finish is96 (lrFn op (LR.ofWord lit w).fn.toNat (LR.ofWord lit w))
  else .error .operand

/-- The instruction that the 96 bits at a PC begin with, or the fate of R174. -/
def decode (w : IWord) : Except DecodeError Instr :=
  let l := w.extractLsb' 0 2
  let op := opOf w
  if l = 3 then .error .opcode
  else if longFmt op = 0 ∧ shortFmt op = 0 then .error .opcode
  else if l = 0 then decodeShort w
  else if l = 1 then decodeLong false w
  else decodeLong true w

/-- Decode, as an option. -/
def decode? (w : IWord) : Option Instr :=
  match decode w with | .ok i => some i | .error _ => none

/-! ## Encoding, from the same tables -/

def litBits : Option Word → Word | none => 0 | some x => x
def lenBits : Option Word → BitVec 2 | none => 1 | some _ => 2
def gnBits (g : Guard) : BitVec 1 := if g.gn then 1 else 0

def LQ.word (op : BitVec 7) (r : LQ) : IWord :=
  litBits r.lit ++ (r.c ++ (r.b ++ (r.a ++ (r.d ++ (r.gn ++ (r.gp ++ (r.rm ++ (r.ty ++ (op ++ lenBits r.lit)))))))))
def LR.word (op : BitVec 7) (r : LR) : IWord :=
  litBits r.lit ++ (r.md ++ (r.fn ++ (r.b ++ (r.a ++ (r.d ++ (r.gn ++ (r.gp ++ (r.rm ++ (r.ty ++ (op ++ lenBits r.lit))))))))))
def LI.word (op : BitVec 7) (r : LI) : IWord :=
  litBits r.lit ++ (r.fn ++ (r.imm ++ (r.a ++ (r.d ++ (r.gn ++ (r.gp ++ (r.rm ++ (r.ty ++ (op ++ lenBits r.lit)))))))))
def LM.word (op : BitVec 7) (r : LM) : IWord :=
  litBits r.lit ++ (r.off ++ (r.fn4 ++ (r.am ++ (r.x ++ (r.base ++ (r.d ++ (r.gn ++ (r.gp ++ (r.ord ++ (r.wd ++
    (op ++ lenBits r.lit)))))))))))
def LB.word (op : BitVec 7) (r : LB) : IWord :=
  (0 : Word) ++ (r.disp ++ (r.a ++ (r.gn ++ (r.gp ++ (r.r3 ++ (r.fn3 ++ (op ++ (1 : BitVec 2))))))))
def SR.word (op : BitVec 7) (r : SR) : IWord :=
  (0 : BitVec 64) ++ (r.sub ++ (r.b ++ (r.a ++ (r.d ++ (op ++ (0 : BitVec 2))))))
def SI.word (op : BitVec 7) (r : SI) : IWord := (0 : BitVec 64) ++ (r.imm ++ (r.d ++ (op ++ (0 : BitVec 2))))
def SB.word (op : BitVec 7) (r : SB) : IWord := (0 : BitVec 64) ++ (r.disp ++ (op ++ (0 : BitVec 2)))

/-- An LR word with no literal and no modifier. -/
def lr (op : BitVec 7) (fn : BitVec 6) (g : Guard) (ty : BitVec 3) (d a b : BitVec 11) : IWord :=
  LR.word op { lit := none, md := 0, fn := fn, b := b, a := a, d := d, gn := gnBits g, gp := g.gp, rm := 0, ty := ty }
def noGuard : Guard := { gp := 0, gn := false }
def lr0 (op : BitVec 7) (fn : BitVec 6) (d a b : BitVec 11) : IWord := lr op fn noGuard 0 d a b
def s11 (x : BitVec 7) : BitVec 11 := x.setWidth 11
def q11 (x : BitVec 4) : BitVec 11 := x.setWidth 11
def li (op : BitVec 7) (fn : BitVec 6) (g : Guard) (ty : BitVec 3) (d a : BitVec 11) : Imm → IWord
  | .i16 x => LI.word op { lit := none, fn := fn, imm := x, a := a, d := d, gn := gnBits g, gp := g.gp, rm := 0, ty := ty }
  | .i32 x => LI.word op { lit := some x, fn := fn, imm := 0, a := a, d := d, gn := gnBits g, gp := g.gp, rm := 0, ty := ty }
def sr3 (op : BitVec 7) (sub : BitVec 2) (r : SR3) : IWord := SR.word op { sub := sub, b := r.b, a := r.a, d := r.d }
def srOne (op : BitVec 7) (sub : BitVec 2) (b a d : BitVec 7) : IWord := SR.word op { sub := sub, b := b, a := a, d := d }
/-- An LR or LI word as the second source directs; `fn` is the function number, FN[5] marks LI. -/
def srcWord (op : BitVec 7) (fn : BitVec 5) (g : Guard) (rm ty : BitVec 3) (d a : BitVec 11) : VSrc → IWord
  | .reg b => LR.word op { lit := none, md := 0, fn := fn.setWidth 6, b := b, a := a, d := d, gn := gnBits g, gp := g.gp,
                           rm := rm, ty := ty }
  | .rlit x => LR.word op { lit := some x, md := 0, fn := fn.setWidth 6, b := 0, a := a, d := d, gn := gnBits g, gp := g.gp,
                            rm := rm, ty := ty }
  | .imm x => LI.word op { lit := none, fn := 1#1 ++ fn, imm := x, a := a, d := d, gn := gnBits g, gp := g.gp,
                           rm := rm, ty := ty }
  | .ilit x => LI.word op { lit := some x, fn := 1#1 ++ fn, imm := 0, a := a, d := d, gn := gnBits g, gp := g.gp,
                            rm := rm, ty := ty }
def SSrc.v : SSrc → VSrc
  | .reg b => .reg (s11 b) | .rlit x => .rlit x | .imm x => .imm x | .ilit x => .ilit x
def SBin.word (op : BitVec 7) (fn : BitVec 5) (x : SBin) : IWord :=
  srcWord op fn noGuard 0 x.ty.code (s11 x.d) (s11 x.a) x.b.v
def VBin.word (op : BitVec 7) (fn : BitVec 5) (x : VBin) : IWord := srcWord op fn x.g 0 x.ty.code x.d x.a x.b
def BBin.word (op : BitVec 7) (fn : BitVec 5) (x : BBin) : IWord := srcWord op fn x.g 0 x.ty.code x.d x.a x.b
def VCmp.word (op : BitVec 7) (fn : BitVec 5) (x : VCmp) : IWord := srcWord op fn x.g 0 x.ty.code (q11 x.d) x.a x.b
def FBin.word (op : BitVec 7) (x : FBin) : IWord := srcWord op 0 x.g x.rm.code x.ty.code x.d x.a x.b
def FCmp.word (op : BitVec 7) (fn : BitVec 5) (x : FCmp) : IWord := srcWord op fn x.g 0 x.ty.code (q11 x.d) x.a x.b
def FUn.word (op : BitVec 7) (fn : BitVec 5) (x : FUn) : IWord := srcWord op fn x.g x.rm.code x.ty.code x.d x.a (.reg 0)
def VUn.word (op : BitVec 7) (fn : BitVec 6) (x : VUn) : IWord := lr op fn x.g x.ty.code x.d x.a 0
def BUn.word (op : BitVec 7) (fn : BitVec 6) (x : BUn) : IWord := lr op fn x.g x.ty.code x.d x.a 0
def SUn.word (op : BitVec 7) (fn : BitVec 6) (x : SUn) : IWord := lr op fn noGuard x.ty.code (s11 x.d) (s11 x.a) 0
def P3.word (fn : BitVec 6) (x : P3) : IWord := lr 0x50 fn x.g 0 (q11 x.d) (q11 x.a) (q11 x.b)
def lqWord (op : BitVec 7) (g : Guard) (rm ty : BitVec 3) (d a : BitVec 11) (b : VLit) (c : BitVec 11) : IWord :=
  match b with
  | .reg b => LQ.word op { lit := none, c := c, b := b, a := a, d := d, gn := gnBits g, gp := g.gp, rm := rm, ty := ty }
  | .lit x => LQ.word op { lit := some x, c := c, b := 0, a := a, d := d, gn := gnBits g, gp := g.gp, rm := rm, ty := ty }
def SLit.v : SLit → VLit
  | .reg b => .reg (s11 b) | .lit x => .lit x
def VLit.src : VLit → VSrc
  | .reg b => .reg b | .lit x => .rlit x
def uniWord (op : BitVec 7) (fn : BitVec 6) (g : Guard) (ty : BitVec 3) (d a : BitVec 11) : USrc → IWord
  | .reg b => LR.word op { lit := none, md := 0, fn := fn, b := s11 b, a := a, d := d, gn := gnBits g, gp := g.gp, rm := 0, ty := ty }
  | .vu b => LR.word op { lit := none, md := 8, fn := fn, b := b, a := a, d := d, gn := gnBits g, gp := g.gp, rm := 0, ty := ty }
  | .lit x => LR.word op { lit := some x, md := 0, fn := fn, b := 0, a := a, d := d, gn := gnBits g, gp := g.gp, rm := 0, ty := ty }
def Shuf.word (fn : BitVec 6) (x : Shuf) : IWord := uniWord 0x52 fn x.g x.ty.code x.d x.a x.b
def bcWord (g : Guard) (ty : BitVec 3) (d a : BitVec 11) : BcSrc → IWord
  | .reg b => uniWord 0x58 0 g ty d a (.reg b)
  | .vu b => uniWord 0x58 0 g ty d a (.vu b)
  | .rlit x => uniWord 0x58 0 g ty d a (.lit x)
  | .imm x => li 0x58 0x20 g ty d a (.i16 x)
  | .ilit x => li 0x58 0x20 g ty d a (.i32 x)
def randWord (fn : BitVec 6) (g : Guard) (d : BitVec 11) : RandSrc → IWord
  | .reg a => LR.word 0x4C { lit := none, md := 0, fn := fn, b := 0, a := s11 a, d := d, gn := gnBits g, gp := g.gp, rm := 0, ty := 0 }
  | .vu a => LR.word 0x4C { lit := none, md := 8, fn := fn, b := 0, a := a, d := d, gn := gnBits g, gp := g.gp, rm := 0, ty := 0 }
def RedFn.code : RedFn → BitVec 6 | .add => 0 | .min => 1 | .max => 2 | .and => 3 | .or => 4 | .xor => 5
def FRedFn.code : FRedFn → BitVec 6 | .fadd => 6 | .fmin => 7 | .fmax => 8
def RedOp.fn : RedOp → BitVec 6
  | .int f _ => f.code | .flt f _ => f.code
def RedOp.ty : RedOp → BitVec 3
  | .int _ t => t.code | .flt _ t => t.code
def redWord (op : BitVec 7) (base : BitVec 6) (o : RedOp) (g : Guard) (rm : Rm) (d a : BitVec 11) : IWord :=
  LR.word op { lit := none, md := 0, fn := base + o.fn, b := 0, a := a, d := d, gn := gnBits g, gp := g.gp,
               rm := rm.code, ty := o.ty }
def Rel.code : Rel → BitVec 5 | .eq => 0 | .ne => 1 | .lt => 2 | .le => 3 | .gt => 4 | .ge => 5
def FRel.code : FRel → BitVec 5 | .eq => 0 | .ne => 1 | .lt => 2 | .le => 3 | .gt => 4 | .ge => 5 | .un => 6
def Hint.code : Hint → BitVec 4 | .none => 3 | .cold => 4 | .warm => 5 | .hot => 6 | .repl => 7
def Path.code : Path → BitVec 6 | .g => 3 | .t => 4 | .k => 5 | .c => 6 | .m => 7
def Addr.am : Addr → BitVec 3
  | .base _ => 0 | .zx _ _ => 1 | .sx _ _ => 2 | .vec _ => 3 | .spill => 4
def Addr.baseF : Addr → BitVec 7
  | .base b => b | .zx b _ => b | .sx b _ => b | .vec _ => 0 | .spill => 0
def Addr.xF : Addr → BitVec 11
  | .base _ => 0 | .zx _ x => x | .sx _ x => x | .vec x => x | .spill => 0
def Off.lit : Off → Option Word
  | .o8 _ => none | .o32 x => some x
def Off.o8F : Off → BitVec 8
  | .o8 x => x | .o32 _ => 0
def lmWord (op : BitVec 7) (fn4 : BitVec 4) (g : Guard) (ord wd : BitVec 3) (d : BitVec 11) (ad : Addr) (off : Off) : IWord :=
  LM.word op { lit := off.lit, off := off.o8F, fn4 := fn4, am := ad.am, x := ad.xF, base := ad.baseF, d := d,
               gn := gnBits g, gp := g.gp, ord := ord, wd := wd }
def Mem.word (op : BitVec 7) (fn4 : BitVec 4) (m : Mem) : IWord := lmWord op fn4 m.g m.ord.code m.w.code m.d m.ad m.off
def hintWord (fn4 : BitVec 4) (g : Guard) (ad : Addr) (off : Off) : IWord := lmWord 0x67 fn4 g 0 0 0 ad off
def ApndOp.word (x : ApndOp) : IWord :=
  LM.word 0x6B { lit := x.off.lit, off := x.off.o8F, fn4 := x.cnt, am := 0, x := x.st ++ x.pf, base := x.base, d := x.d,
                 gn := gnBits x.g, gp := x.g.gp, ord := 0, wd := x.w.code }
def PageOp.word (op : BitVec 7) (x : PageOp) : IWord := lmWord op 0 noGuard 0 0 (s11 x.d) (.base x.base) x.off
def lbWord (op : BitVec 7) (fn3 : BitVec 3) (g : Guard) (a : BitVec 11) (disp : BitVec 33) : IWord :=
  LB.word op { disp := disp, a := a, gn := gnBits g, gp := g.gp, r3 := 0, fn3 := fn3 }
def MmaOp.word (op : BitVec 7) (x : MmaOp) : IWord :=
  LR.word op { lit := none, md := x.gang.setWidth 5, fn := if x.z then 1 else 0, b := s11 x.b, a := s11 x.a,
               d := x.d.setWidth 11, gn := 0, gp := 0, rm := 0, ty := 0 }
/-- An LR word of opcodes 0x76 and 0x77. -/
def quantWord (op : BitVec 7) (rm : Rm) (sat : Bool) (a b : BitVec 7) : IWord :=
  LR.word op { lit := none, md := if sat then 1 else 0, fn := 0, b := s11 b, a := s11 a, d := 0, gn := 0, gp := 0,
               rm := rm.code, ty := 0 }
/-- R-type custom-0 word (R332) in the low 32 bits. -/
def customWord (funct3 : BitVec 3) (rd rs1 rs2 : BitVec 5) : IWord :=
  (0 : BitVec 64) ++ ((0 : BitVec 7) ++ (rs2 ++ (rs1 ++ (funct3 ++ (rd ++ (0x0B : BitVec 7))))))

/-- The words of an instruction, word 0 in the low 32 bits; `none` for an event, which has no words. -/
def encode : Instr → Option IWord
  | .nop => some (srOne 0 1 0 0 0)
  | .braSb x => some (SB.word 1 { disp := x })
  | .bra x => some (lbWord 1 0 noGuard 0 x)
  | .brc r x => some (lbWord 2 0 noGuard (s11 r) x)
  | .brcZ r x => some (lbWord 2 1 noGuard (s11 r) x)
  | .brcLt r x => some (lbWord 2 2 noGuard (s11 r) x)
  | .brcGe r x => some (lbWord 2 3 noGuard (s11 r) x)
  | .brx g x => some (lbWord 3 0 g 0 x)
  | .jset g d => some (lr 4 0 g 0 (d.setWidth 11) 0 0)
  | .jsetSc d r => some (lr0 4 1 (d.setWidth 11) (s11 r) 0)
  | .join r x => some (lbWord 5 0 noGuard (r.setWidth 11) x)
  | .callSb x => some (SB.word 6 { disp := x })
  | .call g r x => some (lbWord 6 0 g r x)
  | .callStub g r x => some (lbWord 6 1 g r x)
  | .callx g d r => some (lr 7 0 g 0 d r 0)
  | .retSr r => some (srOne 8 0 0 r 0)
  | .ret g r => some (lr 8 0 g 0 0 r 0)
  | .exitSr => some (srOne 9 0 0 0 0)
  | .exit g => some (lr 9 0 g 0 0 0 0)
  | .exitchain g r b => some (srcWord 0x0A 0 g 0 0 0 (s11 r) b.v.src)
  | .yield => some (srOne 0x0B 0 0 0 0)
  | .xmrd d => some (lr0 0x0C 0 (s11 d) 0 0)
  | .xmwr r => some (lr0 0x0C 1 0 (s11 r) 0)
  | .saddSr f r => some (sr3 0x10 (if f then 1 else 0) r)
  | .saddSi f d i => some (SI.word 0x10 { imm := (if f then 3 else 2 : BitVec 2) ++ i, d := d })
  | .sadd f x => some (x.word 16 (if f then 1 else 0))
  | .ssubSr f r => some (sr3 17 (if f then 1 else 0) r)
  | .ssub f x => some (x.word 17 (if f then 1 else 0))
  | .smulSr f r => some (sr3 18 (if f then 1 else 0) r)
  | .smul f x => some (x.word 18 (if f then 1 else 0))
  | .sdiv f x => some (x.word 0x13 (if f then 1 else 0))
  | .sandSr r => some (sr3 20 0 r)
  | .sorSr r => some (sr3 20 1 r)
  | .sxorSr r => some (sr3 20 2 r)
  | .sandnSr r => some (sr3 20 3 r)
  | .sand x => some (x.word 20 0)
  | .sor x => some (x.word 20 1)
  | .sxor x => some (x.word 20 2)
  | .sandn x => some (x.word 20 3)
  | .sshlSr r => some (sr3 21 0 r)
  | .sshrSr r => some (sr3 21 1 r)
  | .ssraSr r => some (sr3 21 2 r)
  | .srotSr r => some (sr3 21 3 r)
  | .sshl x => some (x.word 21 0)
  | .sshr x => some (x.word 21 1)
  | .ssra x => some (x.word 21 2)
  | .srot x => some (x.word 21 3)
  | .smin x => some (x.word 0x16 0)
  | .smax x => some (x.word 0x16 1)
  | .scmp x => some (x.word 0x17 0)
  | .scmpRel r x => some (x.word 0x17 (r.code + 1))
  | .ssel d r b c => some (lqWord 0x18 noGuard 0 0 (s11 d) (s11 r) b.v (s11 c))
  | .slea d r i => some (li 0x19 0x20 noGuard 0 (s11 d) (s11 r) i)
  | .sliSi d x => some (SI.word 0x1A { imm := x, d := d })
  | .sli d r i => some (li 0x1A 0x20 noGuard 0 (s11 d) (s11 r) i)
  | .sliW d r i => some (li 0x1A 0x21 noGuard 0 (s11 d) (s11 r) i)
  | .smovSr d r => some (srOne 0x1B 0 0 r d)
  | .smov ty d (.reg r) => some (lr 0x1B 0 noGuard ty.code (s11 d) (s11 r) 0)
  | .smov ty d (.imm i) => some (li 0x1B 0x20 noGuard ty.code (s11 d) 0 i)
  | .sbit x => some (x.word 0x1C 0)
  | .sbitClz x => some (x.word 0x1C 1)
  | .sbitCtz x => some (x.word 0x1C 2)
  | .sbitRev x => some (x.word 0x1C 3)
  | .sbfx x => some (x.word 0x1D 0)
  | .sbfxIns x => some (x.word 0x1D 1)
  | .pand x => some (x.word 0)
  | .por x => some (x.word 1)
  | .pxor x => some (x.word 2)
  | .pnot g d r => some (lr 0x50 3 g 0 (q11 d) (q11 r) 0)
  | .pmov g d r => some (lr 0x51 0 g 0 (q11 d) (q11 r) 0)
  | .pmovS2p g d r => some (lr 0x51 1 g 0 (q11 d) (s11 r) 0)
  | .pmovP2s g d r => some (lr 0x51 2 g 0 (s11 d) (q11 r) 0)
  | .pmovImm g d i => some (li 0x51 0x20 g 0 (q11 d) 0 i)
  | .vaddSr f r => some (sr3 32 (if f then 1 else 0) r)
  | .vadd f x => some (x.word 32 (if f then 1 else 0))
  | .vsubSr f r => some (sr3 33 (if f then 1 else 0) r)
  | .vsub f x => some (x.word 33 (if f then 1 else 0))
  | .vmulSr f r => some (sr3 0x22 f r)
  | .vmul f x => some (x.word 0x22 (if f then 1 else 0))
  | .vmulHi x => some (x.word 0x22 2)
  | .vmad x => some (lqWord 0x23 x.g 0 x.ty.code x.d x.a x.b x.c)
  | .vdiv x => some (x.word 0x24 0)
  | .vdivRem x => some (x.word 0x24 1)
  | .vmin x => some (x.word 0x25 0)
  | .vmax x => some (x.word 0x26 0)
  | .vabs x => some (x.word 0x27 0)
  | .vneg x => some (x.word 0x27 1)
  | .vandSr r => some (sr3 40 0 r)
  | .vand x => some (x.word 40 0)
  | .vorSr r => some (sr3 41 0 r)
  | .vor x => some (x.word 41 0)
  | .vxorSr r => some (sr3 42 0 r)
  | .vxor x => some (x.word 42 0)
  | .vnot x => some (x.word 0x2B 0)
  | .vandn x => some (x.word 0x2B 1)
  | .vshlSr r => some (sr3 44 0 r)
  | .vshl x => some (x.word 44 0)
  | .vshrSr r => some (sr3 45 0 r)
  | .vshr x => some (x.word 45 0)
  | .vrot x => some (x.word 0x2E 0)
  | .vbit x => some (x.word 0x2F 0)
  | .vbitClz x => some (x.word 0x2F 1)
  | .vbitCtz x => some (x.word 0x2F 2)
  | .vbitRev x => some (x.word 0x2F 3)
  | .vbfx x => some (x.word 0x30 0)
  | .vbfxIns x => some (x.word 0x30 1)
  | .vsel g ty d r b c => some (lqWord 0x31 g 0 ty.code d r b (q11 c))
  | .vcmp r x => some (x.word 0x32 r.code)
  | .vmovSr d r => some (srOne 0x33 0 0 r d)
  | .vmov g ty d (.reg r) => some (lr 0x33 0 g ty.code d r 0)
  | .vmov g ty d (.imm i) => some (li 0x33 0x20 g ty.code d 0 i)
  | .vmovS2v g ty d r => some (lr 0x33 1 g ty.code d (s11 r) 0)
  | .vdot x => some (lqWord 0x34 x.g 0 x.ty.code x.d x.a x.b x.c)
  | .vfaddSr r => some (sr3 56 0 r)
  | .vfadd x => some (x.word 56)
  | .vfsubSr r => some (sr3 57 0 r)
  | .vfsub x => some (x.word 57)
  | .vfmulSr r => some (sr3 58 0 r)
  | .vfmul x => some (x.word 58)
  | .vfma x => some (lqWord 0x3B x.g x.rm.code x.ty.code x.d x.a x.b x.c)
  | .vfmin x => some (x.word 0x3C)
  | .vfmax x => some (x.word 0x3D)
  | .vfcmp r x => some (x.word 0x3E r.code)
  | .vfclass x => some (x.word 0x3F 0)
  | .vfdiv x => some (x.word 0x40)
  | .vfsqrt x => some (x.word 0x41 0)
  | .vfabs x => some (x.word 0x42 0)
  | .vfneg x => some (x.word 0x42 1)
  | .vfsgn g ty d r b => some (srcWord 0x42 2 g 0 ty.code d r b.src)
  | .vrcp x => some (x.word 67 0)
  | .vrsqrt x => some (x.word 68 0)
  | .vexp2 x => some (x.word 69 0)
  | .vlog2 x => some (x.word 70 0)
  | .vsin x => some (x.word 71 0)
  | .vcos x => some (x.word 72 0)
  | .vtanh x => some (x.word 73 0)
  | .vsigm x => some (x.word 74 0)
  | .vcvt g rm sat pt dst src d r => some (LR.word 0x4B { lit := none, md := (0 : BitVec 2) ++ (pt ++ BitVec.ofBool sat), fn := dst, b := src.setWidth 11, a := r, d := d, gn := gnBits g, gp := g.gp, rm := rm.code, ty := 0 })
  | .vrand g d r => some (randWord 0 g d r)
  | .vrandUnif g d r => some (randWord 1 g d r)
  | .vrseed (.reg r) => some (lr0 0x4D 0 0 (s11 r) 0)
  | .vrseed (.imm i) => some (li 0x4D 0x20 noGuard 0 0 0 i)
  | .vshuf x => some (x.word 0)
  | .vshufUp x => some (x.word 1)
  | .vshufDn x => some (x.word 2)
  | .vshufRot x => some (x.word 3)
  | .vperm g ty d r b => some (srcWord 0x53 0 g 0 ty.code d r b.src)
  | .vbcast g ty d r b => some (bcWord g ty.code d r b)
  | .vred o g rm d r => some (redWord 0x54 0 o g rm d r)
  | .vscan o g rm d r => some (redWord 0x55 0 o g rm d r)
  | .vscanEx o g rm d r => some (redWord 0x55 16 o g rm d r)
  | .vballot g d r => some (lr 0x56 0 g 0 (s11 d) (q11 r) 0)
  | .vballotCnt g d r => some (lr 0x56 1 g 0 (s11 d) (q11 r) 0)
  | .vlane ty d r b => some (uniWord 0x57 0 noGuard ty.code (s11 d) r b)
  | .vlaneId g d => some (lr 0x57 1 g 0 d 0 0)
  | .ld f m => some (m.word 96 (if f then 1 else 0))
  | .st m => some (m.word 97 0)
  | .lds f m => some (m.word 98 (if f then 1 else 0))
  | .sts m => some (m.word 99 0)
  | .ldk f m => some (m.word 100 (if f then 1 else 0))
  | .stk m => some (m.word 101 0)
  | .ldnr pf m => some (m.word 0x66 pf)
  | .pgreq g ad off => some (hintWord 0 g ad off)
  | .pref g ad off => some (hintWord 1 g ad off)
  | .prefL2 g ad off => some (hintWord 2 g ad off)
  | .memhint h g ad off => some (hintWord h.code g ad off)
  | .atom o m => some (m.word 0x68 o.code)
  | .atomH o m => some (m.word 0x69 o.code)
  | .fence => some (lr0 0x6A 0 0 0 0)
  | .fenceA => some (lr0 0x6A 1 0 0 0)
  | .fenceR => some (lr0 0x6A 2 0 0 0)
  | .waitc p r => some (lr0 0x6A p.code 0 (s11 r) 0)
  | .apnd x => some (x.word)
  | .seal x => some (x.word 0x6C)
  | .tailrd x => some (x.word 0x6D)
  | .gangset d r => some (lr0 0x70 0 (d.setWidth 11) (s11 r) 0)
  | .mma x => some (x.word 0x71)
  | .mmas x => some (x.word 0x72)
  | .mmag x => some (x.word 0x73)
  | .bload r b => some (lr0 0x74 0 0 (s11 r) (s11 b))
  | .bloadg r b => some (lr0 0x74 1 0 (s11 r) (s11 b))
  | .brel r => some (lr0 0x74 2 0 (s11 r) 0)
  | .accz d n => some (LR.word 0x75 { lit := none, md := n, fn := 0, b := 0, a := 0, d := d.setWidth 11, gn := 0, gp := 0, rm := 0, ty := 0 })
  | .accrd g d r b => some (lr 0x75 1 g 0 d (r.setWidth 11) (s11 b))
  | .accwr g d r b => some (lr 0x75 2 g 0 (d.setWidth 11) r (s11 b))
  | .qntz rm sat r b => some (quantWord 0x76 rm sat r b)
  | .dqnt rm r b => some (quantWord 0x77 rm false r b)
  | .bcopy d r => some (lr0 0x78 0 (q11 d) (s11 r) 0)
  | .bcopy2d d r b => some (lr0 0x78 1 (q11 d) (s11 r) (s11 b))
  | .bapnd d r b => some (lr0 0x78 2 (q11 d) (s11 r) (s11 b))
  | .bchk d r b => some (lr0 0x79 0 (q11 d) (s11 r) (s11 b))
  | .bchkin d b => some (lr0 0x79 1 (q11 d) 0 (s11 b))
  | .barinit d r => some (lr0 0x7A 0 (q11 d) (s11 r) 0)
  | .barexp d r => some (lr0 0x7A 1 (q11 d) (s11 r) 0)
  | .bararr d r => some (lr0 0x7A 2 (s11 d) (q11 r) 0)
  | .barwait r b => some (lr0 0x7A 3 0 (q11 r) (s11 b))
  | .bartry d r b => some (lr0 0x7A 4 (s11 d) (q11 r) (s11 b))
  | .tbar => some (lr0 0x7A 5 0 0 0)
  | .cbar => some (lr0 0x7A 6 0 0 0)
  | .tileget d => some (lr0 0x7B 0 (s11 d) 0 0)
  | .tilestat d => some (lr0 0x7B 1 (s11 d) 0 0)
  | .trap c => some (li 0x7C 0x20 noGuard 0 0 0 (.i16 c))
  | .tret => some (lr0 0x7C 1 0 0 0)
  | .csrrd d n => some (li 0x7C 0x22 noGuard 0 (s11 d) 0 (.i16 n))
  | .csrwr n r => some (li 0x7C 0x23 noGuard 0 0 (s11 r) (.i16 n))
  | .clock d => some (lr0 0x7C 4 (s11 d) 0 0)
  | .clockC d => some (lr0 0x7C 5 (s11 d) 0 0)
  | .sleep r => some (lr0 0x7C 6 0 (s11 r) 0)
  | .sleepImm i => some (li 0x7C 0x26 noGuard 0 0 0 i)
  | .evsig r b => some (lr0 0x7C 7 0 (s11 r) (s11 b))
  | .ckopen d => some (lr0 0x7D 0 (s11 d) 0 0)
  | .ckclose d r => some (lr0 0x7D 1 (s11 d) (s11 r) 0)
  | .ckcost d => some (lr0 0x7D 2 (s11 d) 0 0)
  | .dbgbrk => some (lr0 0x7E 0 0 0 0)
  | .dbgstep r => some (lr0 0x7E 1 0 (s11 r) 0)
  | .perfrd d r => some (lr0 0x7E 2 (s11 d) (s11 r) 0)
  | .waitpkt rd rs1 => some (customWord 0 rd rs1 0)
  | .evwake rs1 => some (customWord 1 0 rs1 0)
  | .crc32c rd rs1 rs2 => some (customWord 2 rd rs1 rs2)
  | _ => none

/-! ## Nolelavin custom-0 words (R332) -/

/-- A custom-0 word; `none` is the illegal-instruction exception. -/
def decodeCustom (w : Word) : Option Instr :=
  let rd := w.extractLsb' 7 5
  let rs1 := w.extractLsb' 15 5
  let rs2 := w.extractLsb' 20 5
  let f3 := w.extractLsb' 12 3
  if w.extractLsb' 0 7 = 0x0B ∧ w.extractLsb' 25 7 = 0 then
    if f3 = 0 then (if rs2 = 0 then some (.waitpkt rd rs1) else none)
    else if f3 = 1 then (if rs2 = 0 ∧ rd = 0 then some (.evwake rs1) else none)
    else if f3 = 2 then some (.crc32c rd rs1 rs2)
    else none
  else none

/-- Bytes of a list of words, little-endian (R5). -/
def wordBytes (w : IWord) : List Byte :=
  (List.range 12).map fun i => w.extractLsb' (8 * i) 8
/-- A 96-bit word from up to twelve bytes, lowest address first; missing bytes are zero. -/
def bytesWord : List Byte → IWord
  | [] => 0
  | b :: bs => (bytesWord bs <<< 8) ||| b.setWidth 96

/-- The instruction read from the `nbits` bits `w`, numbered as spec/opcode_table.json numbers them: the first word is bits
31..0, little-endian (R164). Bits [1:0] = 0b11 begin no word of the cores (R174 row 1), so such a word is read as one of a
Nolelavin core. -/
def decodeTableWord (nbits w : Nat) : Option Instr :=
  let x : IWord := bytesWord (wordBytes (BitVec.ofNat 96 (w % 2 ^ nbits)))
  if x.extractLsb' 0 2 = 3 then decodeCustom (x.extractLsb' 0 32) else decode? x

end Sys2Proof
end

