-- ==== Sys2Proof/Machine/Riscv.lean ====
section
/-!
DEFINITION. RV64IMAC with Zicsr in machine mode, which a Nolelavin thread executes (R331), with the Nolelavin CSRs (R333). The spec
names this instruction set and does not write it out: what stands here beside R331 to R333 is the published architecture (log 8).
-/

namespace Sys2Proof.Machine

/-! ## Fields of a word -/

def rvRd (w : Word) : Nat := (w.extractLsb' 7 5).toNat
def rvRs1 (w : Word) : Nat := (w.extractLsb' 15 5).toNat
def rvRs2 (w : Word) : Nat := (w.extractLsb' 20 5).toNat
def rvF3 (w : Word) : Nat := (w.extractLsb' 12 3).toNat
def rvF7 (w : Word) : Nat := (w.extractLsb' 25 7).toNat
def rvImmI (w : Word) : DWord := (w.extractLsb' 20 12).signExtend 64
def rvImmS (w : Word) : DWord := (w.extractLsb' 25 7 ++ w.extractLsb' 7 5).signExtend 64
def rvImmB (w : Word) : DWord :=
  (w.extractLsb' 31 1 ++ w.extractLsb' 7 1 ++ w.extractLsb' 25 6 ++ w.extractLsb' 8 4 ++ (0 : BitVec 1)).signExtend 64
def rvImmU (w : Word) : DWord := (w.extractLsb' 12 20 ++ (0 : BitVec 12)).signExtend 64
def rvImmJ (w : Word) : DWord :=
  (w.extractLsb' 31 1 ++ w.extractLsb' 12 8 ++ w.extractLsb' 20 1 ++ w.extractLsb' 21 10 ++ (0 : BitVec 1)).signExtend 64

/-! ## Integer computation -/

/-- Quotient and remainder that round towards zero; a divisor of zero gives -1 and the dividend. -/
def rvDiv {n : Nat} (a b : BitVec n) : BitVec n := if b = 0 then ~~~ 0 else BitVec.ofInt n (a.toInt.tdiv b.toInt)
def rvRem {n : Nat} (a b : BitVec n) : BitVec n := if b = 0 then a else BitVec.ofInt n (a.toInt.tmod b.toInt)
def rvDivu {n : Nat} (a b : BitVec n) : BitVec n := if b = 0 then ~~~ 0 else BitVec.ofNat n (a.toNat / b.toNat)
def rvRemu {n : Nat} (a b : BitVec n) : BitVec n := if b = 0 then a else BitVec.ofNat n (a.toNat % b.toNat)
/-- The operations of the base set: funct3, and whether bit 30 asks for the other one. -/
def rvBase (f3 : Nat) (alt : Bool) (a b : DWord) : DWord :=
  match f3 with
  | 0 => if alt then a - b else a + b
  | 1 => a <<< (b.toNat % 64)
  | 2 => if a.toInt < b.toInt then 1 else 0
  | 3 => if a.toNat < b.toNat then 1 else 0
  | 4 => a ^^^ b
  | 5 => if alt then a.sshiftRight (b.toNat % 64) else a >>> (b.toNat % 64)
  | 6 => a ||| b
  | _ => a &&& b
/-- The operations of the M extension. -/
def rvMul (f3 : Nat) (a b : DWord) : DWord :=
  match f3 with
  | 0 => a * b
  | 1 => BitVec.ofInt 64 (a.toInt * b.toInt / 2 ^ 64)
  | 2 => BitVec.ofInt 64 (a.toInt * (b.toNat : Int) / 2 ^ 64)
  | 3 => BitVec.ofNat 64 (a.toNat * b.toNat / 2 ^ 64)
  | 4 => rvDiv a b
  | 5 => rvDivu a b
  | 6 => rvRem a b
  | _ => rvRemu a b
/-- Register operations on 64 bits; none for an undefined function. -/
def rvOp (f7 f3 : Nat) (a b : DWord) : Option DWord :=
  if f7 = 0 then some (rvBase f3 false a b)
  else if f7 = 0x20 ∧ (f3 = 0 ∨ f3 = 5) then some (rvBase f3 true a b)
  else if f7 = 1 then some (rvMul f3 a b)
  else none
/-- Register operations on the low 32 bits, sign-extended. -/
def rvOp32 (f7 f3 : Nat) (x y : DWord) : Option DWord :=
  let a : Word := x.setWidth 32
  let b : Word := y.setWidth 32
  let r : Option Word :=
    if f7 = 0 ∧ f3 = 0 then some (a + b)
    else if f7 = 0 ∧ f3 = 1 then some (a <<< (b.toNat % 32))
    else if f7 = 0 ∧ f3 = 5 then some (a >>> (b.toNat % 32))
    else if f7 = 0x20 ∧ f3 = 0 then some (a - b)
    else if f7 = 0x20 ∧ f3 = 5 then some (a.sshiftRight (b.toNat % 32))
    else if f7 = 1 ∧ f3 = 0 then some (a * b)
    else if f7 = 1 ∧ f3 = 4 then some (rvDiv a b)
    else if f7 = 1 ∧ f3 = 5 then some (rvDivu a b)
    else if f7 = 1 ∧ f3 = 6 then some (rvRem a b)
    else if f7 = 1 ∧ f3 = 7 then some (rvRemu a b)
    else none
  r.map (fun v => v.signExtend 64)
/-- Operations with an immediate: the shifts take six bits of it, five on 32 bits. -/
def rvOpImm (w : Word) (a : DWord) : Option DWord :=
  let sh : DWord := (w.extractLsb' 20 6).setWidth 64
  match rvF3 w with
  | 1 => if rvF7 w / 2 = 0 then some (rvBase 1 false a sh) else none
  | 5 => if rvF7 w / 2 = 0 then some (rvBase 5 false a sh) else if rvF7 w / 2 = 0x10 then some (rvBase 5 true a sh) else none
  | f3 => some (rvBase f3 false a (rvImmI w))
def rvOpImm32 (w : Word) (a : DWord) : Option DWord :=
  let sh : DWord := (w.extractLsb' 20 5).setWidth 64
  match rvF3 w with
  | 0 => rvOp32 0 0 a (rvImmI w)
  | 1 => if rvF7 w = 0 then rvOp32 0 1 a sh else none
  | 5 => if rvF7 w = 0 ∨ rvF7 w = 0x20 then rvOp32 (rvF7 w) 5 a sh else none
  | _ => none
/-- Whether a branch is taken; none for an undefined condition. -/
def rvBranch (f3 : Nat) (a b : DWord) : Option Bool :=
  match f3 with
  | 0 => some (a == b)
  | 1 => some (a != b)
  | 4 => some (decide (a.toInt < b.toInt))
  | 5 => some (decide (b.toInt ≤ a.toInt))
  | 6 => some (decide (a.toNat < b.toNat))
  | 7 => some (decide (b.toNat ≤ a.toNat))
  | _ => none

/-! ## Compressed words -/

/-- Words of the four forms that compressed words stand for. -/
def rvI (op f3 rd rs1 imm : Nat) : Word := BitVec.ofNat 32 (imm % 4096 * 2 ^ 20 + rs1 * 2 ^ 15 + f3 * 2 ^ 12 + rd * 2 ^ 7 + op)
def rvR (op f7 f3 rd rs1 rs2 : Nat) : Word := rvI op f3 rd rs1 (f7 * 32 + rs2)
def rvS (f3 rs1 rs2 imm : Nat) : Word := rvI 0x23 f3 (imm % 32) rs1 (imm / 32 % 128 * 32 + rs2)
def rvB (f3 rs1 imm : Nat) : Word :=
  rvI 0x63 f3 (imm / 2 % 16 * 2 + imm / 2048 % 2) rs1 ((imm / 4096 % 2 * 64 + imm / 32 % 64) * 32)
def rvU (op rd imm : Nat) : Word := BitVec.ofNat 32 (imm % 2 ^ 20 * 2 ^ 12 + rd * 2 ^ 7 + op)
def rvJ (rd imm : Nat) : Word :=
  rvU 0x6F rd (imm / 2 ^ 20 % 2 * 2 ^ 19 + imm / 2 % 1024 * 2 ^ 9 + imm / 2 ^ 11 % 2 * 2 ^ 8 + imm / 2 ^ 12 % 256)
/-- A number of `n` bits sign-extended to 32. -/
def rvSx (n x : Nat) : Nat := if x / 2 ^ (n - 1) % 2 = 1 then x + (2 ^ 32 - 2 ^ n) else x
/-- Bits of a compressed word scattered in an immediate: (from, count, to). -/
def rvPick (c : Nat) (l : List (Nat × Nat × Nat)) : Nat := l.foldl (fun a e => a + field c e.1 e.2.1 * 2 ^ e.2.2) 0
/-- Quadrant 0: the stack-relative address, loads and stores of the eight registers x8 to x15. -/
def rvcQ0 (c : Nat) : Option Word :=
  let rd := 8 + field c 2 3
  let rs := 8 + field c 7 3
  let iw := rvPick c [(10, 3, 3), (6, 1, 2), (5, 1, 6)]
  let id := rvPick c [(10, 3, 3), (5, 2, 6)]
  let sp := rvPick c [(11, 2, 4), (7, 4, 6), (6, 1, 2), (5, 1, 3)]
  match field c 13 3 with
  | 0 => if sp = 0 then none else some (rvI 0x13 0 rd 2 sp)
  | 2 => some (rvI 0x03 2 rd rs iw)
  | 3 => some (rvI 0x03 3 rd rs id)
  | 6 => some (rvS 2 rs rd iw)
  | 7 => some (rvS 3 rs rd id)
  | _ => none
/-- Quadrant 1: immediates, arithmetic of x8 to x15, jumps and branches. -/
def rvcQ1 (c : Nat) : Option Word :=
  let r := field c 7 5
  let rp := 8 + field c 7 3
  let rq := 8 + field c 2 3
  let u6 := rvPick c [(12, 1, 5), (2, 5, 0)]
  let i6 := rvSx 6 u6
  let sp := rvSx 10 (rvPick c [(12, 1, 9), (6, 1, 4), (5, 1, 6), (3, 2, 7), (2, 1, 5)])
  let jo := rvSx 12 (rvPick c [(12, 1, 11), (11, 1, 4), (9, 2, 8), (8, 1, 10), (7, 1, 6), (6, 1, 7), (3, 3, 1), (2, 1, 5)])
  let bo := rvSx 9 (rvPick c [(12, 1, 8), (10, 2, 3), (5, 2, 6), (3, 2, 1), (2, 1, 5)])
  match field c 13 3 with
  | 0 => some (rvI 0x13 0 r r i6)
  | 1 => if r = 0 then none else some (rvI 0x1B 0 r r i6)
  | 2 => some (rvI 0x13 0 r 0 i6)
  | 3 => if u6 = 0 then none else if r = 2 then some (rvI 0x13 0 2 2 sp) else some (rvU 0x37 r i6)
  | 4 =>
    match field c 10 2 with
    | 0 => some (rvI 0x13 5 rp rp u6)
    | 1 => some (rvI 0x13 5 rp rp (0x400 + u6))
    | 2 => some (rvI 0x13 7 rp rp i6)
    | _ =>
      match field c 12 1, field c 5 2 with
      | 0, 0 => some (rvR 0x33 0x20 0 rp rp rq)
      | 0, 1 => some (rvR 0x33 0 4 rp rp rq)
      | 0, 2 => some (rvR 0x33 0 6 rp rp rq)
      | 0, _ => some (rvR 0x33 0 7 rp rp rq)
      | _, 0 => some (rvR 0x3B 0x20 0 rp rp rq)
      | _, 1 => some (rvR 0x3B 0 0 rp rp rq)
      | _, _ => none
  | 5 => some (rvJ 0 jo)
  | 6 => some (rvB 0 rp bo)
  | _ => some (rvB 1 rp bo)
/-- Quadrant 2: shifts, moves, jumps through a register, loads and stores by the stack pointer. -/
def rvcQ2 (c : Nat) : Option Word :=
  let r := field c 7 5
  let q := field c 2 5
  let u6 := rvPick c [(12, 1, 5), (2, 5, 0)]
  match field c 13 3 with
  | 0 => some (rvI 0x13 1 r r u6)
  | 2 => if r = 0 then none else some (rvI 0x03 2 r 2 (rvPick c [(12, 1, 5), (4, 3, 2), (2, 2, 6)]))
  | 3 => if r = 0 then none else some (rvI 0x03 3 r 2 (rvPick c [(12, 1, 5), (5, 2, 3), (2, 3, 6)]))
  | 4 =>
    match field c 12 1 with
    | 0 => if q = 0 then (if r = 0 then none else some (rvI 0x67 0 0 r 0)) else some (rvR 0x33 0 0 r 0 q)
    | _ => if q = 0 then (if r = 0 then some 0x00100073 else some (rvI 0x67 0 1 r 0)) else some (rvR 0x33 0 0 r r q)
  | 6 => some (rvS 2 2 q (rvPick c [(9, 4, 2), (7, 2, 6)]))
  | 7 => some (rvS 3 2 q (rvPick c [(10, 3, 3), (7, 3, 6)]))
  | _ => none
/-- The word that a compressed word stands for; none where it is reserved or needs the floating-point registers. -/
def rvExpand (c : Nat) : Option Word :=
  match c % 4 with
  | 0 => rvcQ0 c
  | 1 => rvcQ1 c
  | 2 => rvcQ2 c
  | _ => none

/-! ## Control and status registers (R331, R333) -/

/-- The value of a CSR; none where it does not exist. The doorbell of a thread with no queue is open. -/
def State.rvCsr (s : State) (t n : Nat) : Option DWord :=
  let th := s.thread t
  if n = 0x300 then some (th.mstatus ||| 0x1800)
  else if n = 0x301 then some 0x8000000000001105
  else if n = 0x304 then some th.mie
  else if n = 0x305 then some th.mtvec
  else if n = 0x340 then some th.mscratch
  else if n = 0x341 then some th.mepc
  else if n = 0x342 then some th.mcause
  else if n = 0x343 then some th.mtval
  else if n = 0x344 then some th.mip
  else if n = 0xB00 then some th.mcycle
  else if n = 0xB02 then some th.minstret
  else if n = 0x320 ∨ (0x323 ≤ n ∧ n ≤ 0x33F) ∨ (0xB03 ≤ n ∧ n ≤ 0xB1F) then some 0
  else if n = 0xF11 ∨ n = 0xF12 ∨ n = 0xF13 ∨ n = 0xF15 then some 0
  else if n = 0xF14 ∨ n = 0xFC0 then some (BitVec.ofNat 64 t)
  else if n = 0xFC1 then some th.nqmap
  else if n = 0xFC2 then
    some (match th.queue? with
      | some q => BitVec.ofNat 64 (s.queue q).db
      | none => (Config.free64 s.free).setWidth 32 |>.setWidth 64)
  else if n = 0xFC3 then some (th.nwdcnt.setWidth 64)
  else if n = 0x7C0 then some th.nwdog
  else if n = 0x7C1 then some (if th.nevpend then 1 else 0)
  else if n = 0x7C2 then some th.nentry
  else none
/-- Write a CSR that exists and is not read-only; fields that are not implemented keep their value. -/
def Thread.rvPut (th : Thread) (n : Nat) (v : DWord) : Thread :=
  if n = 0x300 then { th with mstatus := (th.mstatus &&& ~~~ (0x88 : DWord)) ||| (v &&& 0x88) }
  else if n = 0x304 then { th with mie := v &&& 0x888 }
  else if n = 0x305 then { th with mtvec := v &&& ~~~ 2 }
  else if n = 0x340 then { th with mscratch := v }
  else if n = 0x341 then { th with mepc := v &&& ~~~ 1 }
  else if n = 0x342 then { th with mcause := v }
  else if n = 0x343 then { th with mtval := v }
  else if n = 0xB00 then { th with mcycle := v }
  else if n = 0xB02 then { th with minstret := v }
  else if n = 0x7C0 then th.putNwdog v
  else if n = 0x7C1 then th.putNevpend v
  else if n = 0x7C2 then { th with nentry := v &&& ~~~ 1 }
  else th
/-- Time passes for mcycle before it is read. -/
def State.rvTime (s : State) (t n : Nat) : State :=
  if n = 0xB00 then
    let th := s.thread t
    s.spend.setThread t { th with mcycle := th.mcycle + BitVec.ofNat 64 (Config.ticks s.free % (2 ^ 64 - th.mcycle.toNat)) }
  else if n = 0xFC2 then s.spend
  else s
/-- CSRRW, CSRRS, CSRRC and their immediate forms: no write where a set or clear names x0 or 0, illegal for a CSR that does not
exist or a write of a read-only one. -/
def State.rvCsrOp (s : State) (t : Nat) (w : Word) : Host.Outcome State Fault Refusal :=
  let n := (w.extractLsb' 20 12).toNat
  let th := s.thread t
  let x : DWord := if 4 ≤ rvF3 w then BitVec.ofNat 64 (rvRs1 w) else th.xget (rvRs1 w)
  let k := rvF3 w % 4
  let writes := k == 1 || rvRs1 w != 0
  let s1 := s.rvTime t n
  match s.rvCsr t n with
  | none => .next (s.threadTrap t 2 0)
  | some old0 =>
    if k = 0 ∨ (writes ∧ n / 1024 = 3) then .next (s.threadTrap t 2 0)
    else
      let old := if n = 0xB00 then (s1.thread t).mcycle else old0
      let new := if k = 1 then x else if k = 2 then old ||| x else old &&& ~~~ x
      let u := ((s1.thread t).xset (rvRd w) old).goOn 4
      .next (s1.turnOver t (if writes then u.rvPut n new else u))

/-! ## Loads, stores, atomics -/

/-- The value of a load of `f3`: bit 2 leaves it zero-extended. -/
def rvLoaded (f3 x : Nat) : DWord := if 4 ≤ f3 then BitVec.ofNat 64 x else BitVec.ofInt 64 (toSigned (8 * 2 ^ (f3 % 4)) x)
def State.rvLoad (s : State) (t : Nat) (w : Word) (n : Nat) : Host.Outcome State Fault Refusal :=
  let th := s.thread t
  if rvF3 w = 7 then .next (s.threadTrap t 2 0)
  else s.threadAccess t (th.xget (rvRs1 w) + rvImmI w) (2 ^ (rvF3 w % 4)) false
    (fun u pa kid => .next (u.turnOver t ((th.xset (rvRd w) (rvLoaded (rvF3 w) (u.numNow kid pa (2 ^ (rvF3 w % 4))))).goOn n)))
    (let v := rvLoaded (rvF3 w) ((Config.free64 s.free).toNat % 2 ^ (8 * 2 ^ (rvF3 w % 4)))
     .next (s.spend.turnOver t ((th.xset (rvRd w) v).goOn n)))
def State.rvStore (s : State) (t : Nat) (w : Word) (n : Nat) : Host.Outcome State Fault Refusal :=
  let th := s.thread t
  let k := 2 ^ rvF3 w
  if 4 ≤ rvF3 w then .next (s.threadTrap t 2 0)
  else s.threadAccess t (th.xget (rvRs1 w) + rvImmS w) k true
    (fun u pa kid => .next ((u.threadPut pa kid k (th.xget (rvRs2 w)).toNat).turnOver t (th.goOn n)))
    (.next (s.turnOver t (th.goOn n)))
/-- The operation of an atomic, by funct5. -/
def rvAmo (f5 : Nat) : Option AtomOp :=
  match f5 with
  | 0 => some .add | 1 => some .xchg | 4 => some .xor | 8 => some .or | 12 => some .and
  | 16 => some .min | 20 => some .max | 24 => some .minu | 28 => some .maxu
  | _ => none
/-- The A extension. A store-conditional may succeed while its reservation names the address and the bytes read as they did, and
may always fail. -/
def State.rvAtomic (s : State) (t : Nat) (w : Word) : Host.Outcome State Fault Refusal :=
  let th := s.thread t
  let f5 := rvF7 w / 4
  let k := 2 ^ rvF3 w
  let a := th.xget (rvRs1 w)
  let x := (th.xget (rvRs2 w)).toNat % 2 ^ (8 * k)
  if rvF3 w ≠ 2 ∧ rvF3 w ≠ 3 then .next (s.threadTrap t 2 0)
  else if f5 = 2 then
    (if rvRs2 w ≠ 0 then .next (s.threadTrap t 2 0)
     else s.threadAccess t a k false
      (fun u pa kid =>
        let v := u.numNow kid pa k
        .next (u.turnOver t { (th.xset (rvRd w) (rvLoaded (rvF3 w) v)).goOn 4 with resv := some (a, k, BitVec.ofNat 64 v) }))
      (.fault .outsideUnit))
  else if f5 = 3 then
    s.threadAccess t a k true
      (fun s pa kid =>
        let may := th.resv == some (a, k, BitVec.ofNat 64 (s.numNow kid pa k)) && Config.choice s.free % 2 == 0
        let u := if may then s.threadPut pa kid k x else s
        .next (u.spend.turnOver t { (th.xset (rvRd w) (if may then 0 else 1)).goOn 4 with resv := none }))
      (.fault .outsideUnit)
  else match rvAmo f5 with
    | none => .next (s.threadTrap t 2 0)
    | some op =>
      s.threadAccess t a k true
        (fun s pa kid =>
          let v := s.numNow kid pa k
          let y := atomNew op (8 * k) v x 0 % 2 ^ (8 * k)
          .next ((s.threadPut pa kid k y).turnOver t ((th.xset (rvRd w) (rvLoaded (rvF3 w) v)).goOn 4)))
        (.fault .outsideUnit)

/-! ## One instruction -/

/-- MRET: the interrupt enable comes back, and the pc is mepc. -/
def Thread.rvMret (th : Thread) : Thread :=
  { th with pc := th.mepc, minstret := th.minstret + 1,
            mstatus := (th.mstatus &&& ~~~ (0x88 : DWord)) ||| 0x80 ||| (if th.mstatus.getLsbD 7 then 8 else 0) }
/-- SYSTEM: ECALL, EBREAK, MRET, WFI, which ends at once, and the CSR instructions. -/
def State.rvSystem (s : State) (t : Nat) (w : Word) (n : Nat) : Host.Outcome State Fault Refusal :=
  let th := s.thread t
  if rvF3 w ≠ 0 then s.rvCsrOp t w
  else if w = 0x00000073 then .next (s.threadTrap t 11 0)
  else if w = 0x00100073 then .next (s.threadTrap t 3 0)
  else if w = 0x30200073 then .next (s.turnOver t th.rvMret)
  else if w = 0x10500073 then .next (s.turnOver t (th.goOn n))
  else .next (s.threadTrap t 2 0)
/-- A register result, or an illegal word. -/
def State.rvWrite (s : State) (t : Nat) (w : Word) (n : Nat) (r : Option DWord) : Host.Outcome State Fault Refusal :=
  match r with
  | some v => .next (s.turnOver t (((s.thread t).xset (rvRd w) v).goOn n))
  | none => .next (s.threadTrap t 2 0)
/-- A jump: the link is the next instruction's address. -/
def State.rvJump (s : State) (t : Nat) (w : Word) (n : Nat) (dest : DWord) : Host.Outcome State Fault Refusal :=
  let th := s.thread t
  .next (s.turnOver t { (th.xset (rvRd w) (th.pc + BitVec.ofNat 64 n)).goOn n with pc := dest })
/-- A word of RV64IMA with Zicsr that takes `n` bytes in memory. -/
def State.rvExec (s : State) (t : Nat) (w : Word) (n : Nat) : Host.Outcome State Fault Refusal :=
  let th := s.thread t
  let a := th.xget (rvRs1 w)
  let b := th.xget (rvRs2 w)
  match (w.extractLsb' 0 7).toNat with
  | 0x37 => s.rvWrite t w n (some (rvImmU w))
  | 0x17 => s.rvWrite t w n (some (th.pc + rvImmU w))
  | 0x6F => s.rvJump t w n (th.pc + rvImmJ w)
  | 0x67 => if rvF3 w = 0 then s.rvJump t w n ((a + rvImmI w) &&& ~~~ 1) else .next (s.threadTrap t 2 0)
  | 0x63 =>
    match rvBranch (rvF3 w) a b with
    | some true => .next (s.turnOver t { th.goOn n with pc := th.pc + rvImmB w })
    | some false => .next (s.turnOver t (th.goOn n))
    | none => .next (s.threadTrap t 2 0)
  | 0x03 => s.rvLoad t w n
  | 0x23 => s.rvStore t w n
  | 0x13 => s.rvWrite t w n (rvOpImm w a)
  | 0x1B => s.rvWrite t w n (rvOpImm32 w a)
  | 0x33 => s.rvWrite t w n (rvOp (rvF7 w) (rvF3 w) a b)
  | 0x3B => s.rvWrite t w n (rvOp32 (rvF7 w) (rvF3 w) a b)
  | 0x0F => if rvF3 w = 0 then .next (s.turnOver t (th.goOn n)) else .next (s.threadTrap t 2 0)
  | 0x2F => s.rvAtomic t w
  | 0x73 => s.rvSystem t w n
  | _ => .next (s.threadTrap t 2 0)
/-- What stands at a thread's pc: a compressed word is its low half. -/
def State.riscv (s : State) (t : Nat) (w : Word) : Host.Outcome State Fault Refusal :=
  if w.toNat % 4 = 3 then s.rvExec t w 4
  else match rvExpand (w.toNat % 65536) with
    | some x => s.rvExec t x 2
    | none => .next (s.threadTrap t 2 0)

end Sys2Proof.Machine
end

