-- ==== Sys2Proof/Machine/Outside.lean ====
section
/-!
DEFINITION. What reaches the device from outside: host snoops and permissions (R67), CXL.mem (R68, R344), remote devices (R348),
TDISP (R353 to R356), boot, recovery and reset (R349, R350), security services (R351, R352), bring-up and power (R357 to R359).
-/

namespace Sys2Proof.Machine

/-! ## Host memory lines: snoops and permissions (R67) -/

/-- The value with which H0 answers a snoop: the line, if it is dirty (R67). -/
def State.snpData (s : State) (la : Nat) : Option (BitVec 1024) := if getD false s.hostDirty la then some (s.memLine 0 la) else none
/-- SnpData: the line is recalled to its home by a persistent read request; the answer carries its value if it is dirty, and the host may share it
then (R67; log 40). -/
def execHostSnpdata (la : Nat) (s : State) : Host.Outcome State Fault Refusal :=
  ev (if regionOf (la * 128) != .host then none
    else if (s.holding la).ow then
      some (({ s with
        hostOut := s.hostOut ++ [.snpRsp la (s.snpData la)], hostDirty := setD false s.hostDirty la false,
        perm := if s.hostPerm la == .excl then setD .none s.perm la .shared else s.perm } : State).wantDone 8 la false)
    else let t := (s.want 8 la false).homeRequest 8 la false; some { t with agenda := t.agenda ++ [.hostSnpdata la] })
/-- SnpInv: every token comes home by a persistent write request, the snoop is answered, and host permission is given up (R67). -/
def execHostSnpinv (la : Nat) (s : State) : Host.Outcome State Fault Refusal :=
  ev (if regionOf (la * 128) != .host then none
    else if (s.holding la).tc = 16 then
      some ((({ s with hostOut := s.hostOut ++ [.snpRsp la (s.snpData la)] } : State).dropPerm la).wantDone 8 la true)
    else let t := (s.want 8 la true).homeRequest 8 la true; some { t with agenda := t.agenda ++ [.hostSnpinv la] })
/-- The host grants the permission that H0 has asked for; with a first grant comes the line's data, any bytes. What waited for it goes on. -/
def execHostPermissionGrant (la : Nat) (excl : Bool) (s : State) : Host.Outcome State Fault Refusal :=
  let m : HostMsg := if excl then .rdOwn la else .rdShared la
  ev (if regionOf (la * 128) != .host || !s.hostOut.contains m then none
    else
      let t : State := if s.hostPerm la == .none then
          { s.memPutLine 0 la (BitVec.ofNat 1024 (ofBytes ((List.range 128).map (fun i => Config.hostByte (s.free + i))))) false with free := s.free + 128 }
        else s
      let u : State := { t with
        hostOut := s.hostOut.erase m, perm := setD .none t.perm la (if excl || s.hostPerm la == HostPerm.excl then HostPerm.excl else HostPerm.shared) }
      some (((u.homeYield 8 la 0).runHops la).closeReqs 8 la))

/-! ## Device HBM for the host (R68, R344) -/

/-- The decoder of a host address: device address and key id, for a partition in RUN. -/
def State.hdmOf (s : State) (addr : Nat) : Option (Nat × BitVec 6) :=
  match s.hdm.find? (fun h => decide (h.lo ≤ addr) && decide (addr < h.hi)) with
  | some h => if (s.part h.part).tdisp == .run then some (h.dev + (addr - h.lo), h.kid) else none
  | none => none
/-- The key id that the decoder of a device address names. -/
def State.hdmKid (s : State) (pa : Nat) : Option (BitVec 6) :=
  (s.hdm.find? (fun h => decide (h.dev ≤ pa) && decide (pa < h.dev + (h.hi - h.lo)))).map (fun h => h.kid)
/-- The slot that admits an access is not loaded for its partition (R47): nothing is written, the answer is poison, and the error is
logged. -/
def State.logSlot (s : State) (pa : Nat) : State :=
  { s with errlog := setD 0 s.errlog (errRegion pa) (getD 0 s.errlog (errRegion pa) + 1) }
/-- The slot of a decoded host address is not loaded. -/
def State.hdmLocked (s : State) (addr : Nat) (kid : BitVec 6) : Bool :=
  match s.hdm.find? (fun h => decide (h.lo ≤ addr) && decide (addr < h.hi)) with
  | some h => !(s.keyOk kid.toNat h.part)
  | none => false
/-- H0 holds what a request needs: all tokens, or one with data. -/
def State.h0Has (s : State) (la : Nat) (all : Bool) : Bool :=
  if all then (s.h0line la).tc == 16 && (s.h0line la).dv else decide (1 ≤ (s.h0line la).tc) && (s.h0line la).dv
/-- H0's tokens go home, with any data. -/
def State.h0Return (s : State) (la : Nat) (kid : BitVec 6) : State := s.sendHeld 8 (homeOf (la * 128)) la kid
/-- An event from outside waits while H0 collects tokens of a line: it asks, and comes again. -/
def State.again (s : State) (la : Nat) (write : Bool) (kid : BitVec 6) (i : Instr) : State :=
  let t := (s.want 8 la write).request 8 la write kid
  { t with agenda := t.agenda ++ [i] }
/-- A host read; what it may cache stays with H0 until a BISnp. -/
def execHostCxlMemRead (addr : Nat) (cache : Bool) (s : State) : Host.Outcome State Fault Refusal :=
  ev (match s.hdmOf addr with
    | none => none
    | some (pa, kid) =>
      let la := pa / 128
      if s.hdmLocked addr kid then some (s.logSlot pa)
      else if s.h0Has la cache then
        some ((if cache then s.setH0 la { s.h0line la with wb := true } else if (s.h0line la).wb then s else s.h0Return la kid).wantDone 8 la cache)
      else some (s.again la cache kid (.hostCxlMemRead addr cache)))
/-- A host write of a line: dirty at H0, then sent home. -/
def execHostCxlMemWrite (addr : Nat) (data : BitVec 1024) (s : State) : Host.Outcome State Fault Refusal :=
  ev (match s.hdmOf addr with
    | none => none
    | some (pa, kid) =>
      let la := pa / 128
      if s.hdmLocked addr kid then some (s.logSlot pa)
      else if s.h0Has la true then
        some (((s.setH0 la { s.h0line la with data := data, dt := true, pz := false, kid := kid, wb := false }).h0Return la kid).wantDone 8 la true)
      else some (s.again la true kid (.hostCxlMemWrite addr data)))
/-- The host answers a BISnp that H0 has sent: its copy is gone, with any data it wrote, which is under the key id of its decoder (R47); H0's
tokens may move again. -/
def execBirsp (la : Nat) (data : Option (BitVec 1024)) (s : State) : Host.Outcome State Fault Refusal :=
  ev (let x := s.h0line la
    if !x.wb || !s.hostOut.contains (.bisnp la) then none
    else
      let t : State := { s with hostOut := s.hostOut.erase (.bisnp la) }
      some (match data with
      | some d => t.setH0 la { x with data := d, dt := true, pz := false, kid := (s.hdmKid (la * 128)).getD x.kid, wb := false }
      | none => t.setH0 la { x with wb := false }))

/-! ## Remote devices (R89, R348) -/

/-- The import entry that admits an access. -/
def State.importFor (s : State) (dev part : Nat) (addr w : Nat) (write : Bool) : Option Import :=
  s.imports.find? (fun e => (e.dev == dev || e.dev == 0x7FF) && e.spart == part && decide (e.lo ≤ addr) && decide (addr + w ≤ e.hi) &&
    (e.w || !write) && s.assigned e.tpart addr)
/-- A sealed page read by a device is entered in the home's export table, or XB is set where that is full. -/
def State.recordExport (s : State) (k : Nat) (r : PageRec) (dev : Nat) : State :=
  let home := k / 65536
  let e := (home, k % 65536, dev)
  if s.exports.contains e then s
  else if decide (4096 ≤ (s.exports.filter (fun x => x.1 == home)).length) then s.setRec k { r with xb := true }
  else { s with exports := s.exports ++ [e] }
/-- The response to another device's access leaves on a link (R89, R348). -/
def State.respond (s : State) (dev : Nat) (addr : BitVec 39) (w : Nat) (data : Option Nat) (pz : Bool) (line : Option (BitVec 1024)) : State :=
  { s with remoteOut := s.remoteOut ++ [{ dev := dev, addr := addr, w := w, data := data, pz := pz, line := line }] }
/-- Another device reads an append-seal page at its home, under the key id of its import entry: a sealed page's response is marked so and carries
the line, which that device may keep; the export is recorded (R89). A page that is not sealed reads zero above its commit tail (R78). -/
def State.remoteSealRead (s : State) (dev : Nat) (kid : BitVec 6) (addr : BitVec 39) (w k : Nat) (r : PageRec) : State :=
  let la := addr.toNat / 128
  let x := if r.sl then s.memLine kid la else s.asLine { r with kid := kid } la
  let t := if r.sl then s.recordExport k r dev else s
  t.respond dev addr w (some (lineNum x (addr.toNat % 128) w)) (getD false s.poison la) (if r.sl then some x else none)
/-- What H0 does with a line whose tokens it holds: the access, whose response is the value before it; a poisoned line is not written by an atomic
(R49). -/
def State.remoteAtH0 (s : State) (dev : Nat) (kid : BitVec 6) (addr : BitVec 39) (w : Nat) (op : RemoteOp) : State :=
  let la := addr.toNat / 128
  let off := addr.toNat % 128
  let x := s.h0line la
  match op with
  | .read => (s.respond dev addr w (some (lineNum x.data off w)) x.pz none).h0Return la kid
  | .write bs =>
    ((s.setH0 la { x with data := linePut x.data off (bs.take w), dt := true, pz := x.pz && w != 128, kid := kid }).respond dev addr w (some 0) false
      none).h0Return la kid
  | .atom o wide a b =>
    let n := if wide then 8 else 4
    let old := lineNum x.data off n
    let t := if x.pz then s else s.setH0 la { x with data := linePut x.data off (toBytes n (atomNew o (8 * n) old a.toNat b.toNat)), dt := true, kid := kid }
    (t.respond dev addr w (some old) x.pz none).h0Return la kid
/-- The widths of a remote-class access, and its alignment (R13, R347). -/
def remoteShape (addr : BitVec 39) (w : Nat) (op : RemoteOp) : Bool :=
  [1, 2, 4, 8, 16].contains w && addr.toNat % w == 0 &&
  (match op with | .read => true | .write bs => bs.length == w | .atom _ wide _ _ => w == (if wide then 8 else 4))
/-- An access of another device: refused without effect, or performed by H0 once it has the line's tokens, and the host, which may hold the
line, has answered a BISnp (R68, R348). Append-seal pages are not written (R24). -/
def execRemoteAccessIn (dev part : Nat) (addr : BitVec 39) (w : Nat) (op : RemoteOp) (s : State) : Host.Outcome State Fault Refusal :=
  let pa := addr.toNat
  let la := pa / 128
  let write := match op with | .read => false | _ => true
  ev (if !remoteShape addr w op then none
    else match s.importFor dev part pa w write with
    | none => some (s.respond dev addr w none false none)
    | some e =>
      if !(s.keyOk e.kid.toNat e.tpart) then some ((s.logSlot pa).respond dev addr w (some 0) true none)
      else match s.recordAt pa with
      | some (k, r) => some (if write then s.respond dev addr w none false none else s.remoteSealRead dev e.kid addr w k r)
      | none =>
        if (s.h0line la).wb then
          let t := s.tellHost (.bisnp la)
          some { t with agenda := t.agenda ++ [.remoteAccessIn dev part addr w op] }
        else if s.h0Has la write then some ((s.remoteAtH0 dev e.kid addr w op).wantDone 8 la write)
        else some (s.again la write e.kid (.remoteAccessIn dev part addr w op)))
/-- A link takes the oldest response. -/
def execLinkTakes (s : State) : Host.Outcome State Fault Refusal :=
  ev (match s.remoteOut with
    | [] => none
    | _ :: l => some { s with remoteOut := l })

/-! ## TDISP (R353 to R356) -/

/-- The interface report. -/
def State.reportOf (s : State) (n : Nat) : List Byte :=
  let p := s.part n
  let range := fun (base : DWord) (pages id : Nat) => toBytes 8 (base.toNat / 4096) ++ toBytes 4 pages ++ toBytes 2 0 ++ toBytes 2 id
  let mask := fun (m : DWord) => ((List.range 32).map (fun k => if m.getLsbD (2 * k) || m.getLsbD (2 * k + 1) then 2 ^ k else 0)).foldl (· + ·) 0
  toBytes 2 3 ++ toBytes 2 p.msix.toNat ++ toBytes 2 0 ++ toBytes 4 0 ++ toBytes 4 2 ++ range p.bar0 4 0 ++ range p.bar2 256 1 ++ toBytes 4 64
    ++ toBytes 4 (n % 16) ++ (List.range 8).flatMap (fun i => toBytes 4 (mask (p.rcd.cores.getD i 0))) ++ toBytes 3 (field p.rcd.sched.toNat 40 24)
    ++ toBytes 1 0 ++ toBytes 8 p.rcd.slots.toNat ++ toBytes 8 ((getD 0 s.boot.meas 4).toNat % 2 ^ 64) ++ zeros 8
/-- LOCK: with the IDE stream keyed and both BARs assigned; TDISP travels only inside a secure session (R351). -/
def execLockInterfaceRequest (part : Nat) (s : State) : Host.Outcome State Fault Refusal :=
  let p := s.part part
  .next (if s.boot.session && p.tdisp == .unlocked && s.boot.streams.contains p.ide.toNat && p.bar0 != 0 && p.bar2 != 0 then
      (s.setPart part { p with tdisp := .locked, nonce := Config.nonce s.free, report := s.reportOf part }).spend
    else s)
def execStartInterfaceRequest (part : Nat) (nonce : BitVec 256) (s : State) : Host.Outcome State Fault Refusal :=
  let p := s.part part
  .next (if s.boot.session && p.tdisp == .locked && nonce == p.nonce then s.setPart part { p with tdisp := .run } else s)
/-- Jobs of a partition. -/
def State.jobsOf (s : State) (part : Nat) : List Nat := (s.jobs.filter (fun e => e.2.live && e.2.part == part)).map (fun e => e.1)
/-- STOP: keys cleared, comb windows and team memory zeroed, jobs ended, items unfrozen (R355). -/
def execStopInterfaceRequest (part : Nat) (s : State) : Host.Outcome State Fault Refusal :=
  let p := s.part part
  .next (if !s.boot.session || p.tdisp == .unlocked then s
    else
      let slots := (List.range 64).filter (fun i => decide (1 ≤ i) && p.rcd.slots.getLsbD i)
      let t := slots.foldl (fun (t : State) i => t.clearSlot (BitVec.ofNat 6 i)) s
      let u := (t.jobsOf part).foldl (fun (t : State) j => t.endJob j .ended) t
      u.setPart part { u.part part with tdisp := .unlocked })
/-- The report of a locked interface; an unlocked one answers with an error. -/
def execGetDeviceInterfaceReport (part : Nat) (s : State) : Host.Outcome State Fault Refusal :=
  let p := s.part part
  .next (if p.tdisp == .unlocked then s else s.setPart part { p with report := s.reportOf part })
/-- What a frozen item holds now. -/
def State.itemNow (s : State) (p : Part) : FrozenItem → DWord
  | .command => p.command
  | .bar0 => p.bar0
  | .bar2 => p.bar2
  | .msix => p.msix
  | .ide => p.ide
  | .record => p.rcd.sched.setWidth 64
  | .decoder => match s.decoders with | d :: _ => d.target | [] => 0
  | .importEntry => match s.imports with | e :: _ => BitVec.ofNat 64 e.lo | [] => 0
/-- The bits of an item that can be written: Command [2:0]; the BARs are aligned to their sizes. -/
def FrozenItem.mask : FrozenItem → DWord
  | .command => 7
  | .bar0 => ~~~ 0x3FFF
  | .bar2 => ~~~ 0xFFFFF
  | _ => ~~~ 0
/-- ERROR: jobs are stopped and held, queues halt with QS = 2 (R355). -/
def State.enterError (s : State) (part : Nat) : State :=
  let t := s.setPart part { s.part part with tdisp := .error }
  let u := (t.jobsOf part).foldl (fun (t : State) j => t.stopJob j true) t
  (s.part part).rcd.queues.foldl (fun (t : State) q => if (t.queue q).liveSlot.isSome then t.setQcb q (fun b => setFld b 320 3 2) else t) u
/-- A write to a frozen item: free while unlocked, harmless where it changes nothing, otherwise discarded with ERROR. The
partition record, decoders and import entries are written by their own services. -/
def execFrozenItemWrite (part : Nat) (item : FrozenItem) (v : DWord) (s : State) : Host.Outcome State Fault Refusal :=
  let p := s.part part
  let x := v &&& (FrozenItem.mask item)
  .next (match p.tdisp with
    | .unlocked => match item with
      | .command => s.setPart part { p with command := x }
      | .bar0 => s.setPart part { p with bar0 := x }
      | .bar2 => s.setPart part { p with bar2 := x }
      | .msix => s.setPart part { p with msix := x }
      | .ide => s.setPart part { p with ide := x }
      | _ => s
    | .error => s
    | _ => if x == s.itemNow p item then s else s.enterError part)

/-! ## Attestation, sessions, partitions (R350 to R352) -/

/-- MEAS0 to MEAS5 are returned; nothing changes. -/
def execGetMeasurements (s : State) : Host.Outcome State Fault Refusal := .next s
def execSpdmSecureSession (s : State) : Host.Outcome State Fault Refusal := .next { s with boot := { s.boot with session := true } }
/-- Stream keys are programmed only inside a session. -/
def execIdeKeyProgramming (stream : Nat) (s : State) : Host.Outcome State Fault Refusal :=
  .next (if s.boot.session && !s.boot.streams.contains stream then { s with boot := { s.boot with streams := s.boot.streams ++ [stream] } } else s)
/-- Two records share a core, a key slot, a queue, a frame or an L2 way. -/
def sharesWith (a b : PartRec) : Bool :=
  (List.range 8).any (fun i => a.cores.getD i 0 &&& b.cores.getD i 0 != 0) || a.slots &&& b.slots != 0 || a.queues.any (fun q => b.queues.contains q) ||
  a.frames.any (fun f => b.frames.any (fun g => decide (f.1 < g.2) && decide (g.1 < f.2))) ||
  field a.sched.toNat 40 24 &&& field b.sched.toNat 40 24 != 0
/-- Reserved bits of a scheduling record are zero (R296). -/
def schedMask : BitVec 128 := 0xFFFFFF3F00000000FFFFFFFFFFFFFF00
/-- The system key slot of a scheduling record is one of the partition's, of 1 to 63 (R296). -/
def PartRec.skidOk (r : PartRec) : Bool := let k := field r.sched.toNat 96 6; k != 0 && r.slots.getLsbD k
/-- Replica pool frames of a die: 2 MiB frames from the end of the partition's share there (log 39). -/
def poolFrames (r : PartRec) (die : Nat) : List (BitVec 40) :=
  let all := (r.frames.filter (fun f => dieOf (f.1 * 4096) == die)).flatMap (fun f =>
    (List.range ((f.2 - (f.1 + 511) / 512 * 512) / 512)).map (fun i => BitVec.ofNat 40 ((f.1 + 511) / 512 * 512 + 512 * i)))
  (all.reverse.take (r.pool.getD die 0))
/-- Rings of a partition before the host has moved them: ring i in frame i of the first range, 16 records (log 39). -/
def State.newRings (s : State) (part : Nat) (r : PartRec) : State :=
  (List.range 16).foldl (fun (t : State) i =>
    t.setRing part i { EvRing.none with part := part, ebf := BitVec.ofNat 40 ((match r.frames with | f :: _ => f.1 | [] => 0) + i) }) s
/-- The frames of a pool that no replica, and no free under way, still occupies (R86, R90). -/
def State.poolSpare (s : State) (l : List (BitVec 40)) : List (BitVec 40) :=
  l.filter (fun f => !(s.replicas.any (fun x => decide (f.toNat ≤ x.rfn.toNat) && decide (x.rfn.toNat < f.toNat + 512))) &&
    !(s.frees.any (fun x => x.frames.any (fun y => y.2 == f))))
/-- A queue of a partition; one that belonged to another starts with neither slot valid. -/
def State.takeQueue (s : State) (part q : Nat) : State :=
  match lookup s.queues q with
  | some x => if x.part = part then s else s.setQueue q { Queue.none with part := part }
  | none => s.setQueue q { Queue.none with part := part }
/-- Set up or change a partition whose interface is unlocked: refused where it shares anything, or names no system key slot of its own; MEAS4 is
extended. Reserved bits of its scheduling record are written as zero (R296). -/
def execPartitionSetup (part : Nat) (r0 : PartRec) (s : State) : Host.Outcome State Fault Refusal :=
  let p := s.part part
  let r := { r0 with sched := r0.sched &&& schedMask }
  .next (if decide (16 ≤ part) || p.tdisp != .unlocked || !PartRec.skidOk r || s.parts.any (fun e => e.1 != part && e.2.setUp && sharesWith r e.2.rcd) then s
    else
      let t := s.setPart part { p with setUp := true, rcd := r, pool := (List.range 4).map (fun d => (d, s.poolSpare (poolFrames r d))) }
      let u := r.queues.foldl (fun (t : State) q => t.takeQueue part q) t
      ((u.newRings part r).extend 4 (toBytes 32 (Config.bootDigest (16 + s.free)).toNat)).spend)
/-- The fuse count rises to the SVN of the running image; it never falls. -/
def execFcCommit (s : State) : Host.Outcome State Fault Refusal :=
  .next { s with boot := { s.boot with fc := if s.boot.fc < s.boot.svn then s.boot.svn else s.boot.fc } }

/-! ## Boot, recovery, reset (R349) -/

/-- Steps 3 to 7 on an image: the failing step, or the boot that has started it. -/
def Boot.start (b : Boot) (ok : Bool) (svn : Nat) (image : BitVec 256) (recovery : Bool) : Boot :=
  if !ok then { b with status := 4, recovery := true, rom := false }
  else if svn < b.fc || decide (64 < svn) then { b with status := 5, recovery := true, rom := false }
  else
    let ext := fun (m : SMap (BitVec 256)) (i : Nat) (d : List Byte) => setD 0 m i (shake256 (toBytes 32 (getD 0 m i).toNat ++ d))
    let m1 := ext b.meas 1 (toBytes 32 image.toNat)
    let m2 := ext m1 2 (toBytes 8 svn ++ toBytes 8 b.fc)
    let m3 := ext m2 3 (toBytes 32 (Config.bootDigest 2).toNat ++ [if recovery then 1 else 0])
    { b with meas := m3, svn := svn, status := 0, recovery := recovery, rom := false }
/-- Every key is drawn or loaded anew, so that what HBM and pool hold under the old ones is lost. -/
def State.loseKeys (s : State) : State := (List.range 64).foldl (fun (t : State) i => t.loseKey (BitVec.ofNat 6 i)) s
/-- A device reset: the state of reset, with fuses, the dump and external memory kept, and the boot ROM's steps run. -/
def State.doReset (s : State) : State :=
  let t := s.loseKeys
  let m0 : SMap (BitVec 256) := setD 0 [] 0 (shake256 (toBytes 32 0 ++ toBytes 32 (Config.bootDigest 0).toNat))
  let b := { Boot.reset with meas := m0, fc := s.boot.fc, dumpSeq := s.boot.dumpSeq, dump := s.boot.dump,
                             deviceKey := Config.deviceKey s.free }
  { State.reset with
    mem := t.mem, lineKid := t.lineKid, lineOld := t.lineOld, poison := t.poison, timer := s.timer, free := s.free + 1, agenda := s.agenda, softErrs := s.softErrs,
    boot := b.start (Config.signatureOk []) Config.shippedSvn (Config.bootDigest 1) false }
def execReset (s : State) : Host.Outcome State Fault Refusal := .next s.doReset
def execMailboxReset (s : State) : Host.Outcome State Fault Refusal := .next s.doReset
/-- The host's go bit in recovery: steps 3 to 7 on the image in the window. -/
def execRecoveryGo (svn : Nat) (image : List Byte) (s : State) : Host.Outcome State Fault Refusal :=
  ev (if s.boot.recovery && s.boot.status != 0 then some { s with boot := s.boot.start (Config.signatureOk image) svn (shake256 image) true } else none)

/-! ## Bring-up and power (R357 to R359) -/

/-- Training of a controller: every line of its range zero under key 0 with all tokens at home; a failure is fatal to the die. -/
def execHbmTraining (die : Nat) (ok : Bool) (s : State) : Host.Outcome State Fault Refusal :=
  let mine := fun (pa : Nat) => regionOf pa == .hbm && dieOf pa == die
  .next (if !ok then s.fatal 1 die
    else { s with
      mem := s.mem.filter (fun e => !mine e.1), lineKid := s.lineKid.filter (fun e => !mine (e.1 * 128)),
      lineOld := s.lineOld.filter (fun e => !mine (e.1 * 128)), stale := s.stale.filter (fun e => !mine (e.1 * 4)),
      poison := s.poison.filter (fun e => !mine (e.1 * 128)), home := s.home.filter (fun e => !mine (e.1 * 128)),
      l2 := s.l2.filter (fun e => !mine (e.1 % 2 ^ 45 * 128)), h0 := s.h0.filter (fun e => !mine (e.1 * 128)),
      msgs := s.msgs.filter (fun m => !mine (m.la * 128)), boot := { s.boot with hbt := setD false s.boot.hbt die true } })
/-- A domain device number (R347). -/
def ddnOk : Option Nat → Bool
  | some n => decide (n < 1152)
  | none => true
/-- Training of one of the 18 link ports: it is up or left down, and the device has the number it was given, or none (R347, R358). -/
def execLinkTraining (port : Nat) (ok : Bool) (ddn : Option Nat) (s : State) : Host.Outcome State Fault Refusal :=
  ev <| if decide (18 ≤ port) || !ddnOk ddn then none else some { s with boot := { s.boot with ports := setD false s.boot.ports port ok, ddn := if ok then ddn else s.boot.ddn } }
/-- D3hot needs every interface unlocked; registers and team memory are lost. -/
def execD3hotRequest (s : State) : Host.Outcome State Fault Refusal :=
  .next (if s.parts.all (fun e => e.2.tdisp == .unlocked) then
      { s with groups := [], teams := [], jobs := [], copies := [], hops := [], pend := [], sails := [], reserved := [], ibuf := [], pins := [],
               faults := [], boot := { s.boot with power := .d3hot } }
    else s)
/-- A die with no team for 2^20 ac is clock-gated. -/
def execDieIdle (die : Nat) (s : State) : Host.Outcome State Fault Refusal :=
  ev (if s.heldCores.any (fun e => e.1.1 == die) || s.boot.idle.contains die then none
    else some { s with boot := { s.boot with idle := s.boot.idle ++ [die] } })

/-! ## Words that are no instruction (R174) -/

/-- The fate of a fetched word that does not decode. -/
def execIllegalOpcode (w : IWord) (s : State) : Host.Outcome State Fault Refusal :=
  let t : Trap :=
    if w.extractLsb' 0 32 = 0xFFFFFFFF && s.curJob.da then { Trap.of 0x20 with code := 9, len := some 4 }
    else match decode w with
      | .error .operand => { Trap.illegalOperand 0 with len := some (lenOf w) }
      | _ => { Trap.illegalOpcode with len := some (lenOf w) }
  (Act.trap t).run s

end Sys2Proof.Machine
end

