-- ==== Sys2Proof/Machine/Predicate.lean ====
section
/-!
DEFINITION. The predicate instructions (R192).
-/

namespace Sys2Proof.Machine

/-- Write a predicate in the active lanes. -/
def predWrite (s : State) (gd : Guard) (d : BitVec 4) (x : DWord) : Host.Outcome State Fault Refusal :=
  s.finish (s.active gd) (s.curGroup.psetMask d.toNat (s.active gd) x)

def execPand (x : P3) (s : State) : Host.Outcome State Fault Refusal :=
  predWrite s x.g x.d (s.curGroup.pmask x.a.toNat &&& s.curGroup.pmask x.b.toNat)
def execPor (x : P3) (s : State) : Host.Outcome State Fault Refusal :=
  predWrite s x.g x.d (s.curGroup.pmask x.a.toNat ||| s.curGroup.pmask x.b.toNat)
def execPxor (x : P3) (s : State) : Host.Outcome State Fault Refusal :=
  predWrite s x.g x.d (s.curGroup.pmask x.a.toNat ^^^ s.curGroup.pmask x.b.toNat)
def execPnot (g : Guard) (d a : BitVec 4) (s : State) : Host.Outcome State Fault Refusal :=
  predWrite s g d (~~~ (s.curGroup.pmask a.toNat))
def execPmov (g : Guard) (d a : BitVec 4) (s : State) : Host.Outcome State Fault Refusal :=
  predWrite s g d (s.curGroup.pmask a.toNat)
def execPmovS2p (g : Guard) (d : BitVec 4) (a : BitVec 7) (s : State) : Host.Outcome State Fault Refusal :=
  predWrite s g d (s.curGroup.sget a.toNat)
/-- `pmov.p2s`: the mask of the active lanes whose predicate is true, in a scalar. -/
def execPmovP2s (g : Guard) (d : BitVec 7) (a : BitVec 4) (s : State) : Host.Outcome State Fault Refusal :=
  s.finish (s.active g) (s.curGroup.sset d.toNat (s.active g &&& s.curGroup.pmask a.toNat))
/-- The immediate repeated over the lanes: bit L mod 16 of IMM16, bit L mod 32 of the literal. -/
def predImm : Imm → DWord
  | .i16 x => x ++ x ++ x ++ x
  | .i32 x => x ++ x
def execPmovImm (g : Guard) (d : BitVec 4) (i : Imm) (s : State) : Host.Outcome State Fault Refusal :=
  predWrite s g d (predImm i)

end Sys2Proof.Machine
end

