-- ==== Sys2Proof/Machine/Dispatch.lean ====
section
/-!
DEFINITION. The dispatch: one arm per constructor of `Instr`, each one direct call of its meaning.
-/

namespace Sys2Proof.Machine

def exec (i : Instr) (s : State) : Host.Outcome State Fault Refusal :=
  match i with
  | .nop => Sys2Proof.Machine.execNop s
  | .braSb disp => Sys2Proof.Machine.execBraSb disp s
  | .bra disp => Sys2Proof.Machine.execBra disp s
  | .brc a disp => Sys2Proof.Machine.execBrc a disp s
  | .brcZ a disp => Sys2Proof.Machine.execBrcZ a disp s
  | .brcLt a disp => Sys2Proof.Machine.execBrcLt a disp s
  | .brcGe a disp => Sys2Proof.Machine.execBrcGe a disp s
  | .brx g disp => Sys2Proof.Machine.execBrx g disp s
  | .jset g d => Sys2Proof.Machine.execJset g d s
  | .jsetSc d a => Sys2Proof.Machine.execJsetSc d a s
  | .join a disp => Sys2Proof.Machine.execJoin a disp s
  | .callSb disp => Sys2Proof.Machine.execCallSb disp s
  | .call g a disp => Sys2Proof.Machine.execCall g a disp s
  | .callStub g a n => Sys2Proof.Machine.execCallStub g a n s
  | .callx g d a => Sys2Proof.Machine.execCallx g d a s
  | .retSr a => Sys2Proof.Machine.execRetSr a s
  | .ret g a => Sys2Proof.Machine.execRet g a s
  | .exitSr => Sys2Proof.Machine.execExitSr s
  | .exit g => Sys2Proof.Machine.execExit g s
  | .exitchain g a b => Sys2Proof.Machine.execExitchain g a b s
  | .yield => Sys2Proof.Machine.execYield s
  | .xmrd d => Sys2Proof.Machine.execXmrd d s
  | .xmwr a => Sys2Proof.Machine.execXmwr a s
  | .saddSr sat r => Sys2Proof.Machine.execSaddSr sat r s
  | .saddSi sat d imm => Sys2Proof.Machine.execSaddSi sat d imm s
  | .sadd sat x => Sys2Proof.Machine.execSadd sat x s
  | .ssubSr sat r => Sys2Proof.Machine.execSsubSr sat r s
  | .ssub sat x => Sys2Proof.Machine.execSsub sat x s
  | .smulSr sat r => Sys2Proof.Machine.execSmulSr sat r s
  | .smul sat x => Sys2Proof.Machine.execSmul sat x s
  | .sdiv sat x => Sys2Proof.Machine.execSdiv sat x s
  | .sandSr r => Sys2Proof.Machine.execSandSr r s
  | .sorSr r => Sys2Proof.Machine.execSorSr r s
  | .sxorSr r => Sys2Proof.Machine.execSxorSr r s
  | .sandnSr r => Sys2Proof.Machine.execSandnSr r s
  | .sand x => Sys2Proof.Machine.execSand x s
  | .sor x => Sys2Proof.Machine.execSor x s
  | .sxor x => Sys2Proof.Machine.execSxor x s
  | .sandn x => Sys2Proof.Machine.execSandn x s
  | .sshlSr r => Sys2Proof.Machine.execSshlSr r s
  | .sshrSr r => Sys2Proof.Machine.execSshrSr r s
  | .ssraSr r => Sys2Proof.Machine.execSsraSr r s
  | .srotSr r => Sys2Proof.Machine.execSrotSr r s
  | .sshl x => Sys2Proof.Machine.execSshl x s
  | .sshr x => Sys2Proof.Machine.execSshr x s
  | .ssra x => Sys2Proof.Machine.execSsra x s
  | .srot x => Sys2Proof.Machine.execSrot x s
  | .smin x => Sys2Proof.Machine.execSmin x s
  | .smax x => Sys2Proof.Machine.execSmax x s
  | .scmp x => Sys2Proof.Machine.execScmp x s
  | .scmpRel r x => Sys2Proof.Machine.execScmpRel r x s
  | .ssel d a b c => Sys2Proof.Machine.execSsel d a b c s
  | .slea d a x => Sys2Proof.Machine.execSlea d a x s
  | .sliSi d imm => Sys2Proof.Machine.execSliSi d imm s
  | .sli d a x => Sys2Proof.Machine.execSli d a x s
  | .sliW d a x => Sys2Proof.Machine.execSliW d a x s
  | .smovSr d a => Sys2Proof.Machine.execSmovSr d a s
  | .smov ty d x => Sys2Proof.Machine.execSmov ty d x s
  | .sbit x => Sys2Proof.Machine.execSbit x s
  | .sbitClz x => Sys2Proof.Machine.execSbitClz x s
  | .sbitCtz x => Sys2Proof.Machine.execSbitCtz x s
  | .sbitRev x => Sys2Proof.Machine.execSbitRev x s
  | .sbfx x => Sys2Proof.Machine.execSbfx x s
  | .sbfxIns x => Sys2Proof.Machine.execSbfxIns x s
  | .pand x => Sys2Proof.Machine.execPand x s
  | .por x => Sys2Proof.Machine.execPor x s
  | .pxor x => Sys2Proof.Machine.execPxor x s
  | .pnot g d a => Sys2Proof.Machine.execPnot g d a s
  | .pmov g d a => Sys2Proof.Machine.execPmov g d a s
  | .pmovS2p g d a => Sys2Proof.Machine.execPmovS2p g d a s
  | .pmovP2s g d a => Sys2Proof.Machine.execPmovP2s g d a s
  | .pmovImm g d x => Sys2Proof.Machine.execPmovImm g d x s
  | .vaddSr sat r => Sys2Proof.Machine.execVaddSr sat r s
  | .vadd sat x => Sys2Proof.Machine.execVadd sat x s
  | .vsubSr sat r => Sys2Proof.Machine.execVsubSr sat r s
  | .vsub sat x => Sys2Proof.Machine.execVsub sat x s
  | .vmulSr fn r => Sys2Proof.Machine.execVmulSr fn r s
  | .vmul sat x => Sys2Proof.Machine.execVmul sat x s
  | .vmulHi x => Sys2Proof.Machine.execVmulHi x s
  | .vmad x => Sys2Proof.Machine.execVmad x s
  | .vdiv x => Sys2Proof.Machine.execVdiv x s
  | .vdivRem x => Sys2Proof.Machine.execVdivRem x s
  | .vmin x => Sys2Proof.Machine.execVmin x s
  | .vmax x => Sys2Proof.Machine.execVmax x s
  | .vabs x => Sys2Proof.Machine.execVabs x s
  | .vneg x => Sys2Proof.Machine.execVneg x s
  | .vandSr r => Sys2Proof.Machine.execVandSr r s
  | .vand x => Sys2Proof.Machine.execVand x s
  | .vorSr r => Sys2Proof.Machine.execVorSr r s
  | .vor x => Sys2Proof.Machine.execVor x s
  | .vxorSr r => Sys2Proof.Machine.execVxorSr r s
  | .vxor x => Sys2Proof.Machine.execVxor x s
  | .vnot x => Sys2Proof.Machine.execVnot x s
  | .vandn x => Sys2Proof.Machine.execVandn x s
  | .vshlSr r => Sys2Proof.Machine.execVshlSr r s
  | .vshl x => Sys2Proof.Machine.execVshl x s
  | .vshrSr r => Sys2Proof.Machine.execVshrSr r s
  | .vshr x => Sys2Proof.Machine.execVshr x s
  | .vrot x => Sys2Proof.Machine.execVrot x s
  | .vbit x => Sys2Proof.Machine.execVbit x s
  | .vbitClz x => Sys2Proof.Machine.execVbitClz x s
  | .vbitCtz x => Sys2Proof.Machine.execVbitCtz x s
  | .vbitRev x => Sys2Proof.Machine.execVbitRev x s
  | .vbfx x => Sys2Proof.Machine.execVbfx x s
  | .vbfxIns x => Sys2Proof.Machine.execVbfxIns x s
  | .vsel g ty d a b c => Sys2Proof.Machine.execVsel g ty d a b c s
  | .vcmp r x => Sys2Proof.Machine.execVcmp r x s
  | .vmovSr d a => Sys2Proof.Machine.execVmovSr d a s
  | .vmov g ty d x => Sys2Proof.Machine.execVmov g ty d x s
  | .vmovS2v g ty d a => Sys2Proof.Machine.execVmovS2v g ty d a s
  | .vdot x => Sys2Proof.Machine.execVdot x s
  | .vfaddSr r => Sys2Proof.Machine.execVfaddSr r s
  | .vfadd x => Sys2Proof.Machine.execVfadd x s
  | .vfsubSr r => Sys2Proof.Machine.execVfsubSr r s
  | .vfsub x => Sys2Proof.Machine.execVfsub x s
  | .vfmulSr r => Sys2Proof.Machine.execVfmulSr r s
  | .vfmul x => Sys2Proof.Machine.execVfmul x s
  | .vfma x => Sys2Proof.Machine.execVfma x s
  | .vfmin x => Sys2Proof.Machine.execVfmin x s
  | .vfmax x => Sys2Proof.Machine.execVfmax x s
  | .vfcmp r x => Sys2Proof.Machine.execVfcmp r x s
  | .vfclass x => Sys2Proof.Machine.execVfclass x s
  | .vfdiv x => Sys2Proof.Machine.execVfdiv x s
  | .vfsqrt x => Sys2Proof.Machine.execVfsqrt x s
  | .vfabs x => Sys2Proof.Machine.execVfabs x s
  | .vfneg x => Sys2Proof.Machine.execVfneg x s
  | .vfsgn g ty d a b => Sys2Proof.Machine.execVfsgn g ty d a b s
  | .vrcp x => Sys2Proof.Machine.execVrcp x s
  | .vrsqrt x => Sys2Proof.Machine.execVrsqrt x s
  | .vexp2 x => Sys2Proof.Machine.execVexp2 x s
  | .vlog2 x => Sys2Proof.Machine.execVlog2 x s
  | .vsin x => Sys2Proof.Machine.execVsin x s
  | .vcos x => Sys2Proof.Machine.execVcos x s
  | .vtanh x => Sys2Proof.Machine.execVtanh x s
  | .vsigm x => Sys2Proof.Machine.execVsigm x s
  | .vcvt g rm sat part dst src d a => Sys2Proof.Machine.execVcvt g rm sat part dst src d a s
  | .vrand g d a => Sys2Proof.Machine.execVrand g d a s
  | .vrandUnif g d a => Sys2Proof.Machine.execVrandUnif g d a s
  | .vrseed x => Sys2Proof.Machine.execVrseed x s
  | .vshuf x => Sys2Proof.Machine.execVshuf x s
  | .vshufUp x => Sys2Proof.Machine.execVshufUp x s
  | .vshufDn x => Sys2Proof.Machine.execVshufDn x s
  | .vshufRot x => Sys2Proof.Machine.execVshufRot x s
  | .vperm g ty d a b => Sys2Proof.Machine.execVperm g ty d a b s
  | .vbcast g ty d a b => Sys2Proof.Machine.execVbcast g ty d a b s
  | .vred o g rm d a => Sys2Proof.Machine.execVred o g rm d a s
  | .vscan o g rm d a => Sys2Proof.Machine.execVscan o g rm d a s
  | .vscanEx o g rm d a => Sys2Proof.Machine.execVscanEx o g rm d a s
  | .vballot g d a => Sys2Proof.Machine.execVballot g d a s
  | .vballotCnt g d a => Sys2Proof.Machine.execVballotCnt g d a s
  | .vlane ty d a b => Sys2Proof.Machine.execVlane ty d a b s
  | .vlaneId g d => Sys2Proof.Machine.execVlaneId g d s
  | .ld sx m => Sys2Proof.Machine.execLd sx m s
  | .st m => Sys2Proof.Machine.execSt m s
  | .lds sx m => Sys2Proof.Machine.execLds sx m s
  | .sts m => Sys2Proof.Machine.execSts m s
  | .ldk sx m => Sys2Proof.Machine.execLdk sx m s
  | .stk m => Sys2Proof.Machine.execStk m s
  | .ldnr pf m => Sys2Proof.Machine.execLdnr pf m s
  | .pgreq g ad off => Sys2Proof.Machine.execPgreq g ad off s
  | .pref g ad off => Sys2Proof.Machine.execPref g ad off s
  | .prefL2 g ad off => Sys2Proof.Machine.execPrefL2 g ad off s
  | .memhint h g ad off => Sys2Proof.Machine.execMemhint h g ad off s
  | .atom op m => Sys2Proof.Machine.execAtom op m s
  | .atomH op m => Sys2Proof.Machine.execAtomH op m s
  | .fence => Sys2Proof.Machine.execFence s
  | .fenceA => Sys2Proof.Machine.execFenceA s
  | .fenceR => Sys2Proof.Machine.execFenceR s
  | .waitc p a => Sys2Proof.Machine.execWaitc p a s
  | .apnd x => Sys2Proof.Machine.execApnd x s
  | .seal x => Sys2Proof.Machine.execSeal x s
  | .tailrd x => Sys2Proof.Machine.execTailrd x s
  | .gangset d a => Sys2Proof.Machine.execGangset d a s
  | .mma x => Sys2Proof.Machine.execMma x s
  | .mmas x => Sys2Proof.Machine.execMmas x s
  | .mmag x => Sys2Proof.Machine.execMmag x s
  | .latchComplete job team mask => Sys2Proof.Machine.execLatchComplete job team mask s
  | .slabCommit job team x => Sys2Proof.Machine.execSlabCommit job team x s
  | .bload a b => Sys2Proof.Machine.execBload a b s
  | .bloadg a b => Sys2Proof.Machine.execBloadg a b s
  | .brel a => Sys2Proof.Machine.execBrel a s
  | .accz d n => Sys2Proof.Machine.execAccz d n s
  | .accrd g d a b => Sys2Proof.Machine.execAccrd g d a b s
  | .accwr g d a b => Sys2Proof.Machine.execAccwr g d a b s
  | .qntz rm sat a b => Sys2Proof.Machine.execQntz rm sat a b s
  | .dqnt rm a b => Sys2Proof.Machine.execDqnt rm a b s
  | .bcopy d a => Sys2Proof.Machine.execBcopy d a s
  | .bcopy2d d a b => Sys2Proof.Machine.execBcopy2d d a b s
  | .bapnd d a b => Sys2Proof.Machine.execBapnd d a b s
  | .bchk d a b => Sys2Proof.Machine.execBchk d a b s
  | .bchkin d b => Sys2Proof.Machine.execBchkin d b s
  | .copyLinePerformed x => Sys2Proof.Machine.execCopyLinePerformed x s
  | .barinit d a => Sys2Proof.Machine.execBarinit d a s
  | .barexp d a => Sys2Proof.Machine.execBarexp d a s
  | .bararr d a => Sys2Proof.Machine.execBararr d a s
  | .barwait a b => Sys2Proof.Machine.execBarwait a b s
  | .bartry d a b => Sys2Proof.Machine.execBartry d a b s
  | .tbar => Sys2Proof.Machine.execTbar s
  | .cbar => Sys2Proof.Machine.execCbar s
  | .tileget d => Sys2Proof.Machine.execTileget d s
  | .tilestat d => Sys2Proof.Machine.execTilestat d s
  | .trap code => Sys2Proof.Machine.execTrap code s
  | .tret => Sys2Proof.Machine.execTret s
  | .csrrd d n => Sys2Proof.Machine.execCsrrd d n s
  | .csrwr n a => Sys2Proof.Machine.execCsrwr n a s
  | .clock d => Sys2Proof.Machine.execClock d s
  | .clockC d => Sys2Proof.Machine.execClockC d s
  | .sleep a => Sys2Proof.Machine.execSleep a s
  | .sleepImm x => Sys2Proof.Machine.execSleepImm x s
  | .sleepWake grp => Sys2Proof.Machine.execSleepWake grp s
  | .evsig a b => Sys2Proof.Machine.execEvsig a b s
  | .ckopen d => Sys2Proof.Machine.execCkopen d s
  | .ckclose d a => Sys2Proof.Machine.execCkclose d a s
  | .ckcost d => Sys2Proof.Machine.execCkcost d s
  | .dbgbrk => Sys2Proof.Machine.execDbgbrk s
  | .dbgstep a => Sys2Proof.Machine.execDbgstep a s
  | .perfrd d a => Sys2Proof.Machine.execPerfrd d a s
  | .accessComplete grp p => Sys2Proof.Machine.execAccessComplete grp p s
  | .waitpkt rd rs1 => Sys2Proof.Machine.execWaitpkt rd rs1 s
  | .evwake rs1 => Sys2Proof.Machine.execEvwake rs1 s
  | .crc32c rd rs1 rs2 => Sys2Proof.Machine.execCrc32c rd rs1 rs2 s
  | .illegalOpcode w => Sys2Proof.Machine.execIllegalOpcode w s
  | .jsbUpdate job => Sys2Proof.Machine.execJsbUpdate job s
  | .coreFree die core => Sys2Proof.Machine.execCoreFree die core s
  | .hostSnpdata la => Sys2Proof.Machine.execHostSnpdata la s
  | .hostSnpinv la => Sys2Proof.Machine.execHostSnpinv la s
  | .hostCxlMemRead addr cache => Sys2Proof.Machine.execHostCxlMemRead addr cache s
  | .hostCxlMemWrite addr data => Sys2Proof.Machine.execHostCxlMemWrite addr data s
  | .remoteAccessIn dev part addr w op => Sys2Proof.Machine.execRemoteAccessIn dev part addr w op s
  | .nwdogWrite thread v => Sys2Proof.Machine.execNwdogWrite thread v s
  | .nevpendWrite thread v => Sys2Proof.Machine.execNevpendWrite thread v s
  | .watchdogExpiry thread => Sys2Proof.Machine.execWatchdogExpiry thread s
  | .registerWrite r unit v => Sys2Proof.Machine.execRegisterWrite r unit v s
  | .gets k => Sys2Proof.Machine.execGets k s
  | .getx k => Sys2Proof.Machine.execGetx k s
  | .tok k => Sys2Proof.Machine.execTok k s
  | .preq k => Sys2Proof.Machine.execPreq k s
  | .act k => Sys2Proof.Machine.execAct k s
  | .actack k => Sys2Proof.Machine.execActack k s
  | .done k => Sys2Proof.Machine.execDone k s
  | .deact k => Sys2Proof.Machine.execDeact k s
  | .deactack k => Sys2Proof.Machine.execDeactack k s
  | .hrsp k => Sys2Proof.Machine.execHrsp k s
  | .srd k => Sys2Proof.Machine.execSrd k s
  | .srsp k => Sys2Proof.Machine.execSrsp k s
  | .wb k => Sys2Proof.Machine.execWb k s
  | .wback k => Sys2Proof.Machine.execWback k s
  | .invalidMessageType k => Sys2Proof.Machine.execInvalidMessageType k s
  | .transientReissue r => Sys2Proof.Machine.execTransientReissue r s
  | .transientEscalation r => Sys2Proof.Machine.execTransientEscalation r s
  | .heldEscalationSend die home => Sys2Proof.Machine.execHeldEscalationSend die home s
  | .lineEviction die la => Sys2Proof.Machine.execLineEviction die la s
  | .hopAtomic k => Sys2Proof.Machine.execHopAtomic k s
  | .arsv k => Sys2Proof.Machine.execArsv k s
  | .arsvRetry h => Sys2Proof.Machine.execArsvRetry h s
  | .adat k => Sys2Proof.Machine.execAdat k s
  | .hopSeal k => Sys2Proof.Machine.execHopSeal k s
  | .hopTailrd k => Sys2Proof.Machine.execHopTailrd k s
  | .ard k => Sys2Proof.Machine.execArd k s
  | .freeRequest home rcd => Sys2Proof.Machine.execFreeRequest home rcd s
  | .freeService home rcd => Sys2Proof.Machine.execFreeService home rcd s
  | .replicaCreate die home rcd => Sys2Proof.Machine.execReplicaCreate die home rcd s
  | .checkoutRegister x => Sys2Proof.Machine.execCheckoutRegister x s
  | .checkoutWaitExpiry x => Sys2Proof.Machine.execCheckoutWaitExpiry x s
  | .segmentFillDone x => Sys2Proof.Machine.execSegmentFillDone x s
  | .segmentWritebackDone x => Sys2Proof.Machine.execSegmentWritebackDone x s
  | .rangeTableWrite home idx w => Sys2Proof.Machine.execRangeTableWrite home idx w s
  | .walkComplete die rtag va write => Sys2Proof.Machine.execWalkComplete die rtag va write s
  | .tlbInvalidate rtag page => Sys2Proof.Machine.execTlbInvalidate rtag page s
  | .tlbInvalidateComplete x => Sys2Proof.Machine.execTlbInvalidateComplete x s
  | .faultServiceResolve die x how => Sys2Proof.Machine.execFaultServiceResolve die x how s
  | .hostFaultAnswer die x ans => Sys2Proof.Machine.execHostFaultAnswer die x ans s
  | .pageMove rtag va step => Sys2Proof.Machine.execPageMove rtag va step s
  | .scrubPass die corrected bad => Sys2Proof.Machine.execScrubPass die corrected bad s
  | .fatalError kind die => Sys2Proof.Machine.execFatalError kind die s
  | .keySlotLoad slot part key => Sys2Proof.Machine.execKeySlotLoad slot part key s
  | .keySlotClear slot => Sys2Proof.Machine.execKeySlotClear slot s
  | .codeObjectLoad job base image frame kid => Sys2Proof.Machine.execCodeObjectLoad job base image frame kid s
  | .textRewrite job va words stubs => Sys2Proof.Machine.execTextRewrite job va words stubs s
  | .debugPrivateBreakpoint job va frame => Sys2Proof.Machine.execDebugPrivateBreakpoint job va frame s
  | .stopRequest job cl => Sys2Proof.Machine.execStopRequest job cl s
  | .stopComplete job cl => Sys2Proof.Machine.execStopComplete job cl s
  | .saveComplete job cl => Sys2Proof.Machine.execSaveComplete job cl s
  | .resume job die half mask => Sys2Proof.Machine.execResume job die half mask s
  | .checkpointTimer job => Sys2Proof.Machine.execCheckpointTimer job s
  | .closeStop job => Sys2Proof.Machine.execCloseStop job s
  | .unitStreamed job => Sys2Proof.Machine.execUnitStreamed job s
  | .recordComplete job => Sys2Proof.Machine.execRecordComplete job s
  | .recordFailed job => Sys2Proof.Machine.execRecordFailed job s
  | .move job => Sys2Proof.Machine.execMove job s
  | .deadlineAccept job => Sys2Proof.Machine.execDeadlineAccept job s
  | .distributorTimeUnit die => Sys2Proof.Machine.execDistributorTimeUnit die s
  | .deadlineOverrun job => Sys2Proof.Machine.execDeadlineOverrun job s
  | .teamEnd job team => Sys2Proof.Machine.execTeamEnd job team s
  | .packetNop q => Sys2Proof.Machine.execPacketNop q s
  | .packetJob q => Sys2Proof.Machine.execPacketJob q s
  | .packetCall q => Sys2Proof.Machine.execPacketCall q s
  | .packetRet q => Sys2Proof.Machine.execPacketRet q s
  | .packetJoin q => Sys2Proof.Machine.execPacketJoin q s
  | .packetWaitv q => Sys2Proof.Machine.execPacketWaitv q s
  | .waitvTimeout q => Sys2Proof.Machine.execWaitvTimeout q s
  | .packetSigv q => Sys2Proof.Machine.execPacketSigv q s
  | .packetCkpt q => Sys2Proof.Machine.execPacketCkpt q s
  | .packetPreempt q => Sys2Proof.Machine.execPacketPreempt q s
  | .packetHalt q => Sys2Proof.Machine.execPacketHalt q s
  | .qcbRewrite q words => Sys2Proof.Machine.execQcbRewrite q words s
  | .doorbellWrite fn slot v => Sys2Proof.Machine.execDoorbellWrite fn slot v s
  | .eventRecordPost part ring => Sys2Proof.Machine.execEventRecordPost part ring s
  | .hostPermissionGrant la excl => Sys2Proof.Machine.execHostPermissionGrant la excl s
  | .birsp la data => Sys2Proof.Machine.execBirsp la data s
  | .poolCompletion x data => Sys2Proof.Machine.execPoolCompletion x data s
  | .lockInterfaceRequest part => Sys2Proof.Machine.execLockInterfaceRequest part s
  | .startInterfaceRequest part nonce => Sys2Proof.Machine.execStartInterfaceRequest part nonce s
  | .stopInterfaceRequest part => Sys2Proof.Machine.execStopInterfaceRequest part s
  | .getDeviceInterfaceReport part => Sys2Proof.Machine.execGetDeviceInterfaceReport part s
  | .frozenItemWrite part item v => Sys2Proof.Machine.execFrozenItemWrite part item v s
  | .getMeasurements => Sys2Proof.Machine.execGetMeasurements s
  | .partitionSetup part r => Sys2Proof.Machine.execPartitionSetup part r s
  | .fcCommit => Sys2Proof.Machine.execFcCommit s
  | .reset => Sys2Proof.Machine.execReset s
  | .recoveryGo svn image => Sys2Proof.Machine.execRecoveryGo svn image s
  | .hbmTraining die ok => Sys2Proof.Machine.execHbmTraining die ok s
  | .linkTraining port ok ddn => Sys2Proof.Machine.execLinkTraining port ok ddn s
  | .d3hotRequest => Sys2Proof.Machine.execD3hotRequest s
  | .dieIdle die => Sys2Proof.Machine.execDieIdle die s
  | .mailboxReset => Sys2Proof.Machine.execMailboxReset s
  | .deviceIoAnswer x data => Sys2Proof.Machine.execDeviceIoAnswer x data s
  | .remoteAccessAnswer x data line => Sys2Proof.Machine.execRemoteAccessAnswer x data line s
  | .sealedLineInvalidate base frames => Sys2Proof.Machine.execSealedLineInvalidate base frames s
  | .debugServiceRequest job op => Sys2Proof.Machine.execDebugServiceRequest job op s
  | .spdmSecureSession => Sys2Proof.Machine.execSpdmSecureSession s
  | .ideKeyProgramming stream => Sys2Proof.Machine.execIdeKeyProgramming stream s
  | .nolelavinLoadStore thread kind addr w reg => Sys2Proof.Machine.execNolelavinLoadStore thread kind addr w reg s
  | .nolelavinIllegalInstruction thread => Sys2Proof.Machine.execNolelavinIllegalInstruction thread s
  | .pageRecordCreate home rcd frame ps part kid => Sys2Proof.Machine.execPageRecordCreate home rcd frame ps part kid s

end Sys2Proof.Machine
end

