-- ==== Sys2Proof/Machine/Issue.lean ====
section
/-!
DEFINITION. The registers that an instruction names (R168, R236), fetch (R107, R109, R164, R271), readiness and the choice of an
issue state (R135, R136), the sail's choice among groups (R309), breakpoints and steps (R288, R290).
-/

namespace Sys2Proof

/-! ## Registers named (R168, R236) -/

/-- Vector registers named; scalar, j (128 + n), g (136 + n) registers and the execution mask (144) read and written; predicates named; the guard. -/
structure Named where
  v : List Nat
  rd : List Nat
  wr : List Nat
  p : List Nat
  gd : Guard
deriving DecidableEq, Repr

/-- No guard: every lane is active. -/
def Guard.all : Guard := { gp := 0, gn := false }
def Named.none : Named := { v := [], rd := [], wr := [], p := [], gd := Guard.all }
/-- Number of the execution mask among the registers named. -/
def xmReg : Nat := 144
/-- `k` registers from `n`. -/
def runOf (n : Nat) (k : Nat) : List Nat := (List.range k).map (fun i => n + i)
def SSrc.scalars : SSrc → List Nat
  | .reg b => [b.toNat] | .rlit _ => [] | .imm _ => [] | .ilit _ => []
def SLit.scalars : SLit → List Nat
  | .reg b => [b.toNat] | .lit _ => []
def VSrc.vectors (k : Nat) : VSrc → List Nat
  | .reg b => runOf b.toNat k | .rlit _ => [] | .imm _ => [] | .ilit _ => []
def VLit.vectors (k : Nat) : VLit → List Nat
  | .reg b => runOf b.toNat k | .lit _ => []
def Guard.preds (g : Guard) : List Nat := [g.gp.toNat]
def SR3.scalars (r : SR3) : Named := { Named.none with rd := [r.a.toNat, r.b.toNat], wr := [r.d.toNat] }
def SR3.vectors (r : SR3) : Named := { Named.none with v := [r.d.toNat, r.a.toNat, r.b.toNat] }
def SBin.named (x : SBin) : Named := { Named.none with rd := x.a.toNat :: x.b.scalars, wr := [x.d.toNat] }
def SUn.named (x : SUn) : Named := { Named.none with rd := [x.a.toNat], wr := [x.d.toNat] }
def P3.named (x : P3) : Named := { Named.none with p := [x.g.gp.toNat, x.d.toNat, x.a.toNat, x.b.toNat], gd := x.g }
def vnamed (g : Guard) (v : List Nat) : Named := { Named.none with v := v, p := g.preds, gd := g }
def VBin.named (x : VBin) : Named :=
  vnamed x.g (runOf x.d.toNat x.ty.regs ++ runOf x.a.toNat x.ty.regs ++ x.b.vectors x.ty.regs)
/-- A field operation: its control word is one register (R211). -/
def VBin.namedField (x : VBin) : Named :=
  vnamed x.g (runOf x.d.toNat x.ty.regs ++ runOf x.a.toNat x.ty.regs ++ x.b.vectors 1)
def VUn.named (x : VUn) : Named := vnamed x.g (runOf x.d.toNat x.ty.regs ++ runOf x.a.toNat x.ty.regs)
def VTri.named (x : VTri) : Named :=
  vnamed x.g (runOf x.d.toNat x.ty.regs ++ runOf x.a.toNat x.ty.regs ++ x.b.vectors x.ty.regs ++ runOf x.c.toNat x.ty.regs)
def BBin.named (x : BBin) : Named :=
  vnamed x.g (runOf x.d.toNat x.ty.regs ++ runOf x.a.toNat x.ty.regs ++ x.b.vectors x.ty.regs)
def BUn.named (x : BUn) : Named := vnamed x.g (runOf x.d.toNat x.ty.regs ++ runOf x.a.toNat x.ty.regs)
def VCmp.named (x : VCmp) : Named :=
  { vnamed x.g (runOf x.a.toNat x.ty.regs ++ x.b.vectors x.ty.regs) with p := [x.g.gp.toNat, x.d.toNat] }
def FBin.named (x : FBin) : Named :=
  vnamed x.g (runOf x.d.toNat x.ty.regs ++ runOf x.a.toNat x.ty.regs ++ x.b.vectors x.ty.regs)
def FUn.named (x : FUn) : Named := vnamed x.g (runOf x.d.toNat x.ty.regs ++ runOf x.a.toNat x.ty.regs)
def FTri.named (x : FTri) : Named :=
  vnamed x.g (runOf x.d.toNat x.ty.regs ++ runOf x.a.toNat x.ty.regs ++ x.b.vectors x.ty.regs ++ runOf x.c.toNat x.ty.regs)
def FCmp.named (x : FCmp) : Named :=
  { vnamed x.g (runOf x.a.toNat x.ty.regs ++ x.b.vectors x.ty.regs) with p := [x.g.gp.toNat, x.d.toNat] }
/-- A uniform operand beside other vector registers. -/
def USrc.named (v : List Nat) (g : Guard) : USrc → Named
  | .reg b => { Named.none with v := v, rd := [b.toNat], p := g.preds, gd := g }
  | .vu b => { Named.none with v := b.toNat :: v, p := g.preds, gd := g }
  | .lit _ => { Named.none with v := v, p := g.preds, gd := g }
def BcSrc.named (v : List Nat) (g : Guard) : BcSrc → Named
  | .reg b => { Named.none with v := v, rd := [b.toNat], p := g.preds, gd := g }
  | .vu b => { Named.none with v := b.toNat :: v, p := g.preds, gd := g }
  | .rlit _ => { Named.none with v := v, p := g.preds, gd := g }
  | .imm _ => { Named.none with v := v, p := g.preds, gd := g }
  | .ilit _ => { Named.none with v := v, p := g.preds, gd := g }
def RandSrc.named (v : List Nat) (g : Guard) : RandSrc → Named
  | .reg b => { Named.none with v := v, rd := [b.toNat], p := g.preds, gd := g }
  | .vu b => { Named.none with v := b.toNat :: v, p := g.preds, gd := g }
def Shuf.named (x : Shuf) : Named := x.b.named (runOf x.d.toNat x.ty.regs ++ runOf x.a.toNat x.ty.regs) x.g
def Addr.named (v : List Nat) (g : Guard) : Addr → Named
  | .base b => { Named.none with v := v, rd := [b.toNat], p := g.preds, gd := g }
  | .zx b x => { Named.none with v := x.toNat :: v, rd := [b.toNat], p := g.preds, gd := g }
  | .sx b x => { Named.none with v := x.toNat :: v, rd := [b.toNat], p := g.preds, gd := g }
  | .vec x => { Named.none with v := runOf x.toNat 2 ++ v, p := g.preds, gd := g }
  | .spill => { Named.none with v := v, p := g.preds, gd := g }
def Mem.named (m : Mem) : Named := m.ad.named (runOf m.d.toNat m.w.regs) m.g
def Mem.namedAtom (op : AtomOp) (m : Mem) : Named := m.ad.named (runOf m.d.toNat (atomRegs op m.w)) m.g
def MmaOp.named (x : MmaOp) : Named :=
  { Named.none with rd := [136 + x.gang.toNat, x.a.toNat, x.b.toNat, x.b.toNat + 1] }

/-- The registers that an instruction of a group names; an event names none. -/
def Instr.named : Instr → Named
  | .brc a _ => { Named.none with rd := [a.toNat] }
  | .brcZ a _ => { Named.none with rd := [a.toNat] }
  | .brcLt a _ => { Named.none with rd := [a.toNat] }
  | .brcGe a _ => { Named.none with rd := [a.toNat] }
  | .brx g _ => { Named.none with p := g.preds, gd := g }
  | .jset g d => { Named.none with wr := [128 + d.toNat], p := g.preds, gd := g }
  | .jsetSc d a => { Named.none with rd := [a.toNat], wr := [128 + d.toNat] }
  | .join a _ => { Named.none with rd := [128 + a.toNat], wr := [128 + a.toNat] }
  | .callSb _ => { Named.none with v := [0, 1] }
  | .call g a _ => vnamed g (runOf a.toNat 2)
  | .callStub g a _ => vnamed g (runOf a.toNat 2)
  | .callx g d a => vnamed g (runOf d.toNat 2 ++ runOf a.toNat 2)
  | .retSr a => { Named.none with v := runOf a.toNat 2 }
  | .ret g a => vnamed g (runOf a.toNat 2)
  | .exitSr => { Named.none with wr := [xmReg] }
  | .exit g => { Named.none with wr := [xmReg], p := g.preds, gd := g }
  | .exitchain g a b => { Named.none with rd := a.toNat :: b.scalars, wr := [xmReg], p := g.preds, gd := g }
  | .xmrd d => { Named.none with rd := [xmReg], wr := [d.toNat] }
  | .xmwr a => { Named.none with rd := [a.toNat], wr := [xmReg] }
  | .saddSr _ r => r.scalars
  | .saddSi _ d _ => { Named.none with rd := [d.toNat], wr := [d.toNat] }
  | .sadd _ x => x.named
  | .ssubSr _ r => r.scalars
  | .ssub _ x => x.named
  | .smulSr _ r => r.scalars
  | .smul _ x => x.named
  | .sdiv _ x => x.named
  | .sandSr r => r.scalars
  | .sorSr r => r.scalars
  | .sxorSr r => r.scalars
  | .sandnSr r => r.scalars
  | .sand x => x.named
  | .sor x => x.named
  | .sxor x => x.named
  | .sandn x => x.named
  | .sshlSr r => r.scalars
  | .sshrSr r => r.scalars
  | .ssraSr r => r.scalars
  | .srotSr r => r.scalars
  | .sshl x => x.named
  | .sshr x => x.named
  | .ssra x => x.named
  | .srot x => x.named
  | .smin x => x.named
  | .smax x => x.named
  | .scmp x => x.named
  | .scmpRel _ x => x.named
  | .ssel d a b c => { Named.none with rd := a.toNat :: c.toNat :: b.scalars, wr := [d.toNat] }
  | .slea d a _ => { Named.none with rd := [a.toNat], wr := [d.toNat] }
  | .sliSi d _ => { Named.none with rd := [d.toNat], wr := [d.toNat] }
  | .sli d a _ => { Named.none with rd := [a.toNat], wr := [d.toNat] }
  | .sliW d a _ => { Named.none with rd := [a.toNat], wr := [d.toNat] }
  | .smovSr d a => { Named.none with rd := [a.toNat], wr := [d.toNat] }
  | .smov _ d (.reg a) => { Named.none with rd := [a.toNat], wr := [d.toNat] }
  | .smov _ d (.imm _) => { Named.none with wr := [d.toNat] }
  | .sbit x => x.named
  | .sbitClz x => x.named
  | .sbitCtz x => x.named
  | .sbitRev x => x.named
  | .sbfx x => x.named
  | .sbfxIns x => { x.named with rd := x.d.toNat :: x.named.rd }
  | .pand x => x.named
  | .por x => x.named
  | .pxor x => x.named
  | .pnot g d a => { Named.none with p := [g.gp.toNat, d.toNat, a.toNat], gd := g }
  | .pmov g d a => { Named.none with p := [g.gp.toNat, d.toNat, a.toNat], gd := g }
  | .pmovS2p g d a => { Named.none with rd := [a.toNat], p := [g.gp.toNat, d.toNat], gd := g }
  | .pmovP2s g d a => { Named.none with wr := [d.toNat], p := [g.gp.toNat, a.toNat], gd := g }
  | .pmovImm g d _ => { Named.none with p := [g.gp.toNat, d.toNat], gd := g }
  | .vaddSr _ r => r.vectors
  | .vadd _ x => x.named
  | .vsubSr _ r => r.vectors
  | .vsub _ x => x.named
  | .vmulSr _ r => r.vectors
  | .vmul _ x => x.named
  | .vmulHi x => x.named
  | .vmad x => x.named
  | .vdiv x => x.named
  | .vdivRem x => x.named
  | .vmin x => x.named
  | .vmax x => x.named
  | .vabs x => x.named
  | .vneg x => x.named
  | .vandSr r => r.vectors
  | .vand x => x.named
  | .vorSr r => r.vectors
  | .vor x => x.named
  | .vxorSr r => r.vectors
  | .vxor x => x.named
  | .vnot x => x.named
  | .vandn x => x.named
  | .vshlSr r => r.vectors
  | .vshl x => x.named
  | .vshrSr r => r.vectors
  | .vshr x => x.named
  | .vrot x => x.named
  | .vbit x => x.named
  | .vbitClz x => x.named
  | .vbitCtz x => x.named
  | .vbitRev x => x.named
  | .vbfx x => x.namedField
  | .vbfxIns x => x.namedField
  | .vsel g ty d a b c =>
    { vnamed g (runOf d.toNat ty.regs ++ runOf a.toNat ty.regs ++ b.vectors ty.regs) with p := [g.gp.toNat, c.toNat], gd := g }
  | .vcmp _ x => x.named
  | .vmovSr d a => { Named.none with v := [d.toNat, a.toNat] }
  | .vmov g ty d (.reg a) => vnamed g (runOf d.toNat ty.regs ++ runOf a.toNat ty.regs)
  | .vmov g ty d (.imm _) => vnamed g (runOf d.toNat ty.regs)
  | .vmovS2v g ty d a => { vnamed g (runOf d.toNat ty.regs) with rd := [a.toNat] }
  | .vdot x => x.named
  | .vfaddSr r => r.vectors
  | .vfadd x => x.named
  | .vfsubSr r => r.vectors
  | .vfsub x => x.named
  | .vfmulSr r => r.vectors
  | .vfmul x => x.named
  | .vfma x => x.named
  | .vfmin x => x.named
  | .vfmax x => x.named
  | .vfcmp _ x => x.named
  | .vfclass x => x.named
  | .vfdiv x => x.named
  | .vfsqrt x => x.named
  | .vfabs x => x.named
  | .vfneg x => x.named
  | .vfsgn g ty d a b => vnamed g (runOf d.toNat ty.regs ++ runOf a.toNat ty.regs ++ b.vectors ty.regs)
  | .vrcp x => x.named
  | .vrsqrt x => x.named
  | .vexp2 x => x.named
  | .vlog2 x => x.named
  | .vsin x => x.named
  | .vcos x => x.named
  | .vtanh x => x.named
  | .vsigm x => x.named
  | .vcvt g _ _ _ dst src d a => vnamed g (runOf d.toNat (fcRegs dst) ++ runOf a.toNat (fcRegs src))
  | .vrand g d a => a.named (runOf d.toNat 4) g
  | .vrandUnif g d a => a.named (runOf d.toNat 4) g
  | .vrseed (.reg a) => { Named.none with rd := [a.toNat] }
  | .vshuf x => x.named
  | .vshufUp x => x.named
  | .vshufDn x => x.named
  | .vshufRot x => x.named
  | .vperm g ty d a b => vnamed g (runOf d.toNat ty.regs ++ runOf a.toNat ty.regs ++ b.vectors 1)
  | .vbcast g ty d a b => b.named (runOf d.toNat ty.regs ++ runOf a.toNat ty.regs) g
  | .vred o g _ d a => vnamed g (runOf d.toNat o.regs ++ runOf a.toNat o.regs)
  | .vscan o g _ d a => vnamed g (runOf d.toNat o.regs ++ runOf a.toNat o.regs)
  | .vscanEx o g _ d a => vnamed g (runOf d.toNat o.regs ++ runOf a.toNat o.regs)
  | .vballot g d a => { Named.none with wr := [d.toNat], p := [g.gp.toNat, a.toNat], gd := g }
  | .vballotCnt g d a => { Named.none with wr := [d.toNat], p := [g.gp.toNat, a.toNat], gd := g }
  | .vlane ty d a b => { b.named (runOf a.toNat ty.regs) Guard.all with wr := [d.toNat] }
  | .vlaneId g d => vnamed g [d.toNat]
  | .ld _ m => m.named
  | .st m => m.named
  | .lds _ m => m.named
  | .sts m => m.named
  | .ldk _ m => m.named
  | .stk m => m.named
  | .ldnr pf m => { m.named with p := pf.toNat :: m.named.p }
  | .pgreq g ad _ => ad.named [] g
  | .pref g ad _ => ad.named [] g
  | .prefL2 g ad _ => ad.named [] g
  | .memhint _ g ad _ => ad.named [] g
  | .atom op m => m.namedAtom op
  | .atomH op m => m.namedAtom op
  | .waitc _ a => { Named.none with rd := [a.toNat] }
  | .apnd x =>
    { Named.none with v := runOf x.d.toNat (x.w.regs * (x.cnt.toNat + 1)), rd := [x.base.toNat], wr := [x.st.toNat],
                      p := [x.g.gp.toNat, x.pf.toNat], gd := x.g }
  | .seal x => { Named.none with rd := [x.base.toNat], wr := [x.d.toNat] }
  | .tailrd x => { Named.none with rd := [x.base.toNat], wr := [x.d.toNat] }
  | .gangset d a => { Named.none with rd := [a.toNat], wr := [136 + d.toNat] }
  | .mma x => x.named
  | .mmas x => x.named
  | .mmag x => x.named
  | .bload a b => { Named.none with rd := [a.toNat, b.toNat, b.toNat + 1] }
  | .bloadg a b => { Named.none with rd := [a.toNat, b.toNat, b.toNat + 1] }
  | .brel a => { Named.none with rd := [a.toNat] }
  | .accrd g d _ b => { vnamed g (runOf d.toNat 16) with rd := [b.toNat] }
  | .accwr g _ a b => { vnamed g (runOf a.toNat 16) with rd := [b.toNat] }
  | .qntz _ _ a b => { Named.none with rd := [a.toNat, b.toNat, b.toNat + 1] }
  | .dqnt _ a b => { Named.none with rd := [a.toNat, b.toNat, b.toNat + 1] }
  | .bcopy _ a => { Named.none with rd := runOf a.toNat 4 }
  | .bcopy2d _ a b => { Named.none with rd := runOf a.toNat 4 ++ runOf b.toNat 2 }
  | .bapnd _ a b => { Named.none with rd := runOf a.toNat 4, wr := [b.toNat] }
  | .bchk _ a b => { Named.none with rd := [a.toNat, b.toNat], wr := [b.toNat] }
  | .bchkin _ b => { Named.none with rd := [b.toNat] }
  | .barinit _ a => { Named.none with rd := [a.toNat] }
  | .barexp _ a => { Named.none with rd := [a.toNat] }
  | .bararr d _ => { Named.none with wr := [d.toNat] }
  | .barwait _ b => { Named.none with rd := [b.toNat] }
  | .bartry d _ b => { Named.none with rd := [b.toNat], wr := [d.toNat] }
  | .tileget d => { Named.none with wr := runOf d.toNat 4 }
  | .tilestat d => { Named.none with wr := runOf d.toNat 2 }
  | .csrrd d n => { Named.none with rd := if n = 1 then [xmReg] else [], wr := [d.toNat] }
  | .csrwr n a => { Named.none with rd := [a.toNat], wr := if n = 1 then [xmReg] else [] }
  | .clock d => { Named.none with wr := [d.toNat] }
  | .clockC d => { Named.none with wr := [d.toNat] }
  | .sleep a => { Named.none with rd := [a.toNat] }
  | .evsig a b => { Named.none with rd := [a.toNat, b.toNat] }
  | .ckopen d => { Named.none with wr := [d.toNat] }
  | .ckclose d a => { Named.none with rd := [a.toNat], wr := [d.toNat] }
  | .ckcost d => { Named.none with wr := runOf d.toNat 2 }
  | .dbgstep a => { Named.none with rd := [a.toNat] }
  | .perfrd d a => { Named.none with rd := [a.toNat], wr := [d.toNat] }
  | _ => Named.none

/-- Every vector register named is below the group's count (R122, R168). -/
def Instr.fits (i : Instr) (vr : Nat) : Bool := i.named.v.all (fun n => decide (n < vr))

end Sys2Proof

namespace Sys2Proof.Machine

/-! ## Fetch (R107, R109, R164) -/

/-- What a fetch finds: a translation fault at an address with the length known so far, poison at a physical address, or a word. -/
inductive Fetched
  | fault (x : XFault) (va : VAddr) (len : Nat)
  | poison (pa : Nat) (len : Nat)
  | word (w : IWord)
deriving DecidableEq, Repr

/-- Key of a fetched word of a core. -/
def ibufKey (job die core : Nat) (va : VAddr) : Nat := job * 2 ^ 66 + (die * 128 + core) * 2 ^ 57 + va.toNat
/-- One 32-bit unit: the word in memory, or the word that stood there before a store, which this core fetched then or may find until the load
service has run (R107, the choice is free). -/
def State.fetchUnit (s : State) (g : Group) (va : VAddr) : Except Fetched (State × Word) :=
  match s.xlate g.job g.place.die .fetch 4 (va.setWidth 64) with
  | .error x => .error (.fault x va 4)
  | .ok x =>
    if s.poisonNow (x.pa / 128) then .error (.poison x.pa 4)
    else
      let t := (s.useXlate g.job g.place.die va.toNat .fetch x).readVia g.place.die (x.pa / 128)
      let k := ibufKey g.job g.place.die g.place.core va
      let w := BitVec.ofNat 32 (s.numNow x.kid x.pa 4)
      match ((lookup s.ibuf k).toList ++ (lookup s.stale (x.pa / 4)).toList).filter (fun o => o != w) with
      | [] => .ok ({ t with ibuf := mapInsert t.ibuf k w }, w)
      | l =>
        let n := l.length + 1
        let o := ((w :: l)[Config.entryChoice s.free % n]?).getD w
        .ok ({ t with ibuf := mapInsert t.ibuf k (((w :: l)[Config.entryChoice s.free / n % n]?).getD w) }.spend, o)
/-- A fault of a later word carries the length that bits [1:0] of word 0 give (R271). -/
def Fetched.atLen (n : Nat) : Fetched → Fetched
  | .fault x va _ => .fault x va n
  | .poison pa _ => .poison pa n
  | .word w => .word w
/-- The units of an instruction after the first. -/
def State.fetchMore (s : State) (g : Group) (va : VAddr) : Nat → Except Fetched (State × List Word)
  | 0 => .ok (s, [])
  | n + 1 =>
    match s.fetchUnit g va with
    | .error e => .error e
    | .ok r => (r.1.fetchMore g (va + 4) n).map (fun q => (q.1, r.2 :: q.2))
/-- Words as one number, word 0 lowest (R164). -/
def joinWords : List Word → IWord
  | [] => 0
  | w :: l => (joinWords l <<< 32) ||| w.setWidth 96
/-- The instruction at a PC of a group. -/
def State.fetch (s : State) (g : Group) (pc : VAddr) : State × Fetched :=
  match s.fetchUnit g pc with
  | .error e => (s, e)
  | .ok r =>
    let n := lenOf (r.2.setWidth 96)
    match r.1.fetchMore g (pc + 4) (n / 4 - 1) with
    | .error e => (s, e.atLen n)
    | .ok q => (q.1, .word (joinWords (r.2 :: q.2)))

/-! ## Issue states (R133, R272) -/

/-- The RUN lanes. -/
def Group.runLanes (g : Group) : List Nat := (List.range g.lanes.length).filter (fun i => (g.lane i).st == .run)
/-- Order of keys (CC, PC, depth). -/
def keyLe (x y : Lane) : Bool :=
  decide (x.cc < y.cc) || (x.cc == y.cc && (decide (x.pc < y.pc) || (x.pc == y.pc && decide (x.depth ≤ y.depth))))
def sameKey (x y : Lane) : Bool := x.cc == y.cc && x.pc == y.pc && x.depth == y.depth
/-- Insert a lane's state in key order, joining the state of its key. -/
def insState (g : Group) (i : Nat) : List (List Nat) → List (List Nat)
  | [] => [[i]]
  | [] :: r => [] :: insState g i r
  | (j :: l) :: r =>
    if sameKey (g.lane i) (g.lane j) then (j :: l ++ [i]) :: r
    else if keyLe (g.lane i) (g.lane j) then [i] :: (j :: l) :: r
    else (j :: l) :: insState g i r
/-- The issue states of a group in key order, each by its lanes, lowest first; in a trap handler those whose lanes all lie in
FILM (R272). -/
def Group.states (g : Group) : List (List Nat) :=
  (g.runLanes.foldl (fun l i => insState g i l) []).filter (fun ls => !g.tm || ls.all (fun i => g.fi.lm.getLsbD i))

/-- An access of a group that has not performed would consume poison now: the group stands where it is until that traps (R49, R104; log 17). -/
def State.doomed (s : State) (k : Nat) : Bool :=
  s.pend.any (fun a => a.grp == k && a.op.reads && (a.kind.cached || a.kind == .appendSeal) && s.poisonNow (a.pa / 128))
/-- Groups issue only where their cluster is placed and no stop has been asked for (R285, R306, R311). -/
def State.mayIssue (s : State) (g : Group) : Bool :=
  let j := s.job g.job
  g.live && g.wait == .none && !s.doomed (gkey g.job g.team g.q) && j.live && s.boot.power == .d0 &&
  ((j.clusters.getD (g.team / j.jd.cs) { st := .waiting, entry := 0, placedAt := 0 }).st == .placed) &&
  (match j.close with | none => true | some c => !c.asked)

/-- An issue state with its fetched instruction. -/
structure Cand where
  grp : Nat
  lanes : DWord
  leader : Nat
  pc : VAddr
  s : State
  w : Fetched

/-- The issue state of lanes of group `k`. -/
def State.cand (s : State) (k : Nat) (ls : List Nat) : Cand :=
  let g := s.group k
  let pc := (g.lane (ls.headD 0)).pc
  let f := s.fetch g pc
  { grp := k, lanes := maskOf ls, leader := ls.headD 0, pc := pc, s := f.1, w := f.2 }
/-- The registers that a fetched word names. -/
def Fetched.named : Fetched → Named
  | .word w => match decode w with | .ok i => i.named | .error _ => Named.none
  | .fault _ _ _ => Named.none
  | .poison _ _ => Named.none
/-- Clear of the scoreboard, and not found holding since the state last changed. -/
def State.ready (s : State) (c : Cand) : Bool :=
  let g := s.group c.grp
  let n := c.w.named
  !(s.holds.contains (c.grp, c.lanes, c.pc)) &&
  !(n.v.any (fun r => g.pending (.v r))) && !(n.p.any (fun r => g.pending (.p r))) &&
  !((n.rd ++ n.wr).any (fun r => g.pending (.s r)))
/-- The ready issue states of a group, in key order. -/
def State.readyOf (s : State) (k : Nat) : List Cand := ((s.group k).states.map (fun ls => s.cand k ls)).filter s.ready

/-! ## The choice within a group (R135) -/

/-- The member with the smallest leader. -/
def minLeader : List Cand → Option Cand
  | [] => none
  | c :: l => match minLeader l with
    | none => some c
    | some d => if c.leader < d.leader then some c else some d
/-- The pick of R135, with the group's new RP, RUN and LAST. -/
def Group.pick (g : Group) (l : List Cand) : Option (Cand × Group) :=
  match l with
  | [] => none
  | c :: rest =>
    let r := if g.run = 64 && c.leader == g.last then
        (match minLeader (rest.filter (fun d => decide (g.rp < d.leader))) with
         | some d => some d
         | none => minLeader rest)
      else none
    let p := r.getD c
    let g1 := match r with | some d => { g with rp := d.leader } | none => g
    some (p, { g1 with run := if p.leader = g.last then (if g.run < 64 then g.run + 1 else 64) else 1, last := p.leader })

/-! ## The sail's choice (R136, R309) -/

/-- The groups of a sail that have a ready issue state, oldest first. -/
def State.readyGroups (s : State) (key : Nat) : List (Nat × List Cand) :=
  let ks := (s.groups.filter (fun e => e.2.place.key == key && s.mayIssue e.2)).map (fun e => e.1)
  ((ks.foldl (fun r k => insAge s k r) []).map (fun k => (k, s.readyOf k))).filter (fun e => !e.2.isEmpty)
/-- The group that a sail picks; which groups have not issued for 4,096 ac is free (log 4). -/
def State.sailPick (s : State) (sl : Sail) (l : List (Nat × List Cand)) : Option ((Nat × List Cand) × Nat) :=
  match l.find? (fun e => sl.cur == some e.1) with
  | some e =>
    if sl.rn < 512 && !sl.yielded then some (e, sl.rn)
    else
      let others := l.filter (fun x => sl.cur != some x.1)
      let overdue := if l.length ≤ 1 then [] else l.filter (fun x => Config.choice (s.free + 1 + x.1) % 2 == 1)
      let cand := if !overdue.isEmpty then overdue else if !others.isEmpty then others else l
      cand.head?.map (fun e => (e, 0))
  | none =>
    let overdue := if l.length ≤ 1 then [] else l.filter (fun x => Config.choice (s.free + 1 + x.1) % 2 == 1)
    ((if overdue.isEmpty then l else overdue).head?).map (fun e => (e, 0))

/-- Physical slices and passes that lanes of a group occupy (R122). -/
def Group.slices (g : Group) (m : DWord) : List (Nat × Nat) :=
  ((lanesOf m).map (fun i =>
    let k := i / 4
    (k / 8, k % 8 + (if g.width = 16 && g.slot % 2 = 1 then 4 else 0)))).eraseDups
/-- A second state may go beside a first in one ac: disjoint slices of one pass, no scalar, j or g register or execution mask that one writes and
the other reads or writes, no step count (R136, R206, R290). The execution units are taken as free (log 4). -/
def State.besides (s : State) (f : First) (c : Cand) : Bool :=
  let a := (s.group f.grp).slices f.lanes
  let b := (s.group c.grp).slices c.lanes
  let n := c.w.named
  let shut := fun (r : Nat) => r != 0 && (r != xmReg || c.grp == f.grp)
  !(a.any (fun x => b.contains x)) && (a ++ b).all (fun x => x.1 == (a.headD (0, 0)).1) &&
  (c.grp != f.grp || (!((n.rd ++ n.wr).any (fun r => shut r && f.wr.contains r)) && !(n.wr.any (fun r => shut r && f.rd.contains r)))) &&
  !f.solo && (s.group c.grp).sc == 0
/-- A candidate as the first of an ac; `partner`: the lanes of the one that follows it. -/
def State.asFirst (s : State) (c : Cand) (partner : DWord) : First :=
  { grp := c.grp, lanes := c.lanes, rd := c.w.named.rd, wr := c.w.named.wr, solo := (s.group c.grp).sc != 0, partner := partner }
/-- The second state of an ac, with the group's choice state: of the first's group in key order, or else of the next group that the sail would
choose. -/
def State.second (s : State) (sl : Sail) (l : List (Nat × List Cand)) : Option (Cand × Group) :=
  match sl.first with
  | none => none
  | some f =>
    let mine := (l.filter (fun e => e.1 == f.grp)).flatMap (fun e => e.2.filter (s.besides f))
    if f.partner ≠ 0 then (mine.find? (fun c => c.lanes == f.partner)).map (fun c => (c, s.group c.grp))
    else match mine with
      | c :: _ => some (c, s.group c.grp)
      | [] => match l.filter (fun e => e.1 != f.grp) with
        | [] => none
        | e :: _ => ((s.group e.1).pick e.2).bind (fun p => if s.besides f p.1 then some p else none)
/-- The state of a group that may go in one ac with its pick and has a lower key: it is earlier in the order of issue (R136). -/
def State.earlier (s : State) (c : Cand) (l : List Cand) : Option Cand :=
  (l.find? (fun d => s.besides (s.asFirst c 0) d)).bind (fun d => if (l.takeWhile (fun x => x.lanes != c.lanes)).any (fun x => x.lanes == d.lanes) then some d else none)

/-- What an issue comes to: the candidate, and the state with the choice made. -/
structure Issue where
  c : Cand
  s : State

/-- The state before the meaning runs: what the fetch left, the sail's and the group's choice state, and the instruction being
executed. -/
def beginIssue (key : Nat) (c : Cand) (sl : Sail) (grp : Nat) (g : Group) (len : Nat) : State :=
  let t := { c.s.setGroup grp g with sails := mapInsert c.s.sails key sl }
  let u : State := { t with cur := { grp := c.grp, lanes := c.lanes, act := c.lanes, pc := c.pc, len := len } }
  { u with cur := { u.cur with act := u.active c.w.named.gd } }
/-- Recorded length of what was fetched (R174, R271). -/
def Fetched.len : Fetched → Nat
  | .word w => lenOf w
  | .fault _ _ n => n
  | .poison _ n => n
/-- The issue that a sail makes now: a second state of the ac, the pick of the group that it chooses, or a state of a lower key that goes with that
pick and before it. -/
def State.sailIssue (s : State) (key : Nat) : Option Issue :=
  let sl := s.sail key
  let l := s.readyGroups key
  let owed := match sl.first with | some f => f.partner != 0 | none => false
  let dual := match s.second sl l with
    | some c => if owed || Config.choice s.free % 2 == 1 then some c else none
    | none => none
  match dual with
  | some (c, g) => some { c := c, s := (beginIssue key c { sl with first := none } c.grp g c.w.len).spend }
  | none =>
    match s.sailPick sl l with
    | none => none
    | some (e, rn) =>
      match (s.group e.1).pick e.2 with
      | none => none
      | some (c, g) =>
        let next := fun (f : First) => ({ cur := some e.1, rn := rn + 1, yielded := false, first := some f } : Sail)
        match s.earlier c e.2 with
        | some d =>
          if Config.choice (s.free + 1) % 2 = 1 then
            some { c := d, s := (beginIssue key d (next (s.asFirst d c.lanes)) c.grp g d.w.len).spend.spend }
          else some { c := c, s := (beginIssue key c (next (s.asFirst c 0)) c.grp g c.w.len).spend.spend }
        | none =>
          let t := beginIssue key c (next (s.asFirst c 0)) c.grp g c.w.len
          some { c := c, s := if l.length ≤ 1 && (s.second sl l).isNone then t else t.spend }
/-- The sails that hold groups. -/
def State.sailKeys (s : State) : List Nat := ((s.groups.filter (fun e => s.mayIssue e.2)).map (fun e => e.2.place.key)).eraseDups

/-! ## Breakpoints and steps (R288, R290) -/

/-- The lowest breakpoint register that matches a PC. -/
def Job.bpmHit (j : Job) (pc : VAddr) : Option Nat :=
  (List.range 8).find? (fun i =>
    let b := getD 0 j.bpm i
    b.getLsbD 63 && field b.toNat 2 55 == pc.toNat / 4)
/-- The breakpoint that matches the instruction about to issue (R288). -/
def State.bpmNow (s : State) : Option Nat :=
  let g := s.curGroup
  if g.sk || g.skip || (g.tm && !s.curJob.da) then none else s.curJob.bpmHit s.cur.pc
/-- The trap that stops an issue before its instruction executes: a pending step, alone where a breakpoint matches too (R293), or a match. -/
def State.stopTrap (s : State) : Option Trap :=
  if s.curGroup.stepPend then some (Trap.of 0x21)
  else s.bpmNow.map (fun i => { Trap.of 0x20 with code := 1 + i })
/-- A step or breakpoint is reported, and nothing issues: a pending step is spent, and a match with it is suppressed for the instruction when
execution resumes at it (R293). -/
def State.stopAt (s : State) (t : Trap) : Host.Outcome State Fault Refusal :=
  let g := s.curGroup
  let h := if t.cause = 0x21 then { g with stepPend := false, skip := g.skip || (s.bpmNow.isSome && s.curJob.jd.trapv == 0) } else g
  .next ((s.setCurGroup h).takeTrap s.cur.grp s.cur.lanes s.cur.pc s.cur.len t)
/-- An instruction that is not there traps, and nothing issues. -/
def Act.runUnissued (s : State) : Act → Host.Outcome State Fault Refusal
  | .trap t => .next (s.takeTrap s.cur.grp s.cur.lanes s.cur.pc s.cur.len t)
  | .done act t => (Act.done act t).run s
  | .hold => Act.hold.run s
  | .wait t => (Act.wait t).run s
/-- A fetch that finds no instruction: a fault of the page, or poison (R49, R109). -/
def State.fetchTrap (s : State) : Fetched → Host.Outcome State Fault Refusal
  | .fault x va _ => (s.accFault x 4 0 (va.setWidth 64)).runUnissued s
  | .poison pa _ => (if s.curGroup.quiet then Act.trap { Trap.of 0x3F with code := 1, ap := true, addr := BitVec.ofNat 64 pa } else .hold).runUnissued s
  | .word w => execIllegalOpcode w s

end Sys2Proof.Machine
end

