-- ==== Sys2Proof/Machine/Errors.lean ====
section
/-!
DEFINITION. Errors of storage structures as inputs of the machine (R48 to R50), and the redundancy check of FMODE.DUP (R137; log 25).
-/

namespace Sys2Proof

/-- A vector integer, logic or floating ALU operation, which DUP checks (R137): no special function, conversion, cross-lane, memory or mill
operation. -/
def Instr.repeated : Instr → Bool
  | .vaddSr _ _ | .vadd _ _ | .vsubSr _ _ | .vsub _ _ | .vmulSr _ _ | .vmul _ _ | .vmulHi _ | .vmad _ | .vdiv _ | .vdivRem _ | .vmin _
  | .vmax _ | .vabs _ | .vneg _ | .vandSr _ | .vand _ | .vorSr _ | .vor _ | .vxorSr _ | .vxor _ | .vnot _ | .vandn _ | .vshlSr _ | .vshl _
  | .vshrSr _ | .vshr _ | .vrot _ | .vbit _ | .vbitClz _ | .vbitCtz _ | .vbitRev _ | .vbfx _ | .vbfxIns _ | .vsel _ _ _ _ _ _ | .vcmp _ _
  | .vmovSr _ _ | .vmov _ _ _ _ | .vmovS2v _ _ _ _ | .vdot _ | .vfaddSr _ | .vfadd _ | .vfsubSr _ | .vfsub _ | .vfmulSr _ | .vfmul _
  | .vfma _ | .vfmin _ | .vfmax _ | .vfcmp _ _ | .vfclass _ | .vfdiv _ | .vfsqrt _ | .vfabs _ | .vfneg _ | .vfsgn _ _ _ _ _ => true
  | _ => false

end Sys2Proof

namespace Sys2Proof.Machine

/-- MACHINE_CHECK with a detail code and a lane (R271). -/
def machineCheck (code lane : Nat) : Trap := { Trap.of 0x3F with code := code, lane := lane }
def State.dropErr (s : State) (i : Nat) : State := { s with softErrs := dropAt s.softErrs i }

/-! ## Registers, accumulators and stones -/

/-- A group meets an error of a register, or of a tile of its team, at its next issue state once its older accesses have performed; the
instruction there does not issue. -/
def State.regError (s : State) (grp lane : Nat) : Option State :=
  let g := s.group grp
  if !g.live then some s
  else if !s.mayIssue g || !g.quiet then none
  else match g.states with
    | [] => none
    | ls :: _ =>
      let pc := (g.lane (ls.headD 0)).pc
      some (s.takeTrap grp (maskOf ls) pc (s.fetch g pc).2.len (machineCheck 2 lane))
/-- A matrix operation at the mill reads a stone. -/
def MillOp.reads (o : MillOp) (i : Nat) : Bool :=
  o.isMma && (memberSbs o.opc o.gt o.shape).any (fun sb =>
    decide (sb ≤ i) && decide (i < sb + shKb o.shape * shNb o.shape * qFactor (fbFcb o.fb)))
/-- A stone's error: a reloadable stone is reloaded, and the operations on it go on from their last slab; otherwise every member of an operation
that reads it traps. -/
def State.stoneError (s : State) (tk i : Nat) : Option State :=
  let t := s.team tk
  let r := (t.stone i).rcd
  if !t.live || !r.vl then some s
  else if r.rl then
    match s.groupsOf tk with
    | k :: _ => some (s.reload tk k (r.fva, r.lva, r.shw))
    | [] => some s
  else match (List.range t.mill.length).zip t.mill |>.find? (fun e => e.2.reads i) with
    | some (m, o) => s.millTrap tk m o (machineCheck 3 0)
    | none => none
/-- Error `i` takes effect: it is counted, poisons what it hits, or reaches the groups that meet it. A redundancy mismatch waits for its
instruction. -/
def execSoftError (i : Nat) (s : State) : Host.Outcome State Fault Refusal :=
  ev (match s.softErrs[i]? with
    | none => none
    | some e =>
      let t := s.dropErr i
      match e with
      | .corrected die u => some (t.countError die u)
      | .hbmCorrected la => some (t.corrected la)
      | .reg grp lane => t.regError grp lane
      | .tile tk lane => some { t with softErrs := t.softErrs ++ (t.groupsOf tk).map (fun k => SoftErr.reg k lane) }
      | .stone tk n => t.stoneError tk n
      | .team tk w => some (if (t.team tk).live then t.setTeam tk { t.team tk with poison := setD false (t.team tk).poison w true } else t)
      | .comb job w => some (if (t.job job).live then t.setJob job { t.job job with combPoison := setD false (t.job job).combPoison w true } else t)
      | .l2 die la => some (if (t.l2line die la).dv then t.setL2 die la { t.l2line die la with pz := true } else t)
      | .hbm la => some (t.uncorrected la)
      | .table die => some (t.fatal 1 die)
      | .dup _ _ => none)

/-! ## Redundancy (R137) -/

/-- Some slice of the pass of a lane is idle while lanes of a group issue. -/
def Group.idleSlice (g : Group) (m : DWord) (lane : Nat) : Bool :=
  decide (((g.slices m).filter (fun x => x.1 == lane / 32)).length < 8)
/-- The mismatch that the instruction about to execute meets, by its place and lane. -/
def State.dupError (s : State) (i : Instr) : Option (Nat × Nat) :=
  let g := s.curGroup
  if g.fmode.getLsbD 15 && i.repeated then
    (List.range s.softErrs.length).zip s.softErrs |>.findSome? (fun e => match e.2 with
      | .dup grp lane => if grp = s.cur.grp ∧ s.cur.act.getLsbD lane ∧ g.idleSlice s.cur.lanes lane then some (e.1, lane) else none
      | _ => none)
  else none
/-- The instruction that meets a mismatch traps and writes nothing. -/
def State.dupTrap (s : State) (e : Nat × Nat) : State := (s.dropErr e.1).trapCur (machineCheck 4 e.2)

end Sys2Proof.Machine
end

