-- ==== Sys2Proof/Machine/Run.lean ====
section
/-!
DEFINITION. What may happen next: events that the state itself enables, the agenda, a Nolelavin thread's turn, an issue of a sail
(log 1); what surrounds the execution of an instruction; and how a program is placed for a first step (log 9).
-/

namespace Sys2Proof.Machine

abbrev Out := Host.Outcome State Fault Refusal
/-- The outcome is a next state. -/
def isNext : Out → Bool
  | .next _ => true | .fault _ => false | .refused _ => false
/-- The outcome is an event not enabled. -/
def isOff : Out → Bool
  | .next _ => false | .fault f => f == .notEnabled | .refused _ => false
/-- After any step but a hold, issue states that were found holding are tried again. -/
def keepHolds (s : State) : Out → Out
  | .next t => .next (if t.holds.length > s.holds.length then t else { t with holds := [] })
  | .fault f => .fault f
  | .refused r => .refused r

/-! ## Events that the state enables -/

/-- Delivery of message `k` by its type (R57). -/
def State.deliver (k : Nat) (s : State) : Out :=
  match s.msgs[k]? with
  | none => .fault .notEnabled
  | some m => match m.ty.toNat with
    | 1 => execGets k s
    | 2 => execGetx k s
    | 3 => execTok k s
    | 4 => execPreq k s
    | 5 => execAct k s
    | 6 => execActack k s
    | 7 => execDone k s
    | 8 => execDeact k s
    | 9 => execDeactack k s
    | 10 => match m.op.toNat with
      | 0x20 => execArsv k s
      | 0x21 => execAdat k s
      | 0x22 => execHopSeal k s
      | 0x23 => execHopTailrd k s
      | 0x24 => execArd k s
      | _ => if isNext (execHopAtomic k s) then execHopAtomic k s else execInvalidMessageType k s
    | 11 => execHrsp k s
    | 12 => execSrd k s
    | 13 => execSrsp k s
    | 14 => execWb k s
    | 15 => execWback k s
    | _ => execInvalidMessageType k s
/-- Evictions that make room for a line that something waits for at a die, where no way of its set is free (R58). -/
def State.crowd (s : State) (die la : Nat) (kid : BitVec 6) : List (State → Out) :=
  let x := s.l2line die la
  if die < 4 && x.tc == 0 && !x.isSealed && (s.freeWay die la kid).isNone then
    (s.l2.filter (fun e => e.1 / 2 ^ 45 == die && l2set (e.1 % 2 ^ 45) == l2set la && bitAt (s.waysFor die la kid) e.2.way)).map (fun e =>
      execLineEviction die (e.1 % 2 ^ 45))
  else []
/-- Lines that messages and entries at H0 name, which its away table may have no room for (R53). -/
def State.awayLines (s : State) : List Nat :=
  ((s.msgs.filter (fun m => m.dst == 8 && (m.ty == 1 || m.ty == 2))).map (fun m => m.la) ++ (s.ptab.filter (fun e => e.home == 8)).map (fun e => e.la)).eraseDups
/-- Requests: their attempts and escalations, and those of homes and of H0 (R53, R58, R60 to R64, R67). -/
def State.requestMoves (s : State) : List (State → Out) :=
  (List.range s.reqs.length).flatMap (fun r => [execTransientReissue r, execTransientEscalation r]) ++
  ((s.reqs.filter (fun q => q.heldEsc)).map (fun q => execHeldEscalationSend q.agent (homeOf (q.la * 128)))) ++
  ((s.homeq.map (fun m => m.la)).eraseDups.map execRunHops) ++
  s.ptab.map (fun e => execHomeYield e.idx e.home) ++
  s.wants.map execWantAsk ++
  s.awayLines.map execAwayVictim ++
  (s.wants.filter (fun w => w.agent == 8 && w.write)).map (fun w => execAwayFree w.la) ++
  s.hostOut.map execHostTakes
/-- Accesses that have not performed (R31, R54, R58, R94). -/
def State.accessMoves (s : State) : List (State → Out) :=
  ((s.pend.filter (fun a => a.kind == .coherent)).map (fun a => (a.die, a.pa / 128))).eraseDups.map (fun e => execPerformReady e.1 e.2) ++
  s.pend.map (fun a => execAskLine a.id) ++
  s.pend.flatMap (fun a => if a.kind == .coherent then s.crowd a.die (a.pa / 128) a.kid else []) ++
  s.copies.flatMap (fun c => c.wants.flatMap (fun w => s.crowd c.die w.1 0)) ++
  s.padWords.map (fun a t => .next (t.padServe a))
/-- Events of messages, requests, accesses, home operations, frees, copies, invalidations, errors. -/
def State.fabricMoves (s : State) : List (State → Out) :=
  (List.range s.msgs.length).map (fun k t => t.deliver k) ++ s.requestMoves ++ s.accessMoves ++
  (List.range s.hops.length).flatMap (fun i => [execArsvRetry i, execHopReissue i]) ++
  s.frees.flatMap (fun f => execFreeService f.home f.rcd :: f.acks.map (fun d => execFreeAck f.home f.rcd d)) ++
  (if s.remoteOut.isEmpty then [] else [execLinkTakes]) ++
  (List.range s.copies.length).flatMap (fun i =>
    [execCheckoutRegister i, execCopyLinePerformed i, execSegmentFillDone i, execSegmentWritebackDone i]) ++
  s.engineIds.map execEngineRepin ++
  (List.range s.invals.length).map execTlbInvalidateComplete ++
  (List.range s.softErrs.length).map execSoftError
/-- Events of groups and teams. -/
def State.teamMoves (s : State) : List (State → Out) :=
  (s.groups.filter (fun e => !e.2.flights.isEmpty)).flatMap (fun e =>
    [execAccessComplete e.1 .g, execAccessComplete e.1 .t, execAccessComplete e.1 .k, execAccessComplete e.1 .c, execAccessComplete e.1 .m]) ++
  (s.groups.filter (fun e => e.2.lanes.any (fun x => x.st == .sl))).map (fun e => execSleepWake e.1) ++
  s.teams.flatMap (fun e =>
    e.2.latches.map (fun l => execLatchComplete (e.1 / 65536) (e.1 % 65536) l.mask) ++
    (List.range e.2.mill.length).flatMap (fun i =>
      [execSlabCommit (e.1 / 65536) (e.1 % 65536) i, execMillPart (e.1 / 65536) (e.1 % 65536) i, execMillRead (e.1 / 65536) (e.1 % 65536) i]) ++
    [execTeamEnd (e.1 / 65536) (e.1 % 65536)])
/-- Events of jobs, queues and rings. -/
def State.jobMoves (s : State) : List (State → Out) :=
  s.jobs.flatMap (fun e =>
    (List.range e.2.clusters.length).flatMap (fun c => [execStopComplete e.1 c, execSaveComplete e.1 c]) ++
    [execCloseStop e.1, execUnitStreamed e.1, execRecordComplete e.1, execDeadlineAccept e.1]) ++
  s.queues.flatMap (fun e =>
    [execPacketNop e.1, execPacketJob e.1, execPacketCall e.1, execPacketRet e.1, execPacketJoin e.1, execPacketWaitv e.1,
     execPacketSigv e.1, execPacketCkpt e.1, execPacketPreempt e.1, execPacketHalt e.1, lookMove e.1]) ++
  s.events.map (fun e => execEventRecordPost (e.1 / 16) (e.1 % 16))
/-- An event is enabled, and the staging buffers have room for what it writes at the homes (R323). -/
def State.enables (s : State) (f : State → Out) : Bool :=
  match f s with
  | .next t => !s.overStaged t
  | .fault _ => false
  | .refused _ => false
/-- The events that the state enables now. -/
def State.eventMoves (s : State) : List (State → Out) := (s.fabricMoves ++ s.teamMoves ++ s.jobMoves).filter s.enables

/-! ## The agenda -/

/-- An event of the agenda: every instruction word of a group or thread is left out. -/
def Instr.isEvent (i : Instr) : Bool := (encode i).isNone
/-- Deliver the first event of the agenda. -/
def agendaMove (s : State) : Out :=
  match s.agenda with
  | [] => .fault .notEnabled
  | i :: rest => if Instr.isEvent i then exec i { s with agenda := rest } else .next { s with agenda := rest }
/-- Resets and recovery, which a device with a fatal error still accepts (R343). -/
def Instr.revives : Instr → Bool
  | .reset => true | .mailboxReset => true | .recoveryGo _ _ => true | _ => false

/-! ## Issue -/

/-- What surrounds a meaning: an issue state that holds leaves the machine as it was, and so does one that needs a sector of a full staging
buffer (R323). -/
def State.finishIssue (s : State) : Out → Out
  | .next t => .next (if t.holds.length > s.holds.length then { s with holds := t.holds } else if s.overStaged t then s.holdCur else t)
  | .fault f => .fault f
  | .refused r => .refused r
/-- Run a fetched instruction: a step or breakpoint first, then decode and the registers' limits, then a redundancy mismatch (R137), then its
meaning. -/
def State.runFetched (s : State) (f : Fetched) : Out :=
  match f with
  | .word w =>
    match s.stopTrap with
    | some t => s.stopAt t
    | none =>
      match decode w with
      | .ok i =>
        if i.fits s.curGroup.vr then
          (match s.dupError i with
           | some e => .next (s.dupTrap e)
           | none => exec i s)
        else (Act.trap { Trap.illegalOperand 0 with len := some (lenOf w) }).run s
      | .error _ => execIllegalOpcode w s
  | _ => s.fetchTrap f
/-- A sail issues. -/
def issueOn (key : Nat) (s : State) : Out :=
  match s.sailIssue key with
  | some i => s.finishIssue (i.s.runFetched i.c.w)
  | none => .next s
/-- The sails that can issue now. -/
def State.issueMoves (s : State) : List (State → Out) :=
  (s.sailKeys.filter (fun k => (s.sailIssue k).isSome)).map issueOn

/-! ## A thread's turn (R331, R332) -/

/-- The 32-bit word at a thread's pc: two halfwords, which may lie in two lines. -/
def State.threadWord (s : State) (pc : DWord) : Word :=
  let pa := pc.toNat % 2 ^ 52
  let kid := if keyed pa then pc.extractLsb' 52 6 else 0
  BitVec.ofNat 32 (s.numNow kid pa 2 + 2 ^ 16 * s.numNow kid (pa + 2) 2)
/-- A word that a thread executes: a custom instruction, a custom word that is none, or a word of RV64IMAC with Zicsr. -/
def State.runThread (s : State) (t : Nat) (w : Word) : Out :=
  match decodeCustom w with
  | some i => exec i s
  | none =>
    let op := w.extractLsb' 0 7
    if op = 0x0B ∨ op = 0x2B ∨ op = 0x5B ∨ op = 0x7B then execNolelavinIllegalInstruction t s else s.riscv t w
/-- The thread whose turn it is executes one instruction. -/
def threadStep (t : Nat) (s : State) : Out :=
  let th := s.thread t
  if th.blocked.isSome then .next { s with turn := none }
  else if th.pc.toNat / 2 ^ 58 ≠ 0 then .next (s.threadTrap t 1 th.pc)
  else match regionOf (th.pc.toNat % 2 ^ 52) with
    | .reserved => .fault .noSuchAddress
    | .control => .fault .outsideUnit
    | .io => .fault .outsideUnit
    | .remote => .fault .outsideUnit
    | .hbm => s.runThread t (s.threadWord th.pc)
    | .host => s.runThread t (s.threadWord th.pc)
    | .pool => s.runThread t (s.threadWord th.pc)

/-! ## One step -/

/-- The thread of a core that issues next: the first ready one after the thread that issued last, in rotation (R331). -/
def State.nextThread (s : State) (core last : Nat) : Option Nat :=
  ((List.range 32).map (fun i => core * 32 + (last + 1 + i) % 32)).find? (fun t => (s.thread t).on && (s.thread t).blocked.isNone)
def sysThread (s : State) : Out :=
  match s.nextThread 0 s.lastSys with
  | some t => threadStep t { s with turn := some t, lastSys := t }
  | none => .next s
def cpThread (s : State) : Out :=
  match s.nextThread 1 s.lastCp with
  | some t => threadStep t { s with turn := some t, lastCp := t }
  | none => .next s
/-- The threads of the two Nolelavin cores that may issue. -/
def State.threadMoves (s : State) : List (State → Out) :=
  (if (s.nextThread 0 s.lastSys).isSome then [sysThread] else []) ++ (if (s.nextThread 1 s.lastCp).isSome then [cpThread] else [])
/-- Everything that may happen next, while no thread has its turn. -/
def State.nextMoves (s : State) : List (State → Out) :=
  s.eventMoves ++ (if s.agenda.isEmpty || isOff (agendaMove s) then [] else [agendaMove]) ++ s.issueMoves ++ s.threadMoves
/-- One of the moves: the only one, or a free choice. -/
def State.moveOn (s : State) : Out :=
  match s.nextMoves with
  | [] => if s.agenda.isEmpty then .next s else .fault .notEnabled
  | [f] => keepHolds s (f s)
  | f :: l => keepHolds s ((((f :: l)[Config.choice s.free % (l.length + 1)]?).getD f) s.spend)
/-- A step of a device with a fatal error. -/
def State.fatalStep (s : State) : Out :=
  match s.agenda with
  | [] => .fault .fatalStop
  | i :: rest => if Instr.revives i then exec i { s with agenda := rest } else .next { s with agenda := rest }

/-! ## A program placed for the next step (log 9) -/

/-- Fields of the job that runs the placed words: one cluster of one team of one group of 16 lanes. -/
def placedJd : JobDesc :=
  { JobDesc.zero with entry := 0x1000, trapv := 0x2000, vr := 48, gpt := 1, cs := 1, tmk := 63, atl := 64, stn := 64, mtc := 1,
                      rmask := 1 }
def placedJob : Job :=
  { Job.dead with live := true, jd := placedJd, part := 1, root := 0x40000, rtag := 1, st := .running,
                  clusters := [{ st := .placed, entry := 0, placedAt := 0 }], cot := [{ base := 0, size := 0x100000 }] }
def placedTeam : Team := { Team.dead with live := true }
def placedGroup : Group := launchGroup placedJd 0 0 0 { die := 0, core := 0, sail := 0 } 0 0x1000 0
/-- A partition whose system key is slot 1, which is loaded, with every L2 way. -/
def placedPart : Part := { Part.none with setUp := true, rcd := { Part.none.rcd with sched := 0x100000000FFFFFF0000000000, slots := 2 }, tdisp := .run }
/-- Bytes of one line placed under slot 1: the rest of the line stays as it lies. -/
def place (s : State) (pa : Nat) (bs : List Byte) : State := ({ s with lineKid := setD 0 s.lineKid (pa / 128) 1 } : State).memPut 1 pa bs
/-- Page tables: one leaf of 1 GiB at address 0, readable, writable, executable, under slot 1. -/
def placeTables (s : State) : State :=
  place (place (place s 0x40000000 (toBytes 8 0x4000100001)) 0x40001000 (toBytes 8 0x4000200001)) 0x40002000 (toBytes 8 0x1C04F)
/-- A machine in which nothing but the placed program can move next: the program stands at 0x1000. -/
def placeWords (s : State) (bs : List Byte) : State :=
  let t : State := { s with
    groups := [(0, placedGroup)], teams := [(0, placedTeam)], jobs := [(0, placedJob)], sails := [], holds := [], agenda := [],
    threads := [], turn := none, tlb := [], wcache := [], ibuf := [], stale := [], msgs := [], reqs := [], ptab := [], acts := [], homeq := [],
    wants := [], hostOut := [], remoteOut := [], hops := [], pend := [], frees := [], copies := [], invals := [], pins := [], faults := [],
    moves := [], softErrs := [], queues := [], events := [], l2 := [], home := [], h0 := [], lineOld := [], poison := [], keys := mapInsert s.keys 1 { part := 1, key := 0 },
    parts := mapInsert s.parts 1 placedPart, boot := { s.boot with rom := false, fatal := false, power := .d0 } }
  place (placeTables t) 0x1000 bs
/-- The same for a word of a Nolelavin core: thread 0 stands at it and has its turn. -/
def placeThread (s : State) (bs : List Byte) : State :=
  let t := placeWords s bs
  { t.setThread 0 { t.thread 0 with pc := 0x0010000000001000, blocked := none, on := true } with groups := [], jobs := [], teams := [], turn := some 0 }

end Sys2Proof.Machine
end

