-- ==== Sys2Proof/Machine/Step.lean ====
section
/-!
DEFINITION. One step of the machine, and the machine with an instruction placed for its next step.
-/

namespace Sys2Proof.Machine

/-- One step: the boot ROM first (R349), nothing but a reset after a fatal error (R343), then a thread's turn, then one of the
events, the agenda's first event and the issues that the state allows (log 1). -/
def step (s : State) : Host.Outcome State Fault Refusal :=
  if s.boot.fatal then s.fatalStep
  else if s.boot.rom then execReset s
  else match s.turn with
    | some t => keepHolds s (threadStep t s)
    | none => s.moveOn

/-- The state with an instruction stored where the next step fetches it (log 9). -/
def State.withFetchWord (s : State) (nbits w : Nat) : State :=
  let bs := wordBytes (BitVec.ofNat 96 (w % 2 ^ nbits))
  if w % 4 = 3 then placeThread s bs else placeWords s bs

end Sys2Proof.Machine
end

