-- ==== Sys2Proof/Safety.lean ====
section
/-!
DEFINITION. The terms in which statements speak of the machine: a property of every next state, an invariant of the step, a run
without a stop, what the state holds in canonical form; and what an instruction leaves alone, where it continues and how its
issue is accounted for.
-/

namespace Sys2Proof.Machine

/-! ## Runs -/

/-- The property holds of the next state, if the outcome is one. -/
def Next (o : Host.Outcome State Fault Refusal) (p : State → Prop) : Prop := ∀ t, o = .next t → p t
/-- Every step keeps the property. -/
def Invariant (p : State → Prop) : Prop := ∀ s, p s → Next (step s) p
/-- A run of `n` steps from a state meets no fault and no refusal. -/
def RunsSafely : Nat → State → Prop
  | 0, _ => True
  | n + 1, s => ∃ t, step s = .next t ∧ RunsSafely n t
/-- Memory is in its canonical form. -/
def State.memWf (s : State) : Prop := Memory.wf s.mem = true

/-! ## The instruction being executed -/

/-- Only the group being executed may differ: every byte of memory, every other group and every other part of the machine stay. -/
def OwnGroupOnly (s t : State) : Prop :=
  t = { s with groups := t.groups } ∧ (∀ k, k ≠ s.cur.grp → t.group k = s.group k) ∧
    ∀ a, Memory.read t.mem a = Memory.read s.mem a
/-- The lanes of the issue state stand at the next instruction, as they were otherwise; the other lanes are as they were. -/
def Continues (s t : State) : Prop :=
  ∀ l, t.curGroup.lane l =
    if s.cur.lanes.getLsbD l = true ∧ l < s.curGroup.lanes.length then { s.curGroup.lane l with pc := s.nextPc }
    else s.curGroup.lane l
/-- One issue is accounted for: counters 0 and 1 (R292), the bits that suppress one match (R274, R288) and the step count (R290). -/
def Accounted (s t : State) (act : DWord) : Prop :=
  let g := s.curGroup
  let h := t.curGroup
  (∀ k, getD 0 h.perf k = getD 0 g.perf k + (if k = 0 then 1 else if k = 1 then BitVec.ofNat 64 (popcount 64 act.toNat) else 0)) ∧
  h.sk = false ∧ h.skip = false ∧ h.sc = (if g.sc ≠ 0 ∧ (g.tm = false ∨ s.curJob.da = true) then g.sc - 1 else g.sc) ∧
  h.stepPend = (g.stepPend || (g.sc == 1 && (!g.tm || s.curJob.da)))
/-- The instruction is done: it changed its own group alone, its lanes go on, and its issue is accounted for. -/
def Done (s t : State) (act : DWord) : Prop := OwnGroupOnly s t ∧ Continues s t ∧ Accounted s t act

/-- It completes; the scalar registers read as `f` says, and nothing else of its group changes. -/
def ScalarStep (i : Instr) (s : State) (act : DWord) (f : Nat → DWord) : Prop :=
  ∃ t, exec i s = .next t ∧ Done s t act ∧
    t.curGroup = { s.curGroup with
      s := t.curGroup.s, lanes := t.curGroup.lanes, perf := t.curGroup.perf, sk := t.curGroup.sk, sc := t.curGroup.sc, skip := t.curGroup.skip,
      stepPend := t.curGroup.stepPend } ∧
    ∀ n, t.curGroup.sget n = f n
/-- The scalars with one register written; s0 ignores the write. -/
def withScalar (s : State) (d : Nat) (v : DWord) (n : Nat) : DWord := if n = d ∧ n ≠ 0 then v else s.curGroup.sget n
/-- It completes in every lane of the issue state with one scalar written. -/
def ScalarRun (i : Instr) (s : State) (d : BitVec 7) (v : DWord) : Prop := ScalarStep i s s.cur.lanes (withScalar s d.toNat v)
/-- It completes; the predicates read as `f` says, and nothing else of its group changes. -/
def PredStep (i : Instr) (s : State) (act : DWord) (f : Nat → Nat → Bool) : Prop :=
  ∃ t, exec i s = .next t ∧ Done s t act ∧
    t.curGroup = { s.curGroup with
      p := t.curGroup.p, lanes := t.curGroup.lanes, perf := t.curGroup.perf, sk := t.curGroup.sk, sc := t.curGroup.sc, skip := t.curGroup.skip,
      stepPend := t.curGroup.stepPend } ∧
    ∀ n l, l < 64 → t.curGroup.pred n l = f n l
/-- The predicates with one register written in the active lanes; p0 ignores the write. -/
def withPred (s : State) (act : DWord) (d : Nat) (b : Nat → Bool) (n l : Nat) : Bool :=
  if n = d ∧ n ≠ 0 ∧ act.getLsbD l = true then b l else s.curGroup.pred n l
/-- It completes in the lanes of its guard with one predicate written. -/
def PredRun (i : Instr) (s : State) (gd : Guard) (d : BitVec 4) (b : Nat → Bool) : Prop :=
  PredStep i s (s.active gd) (withPred s (s.active gd) d.toNat b)
/-- It completes; the vector registers read as `f` says, their dirty marks aside nothing else of its group changes. -/
def VectorStep (i : Instr) (s : State) (act : DWord) (f : Nat → Nat → Word) : Prop :=
  ∃ t, exec i s = .next t ∧ Done s t act ∧
    t.curGroup = { s.curGroup with
      v := t.curGroup.v, dirtyV := t.curGroup.dirtyV, lanes := t.curGroup.lanes, perf := t.curGroup.perf, sk := t.curGroup.sk,
      sc := t.curGroup.sc, skip := t.curGroup.skip, stepPend := t.curGroup.stepPend } ∧
    ∀ n l, l < 64 → t.curGroup.v32 n l = f n l
/-- The vector registers with an operand of `k` registers from vd written in the active lanes, the lowest register first. -/
def withVector (s : State) (act : DWord) (d k : Nat) (v : Nat → Nat) (n l : Nat) : Word :=
  if act.getLsbD l = true ∧ d ≤ n ∧ n < d + k then BitVec.ofNat 32 (v l / 2 ^ (32 * (n - d))) else s.curGroup.v32 n l
/-- It completes in the lanes of its guard with one vector operand written. -/
def VectorRun (i : Instr) (s : State) (gd : Guard) (d : BitVec 11) (k : Nat) (v : Nat → Nat) : Prop :=
  VectorStep i s (s.active gd) (withVector s (s.active gd) d.toNat k v)

end Sys2Proof.Machine
end

