-- ==== Sys2Proof/Certificates/Slice0/Obligations.lean ====
section
/-!
DEFINITION. The statements for the provers. Values are said in the spec's own terms, apart from the model's helpers where that is
short: as integers and bit vectors of the operand's width. Each docstring names the rules of spec/.
-/

namespace Sys2Proof.Says

open Sys2Proof.Machine

/-! ## Scalar values (R186 to R190) -/

/-- The integer of an operand of list S. -/
def sInt : STy → DWord → Int
  | .s64, x => x.toInt
  | .n64, x => x.toNat
  | .s32, x => (x.setWidth 32).toInt
  | .n32, x => (x.setWidth 32).toNat
def sMin : STy → Int
  | .s64 => -2 ^ 63 | .n64 => 0 | .s32 => -2 ^ 31 | .n32 => 0
def sMax : STy → Int
  | .s64 => 2 ^ 63 - 1 | .n64 => 2 ^ 64 - 1 | .s32 => 2 ^ 31 - 1 | .n32 => 2 ^ 32 - 1
/-- Clamped to the type's range under `.sat`. -/
def sLimit (sat : Bool) (ty : STy) (r : Int) : Int := if sat then max (sMin ty) (min (sMax ty) r) else r
/-- The low bits of an integer, extended by the type. -/
def sPut : STy → Int → DWord
  | .s64, r => BitVec.ofInt 64 r
  | .n64, r => BitVec.ofInt 64 r
  | .s32, r => (BitVec.ofInt 32 r).signExtend 64
  | .n32, r => (BitVec.ofInt 32 r).setWidth 64
/-- A scalar second source: a register, or the immediate extended by sign or by zeros (R159, R186). -/
def sSource (g : Group) (sx : Bool) : SSrc → DWord
  | .reg b => g.sget b.toNat
  | .imm x => if sx then x.signExtend 64 else x.setWidth 64
  | .rlit x => if sx then x.signExtend 64 else x.setWidth 64
  | .ilit x => if sx then x.signExtend 64 else x.setWidth 64
def sSigned : STy → Bool
  | .s64 => true | .n64 => false | .s32 => true | .n32 => false
/-- The quotient truncated towards zero; a zero divisor gives all ones: −1, or the largest unsigned number. -/
def sQuot (ty : STy) (x y : Int) : Int := if y = 0 then (if sSigned ty then -1 else sMax ty) else x.tdiv y
/-- An operation on whole registers, or on the low words with the result extended by the type. -/
def sBitwise (ty : STy) (f : DWord → DWord → DWord) (h : Word → Word → Word) (a b : DWord) : DWord :=
  match ty with
  | .s64 => f a b
  | .n64 => f a b
  | .s32 => (h (a.setWidth 32) (b.setWidth 32)).signExtend 64
  | .n32 => (h (a.setWidth 32) (b.setWidth 32)).setWidth 64
/-- A two-source scalar instruction writes a value of its type from the integers of its sources. -/
def SIntRun (i : Instr) (s : State) (sat : Bool) (x : SBin) (f : Int → Int → Int) : Prop :=
  ScalarRun i s x.d (sPut x.ty (sLimit sat x.ty
    (f (sInt x.ty (s.curGroup.sget x.a.toNat)) (sInt x.ty (sSource s.curGroup (sSigned x.ty) x.b)))))
/-- A two-source scalar instruction writes a bitwise function of its sources. -/
def SBitRun (i : Instr) (s : State) (sx : Bool) (x : SBin) (f : DWord → DWord → DWord) (h : Word → Word → Word) : Prop :=
  ScalarRun i s x.d (sBitwise x.ty f h (s.curGroup.sget x.a.toNat) (sSource s.curGroup sx x.b))
/-- The long form that an SR word stands for: 64-bit signed, three registers. -/
def srLong (r : SR3) : SBin := { ty := .s64, d := r.d, a := r.a, b := .reg r.b }

end Sys2Proof.Says

section

open Sys2Proof Sys2Proof.Machine Sys2Proof.Says

/-! ## Scalar instructions -/

/-- SADD, SSUB, SMUL, SDIV, SMIN, SMAX in every form and type complete with the exact integer result, clamped under `.sat`, its
low bits extended by the type; s0 ignores the write; nothing else of the machine changes but the PC and the issue's counts
(R168, R186, R187). -/
def Obligations.ScalarIntegers : Prop :=
  (∀ s sat x, SIntRun (.sadd sat x) s sat x (· + ·)) ∧
  (∀ s sat x, SIntRun (.ssub sat x) s sat x (· - ·)) ∧
  (∀ s sat x, SIntRun (.smul sat x) s sat x (· * ·)) ∧
  (∀ s sat x, SIntRun (.sdiv sat x) s sat x (sQuot x.ty)) ∧
  (∀ s x, SIntRun (.smin x) s false x min) ∧
  (∀ s x, SIntRun (.smax x) s false x max) ∧
  (∀ s sat r, SIntRun (.saddSr sat r) s sat (srLong r) (· + ·)) ∧
  (∀ s sat r, SIntRun (.ssubSr sat r) s sat (srLong r) (· - ·)) ∧
  (∀ s sat r, SIntRun (.smulSr sat r) s sat (srLong r) (· * ·)) ∧
  ∀ s sat d imm, ScalarRun (.saddSi sat d imm) s d (sPut .s64 (sLimit sat .s64 ((s.curGroup.sget d.toNat).toInt + imm.toInt)))

/-- SAND, SOR, SXOR, SANDN, SSHL, SSHR, SSRA, SROT in every form and type: the operation on all 64 bits, or on the low 32 with
the result extended by the type; a shift count is taken modulo the width (R186, R189). -/
def Obligations.ScalarBits : Prop :=
  (∀ s x, SBitRun (.sand x) s true x (· &&& ·) (· &&& ·)) ∧
  (∀ s x, SBitRun (.sor x) s true x (· ||| ·) (· ||| ·)) ∧
  (∀ s x, SBitRun (.sxor x) s true x (· ^^^ ·) (· ^^^ ·)) ∧
  (∀ s x, SBitRun (.sandn x) s true x (fun a b => a &&& ~~~ b) (fun a b => a &&& ~~~ b)) ∧
  (∀ s x, SBitRun (.sshl x) s false x (fun a b => a <<< (b.toNat % 64)) (fun a b => a <<< (b.toNat % 32))) ∧
  (∀ s x, SBitRun (.sshr x) s false x (fun a b => a >>> (b.toNat % 64)) (fun a b => a >>> (b.toNat % 32))) ∧
  (∀ s x, SBitRun (.ssra x) s false x (fun a b => a.sshiftRight (b.toNat % 64)) (fun a b => a.sshiftRight (b.toNat % 32))) ∧
  (∀ s x, SBitRun (.srot x) s false x (fun a b => a.rotateRight (b.toNat % 64)) (fun a b => a.rotateRight (b.toNat % 32))) ∧
  (∀ s r, SBitRun (.sandSr r) s true (srLong r) (· &&& ·) (· &&& ·)) ∧
  (∀ s r, SBitRun (.sorSr r) s true (srLong r) (· ||| ·) (· ||| ·)) ∧
  (∀ s r, SBitRun (.sxorSr r) s true (srLong r) (· ^^^ ·) (· ^^^ ·)) ∧
  (∀ s r, SBitRun (.sandnSr r) s true (srLong r) (fun a b => a &&& ~~~ b) (fun a b => a &&& ~~~ b)) ∧
  (∀ s r, SBitRun (.sshlSr r) s false (srLong r) (fun a b => a <<< (b.toNat % 64)) (fun a b => a <<< (b.toNat % 32))) ∧
  (∀ s r, SBitRun (.sshrSr r) s false (srLong r) (fun a b => a >>> (b.toNat % 64)) (fun a b => a >>> (b.toNat % 32))) ∧
  (∀ s r, SBitRun (.ssraSr r) s false (srLong r) (fun a b => a.sshiftRight (b.toNat % 64)) (fun a b => a.sshiftRight (b.toNat % 32))) ∧
  ∀ s r, SBitRun (.srotSr r) s false (srLong r) (fun a b => a.rotateRight (b.toNat % 64)) (fun a b => a.rotateRight (b.toNat % 32))

end

namespace Sys2Proof.Says

open Sys2Proof.Machine

/-- The relation of SCMP and VCMP. -/
def sRel : Rel → Int → Int → Bool
  | .eq, x, y => x == y
  | .ne, x, y => x != y
  | .lt, x, y => decide (x < y)
  | .le, x, y => decide (x ≤ y)
  | .gt, x, y => decide (x > y)
  | .ge, x, y => decide (x ≥ y)
/-- Width of a type of list S. -/
def sWidth : STy → Nat
  | .s64 => 64 | .n64 => 64 | .s32 => 32 | .n32 => 32
/-- The bit pattern of an operand, its upper bits zero. -/
def sPattern (ty : STy) (x : DWord) : DWord := match ty with | .s64 => x | .n64 => x | .s32 => (x.setWidth 32).setWidth 64 | .n32 => (x.setWidth 32).setWidth 64
/-- Low bits extended by the type. -/
def sExtend (ty : STy) (x : DWord) : DWord :=
  match ty with | .s64 => x | .n64 => x | .s32 => (x.setWidth 32).signExtend 64 | .n32 => (x.setWidth 32).setWidth 64
/-- An immediate of an LI word. -/
def immOf (sx : Bool) : Imm → DWord
  | .i16 x => if sx then x.signExtend 64 else x.setWidth 64
  | .i32 x => if sx then x.signExtend 64 else x.setWidth 64
/-- SSEL's second choice. -/
def litOrReg (g : Group) : SLit → DWord
  | .reg r => g.sget r.toNat
  | .lit x => x.signExtend 64
/-- A count instruction writes a number `v`, of the type's width at most. -/
def SCountRun (i : Instr) (s : State) (x : SUn) (p : Nat → DWord → Nat → Prop) : Prop :=
  ∃ v, p (sWidth x.ty) (sPattern x.ty (s.curGroup.sget x.a.toNat)) v ∧ ScalarRun i s x.d (BitVec.ofNat 64 v)
/-- `v` counts the zeros above the highest one of `n` bits. -/
def IsClz (n : Nat) (x : DWord) (v : Nat) : Prop :=
  v ≤ n ∧ (∀ i, n - v ≤ i → i < n → x.getLsbD i = false) ∧ (v < n → x.getLsbD (n - 1 - v) = true)
/-- `v` counts the zeros below the lowest one of `n` bits. -/
def IsCtz (n : Nat) (x : DWord) (v : Nat) : Prop :=
  v ≤ n ∧ (∀ i, i < v → x.getLsbD i = false) ∧ (v < n → x.getLsbD v = true)
/-- `v` counts the ones of `n` bits. -/
def IsPop (n : Nat) (x : DWord) (v : Nat) : Prop := v = ((List.range n).filter (fun i => x.getLsbD i)).length
/-- The control word of a field operation: its position and its length. -/
def fieldPos (q : DWord) : Nat := (q.extractLsb' 0 6).toNat
def fieldLen (q : DWord) : Nat := (q.extractLsb' 6 6).toNat + 1

end Sys2Proof.Says

section

open Sys2Proof Sys2Proof.Machine Sys2Proof.Says

/-- SCMP compares in every form and type: function 0 writes −1, 0 or 1, functions 1 to 6 write 1 where their relation holds and 0
otherwise, as a 64-bit signed integer (R188). -/
def Obligations.ScalarCompares : Prop :=
  (∀ s x, ScalarRun (.scmp x) s x.d
    (let a := sInt x.ty (s.curGroup.sget x.a.toNat)
     let b := sInt x.ty (sSource s.curGroup (sSigned x.ty) x.b)
     if a < b then -1 else if a = b then 0 else 1)) ∧
  ∀ s r x, ScalarRun (.scmpRel r x) s x.d
    (if sRel r (sInt x.ty (s.curGroup.sget x.a.toNat)) (sInt x.ty (sSource s.curGroup (sSigned x.ty) x.b)) then 1 else 0)

/-- SSEL, SMOV, SLI and SLEA in every form: what each writes (R191); an SLEA outside every code object raises
PROTECTION, reason 7. The address that such a trap reports is the model's free value (log 41).
SBIT counts ones, leading zeros, trailing zeros and reverses; SBFX extracts a field, sign-extended under a signed type, and
SBFX.INS replaces one, in every form and type (R190). -/
def Obligations.ScalarMovesAndFields : Prop :=
  ((∀ s d a b c, ScalarRun (.ssel d a b c) s d
    (if s.curGroup.sget c.toNat = 0 then litOrReg s.curGroup b else s.curGroup.sget a.toNat)) ∧
  (∀ s d a, ScalarRun (.smovSr d a) s d (s.curGroup.sget a.toNat)) ∧
  (∀ s ty d a, ScalarRun (.smov ty d (.reg a)) s d (sExtend ty (s.curGroup.sget a.toNat))) ∧
  (∀ s ty d i, ScalarRun (.smov ty d (.imm i)) s d (sExtend ty (immOf (sSigned ty) i))) ∧
  (∀ s d imm, ScalarRun (.sliSi d imm) s d ((s.curGroup.sget d.toNat <<< 16) ||| imm.setWidth 64)) ∧
  (∀ s d a i, ScalarRun (.sli d a i) s d ((s.curGroup.sget a.toNat <<< 16) ||| ((immOf false i).setWidth 16).setWidth 64)) ∧
  (∀ s d a i, ScalarRun (.sliW d a i) s d ((s.curGroup.sget a.toNat <<< 32) ||| ((immOf false i).setWidth 32).setWidth 64)) ∧
  (∀ s d a i o, s.curJob.objOf s.cur.pc = some o →
    ScalarRun (.slea d a i) s d (o.2.base.setWidth 64 + s.curGroup.sget a.toNat + immOf true i)) ∧
  ∀ s d a i, s.curJob.objOf s.cur.pc = none → ∃ f, exec (.slea d a i) s =
    .next (s.trapCur (Trap.protection 7 0 f))) ∧
  ((∀ s x, SCountRun (.sbit x) s x IsPop) ∧
  (∀ s x, SCountRun (.sbitClz x) s x IsClz) ∧
  (∀ s x, SCountRun (.sbitCtz x) s x IsCtz) ∧
  (∀ s x, ∃ v, (∀ i, i < sWidth x.ty → v.getLsbD i = (s.curGroup.sget x.a.toNat).getLsbD (sWidth x.ty - 1 - i)) ∧
    ScalarRun (.sbitRev x) s x.d (sExtend x.ty v)) ∧
  (∀ s x, ScalarRun (.sbfx x) s x.d
    (let q := sSource s.curGroup false x.b
     let f := BitVec.setWidth (fieldLen q) (sPattern x.ty (s.curGroup.sget x.a.toNat) >>> fieldPos q)
     sExtend x.ty (if sSigned x.ty then f.signExtend 64 else f.setWidth 64))) ∧
  ∀ s x, ∃ v,
    (∀ i, i < sWidth x.ty → v.getLsbD i =
      (let q := sSource s.curGroup false x.b
       if fieldPos q ≤ i ∧ i < fieldPos q + fieldLen q then (s.curGroup.sget x.a.toNat).getLsbD (i - fieldPos q)
       else (s.curGroup.sget x.d.toNat).getLsbD i)) ∧
    ScalarRun (.sbfxIns x) s x.d (sExtend x.ty v))

/-- The predicate instructions write their lane values in the active lanes alone; p0 ignores the write and reads true; pmov.p2s
gathers the predicate of the active lanes in a scalar (R176, R192). -/
def Obligations.Predicates : Prop :=
  (∀ s x, PredRun (.pand x) s x.g x.d (fun l => s.curGroup.pred x.a.toNat l && s.curGroup.pred x.b.toNat l)) ∧
  (∀ s x, PredRun (.por x) s x.g x.d (fun l => s.curGroup.pred x.a.toNat l || s.curGroup.pred x.b.toNat l)) ∧
  (∀ s x, PredRun (.pxor x) s x.g x.d (fun l => s.curGroup.pred x.a.toNat l ^^ s.curGroup.pred x.b.toNat l)) ∧
  (∀ s g d a, PredRun (.pnot g d a) s g d (fun l => !s.curGroup.pred a.toNat l)) ∧
  (∀ s g d a, PredRun (.pmov g d a) s g d (fun l => s.curGroup.pred a.toNat l)) ∧
  (∀ s g d a, PredRun (.pmovS2p g d a) s g d (fun l => (s.curGroup.sget a.toNat).getLsbD l)) ∧
  (∀ s g d x, PredRun (.pmovImm g d (.i16 x)) s g d (fun l => x.getLsbD (l % 16))) ∧
  (∀ s g d x, PredRun (.pmovImm g d (.i32 x)) s g d (fun l => x.getLsbD (l % 32))) ∧
  (∀ s g d a, ∃ m : DWord, (∀ l, l < 64 → m.getLsbD l = ((s.active g).getLsbD l && s.curGroup.pred a.toNat l)) ∧
    ScalarStep (.pmovP2s g d a) s (s.active g) (withScalar s d.toNat m)) ∧
  ∀ (g : Group) l, l < 64 → g.pred 0 l = true

end

namespace Sys2Proof.Says

open Sys2Proof.Machine

/-! ## Vector values (R207 to R212) -/

def iWidth : ITy → Nat
  | .s32 => 32 | .n32 => 32 | .s64 => 64 | .n64 => 64 | .s16x2 => 16 | .n16x2 => 16 | .s8x4 => 8 | .n8x4 => 8
/-- Elements of an operand; an operand of 64-bit elements takes two registers. -/
def iCount : ITy → Nat
  | .s32 => 1 | .n32 => 1 | .s64 => 1 | .n64 => 1 | .s16x2 => 2 | .n16x2 => 2 | .s8x4 => 4 | .n8x4 => 4
def iSigned : ITy → Bool
  | .s32 => true | .n32 => false | .s64 => true | .n64 => false | .s16x2 => true | .n16x2 => false | .s8x4 => true | .n8x4 => false
def iRegs : ITy → Nat
  | .s64 => 2 | .n64 => 2 | .s32 => 1 | .n32 => 1 | .s16x2 => 1 | .n16x2 => 1 | .s8x4 => 1 | .n8x4 => 1
/-- Element `i` of `n` bits. -/
def part (n x i : Nat) : BitVec n := BitVec.ofNat n (x / 2 ^ (n * i))
/-- The operand of `k` elements, the first lowest. -/
def pack (n : Nat) : Nat → (Nat → BitVec n) → Nat
  | 0, _ => 0
  | k + 1, f => pack n k f + (f k).toNat * 2 ^ (n * k)
/-- The integer of an element. -/
def eInt (sg : Bool) {n : Nat} (x : BitVec n) : Int := if sg then x.toInt else x.toNat
def eMin (sg : Bool) (n : Nat) : Int := if sg then -2 ^ (n - 1) else 0
def eMax (sg : Bool) (n : Nat) : Int := if sg then 2 ^ (n - 1) - 1 else 2 ^ n - 1
def eLimit (sat sg : Bool) (n : Nat) (r : Int) : Int := if sat then max (eMin sg n) (min (eMax sg n) r) else r
/-- The quotient truncated towards zero; a zero divisor gives all ones. -/
def eQuot (sg : Bool) (n : Nat) (x y : Int) : Int := if y = 0 then (if sg then -1 else eMax sg n) else x.tdiv y
/-- An immediate as every element takes it. -/
def eImm (sx : Bool) (n : Nat) {w : Nat} (x : BitVec w) : BitVec n := if sx then (x.signExtend 64).setWidth n else (x.setWidth 64).setWidth n
/-- Element `i` of a vector second source in a lane. -/
def vPart (g : Group) (k n : Nat) (sx : Bool) (l i : Nat) : VSrc → BitVec n
  | .reg b => part n (g.vN k b.toNat l) i
  | .imm x => eImm sx n x
  | .rlit x => eImm sx n x
  | .ilit x => eImm sx n x
def vLitPart (g : Group) (k n : Nat) (sx : Bool) (l i : Nat) : VLit → BitVec n
  | .reg b => part n (g.vN k b.toNat l) i
  | .lit x => eImm sx n x
/-- A two-source instruction of list I completes with `f` of the elements, in each active lane; `sx` extends the immediate. -/
def VElemRun (i : Instr) (s : State) (x : VBin) (sx : Bool) (f : BitVec (iWidth x.ty) → BitVec (iWidth x.ty) → BitVec (iWidth x.ty)) : Prop :=
  VectorRun i s x.g x.d (iRegs x.ty) (fun l => pack (iWidth x.ty) (iCount x.ty) (fun e =>
    f (part (iWidth x.ty) (s.curGroup.vN (iRegs x.ty) x.a.toNat l) e) (vPart s.curGroup (iRegs x.ty) (iWidth x.ty) sx l e x.b)))
/-- It computes an exact integer from the elements' integers, clamps it under `.sat`, and keeps the low bits. -/
def VIntRun (i : Instr) (s : State) (sat : Bool) (x : VBin) (f : Int → Int → Int) : Prop :=
  VElemRun i s x (iSigned x.ty) (fun a b => BitVec.ofInt _ (eLimit sat (iSigned x.ty) (iWidth x.ty) (f (eInt (iSigned x.ty) a) (eInt (iSigned x.ty) b))))
/-- A one-source instruction of list I completes with `f` of the elements. -/
def VElem1Run (i : Instr) (s : State) (x : VUn) (f : BitVec (iWidth x.ty) → BitVec (iWidth x.ty)) : Prop :=
  VectorRun i s x.g x.d (iRegs x.ty) (fun l => pack (iWidth x.ty) (iCount x.ty) (fun e =>
    f (part (iWidth x.ty) (s.curGroup.vN (iRegs x.ty) x.a.toNat l) e)))
/-- The long form that an SR word stands for: 32-bit signed, no guard. -/
def srVec (r : SR3) : VBin :=
  { g := { gp := 0, gn := false }, ty := .s32, d := r.d.setWidth 11, a := r.a.setWidth 11, b := .reg (r.b.setWidth 11) }
def srVecB (r : SR3) : BBin :=
  { g := { gp := 0, gn := false }, ty := .b32, d := r.d.setWidth 11, a := r.a.setWidth 11, b := .reg (r.b.setWidth 11) }
def bWidth : BTy → Nat | .b32 => 32 | .b64 => 64
def bRegs : BTy → Nat | .b32 => 1 | .b64 => 2
/-- A bitwise instruction of list B on whole operands. -/
def VBitRun (i : Instr) (s : State) (x : BBin) (f : BitVec (bWidth x.ty) → BitVec (bWidth x.ty) → BitVec (bWidth x.ty)) : Prop :=
  VectorRun i s x.g x.d (bRegs x.ty) (fun l =>
    (f (part (bWidth x.ty) (s.curGroup.vN (bRegs x.ty) x.a.toNat l) 0) (vPart s.curGroup (bRegs x.ty) (bWidth x.ty) true l 0 x.b)).toNat)
/-- The bits of an element as a double word, upper bits zero. -/
def wide {n : Nat} (x : BitVec n) : DWord := x.setWidth 64
/-- The control word of a vector field operation in a lane. -/
def vCtl (g : Group) (l : Nat) : VSrc → DWord
  | .reg b => (g.v32 b.toNat l).setWidth 64
  | .imm x => x.setWidth 64
  | .rlit x => x.setWidth 64
  | .ilit x => x.setWidth 64

end Sys2Proof.Says

section

open Sys2Proof Sys2Proof.Machine Sys2Proof.Says

/-! ## Vector integer instructions -/

/-- VADD, VSUB, VMUL (low and high half), VDIV, VDIV.REM, VMIN, VMAX, VMAD, VABS and VNEG complete, in every form and type, with
the exact integer result of each element, clamped under `.sat`, else its low bits; only the destination operand in the active
lanes changes (R138, R207, R209, R210). -/
def Obligations.VectorIntegers : Prop :=
  (∀ s sat x, VIntRun (.vadd sat x) s sat x (· + ·)) ∧
  (∀ s sat x, VIntRun (.vsub sat x) s sat x (· - ·)) ∧
  (∀ s sat x, VIntRun (.vmul sat x) s sat x (· * ·)) ∧
  (∀ s x, VIntRun (.vmulHi x) s false x (fun a b => (a * b).fdiv (2 ^ iWidth x.ty))) ∧
  (∀ s x, VIntRun (.vdiv x) s false x (eQuot (iSigned x.ty) (iWidth x.ty))) ∧
  (∀ s x, VIntRun (.vdivRem x) s false x (fun a b => if b = 0 then a else a - b * a.tdiv b)) ∧
  (∀ s x, VIntRun (.vmin x) s false x min) ∧
  (∀ s x, VIntRun (.vmax x) s false x max) ∧
  (∀ s sat r, VIntRun (.vaddSr sat r) s sat (srVec r) (· + ·)) ∧
  (∀ s sat r, VIntRun (.vsubSr sat r) s sat (srVec r) (· - ·)) ∧
  (∀ s r, VIntRun (.vmulSr 0 r) s false (srVec r) (· * ·)) ∧
  (∀ s r, VIntRun (.vmulSr 1 r) s true (srVec r) (· * ·)) ∧
  (∀ s r, VIntRun (.vmulSr 2 r) s false (srVec r) (fun a b => (a * b).fdiv (2 ^ 32))) ∧
  (∀ s x, VElem1Run (.vabs x) s x (fun a => BitVec.ofInt _ (eInt (iSigned x.ty) a).natAbs)) ∧
  (∀ s x, VElem1Run (.vneg x) s x (fun a => -a)) ∧
  ∀ s x, VectorRun (.vmad x) s x.g x.d (iRegs x.ty) (fun l => pack (iWidth x.ty) (iCount x.ty) (fun e =>
    part (iWidth x.ty) (s.curGroup.vN (iRegs x.ty) x.a.toNat l) e * vLitPart s.curGroup (iRegs x.ty) (iWidth x.ty) (iSigned x.ty) l e x.b
      + part (iWidth x.ty) (s.curGroup.vN (iRegs x.ty) x.c.toNat l) e))

/-- VAND, VOR, VXOR, VANDN, VNOT on whole operands, and VSHL, VSHR, VROT on elements with the count taken modulo the element's
width, in every form; VSHR shifts copies of the sign under a signed type (R209, R211). -/
def Obligations.VectorBits : Prop :=
  (∀ s x, VBitRun (.vand x) s x (· &&& ·)) ∧
  (∀ s x, VBitRun (.vor x) s x (· ||| ·)) ∧
  (∀ s x, VBitRun (.vxor x) s x (· ^^^ ·)) ∧
  (∀ s x, VBitRun (.vandn x) s x (fun a b => a &&& ~~~ b)) ∧
  (∀ s r, VBitRun (.vandSr r) s (srVecB r) (· &&& ·)) ∧
  (∀ s r, VBitRun (.vorSr r) s (srVecB r) (· ||| ·)) ∧
  (∀ s r, VBitRun (.vxorSr r) s (srVecB r) (· ^^^ ·)) ∧
  (∀ s x, VectorRun (.vnot x) s x.g x.d (bRegs x.ty) (fun l => (~~~ part (bWidth x.ty) (s.curGroup.vN (bRegs x.ty) x.a.toNat l) 0).toNat)) ∧
  (∀ s x, VElemRun (.vshl x) s x false (fun a b => a <<< (b.toNat % iWidth x.ty))) ∧
  (∀ s x, VElemRun (.vshr x) s x false (fun a b =>
    if iSigned x.ty then a.sshiftRight (b.toNat % iWidth x.ty) else a >>> (b.toNat % iWidth x.ty))) ∧
  (∀ s x, VElemRun (.vrot x) s x false (fun a b => a.rotateRight (b.toNat % iWidth x.ty))) ∧
  (∀ s r, VElemRun (.vshlSr r) s (srVec r) false (fun a b => a <<< (b.toNat % 32))) ∧
  ∀ s r, VElemRun (.vshrSr r) s (srVec r) false (fun a b => a.sshiftRight (b.toNat % 32))

/-- VBIT and its three counts, VBFX and VBFX.INS, on each element of each active lane (R211).
VSEL, VMOV in its forms and VDOT write the destination in the active lanes; VCMP writes its predicate there and no other
lane's (R210, R212). -/
def Obligations.VectorMovesAndFields : Prop :=
  ((∀ s x, ∃ f : BitVec (iWidth x.ty) → Nat, (∀ a : BitVec (iWidth x.ty), IsPop (iWidth x.ty) (wide a) (f a)) ∧ VElem1Run (.vbit x) s x (fun a => BitVec.ofNat _ (f a))) ∧
  (∀ s x, ∃ f : BitVec (iWidth x.ty) → Nat, (∀ a : BitVec (iWidth x.ty), IsClz (iWidth x.ty) (wide a) (f a)) ∧ VElem1Run (.vbitClz x) s x (fun a => BitVec.ofNat _ (f a))) ∧
  (∀ s x, ∃ f : BitVec (iWidth x.ty) → Nat, (∀ a : BitVec (iWidth x.ty), IsCtz (iWidth x.ty) (wide a) (f a)) ∧ VElem1Run (.vbitCtz x) s x (fun a => BitVec.ofNat _ (f a))) ∧
  (∀ s x, VElem1Run (.vbitRev x) s x (fun a => a.reverse)) ∧
  (∀ s x, x.ty.plain = true → VectorRun (.vbfx x) s x.g x.d (iRegs x.ty) (fun l =>
    let q := vCtl s.curGroup l x.b
    let f := BitVec.setWidth (fieldLen q) (wide (part (iWidth x.ty) (s.curGroup.vN (iRegs x.ty) x.a.toNat l) 0) >>> fieldPos q)
    (if iSigned x.ty then (f.signExtend 64).setWidth (iWidth x.ty) else f.setWidth (iWidth x.ty)).toNat)) ∧
  ∀ s x, x.ty.plain = true → ∃ v : Nat → BitVec (iWidth x.ty),
    (∀ l i, i < iWidth x.ty → (v l).getLsbD i =
      (let q := vCtl s.curGroup l x.b
       if fieldPos q ≤ i ∧ i < fieldPos q + fieldLen q then (part (iWidth x.ty) (s.curGroup.vN (iRegs x.ty) x.a.toNat l) 0).getLsbD (i - fieldPos q)
       else (part (iWidth x.ty) (s.curGroup.vN (iRegs x.ty) x.d.toNat l) 0).getLsbD i)) ∧
    VectorRun (.vbfxIns x) s x.g x.d (iRegs x.ty) (fun l => (v l).toNat)) ∧
  ((∀ s g ty d a b c, VectorRun (.vsel g ty d a b c) s g d (bRegs ty) (fun l =>
    if s.curGroup.pred c.toNat l then s.curGroup.vN (bRegs ty) a.toNat l else (vLitPart s.curGroup (bRegs ty) (bWidth ty) true l 0 b).toNat)) ∧
  (∀ s d a, VectorRun (.vmovSr d a) s { gp := 0, gn := false } (d.setWidth 11) 1 (fun l => (s.curGroup.v32 a.toNat l).toNat)) ∧
  (∀ s g ty d a, VectorRun (.vmov g ty d (.reg a)) s g d (bRegs ty) (fun l => s.curGroup.vN (bRegs ty) a.toNat l)) ∧
  (∀ s g ty d i, VectorRun (.vmov g ty d (.imm i)) s g d (bRegs ty) (fun _ => ((immOf true i).setWidth (bWidth ty)).toNat)) ∧
  (∀ s g ty d a, VectorRun (.vmovS2v g ty d a) s g d (bRegs ty) (fun _ => ((s.curGroup.sget a.toNat).setWidth (bWidth ty)).toNat)) ∧
  (∀ s x, x.ty.plain = false → VectorRun (.vdot x) s x.g x.d 1 (fun l =>
    (BitVec.ofInt 32 (eInt (iSigned x.ty) (s.curGroup.v32 x.c.toNat l) +
      ((List.range (iCount x.ty)).map (fun e => eInt (iSigned x.ty) (part (iWidth x.ty) (s.curGroup.vN 1 x.a.toNat l) e) *
        eInt (iSigned x.ty) (vLitPart s.curGroup 1 (iWidth x.ty) (iSigned x.ty) l e x.b))).sum)).toNat)) ∧
  ∀ s r x, x.ty.plain = true → PredRun (.vcmp r x) s x.g x.d (fun l =>
    sRel r (eInt (iSigned x.ty) (part (iWidth x.ty) (s.curGroup.vN (iRegs x.ty) x.a.toNat l) 0))
      (eInt (iSigned x.ty) (vPart s.curGroup (iRegs x.ty) (iWidth x.ty) (iSigned x.ty) l 0 x.b))))

end

namespace Sys2Proof.Says

open Sys2Proof.Machine

/-! ## Traps and floating-point values (R143 to R158, R208, R272) -/

/-- The instruction takes a trap of this kind: but for its issue being counted, nothing else of it happens. -/
def Traps (i : Instr) (s : State) (p : Trap → Prop) : Prop :=
  ∃ t, p t ∧ exec i s = .next (s.trapCur t)
/-- FMODE with the flags of lanes `ls` ORed into FF, bits 7..3. -/
def raised (f : Word) (ls : List Nat) (fl : Nat → Nat) : Word :=
  ls.foldl (fun w l => w ||| BitVec.ofNat 32 (fl l % 32 * 8)) f
/-- It completes; FF collects the flags of lanes `ls`, the draw count advances by `draws`, the vector registers and predicates
read as `v` and `p` say. -/
def FloatStep (i : Instr) (s : State) (act : DWord) (ls : List Nat) (draws : Nat) (fl : Nat → Nat) (v : Nat → Nat → Word)
    (p : Nat → Nat → Bool) : Prop :=
  ∃ t, exec i s = .next t ∧ Done s t act ∧
    t.curGroup = { s.curGroup with
      v := t.curGroup.v, dirtyV := t.curGroup.dirtyV, p := t.curGroup.p, fmode := raised s.curGroup.fmode ls fl,
      draw := s.curGroup.draw + BitVec.ofNat 48 draws, lanes := t.curGroup.lanes, perf := t.curGroup.perf, sk := t.curGroup.sk,
      sc := t.curGroup.sc, skip := t.curGroup.skip, stepPend := t.curGroup.stepPend } ∧
    (∀ n l, l < 64 → t.curGroup.v32 n l = v n l) ∧ ∀ n l, l < 64 → t.curGroup.pred n l = p n l
/-- A source register holds its marker in an active lane while UIT is set. -/
def Unwritten (s : State) (act : DWord) (rs : List Nat) : Prop :=
  fmUit s.curGroup.fmode = true ∧ ∃ l ∈ lanesOf act, ∃ n ∈ rs, s.curGroup.v32 n l = marker n
/-- A lane raises a flag whose trap FE enables. -/
def Excepts (s : State) (ls : List Nat) (fl : Nat → Nat) : Prop := ∃ l ∈ ls, fl l &&& fmFe s.curGroup.fmode ≠ 0
/-- A floating-point instruction traps UNINIT_REG, or FP_EXCEPTION, or completes. -/
def FloatRun (i : Instr) (s : State) (act : DWord) (ls : List Nat) (rs : List Nat) (draws : Nat) (fl : Nat → Nat)
    (v : Nat → Nat → Word) (p : Nat → Nat → Bool) : Prop :=
  (Unwritten s act rs → Traps i s (fun t => t.cause = 3 ∧ t.code ∈ rs)) ∧
  (¬Unwritten s act rs → Excepts s ls fl → Traps i s (fun t => t.cause = 4 ∧ t.lane ∈ ls ∧ fl t.lane &&& fmFe s.curGroup.fmode ≠ 0)) ∧
  (¬Unwritten s act rs → ¬Excepts s ls fl → FloatStep i s act ls draws fl v p)
/-- The registers of an operand of `k` registers. -/
def regsOf (n k : Nat) : List Nat := (List.range k).map (fun j => n + j)
def vRegsOf (k : Nat) : VSrc → List Nat | .reg b => regsOf b.toNat k | .imm _ => [] | .rlit _ => [] | .ilit _ => []
def litRegsOf (k : Nat) : VLit → List Nat | .reg b => regsOf b.toNat k | .lit _ => []
def fWidth : FTy → Nat | .f32 => 32 | .f64 => 64 | .f16x2 => 16 | .bf16x2 => 16 | .f16 => 16 | .bf16 => 16
def fCount : FTy → Nat | .f32 => 1 | .f64 => 1 | .f16x2 => 2 | .bf16x2 => 2 | .f16 => 1 | .bf16 => 1
def fRegs : FTy → Nat | .f64 => 2 | .f32 => 1 | .f16x2 => 1 | .bf16x2 => 1 | .f16 => 1 | .bf16 => 1
/-- Element `e` of an operand as a code. -/
def code (ty : FTy) (x e : Nat) : Nat := (part (fWidth ty) x e).toNat
/-- The flags of `k` elements together. -/
def orOf (k : Nat) (f : Nat → Nat) : Nat := (List.range k).foldl (fun z e => z ||| f e) 0
/-- A floating-point instruction whose element `e` in lane `l` gives the code and flags `one l e`; `extra` flags come from the
immediate. -/
def FElemRun (i : Instr) (s : State) (gd : Guard) (ty : FTy) (d : BitVec 11) (rs : List Nat) (draws extra : Nat)
    (one : Nat → Nat → Nat × Nat) : Prop :=
  FloatRun i s (s.active gd) (lanesOf (s.active gd)) rs draws (fun l => orOf (fCount ty) (fun e => (one l e).2) ||| extra)
    (withVector s (s.active gd) d.toNat (fRegs ty)
      (fun l => pack (fWidth ty) (fCount ty) (fun e => BitVec.ofNat (fWidth ty) (one l e).1))) s.curGroup.pred
/-- The rounding of an exact result, ORed with the flags of the operation itself. -/
def rounded (s : State) (ty : FTy) (rm : Rm) (l e : Nat) (r : Res) : Nat × Nat :=
  let m := rmode s.curGroup.fmode true rm
  let q := (ftyFmt ty).round m false (fmFz s.curGroup.fmode) (if m = 6 then srWord s l e else 0) r.1
  (q.1, q.2 ||| r.2)
def drawsOf (s : State) (rm : Rm) : Nat := if rmode s.curGroup.fmode true rm = 6 then 1 else 0
/-- Element `e` of a source as a number: a subnormal reads as zero under DAZ. -/
def num (s : State) (ty : FTy) (x e : Nat) : Machine.Num := (ftyFmt ty).read (fmDaz s.curGroup.fmode) (code ty x e)
def FBinRun (i : Instr) (s : State) (x : FBin) (op : Nat → Machine.Num → Machine.Num → Res) : Prop :=
  let b := fsrc s.curGroup x.ty x.rm x.b
  FElemRun i s x.g x.ty x.d (regsOf x.a.toNat (fRegs x.ty) ++ vRegsOf (fRegs x.ty) x.b) (drawsOf s x.rm) b.2 (fun l e =>
    rounded s x.ty x.rm l e (op (rmode s.curGroup.fmode true x.rm) (num s x.ty (s.curGroup.vN (fRegs x.ty) x.a.toNat l) e)
      (num s x.ty (b.1 l) e)))
/-- The long form that an SR word stands for: binary32, FMODE's rounding, no guard. -/
def srFloat (r : SR3) : FBin :=
  { g := { gp := 0, gn := false }, rm := .dyn, ty := .f32, d := r.d.setWidth 11, a := r.a.setWidth 11, b := .reg (r.b.setWidth 11) }
def FSpecialRun (i : Instr) (s : State) (x : FUn) (k : SpFn) : Prop :=
  FElemRun i s x.g x.ty x.d (regsOf x.a.toNat (fRegs x.ty)) 0 0 (fun l e =>
    spApply k (ftyFmt x.ty) (rmode s.curGroup.fmode false x.rm) (fmDaz s.curGroup.fmode) (fmFz s.curGroup.fmode)
      (code x.ty (s.curGroup.vN (fRegs x.ty) x.a.toNat l) e))
/-- A sign operation on each element: its magnitude bits stay. -/
def signed (n : Nat) (x : BitVec n) (neg : Bool) : BitVec n := BitVec.ofNat n (x.toNat % 2 ^ (n - 1) + if neg then 2 ^ (n - 1) else 0)
def FSignRun (i : Instr) (s : State) (gd : Guard) (ty : FTy) (d a : BitVec 11) (neg : Nat → Nat → Bool → Bool) : Prop :=
  VectorRun i s gd d (fRegs ty) (fun l => pack (fWidth ty) (fCount ty) (fun e =>
    let x := part (fWidth ty) (s.curGroup.vN (fRegs ty) a.toNat l) e
    signed (fWidth ty) x (neg l e x.msb)))
/-- VCVT with the two formats known: `n` elements; a narrow side takes its slots from `part` × n (R218). -/
def CvtRun (i : Instr) (s : State) (gd : Guard) (rm : Rm) (sat : Bool) (pt : Nat) (fd fs : Fmt) (d a : BitVec 11) : Prop :=
  let ws := fs.bits
  let wd := fd.bits
  let n := slotsOf (max ws wd)
  let p := pt * n
  let m := rmode s.curGroup.fmode true rm
  let one := fun l j => cvtElem fs fd m sat s.curGroup.fmode (if m = 6 then srWord s l j else 0)
    (part ws (s.curGroup.vN (cvtRegs ws) a.toNat l) (if ws < wd then j + p else j)).toNat
  let act := s.active gd
  if (pt + 1) * n > slotsOf (min ws wd) then Traps i s (fun t => t.cause = 2)
  else FloatRun i s act (lanesOf act) (if (match fs.kind with | .int _ => true | _ => false) then [] else regsOf a.toNat (cvtRegs ws))
    (if m = 6 then (n + 3) / 4 else 0) (fun l => orOf n (fun j => (one l j).2))
    (withVector s act d.toNat (cvtRegs wd) (fun l => pack wd (slotsOf wd) (fun j =>
      if wd < ws then (if p ≤ j ∧ j < p + n then BitVec.ofNat wd (one l (j - p)).1 else part wd (s.curGroup.v32 d.toNat l).toNat j)
      else BitVec.ofNat wd (one l j).1))) s.curGroup.pred

end Sys2Proof.Says

section

open Sys2Proof Sys2Proof.Machine Sys2Proof.Says

/-! ## Floating-point instructions -/

/-- VFADD, VFSUB, VFMUL, VFDIV, VFMA and VFSQRT in every form and type: each element is the rounding of the exact result, FF
collects the flags of the active lanes; UNINIT_REG and FP_EXCEPTION trap before anything is written (R140, R147, R208, R213,
R214). -/
def Obligations.FloatArithmetic : Prop :=
  (∀ s x, FBinRun (.vfadd x) s x fAdd) ∧
  (∀ s x, FBinRun (.vfsub x) s x (fun m a b => fAdd m a b.negate)) ∧
  (∀ s x, FBinRun (.vfmul x) s x (fun _ => fMul)) ∧
  (∀ s x, FBinRun (.vfdiv x) s x (fun _ => fDiv)) ∧
  (∀ s r, FBinRun (.vfaddSr r) s (srFloat r) fAdd) ∧
  (∀ s r, FBinRun (.vfsubSr r) s (srFloat r) (fun m a b => fAdd m a b.negate)) ∧
  (∀ s r, FBinRun (.vfmulSr r) s (srFloat r) (fun _ => fMul)) ∧
  (∀ s x,
    let b := flit s.curGroup x.ty x.rm x.b
    FElemRun (.vfma x) s x.g x.ty x.d
      (regsOf x.a.toNat (fRegs x.ty) ++ litRegsOf (fRegs x.ty) x.b ++ regsOf x.c.toNat (fRegs x.ty)) (drawsOf s x.rm) b.2 (fun l e =>
      rounded s x.ty x.rm l e (fFma (rmode s.curGroup.fmode true x.rm) (num s x.ty (s.curGroup.vN (fRegs x.ty) x.a.toNat l) e)
        (num s x.ty (b.1 l) e) (num s x.ty (s.curGroup.vN (fRegs x.ty) x.c.toNat l) e)))) ∧
  ∀ s x, FElemRun (.vfsqrt x) s x.g x.ty x.d (regsOf x.a.toNat (fRegs x.ty)) (drawsOf s x.rm) 0 (fun l e =>
    rounded s x.ty x.rm l e (fSqrt (num s x.ty (s.curGroup.vN (fRegs x.ty) x.a.toNat l) e)))

/-- VFMIN, VFMAX and VFCMP choose and compare with the flags of R215; VFCLASS, VFABS, VFNEG and VFSGN act on the bits alone: they
raise nothing and trap nothing (R145, R215).
Rounding in a binary format keeps a value that the format represents: no code but a NaN changes and no flag rises, in any mode
(R144, R155). -/
def Obligations.FloatComparesAndRoundings : Prop :=
  ((∀ s x,
    let b := fsrc s.curGroup x.ty x.rm x.b
    FElemRun (.vfmin x) s x.g x.ty x.d (regsOf x.a.toNat (fRegs x.ty) ++ vRegsOf (fRegs x.ty) x.b) 0 b.2 (fun l e =>
      fMinMax (ftyFmt x.ty) (fmDaz s.curGroup.fmode) false (code x.ty (s.curGroup.vN (fRegs x.ty) x.a.toNat l) e) (code x.ty (b.1 l) e))) ∧
  (∀ s x,
    let b := fsrc s.curGroup x.ty x.rm x.b
    FElemRun (.vfmax x) s x.g x.ty x.d (regsOf x.a.toNat (fRegs x.ty) ++ vRegsOf (fRegs x.ty) x.b) 0 b.2 (fun l e =>
      fMinMax (ftyFmt x.ty) (fmDaz s.curGroup.fmode) true (code x.ty (s.curGroup.vN (fRegs x.ty) x.a.toNat l) e) (code x.ty (b.1 l) e))) ∧
  (∀ s r x,
    let b := fsrc s.curGroup x.ty .dyn x.b
    let one := fun l => fCompare r (num s x.ty (s.curGroup.vN (fRegs x.ty) x.a.toNat l) 0) (num s x.ty (b.1 l) 0)
    FloatRun (.vfcmp r x) s (s.active x.g) (lanesOf (s.active x.g)) (regsOf x.a.toNat (fRegs x.ty) ++ vRegsOf (fRegs x.ty) x.b) 0
      (fun l => (one l).2 ||| b.2) s.curGroup.v32 (withPred s (s.active x.g) x.d.toNat (fun l => (one l).1))) ∧
  (∀ s x, VectorRun (.vfclass x) s x.g x.d (fRegs x.ty)
    (fun l => fClass (ftyFmt x.ty) (code x.ty (s.curGroup.vN (fRegs x.ty) x.a.toNat l) 0))) ∧
  (∀ s x, FSignRun (.vfabs x) s x.g x.ty x.d x.a (fun _ _ _ => false)) ∧
  (∀ s x, FSignRun (.vfneg x) s x.g x.ty x.d x.a (fun _ _ n => !n)) ∧
  ∀ s gd ty d a b, FSignRun (.vfsgn gd ty d a b) s gd ty d a (fun l e _ =>
    (part (fWidth ty) ((flit s.curGroup ty .dyn b).1 l) e).msb)) ∧
  (∀ f ∈ [Fmt.f64, Fmt.f32, Fmt.f16, Fmt.bf16], ∀ c, c < 2 ^ f.bits → (f.value c).isNan = false →
    ∀ m rnd, f.round m false false rnd (f.value c) = (c, 0))

/-- The special functions apply their function to each element with the flags of R216, and VCVT converts in every pair of formats
and every part, or traps ILLEGAL_OPERAND where a format code is illegal or the part lies outside the register (R142, R216 to
R219). -/
def Obligations.SpecialsAndConversions : Prop :=
  (∀ s x, FSpecialRun (.vrcp x) s x .rcp) ∧ (∀ s x, FSpecialRun (.vrsqrt x) s x .rsqrt) ∧
  (∀ s x, FSpecialRun (.vexp2 x) s x .exp2) ∧ (∀ s x, FSpecialRun (.vlog2 x) s x .log2) ∧
  (∀ s x, FSpecialRun (.vsin x) s x .sin) ∧ (∀ s x, FSpecialRun (.vcos x) s x .cos) ∧
  (∀ s x, FSpecialRun (.vtanh x) s x .tanh) ∧ (∀ s x, FSpecialRun (.vsigm x) s x .sigm) ∧
  (∀ s gd rm sat pt dst src d a fd fs, Fmt.ofCode dst.toNat = some fd → Fmt.ofCode src.toNat = some fs →
    CvtRun (.vcvt gd rm sat pt dst src d a) s gd rm sat pt.toNat fd fs d a) ∧
  ∀ s gd rm sat pt dst src d a, Fmt.ofCode dst.toNat = none ∨ Fmt.ofCode src.toNat = none →
    Traps (.vcvt gd rm sat pt dst src d a) s (fun t => t.cause = 2)

/-- VRAND writes four words of the stream's draw to four registers and advances the draw count by one; a stream number of 0xFF00 or
more is ILLEGAL_OPERAND; a vector operand must be uniform; VRSEED sets the draw count (R139, R160, R220). -/
def Obligations.RandomDraws : Prop :=
  (∀ s gd d a,
    let w := fun l =>
      drawWords (s.job s.curGroup.job).jd.seed (s.groupId s.curGroup) s.curGroup.draw l ((s.curGroup.sget a.toNat).toNat % 2 ^ 16)
    if 0xFF00 ≤ (s.curGroup.sget a.toNat).toNat % 2 ^ 16 then
      Traps (.vrand gd d (.reg a)) s (fun t => t.cause = 2) ∧ Traps (.vrandUnif gd d (.reg a)) s (fun t => t.cause = 2)
    else
      FloatStep (.vrand gd d (.reg a)) s (s.active gd) [] 1 (fun _ => 0)
        (withVector s (s.active gd) d.toNat 4 (fun l => pack 32 4 (fun j => BitVec.ofNat 32 (pick4 (w l) j)))) s.curGroup.pred ∧
      FloatStep (.vrandUnif gd d (.reg a)) s (s.active gd) [] 1 (fun _ => 0)
        (withVector s (s.active gd) d.toNat 4 (fun l => pack 32 4 (fun j => BitVec.ofNat 32
          (Fmt.f32.round 1 false false 0 (.fin false (pick4 (w l) j / 256) (-24) false)).1))) s.curGroup.pred) ∧
  (∀ s gd d a x, s.active gd ≠ 0 → (∀ l ∈ lanesOf (s.active gd), s.curGroup.v32 a.toNat l = x) → x.toNat % 2 ^ 16 < 0xFF00 →
    let w := fun l => drawWords (s.job s.curGroup.job).jd.seed (s.groupId s.curGroup) s.curGroup.draw l (x.toNat % 2 ^ 16)
    FloatStep (.vrand gd d (.vu a)) s (s.active gd) [] 1 (fun _ => 0)
      (withVector s (s.active gd) d.toNat 4 (fun l => pack 32 4 (fun j => BitVec.ofNat 32 (pick4 (w l) j)))) s.curGroup.pred) ∧
  (∀ s gd d a l k, (s.active gd).getLsbD l = true → (s.active gd).getLsbD k = true → s.curGroup.v32 a.toNat l ≠ s.curGroup.v32 a.toNat k →
    Traps (.vrand gd d (.vu a)) s (fun t => t.cause = 5) ∧ Traps (.vrandUnif gd d (.vu a)) s (fun t => t.cause = 5)) ∧
  (∀ s a, ∃ t, exec (.vrseed (.reg a)) s = .next t ∧ Done s t s.cur.lanes ∧ t.curGroup.draw = (s.curGroup.sget a.toNat).setWidth 48) ∧
  ∀ s i, ∃ t, exec (.vrseed (.imm i)) s = .next t ∧ Done s t s.cur.lanes ∧ t.curGroup.draw = (immOf false i).setWidth 48

end

namespace Sys2Proof.Says

open Sys2Proof.Machine

/-! ## Cross-lane values (R221 to R224, R379) -/

/-- The uniform operand is `k`: the low word of a scalar, a literal, or the value that the register holds in every active lane. -/
def Uniform (s : State) (act : DWord) (k : Word) : USrc → Prop
  | .reg r => k = (s.curGroup.sget r.toNat).setWidth 32
  | .lit x => k = x
  | .vu r => ∀ l ∈ lanesOf act, s.curGroup.v32 r.toNat l = k
/-- Two active lanes hold different values. -/
def Differs (s : State) (act : DWord) (r : BitVec 11) : Prop :=
  ∃ l ∈ lanesOf act, ∃ k ∈ lanesOf act, s.curGroup.v32 r.toNat l ≠ s.curGroup.v32 r.toNat k
/-- Each active lane takes va of the lane `src` gives for it and the count; a vector count that differs is NONUNIFORM. -/
def ShufRun (i : Shuf → Instr) (src : Nat → Nat → Nat → Nat) : Prop :=
  (∀ s x k, Uniform s (s.active x.g) k x.b → VectorRun (i x) s x.g x.d (bRegs x.ty) (fun l =>
    s.curGroup.vN (bRegs x.ty) x.a.toNat (src s.curGroup.width l k.toNat))) ∧
  ∀ s x r, x.b = .vu r → Differs s (s.active x.g) r → Traps (i x) s (fun t => t.cause = 5)
/-- The number of a list's elements under a two-place operation, of one element at least. -/
def foldOf {n : Nat} (f : BitVec n → BitVec n → BitVec n) : List (BitVec n) → BitVec n
  | [] => 0
  | x :: l => l.foldl f x
/-- The integer functions of VRED and VSCAN. -/
def iCombine (sg : Bool) (n : Nat) : RedFn → BitVec n → BitVec n → BitVec n
  | .add => (· + ·)
  | .min => fun a b => if eInt sg a ≤ eInt sg b then a else b
  | .max => fun a b => if eInt sg a ≤ eInt sg b then b else a
  | .and => (· &&& ·)
  | .or => (· ||| ·)
  | .xor => (· ^^^ ·)
/-- What an exclusive scan writes in its first active lane. -/
def iNeutral (sg : Bool) (n : Nat) : RedFn → BitVec n
  | .add => 0
  | .min => BitVec.ofInt n (eMax sg n)
  | .max => BitVec.ofInt n (eMin sg n)
  | .and => BitVec.allOnes n
  | .or => 0
  | .xor => 0
/-- An integer reduction or scan: lane `l` receives, in element `e`, `f` of the elements of the active lanes in ascending order. -/
def IRedRun (i : Instr) (s : State) (gd : Guard) (ty : ITy) (d a : BitVec 11)
    (f : Nat → (Nat → BitVec (iWidth ty)) → BitVec (iWidth ty)) : Prop :=
  VectorRun i s gd d (iRegs ty) (fun l => pack (iWidth ty) (iCount ty) (fun e =>
    f l (fun k => part (iWidth ty) (s.curGroup.vN (iRegs ty) a.toNat k) e)))
/-- The active lanes below a lane. -/
def below (act : DWord) (l : Nat) : List Nat := (lanesOf act).filter (fun k => k < l)
/-- A floating reduction or scan: UNINIT_REG, FP_EXCEPTION or completion, with the results and flags given by lane. -/
def FRedRun (i : Instr) (s : State) (gd : Guard) (ty : FTy) (d a : BitVec 11) (ls : List Nat) (fl : List (Nat × Nat))
    (v : Nat → Nat) : Prop :=
  FloatRun i s (s.active gd) ls (regsOf a.toNat (fRegs ty)) 0 (flagsAt fl) (withVector s (s.active gd) d.toNat (fRegs ty) v) s.curGroup.pred

end Sys2Proof.Says

section

open Sys2Proof Sys2Proof.Machine Sys2Proof.Says

/-! ## Cross-lane instructions -/

/-- VSHUF in its four forms, VPERM and VBCAST: each active lane takes va of a source lane, inactive lanes included, every read
before any write; a vector count that is not uniform is NONUNIFORM (R139, R221, R222, R379).
VBALLOT and its count put the active lanes with a true predicate in a scalar, VLANE reads one lane into a scalar, VLANE.ID
writes each active lane's number (R224). -/
def Obligations.CrossLane : Prop :=
  (ShufRun .vshuf (fun w l k => if l ^^^ k < w then l ^^^ k else l) ∧
  ShufRun .vshufUp (fun _ l k => if k ≤ l then l - k else l) ∧
  ShufRun .vshufDn (fun w l k => if l + k < w then l + k else l) ∧
  ShufRun .vshufRot (fun w l k => (l + k) % w) ∧
  (∀ s gd ty d a b, VectorRun (.vperm gd ty d a b) s gd d (bRegs ty) (fun l =>
    s.curGroup.vN (bRegs ty) a.toNat ((match b with | .reg r => (s.curGroup.v32 r.toNat l).toNat | .lit x => x.toNat) % s.curGroup.width))) ∧
  (∀ s gd ty d a r, VectorRun (.vbcast gd ty d a (.reg r)) s gd d (bRegs ty) (fun _ =>
    s.curGroup.vN (bRegs ty) a.toNat (((s.curGroup.sget r.toNat).setWidth 32).toNat % s.curGroup.width))) ∧
  (∀ s gd ty d a x, VectorRun (.vbcast gd ty d a (.imm x)) s gd d (bRegs ty) (fun _ =>
    s.curGroup.vN (bRegs ty) a.toNat (x.toNat % s.curGroup.width))) ∧
  (∀ s gd ty d a x, VectorRun (.vbcast gd ty d a (.rlit x)) s gd d (bRegs ty) (fun _ =>
    s.curGroup.vN (bRegs ty) a.toNat (x.toNat % s.curGroup.width))) ∧
  (∀ s gd ty d a x, VectorRun (.vbcast gd ty d a (.ilit x)) s gd d (bRegs ty) (fun _ =>
    s.curGroup.vN (bRegs ty) a.toNat (x.toNat % s.curGroup.width))) ∧
  (∀ s gd ty d a r k, Uniform s (s.active gd) k (.vu r) → VectorRun (.vbcast gd ty d a (.vu r)) s gd d (bRegs ty) (fun _ =>
    s.curGroup.vN (bRegs ty) a.toNat (k.toNat % s.curGroup.width))) ∧
  ∀ s gd ty d a r, Differs s (s.active gd) r → Traps (.vbcast gd ty d a (.vu r)) s (fun t => t.cause = 5)) ∧
  ((∀ s gd d a, ∃ m : DWord, (∀ l, l < 64 → m.getLsbD l = ((s.active gd).getLsbD l && s.curGroup.pred a.toNat l)) ∧
    ScalarStep (.vballot gd d a) s (s.active gd) (withScalar s d.toNat m)) ∧
  (∀ s gd d a, ScalarStep (.vballotCnt gd d a) s (s.active gd) (withScalar s d.toNat
    (BitVec.ofNat 64 ((lanesOf (s.active gd)).filter (fun l => s.curGroup.pred a.toNat l)).length))) ∧
  (∀ s ty d a b k, s.cur.lanes ≠ 0 → Uniform s s.cur.lanes k b → ScalarRun (.vlane ty d a b) s d
    (BitVec.ofNat 64 (s.curGroup.vN (bRegs ty) a.toNat (k.toNat % s.curGroup.width)))) ∧
  (∀ s ty d a r, Differs s s.cur.lanes r → Traps (.vlane ty d a (.vu r)) s (fun t => t.cause = 5)) ∧
  ∀ s gd d, VectorRun (.vlaneId gd d) s gd d 1 (fun l => l))

/-- VRED gives every active lane the combination of the active lanes' elements, VSCAN the combination up to its own lane, and its
exclusive form up to the lane below, the function's neutral value in the first; integer functions never trap (R223). -/
def Obligations.Reductions : Prop :=
  (∀ s f ty gd rm d a, IRedRun (.vred (.int f ty) gd rm d a) s gd ty d a (fun _ x =>
    foldOf (iCombine (iSigned ty) _ f) ((lanesOf (s.active gd)).map x))) ∧
  (∀ s f ty gd rm d a, IRedRun (.vscan (.int f ty) gd rm d a) s gd ty d a (fun l x =>
    foldOf (iCombine (iSigned ty) _ f) ((below (s.active gd) (l + 1)).map x))) ∧
  (∀ s f ty gd rm d a, IRedRun (.vscanEx (.int f ty) gd rm d a) s gd ty d a (fun l x =>
    if below (s.active gd) l = [] then iNeutral (iSigned ty) _ f
    else foldOf (iCombine (iSigned ty) _ f) ((below (s.active gd) l).map x))) ∧
  (∀ s f ty gd rm d a, let g := s.curGroup
    let m := s.active gd
    let rs := (List.range (fCount ty)).map (fun e =>
      redTree (redCombine (.flt f ty) g.fmode rm) (Nat.log2 g.width) 1 (redInputs g (.flt f ty) m a.toNat e))
    FRedRun (.vred (.flt f ty) gd rm d a) s gd ty d a (lanesOf m)
      (rs.flatMap (fun r => r.2.map (fun e => (((lanesOf m).find? (fun l => decide (e.1 ≤ l))).getD e.1, e.2))) ++ redFlags g (.flt f ty) m a.toNat) (fun _ => packElems (fWidth ty) (rs.map (fun r => r.1.getD 0)))) ∧
  (∀ s f ty gd rm d a, let g := s.curGroup
    let m := s.active gd
    let rs := (List.range (fCount ty)).map (fun e =>
      redScan (redCombine (.flt f ty) g.fmode rm) none none ((lanesOf m).map (fun l => (l, (redElem g (.flt f ty) a.toNat e l).1))))
    FRedRun (.vscan (.flt f ty) gd rm d a) s gd ty d a (lanesOf m)
      (rs.flatMap (fun r => r.2) ++ redFlags g (.flt f ty) m a.toNat)
      (fun l => packElems (fWidth ty) (rs.map (fun r => (((lanesOf m).zip r.1).lookup l).getD 0)))) ∧
  ∀ s f ty gd rm d a, let g := s.curGroup
    let m := s.active gd
    let rs := (List.range (fCount ty)).map (fun e =>
      redScan (redCombine (.flt f ty) g.fmode rm) (some (redFirst (.flt f ty))) none
        ((lanesOf m).map (fun l => (l, (redElem g (.flt f ty) a.toNat e l).1))))
    FRedRun (.vscanEx (.flt f ty) gd rm d a) s gd ty d a (lanesOf m)
      (rs.flatMap (fun r => r.2) ++ redFlags g (.flt f ty) m a.toNat)
      (fun l => packElems (fWidth ty) (rs.map (fun r => (((lanesOf m).zip r.1).lookup l).getD 0)))

end

namespace Sys2Proof.Says

open Sys2Proof.Machine

/-! ## Lanes and control (R193 to R206) -/

/-- It completes: of its own group the lanes alone change, lane `l` to `f l`. -/
def LanesRun (i : Instr) (s : State) (act : DWord) (f : Nat → Lane) : Prop :=
  ∃ t, exec i s = .next t ∧ OwnGroupOnly s t ∧ Accounted s t act ∧
    t.curGroup = { s.curGroup with
      lanes := t.curGroup.lanes, perf := t.curGroup.perf, sk := t.curGroup.sk, sc := t.curGroup.sc, skip := t.curGroup.skip,
      stepPend := t.curGroup.stepPend } ∧
    ∀ l, l < s.curGroup.lanes.length → t.curGroup.lane l = f l
/-- PC + 4 × DISP modulo 2^57. -/
def dest (s : State) (disp : Int) : VAddr := BitVec.ofInt 57 ((s.cur.pc.toNat : Int) + 4 * disp)
/-- A lane that goes to an address: CC counts, up to its maximum, a move to the branch itself or backwards. -/
def goTo (s : State) (t : VAddr) (x : Lane) : Lane :=
  { x with pc := t, cc := if t.toNat ≤ s.cur.pc.toNat ∧ x.cc ≠ 0xFFFFFFFF then x.cc + 1 else x.cc }
/-- The lanes of a mask go, the others of the issue state continue. -/
def branched (s : State) (m : DWord) (go : Nat → Lane → Lane) (l : Nat) : Lane :=
  if m.getLsbD l = true then go l (s.curGroup.lane l)
  else if s.cur.lanes.getLsbD l = true then { s.curGroup.lane l with pc := s.nextPc } else s.curGroup.lane l
/-- A branch of the whole issue state under a condition. -/
def CondBranch (i : Instr) (s : State) (c : Prop) (disp : Int) : Prop :=
  (c → LanesRun i s s.cur.lanes (branched s s.cur.lanes (fun _ => goTo s (dest s disp)))) ∧
  (¬c → LanesRun i s s.cur.lanes (branched s 0 (fun _ x => x)))
/-- A lane of the mask stands at the greatest call depth. -/
def DepthFull (s : State) (m : DWord) : Prop := ∃ l ∈ lanesOf m, (s.curGroup.lane l).depth = 255
/-- The link word: the object's number in bits 63..58, the return offset below. -/
def link (s : State) (o : Nat × CodeObj) : DWord :=
  BitVec.ofNat 6 o.1 ++ BitVec.ofInt 58 ((s.nextPc.toNat : Int) - o.2.base.toNat)
/-- A call completes, from the state `b` that its own reads leave: each lane of `m` goes one level deeper to its target and keeps its link in the
pair from vd. -/
def CallDone (i : Instr) (s b : State) (m : DWord) (d : Nat) (o : Nat × CodeObj) (t : Nat → VAddr) : Prop :=
  ∃ u, exec i s = .next u ∧ Accounted s u m ∧ (∀ k, k ≠ s.cur.grp → u.group k = s.group k) ∧
    u = { b with groups := u.groups } ∧
    u.curGroup = { s.curGroup with
      v := u.curGroup.v, dirtyV := u.curGroup.dirtyV, lanes := u.curGroup.lanes, perf := u.curGroup.perf, sk := u.curGroup.sk,
      sc := u.curGroup.sc, skip := u.curGroup.skip, stepPend := u.curGroup.stepPend } ∧
    (∀ l, l < s.curGroup.lanes.length → u.curGroup.lane l =
      branched s m (fun k x => goTo s (t k) { x with depth := x.depth + 1 }) l) ∧
    ∀ n l, l < 64 → u.curGroup.v32 n l = withVector s m d 2 (fun _ => (link s o).toNat) n l
/-- A call of one target: nothing without an active lane; a trap; or the call. -/
def CallRun (i : Instr) (s : State) (m : DWord) (d : Nat) (t : VAddr) : Prop :=
  (m = 0 → LanesRun i s 0 (branched s 0 (fun _ x => x))) ∧
  (DepthFull s m → Traps i s (fun e => e.cause = 2 ∧ e.lane ∈ lanesOf m ∧ (s.curGroup.lane e.lane).depth = 255)) ∧
  (m ≠ 0 → ¬DepthFull s m → s.curJob.objOf s.cur.pc = none → Traps i s (fun e => e.cause = 0x11 ∧ e.rsn = 7)) ∧
  ∀ o, m ≠ 0 → ¬DepthFull s m → s.curJob.objOf s.cur.pc = some o → CallDone i s s m d o (fun _ => t)
/-- The trap of a lane of CALLX, by the first check that fails (R201). -/
def callxCause (s : State) (a : BitVec 11) (l : Nat) : Option (Nat × Nat) :=
  if (s.curGroup.v64 a.toNat l).toNat % 4 ≠ 0 then some (8, 0)
  else if 2 ^ 57 ≤ (s.curGroup.v64 a.toNat l).toNat then some (0x11, 4)
  else if (s.curGroup.lane l).depth = 255 then some (2, 0)
  else none
/-- The trap of a lane of RET (R202). -/
def retCause (s : State) (a l : Nat) : Option (Nat × Nat) :=
  if (s.curGroup.lane l).depth = 0 then some (2, 0)
  else if s.curJob.linkTarget (s.curGroup.v64 a l) = none then some (0x11, 7)
  else none
/-- The lowest lane with a cause traps with it. -/
def FirstTraps (i : Instr) (s : State) (m : DWord) (f : Nat → Option (Nat × Nat)) : Prop :=
  ∀ l ∈ lanesOf m, (∀ k ∈ lanesOf m, k < l → f k = none) → ∀ c, f l = some c →
    Traps i s (fun e => e.cause = c.1 ∧ e.rsn = c.2 ∧ e.lane = l)
def RetRun (i : Instr) (s : State) (m : DWord) (a : Nat) : Prop :=
  FirstTraps i s m (retCause s a) ∧
  ((∀ l ∈ lanesOf m, retCause s a l = none) → LanesRun i s m (branched s m (fun l x =>
    goTo s ((s.curJob.linkTarget (s.curGroup.v64 a l)).getD 0) { x with depth := x.depth - 1 })))
/-- It completes: first the change that `p` describes, of its own group alone; then what follows a change of lane status. -/
def LanesThen (i : Instr) (s : State) (act : DWord) (p : State → Prop) : Prop :=
  ∃ u, OwnGroupOnly s u ∧ p u ∧ exec i s = .next (s.retire act (u.afterLanes s.cur.grp))
def JoinMask (s u : State) (d : BitVec 3) (m : DWord) : Prop :=
  Continues s u ∧ u.curGroup = { s.curGroup with j := u.curGroup.j, lanes := u.curGroup.lanes } ∧
    ∀ n, u.curGroup.jget n = if n = d.toNat then m &&& s.curGroup.full else s.curGroup.jget n
/-- Lanes end: status EX, XM cleared; the other lanes of the issue state continue. -/
def Ended (s u : State) (m : DWord) : Prop :=
  u.curGroup = { s.curGroup with lanes := u.curGroup.lanes, xm := s.curGroup.xm &&& ~~~m } ∧
    ∀ l, l < s.curGroup.lanes.length → u.curGroup.lane l =
      branched s (m &&& s.cur.lanes) (fun _ x => { x with pc := s.cur.pc, st := .ex, jr := 0, bw := .none }) l
/-- A lane's status under a new bit of XM (R194). -/
def xmStatus (b : Bool) : LaneStatus → LaneStatus
  | .ex => .ex
  | .pk => if b then .run else .pk
  | .run => if b then .run else .pk
  | .sl => if b then .sl else .pk
  | .jw => if b then .jw else .pk
  | .bw => if b then .bw else .pk

end Sys2Proof.Says

section

open Sys2Proof Sys2Proof.Machine Sys2Proof.Says

/-! ## Control instructions -/

/-- NOP continues; BRA, BRC and BRX send the lanes they take to PC + 4 × DISP, counting a backward move in CC, and let the others
of the issue state continue (R176, R195, R196). -/
def Obligations.Branches : Prop :=
  (∀ s, LanesRun .nop s s.cur.lanes (branched s 0 (fun _ x => x))) ∧
  (∀ s disp, CondBranch (.braSb disp) s True disp.toInt) ∧
  (∀ s disp, CondBranch (.bra disp) s True disp.toInt) ∧
  (∀ s a disp, CondBranch (.brc a disp) s (s.curGroup.sget a.toNat ≠ 0) disp.toInt) ∧
  (∀ s a disp, CondBranch (.brcZ a disp) s (s.curGroup.sget a.toNat = 0) disp.toInt) ∧
  (∀ s a disp, CondBranch (.brcLt a disp) s ((s.curGroup.sget a.toNat).toInt < 0) disp.toInt) ∧
  (∀ s a disp, CondBranch (.brcGe a disp) s (0 ≤ (s.curGroup.sget a.toNat).toInt) disp.toInt) ∧
  ∀ s gd disp, LanesRun (.brx gd disp) s (s.active gd) (branched s (s.active gd) (fun _ => goTo s (dest s disp.toInt)))

/-- CALL, CALL.STUB, CALLX and RET: the link each lane keeps, its depth and its target; the depth's limits, a target outside the
address space, a link outside every object and poison in a stub trap; without an active lane a call only continues (R49, R169, R199 to
R202). -/
def Obligations.CallsAndReturns : Prop :=
  (∀ s disp, CallRun (.callSb disp) s s.cur.lanes 0 (dest s disp.toInt)) ∧
  (∀ s gd a disp, CallRun (.call gd a disp) s (s.active gd) a.toNat (dest s disp.toInt)) ∧
  (∀ s gd d a, FirstTraps (.callx gd d a) s (s.active gd) (callxCause s a)) ∧
  (∀ s gd d a, s.active gd = 0 → LanesRun (.callx gd d a) s 0 (branched s 0 (fun _ x => x))) ∧
  (∀ s gd d a o, s.active gd ≠ 0 → (∀ l ∈ lanesOf (s.active gd), callxCause s a l = none) → s.curJob.objOf s.cur.pc = some o →
    CallDone (.callx gd d a) s s (s.active gd) d.toNat o (fun l => (s.curGroup.v64 a.toNat l).setWidth 57)) ∧
  (∀ s a, RetRun (.retSr a) s s.cur.lanes a.toNat) ∧
  (∀ s gd a, RetRun (.ret gd a) s (s.active gd) a.toNat) ∧
  (∀ s gd a n, s.active gd = 0 → LanesRun (.callStub gd a n) s 0 (branched s 0 (fun _ x => x))) ∧
  (∀ s gd a n, s.active gd ≠ 0 → s.curJob.objOf s.cur.pc = none → Traps (.callStub gd a n) s (fun e => e.cause = 0x11 ∧ e.rsn = 7)) ∧
  (∀ s gd a n o r, s.active gd ≠ 0 → s.curJob.objOf s.cur.pc = some o → s.objRead 4 (o.2.base.setWidth 64 + 8) = .ok r →
    (r.2.2 = none → r.2.1 ≤ n.toNat → Traps (.callStub gd a n) s (fun e => e.cause = 2)) ∧
    ∀ pa, r.2.2 = some pa → s.curGroup.quiet = true → Traps (.callStub gd a n) s (fun e => e.cause = 0x3F ∧ e.code = 1 ∧ e.addr = BitVec.ofNat 64 pa)) ∧
  ∀ s gd a n o r q, s.active gd ≠ 0 → s.curJob.objOf s.cur.pc = some o → s.objRead 4 (o.2.base.setWidth 64 + 8) = .ok r → r.2.2 = none →
    n.toNat < r.2.1 → r.1.objRead 8 (o.2.base.setWidth 64 + 0x80 + BitVec.ofNat 64 (16 * n.toNat)) = .ok q → q.2.2 = none →
    (DepthFull s (s.active gd) → Traps (.callStub gd a n) s (fun e => e.cause = 2)) ∧
    (¬DepthFull s (s.active gd) →
      CallDone (.callStub gd a n) s q.1 (s.active gd) a.toNat o (fun _ => BitVec.ofNat 57 (q.2.1 / 4 * 4)))

/-- JSET writes a rejoin mask, JOIN makes the lanes of the issue state wait at it, EXIT ends the active lanes, EXITCHAIN ends them
and asks for the chain, YIELD gives the sail up, XMRD reads and XMWR writes the execution mask (R193, R194, R197, R198, R203 to
R205). The upper half of an EXITCHAIN literal's argument is the model's free value (log 15).
What follows a change of lane status (joins, ends, released barriers, latches that can no longer complete) leaves memory, the
tokens and every register of every group alone (R108, R134, R194, R243, R263). -/
def Obligations.JoinsAndEnds : Prop :=
  ((∀ s gd d, LanesThen (.jset gd d) s (s.active gd) (fun u => JoinMask s u d (s.active gd))) ∧
  (∀ s d a, LanesThen (.jsetSc d a) s s.cur.lanes (fun u => JoinMask s u d (s.curGroup.sget a.toNat))) ∧
  (∀ s a disp, LanesThen (.join a disp) s s.cur.lanes (fun u =>
    u.curGroup = { s.curGroup with lanes := u.curGroup.lanes } ∧
    ∀ l, l < s.curGroup.lanes.length → u.curGroup.lane l =
      branched s s.cur.lanes (fun _ x => { x with st := .jw, jr := a, nxt := dest s disp.toInt }) l)) ∧
  (∀ s, LanesThen .exitSr s s.cur.lanes (fun u => Ended s u s.cur.lanes)) ∧
  (∀ s gd, LanesThen (.exit gd) s (s.active gd) (fun u => Ended s u (s.active gd))) ∧
  (∀ s gd a b, s.active gd = 0 → LanesRun (.exitchain gd a b) s 0 (branched s 0 (fun _ x => x))) ∧
  (∀ s gd a b, s.active gd ≠ 0 → 2 ^ 57 ≤ (s.curGroup.sget a.toNat).toNat ∨ (s.curGroup.sget a.toNat).toNat % 4 ≠ 0 →
    Traps (.exitchain gd a b) s (fun e => e.cause = 2)) ∧
  (∀ s gd a b, s.active gd ≠ 0 → (s.curGroup.sget a.toNat).toNat < 2 ^ 57 → (s.curGroup.sget a.toNat).toNat % 4 = 0 →
    s.curTeam.chain.v = false → ∃ u arg, (match b with | .reg r => arg = s.curGroup.sget r.toNat | .lit x => arg.setWidth 32 = x) ∧
      u.curTeam = { s.curTeam with chain := { v := true, e := (s.curGroup.sget a.toNat).setWidth 57, a := arg } } ∧
      Ended s u (s.active gd) ∧ exec (.exitchain gd a b) s = .next (s.retire (s.active gd) (u.afterLanes s.cur.grp))) ∧
  (∀ s, ∃ t, exec .yield s = .next t ∧ Continues s t ∧ Accounted s t s.cur.lanes ∧ t.curGroup.run = 64 ∧
    (t.sail s.curGroup.place.key).yielded =
      ((s.sail s.curGroup.place.key).yielded || (s.sail s.curGroup.place.key).cur == some s.cur.grp) ∧ t.mem = s.mem) ∧
  (∀ s d, ∃ m : DWord, (∀ l, l < 64 → m.getLsbD l = (s.curGroup.xm.getLsbD l && decide (l < s.curGroup.width))) ∧
    ScalarRun (.xmrd d) s d m) ∧
  ∀ s a, LanesThen (.xmwr a) s s.cur.lanes (fun u =>
    (∀ l, l < s.curGroup.lanes.length → (u.curGroup.lane l).st = xmStatus ((s.curGroup.sget a.toNat).getLsbD l) (s.curGroup.lane l).st) ∧
    ∀ l, l < 64 → u.curGroup.xm.getLsbD l = ((s.curGroup.sget a.toNat).getLsbD l && decide (l < s.curGroup.width) &&
      decide (l < s.curGroup.lanes.length) && (s.curGroup.lane l).st != .ex))) ∧
  (∀ (s : State) k, (s.afterLanes k).mem = s.mem ∧ (s.afterLanes k).l2 = s.l2 ∧ (s.afterLanes k).msgs = s.msgs ∧
    ∀ j, ((s.afterLanes k).group j).v = (s.group j).v ∧ ((s.afterLanes k).group j).s = (s.group j).s ∧
      ((s.afterLanes k).group j).p = (s.group j).p ∧
      ((s.afterLanes k).group j).fmode = (s.group j).fmode)

end

namespace Sys2Proof.Says

open Sys2Proof.Machine

/-! ## Memory accesses (R11, R25, R54, R109, R225 to R233) -/

/-- The die of the group being executed. -/
def myDie (s : State) : Nat := s.curGroup.place.die
/-- Two accesses share no byte. -/
def Apart (a b : Piece × Xlate) : Prop := a.2.pa + a.1.w ≤ b.2.pa ∨ b.2.pa + b.1.w ≤ a.2.pa
/-- No part of the instruction has performed before a trap (R104), and nothing under way bears its number. -/
def Fresh (s : State) : Prop := (∀ x ∈ s.curGroup.kept, x.pc ≠ s.cur.pc) ∧ s.flightBusy s.cur.grp s.curGroup.nextId = false
/-- Where the accesses `ps` of the instruction may perform at once: coherent pages whose lines the die's L2 admits (all tokens to
write, one and data to read), no poison, nothing waiting, nothing that holds the instruction at issue (R49, R54, R93, R98, R99). -/
def Ready (s : State) (o : GOp) (ps : List (Piece × Xlate)) : Prop :=
  s.mustHold o ps = false ∧ s.pend = [] ∧ Fresh s ∧ ∀ e ∈ ps, e.2.cl = 0 ∧ e.2.pa < 2 ^ 52 ∧
    ((s.usePlan o.kind ps).l2line (myDie s) (e.2.pa / 128)).dv = true ∧
    (o.kind = .store ∨ (s.poisonNow (e.2.pa / 128) = false ∧ ((s.usePlan o.kind ps).l2line (myDie s) (e.2.pa / 128)).pz = false)) ∧
    (if o.kind.writes then ((s.usePlan o.kind ps).l2line (myDie s) (e.2.pa / 128)).tc = 16
     else 1 ≤ ((s.usePlan o.kind ps).l2line (myDie s) (e.2.pa / 128)).tc)
/-- The number that an access finds in its line, once the translations are used. -/
def found (s : State) (k : AKind) (ps : List (Piece × Xlate)) (e : Piece × Xlate) : Nat :=
  lineNum ((s.usePlan k ps).l2line (myDie s) (e.2.pa / 128)).data (e.2.pa % 128) e.1.w
/-- A lane holds a loaded number in the registers from vd: extended below 4 bytes, else whole registers. -/
def Loaded (g : Group) (sx : Bool) (d l off w x : Nat) : Prop :=
  if w < 4 then g.v32 d l = (if sx then BitVec.ofInt 32 ((BitVec.ofNat (8 * w) x).toInt) else BitVec.ofNat 32 x)
  else ∀ j, j < w / 4 → g.v32 (d + off / 4 + j) l = BitVec.ofNat 32 (x / 2 ^ (32 * j))
/-- No vector register changes but those of the destination operand in the lanes of a mask. -/
def OnlyDest (s t : State) (act : DWord) (d k : Nat) : Prop :=
  ∀ n l, l < 64 → ¬(act.getLsbD l = true ∧ d ≤ n ∧ n < d + k) → t.curGroup.v32 n l = s.curGroup.v32 n l
/-- Every scalar, predicate, rejoin and gang register, FMODE, XM and the trap registers of the group stay. -/
def OtherRegs (s t : State) : Prop :=
  t.curGroup.s = s.curGroup.s ∧ t.curGroup.p = s.curGroup.p ∧ t.curGroup.j = s.curGroup.j ∧ t.curGroup.g = s.curGroup.g ∧
  t.curGroup.fmode = s.curGroup.fmode ∧ t.curGroup.xm = s.curGroup.xm ∧ t.curGroup.fi = s.curGroup.fi ∧ t.curGroup.tm = s.curGroup.tm
/-- Every register of the group stays. -/
def AllRegs (s t : State) : Prop := OtherRegs s t ∧ t.curGroup.v = s.curGroup.v
/-- Every byte of memory outside the bytes of `ps` reads as before, under every key; what a copy at the host holds is open (R68). -/
def BytesKept (u t : State) (ps : List (Piece × Xlate)) : Prop :=
  ∀ kid a, a < 2 ^ 52 → u.hostMay (a / 128) = false → (∀ e ∈ ps, a < e.2.pa ∨ e.2.pa + e.1.w ≤ a) → t.byteNow kid a = u.byteNow kid a
/-- The L2's line holds a number at an access. -/
def Holds (t : State) (die : Nat) (e : Piece × Xlate) (x : Nat) : Prop :=
  lineNum (t.l2line die (e.2.pa / 128)).data (e.2.pa % 128) e.1.w = x % 2 ^ (8 * e.1.w)
/-- A scratchpad access may issue: no lane's address is refused, nothing holds it. -/
def PadReady (s : State) (m : Mem) (p : Path) (sp : Space) (chk : DWord → Option XFault) (store : Bool) : Prop :=
  (∀ l ∈ lanesOf (s.active m.g), chk (memAddr m s l) = none) ∧ s.padHold p sp m (memAddr m s) store = false
/-- A scratchpad instruction completes at issue: each active lane's words wait to be served, in lane order, with what `op` makes of each; no
register, no memory and no scratchpad changes. -/
def PadRun (i : Instr) (s : State) (m : Mem) (kd : AccKind) (op : Piece → AccOp) : Prop :=
  ∃ t as_, exec i s = .next t ∧ OwnGroupOnly s { t with pend := s.pend } ∧ Continues s t ∧ Accounted s t (s.active m.g) ∧ AllRegs s t ∧
    t.pend = s.pend ++ as_ ∧
    as_.map (fun (a : Access) => (a.grp, a.kind, a.lane.toNat, a.pa, a.w, a.off, a.op)) =
      (s.padUnits (s.active m.g) m).map (fun p => (s.cur.grp, kd, p.lane, p.va.toNat, p.w, p.off, op p))
/-- One access waits in the machine, a word of a scratchpad that can be served; it is all that is left of its instruction. -/
def LastWord (s : State) (a : Access) : Prop :=
  s.pend = [a] ∧ 0 < a.w ∧ s.padReady a = true ∧ s.padPoisoned a = false ∧ (∀ h ∈ s.hops, h.grp ≠ a.grp) ∧ (s.group a.grp).outs = [] ∧
    ∃ f, (s.group a.grp).flightOf a.flight = some f ∧ f.vals = []
/-- The bytes of the scratchpad that an access names. -/
def padMem (s : State) (a : Access) : List Host.Cell :=
  if a.kind = .team then (s.team (s.group a.grp).tk).mem else (s.job (s.group a.grp).job).comb
/-- A hint completes and changes no register. -/
def HintRun (i : Instr) (s : State) (gd : Guard) (p : State → Prop) : Prop :=
  ∃ t, exec i s = .next t ∧ Continues s t ∧ Accounted s t (s.active gd) ∧ AllRegs s t ∧ p t
/-- It goes on where a condition holds, and holds the issue state otherwise. -/
def GoesWhen (i : Instr) (s : State) (c : Prop) : Prop :=
  (c → LanesRun i s s.cur.lanes (branched s 0 (fun _ x => x))) ∧ (¬c → exec i s = .next s.holdCur)
/-- A home operation leaves the core: its record, one more in counter G. -/
def SendRun (i : Instr) (s : State) (act : DWord) (p : Hop → Prop) (q : State → Prop) : Prop :=
  ∃ t h, exec i s = .next t ∧ Continues s t ∧ Accounted s t act ∧ AllRegs s t ∧ t.hops = s.hops ++ [h] ∧ h.grp = s.cur.grp ∧ p h ∧
    t.curGroup.cnt.g = s.curGroup.cnt.g + 1 ∧ q t

end Sys2Proof.Says

section

open Sys2Proof Sys2Proof.Machine Sys2Proof.Says

/-! ## Memory instructions -/

/-- An access of LD, ST or ATOM that faults, the lowest lane first, traps with its cause, reason and address once the group's older
accesses have performed; a PAGE_FAULT puts the group on a record of the die's fault queue instead (R104, R109, R115, R116).
Using a translation sets A, and D for a write, in the first entry of its run, which holds them after: every other byte keeps its value, where
the homes hold the lines of the entries, under a system key that the first entry's line is written under (R26). -/
def Obligations.AccessFaultsAndMarks : Prop :=
  (let faults := fun (i : Instr) (s : State) (k : AKind) (e : LaneFault) =>
    (e.x.cause ≠ 0x10 → Traps i s (fun t => t.cause = e.x.cause ∧ t.rsn = e.x.rsn ∧ t.at_ = k.at_ ∧ t.lane = e.lane ∧ t.addr = e.va)) ∧
    (e.x.cause = 0x10 → s.faultFull (myDie s) = false → ∃ t id, exec i s = .next t ∧ AllRegs s t ∧ t.mem = s.mem ∧
      t.curGroup.wait = .fault (myDie s) id ∧ ∃ f ∈ t.faults, f.id = id ∧ f.die = myDie s ∧ f.base ≤ e.va.toNat ∧ e.va.toNat < f.base + f.size)
  (∀ s sx m e, s.curGroup.quiet = true → s.plan .load m.ad m.off m.w.bytes (lanesOf (s.active m.g)) = .error e →
    faults (.ld sx m) s .load e) ∧
  (∀ s m e, s.curGroup.quiet = true → s.plan .store m.ad m.off m.w.bytes (lanesOf (s.active m.g)) = .error e →
    faults (.st m) s .store e) ∧
  ∀ s op m e, s.curGroup.quiet = true → atomUninit s.curGroup (s.active m.g) op m = none →
    s.plan .atomic m.ad m.off m.w.bytes (lanesOf (s.active m.g)) = .error e → faults (.atom op m) s .atomic e) ∧
  ((∀ (s : State) job die va k x kid a, a < 2 ^ 52 → x.page.first < 2 ^ 52 → x.page.first % 8 = 0 →
    s.holding (x.page.first / 128) = Holding.all → (∀ e ∈ (s.walkPath job die va).1, (s.holding (e.2.1 / 128)).ow = true) →
    (a / 128 ≠ x.page.first / 128 ∨ ((a < x.page.first ∨ x.page.first + 8 ≤ a) ∧ lookup s.lineOld (x.page.first / 128) = none ∧
      (keyed x.page.first = false ∨ getD 0 s.lineKid (x.page.first / 128) = (s.part (s.job job).part).skid))) →
    (s.useXlate job die va k x).byteNow kid a = s.byteNow kid a) ∧
  ∀ (s : State) job p a d, p.first < 2 ^ 52 → p.first % 8 = 0 → s.holding (p.first / 128) = Holding.all → s.liveCopy (p.first / 128) = none →
    let kid := (s.part (s.job job).part).skid
    (s.setAD job p a d).entry kid p.first = s.entry kid p.first ||| (if a then (0x4000 : DWord) else 0) ||| (if d then (0x8000 : DWord) else 0))

/-- LD and LDNR on lines that the L2 can read complete: each active lane's registers hold its bytes, nothing else of the registers
changes but LDNR's flags, and memory stays as the use of the translations leaves it; a lane of LDNR whose page is not resident
takes zero and a set flag (R54, R118, R226, R227).
ST on lines of which the L2 holds every token completes: where no two lanes' bytes meet, each line holds its lane's bytes; every
byte outside the stored bytes reads as the use of the translations leaves it; no register changes (R54, R98, R226). -/
def Obligations.LoadsAndStores : Prop :=
  ((∀ s sx m ps, s.plan .load m.ad m.off m.w.bytes (lanesOf (s.active m.g)) = .ok ps → Ready s (ldOp m sx) ps →
    ∃ t, exec (.ld sx m) s = .next t ∧ Continues s t ∧ Accounted s t (s.active m.g) ∧ OtherRegs s t ∧
      OnlyDest s t (s.active m.g) m.d.toNat m.w.regs ∧ t.mem = (s.usePlan .load ps).mem ∧ BytesKept (s.usePlan .load ps) t [] ∧
      ∀ e ∈ ps, Loaded t.curGroup sx m.d.toNat e.1.lane e.1.off e.1.w (found s .load ps e)) ∧
  ∀ s pf m nr ps, let o : GOp := { ldOp m false with kind := .ldnr, dep := some pf, dst := Reg.p pf.toNat :: dstRegs m.d.toNat m.w.regs }
    s.planNr m.ad m.off m.w.bytes (lanesOf (s.active m.g)) = .ok (nr, ps) → Ready s o ps →
    ∃ t, exec (.ldnr pf m) s = .next t ∧ Continues s t ∧ Accounted s t (s.active m.g) ∧ t.curGroup.s = s.curGroup.s ∧
      OnlyDest s t (s.active m.g) m.d.toNat m.w.regs ∧ t.mem = (s.usePlan .ldnr ps).mem ∧ BytesKept (s.usePlan .ldnr ps) t [] ∧
      (∀ l ∈ nr, t.curGroup.vN m.w.regs m.d.toNat l = 0 ∧ t.curGroup.pred pf.toNat l = true) ∧
      ∀ e ∈ ps, Loaded t.curGroup false m.d.toNat e.1.lane e.1.off e.1.w (found s .ldnr ps e) ∧
        (pf ≠ 0 → t.curGroup.pred pf.toNat e.1.lane = false)) ∧
  (∀ s m ps, s.plan .store m.ad m.off m.w.bytes (lanesOf (s.active m.g)) = .ok ps → Ready s (stOp s m) ps →
    ∃ t, exec (.st m) s = .next t ∧ Continues s t ∧ Accounted s t (s.active m.g) ∧ AllRegs s t ∧
      t.mem = (s.usePlan .store ps).mem ∧ BytesKept (s.usePlan .store ps) t ps ∧
      (ps.Pairwise Apart → ∀ e ∈ ps, e.2.pa % 128 + e.1.w ≤ 128 → Holds t (myDie s) e (storeData s.curGroup m.d m.w e.1).toNat))

/-- ATOM on lines of which the L2 holds every token completes: where no two lanes' bytes meet, each lane takes the old number and its
line holds the new one; every other byte and register stays. ATOM.H on coherent pages sends one home operation per lane to the line's home
(R229, R230). -/
def Obligations.Atomics : Prop :=
  (∀ s op m ps, m.w = .w32 ∨ m.w = .w64 → atomUninit s.curGroup (s.active m.g) op m = none →
    s.plan .atomic m.ad m.off m.w.bytes (lanesOf (s.active m.g)) = .ok ps → Ready s (atomOp s op m) ps →
    ∃ t, exec (.atom op m) s = .next t ∧ Continues s t ∧ Accounted s t (s.active m.g) ∧ OtherRegs s t ∧
      OnlyDest s t (s.active m.g) m.d.toNat m.w.regs ∧ t.mem = (s.usePlan .atomic ps).mem ∧ BytesKept (s.usePlan .atomic ps) t ps ∧
      (m.ad.isSpill = false → ps.Pairwise Apart → ∀ e ∈ ps, e.2.pa % 128 + e.1.w ≤ 128 →
        Loaded t.curGroup false m.d.toNat e.1.lane 0 e.1.w (found s .atomic ps e) ∧
        Holds t (myDie s) e (atomNew op (8 * e.1.w) (found s .atomic ps e) (atomX s.curGroup m e.1.lane) (atomY s.curGroup op m e.1.lane)))) ∧
  ∀ s op m ps, atomUninit s.curGroup (s.active m.g) op m = none →
    s.plan .atomic m.ad m.off m.w.bytes (lanesOf (s.active m.g)) = .ok ps → s.mustHold { atomOp s op m with home := true } ps = false →
    Fresh s → (∀ e ∈ ps, e.2.cl = 0 ∧ s.poisonNow (e.2.pa / 128) = false) →
    ∃ t, exec (.atomH op m) s = .next t ∧ Continues s t ∧ Accounted s t (s.active m.g) ∧ AllRegs s t ∧
      t.mem = (s.usePlan .atomic ps).mem ∧ t.l2 = (s.usePlan .atomic ps).l2 ∧
      t.pend.length = s.pend.length + ps.length ∧ t.msgs.length = (s.usePlan .atomic ps).msgs.length + ps.length ∧
      ∀ e ∈ ps, ∃ a : Access, a ∈ t.pend ∧ a.kind = .home ∧ a.grp = s.cur.grp ∧ a.lane = BitVec.ofNat 6 e.1.lane ∧ a.pa = e.2.pa ∧
        a.op = .atom op m.d (BitVec.ofNat 64 (atomX s.curGroup m e.1.lane)) (BitVec.ofNat 64 (atomY s.curGroup op m e.1.lane)) ∧
        a.hopMsg ∈ t.msgs ∧ a.hopMsg.ty = 10 ∧ a.hopMsg.op.toNat = Machine.AtomOp.code op + (if e.1.w = 8 then 16 else 0)

/-- LDS, STS, LDK and STK whose addresses are admitted complete: their words wait to be served and nothing else changes; a word served gives a
load's lane its bytes, or puts a store's in the team memory or comb window, every other byte there and every register staying; STK to a
segment in S is PROTECTION, reason 0xA (R12, R14, R32, R34, R94, R226).
PGREQ, PREF, PREF.L2 and MEMHINT complete whatever their addresses, change no register and raise no fault; PGREQ leaves memory
alone (R119, R228). FENCE, FENCE.R, FENCE.A and WAITC go on when the accesses they wait for have performed, and hold until then (R93,
R99, R231). -/
def Obligations.ScratchpadsHintsFences : Prop :=
  ((∀ s sx m, PadReady s m .t .team (teamCheck s.curJob.jd m.w.bytes) false →
    (∀ u ∈ s.padUnits (s.active m.g) m, wordsPoisoned s.curTeam.poison u.va.toNat u.w = false) →
    PadRun (.lds sx m) s m .team (fun _ => .load sx m.d)) ∧
  (∀ s m, PadReady s m .t .team (teamCheck s.curJob.jd m.w.bytes) true →
    PadRun (.sts m) s m .team (fun p => .store (storeData s.curGroup m.d m.w p))) ∧
  (∀ s sx m, PadReady s m .k .comb (combCheck s.curJob.jd m.w.bytes) false → (∀ l ∈ lanesOf (s.active m.g), s.curJob.inT (memAddr m s l) = false) →
    (∀ u ∈ s.padUnits (s.active m.g) m, wordsPoisoned s.curJob.combPoison u.va.toNat u.w = false) →
    PadRun (.ldk sx m) s m .comb (fun _ => .load sx m.d)) ∧
  (∀ s m, PadReady s m .k .comb (combCheck s.curJob.jd m.w.bytes) true →
    (∀ l ∈ lanesOf (s.active m.g), s.curJob.inT (memAddr m s l) = false ∧
      (s.curJob.tag_ ((memAddr m s l).toNat / 4096)).st ≠ 1) →
    PadRun (.stk m) s m .comb (fun p => .store (storeData s.curGroup m.d m.w p))) ∧
  (∀ s a sx d, LastWord s a → a.op = .load sx d → let t := s.padServe a
    t.pend = [] ∧ t.mem = s.mem ∧ t.teams = s.teams ∧ t.jobs = s.jobs ∧ (∀ k, k ≠ a.grp → t.group k = s.group k) ∧
    Loaded (t.group a.grp) sx d.toNat a.lane.toNat a.off a.w (Memory.num (padMem s a) a.pa a.w)) ∧
  (∀ s a d, LastWord s a → a.op = .store d → let t := s.padServe a
    t.pend = [] ∧ t.mem = s.mem ∧ t.l2 = s.l2 ∧ (∀ k, (t.group k).v = (s.group k).v ∧ (t.group k).s = (s.group k).s ∧ (t.group k).p = (s.group k).p) ∧
    ∀ x, Memory.read (padMem t a) x =
      if a.pa ≤ x ∧ x < a.pa + a.w then BitVec.ofNat 8 (d.toNat / 2 ^ (8 * (x - a.pa))) else Memory.read (padMem s a) x) ∧
  ∀ s m l, PadReady s m .k .comb (combCheck s.curJob.jd m.w.bytes) true → s.curGroup.quiet = true →
    (∀ k ∈ lanesOf (s.active m.g), s.curJob.inT (memAddr m s k) = false) → l ∈ lanesOf (s.active m.g) →
    (s.curJob.tag_ ((memAddr m s l).toNat / 4096)).st = 1 → Traps (.stk m) s (fun e => e.cause = 0x11 ∧ e.rsn = 0xA)) ∧
  ((∀ s gd ad off, HintRun (.pgreq gd ad off) s gd (fun t => t.mem = s.mem ∧ t.l2 = s.l2)) ∧
  (∀ s gd ad off, HintRun (.pref gd ad off) s gd (fun t => t.faults = s.faults)) ∧
  (∀ s gd ad off, HintRun (.prefL2 gd ad off) s gd (fun t => t.faults = s.faults)) ∧
  (∀ s h gd ad off, HintRun (.memhint h gd ad off) s gd (fun t => t.faults = s.faults)) ∧
  (∀ s, GoesWhen .fence s (s.curGroup.quiet = true)) ∧
  (∀ s, GoesWhen .fenceR s (s.curGroup.quiet = true)) ∧
  (∀ s, GoesWhen .fenceA s (s.curGroup.loadsDone = true)) ∧
  ∀ s p a, GoesWhen (.waitc p a) s ((s.curGroup.cnt.get p).toNat ≤ (s.curGroup.sget a.toNat).toNat))

/-- APND, SEAL and TAILRD on an append-seal page with a record send one home operation each; the group of a TAILRD waits for its
answer; without an active lane an APND sends nothing (R71, R79, R232, R233). -/
def Obligations.Appends : Prop :=
  (∀ s x, s.active x.g = 0 → LanesRun (.apnd x) s 0 (branched s 0 (fun _ x => x))) ∧
  (∀ s x y, s.active x.g ≠ 0 → s.xlateAs .apnd (s.curGroup.sget x.base.toNat + offVal x.w.bytes x.off) = .ok y →
    s.curGroup.pathFull .g = false → s.ridRoom (myDie s) 1 = true → SendRun (.apnd x) s (s.active x.g)
      (fun h => h.op = 0x20 ∧ h.len = (lanesOf (s.active x.g)).length * (x.w.bytes * (x.cnt.toNat + 1)) ∧ h.st = x.st ∧ h.pf = x.pf ∧
        h.lanes = s.active x.g ∧ h.data = apndData s.curGroup x.d.toNat (x.w.bytes * (x.cnt.toNat + 1)) (lanesOf (s.active x.g)))
      (fun _ => True)) ∧
  (∀ s x y, s.xlateAs .seal (s.curGroup.sget x.base.toNat + offVal 1 x.off) = .ok y → s.curGroup.pathFull .g = false →
    s.curGroup.quiet = true → s.ridRoom (myDie s) 1 = true → SendRun (.seal x) s s.cur.lanes (fun h => h.op = 0x22 ∧ h.st = x.d) (fun _ => True)) ∧
  ∀ s x y, s.xlateAs .tailrd (s.curGroup.sget x.base.toNat + offVal 1 x.off) = .ok y → s.curGroup.pathFull .g = false →
    s.ridRoom (myDie s) 1 = true → SendRun (.tailrd x) s s.cur.lanes (fun h => h.op = 0x23 ∧ h.st = x.d) (fun t => t.curGroup.wait = .access s.curGroup.nextId)

end

namespace Sys2Proof.Says

open Sys2Proof.Machine

/-! ## The mill and the engines (R235 to R262) -/

/-- Of the machine beyond its own group, only its team changes. -/
def TeamOnly (s t : State) : Prop :=
  t = { s with groups := t.groups, teams := t.teams } ∧ (∀ k, k ≠ s.cur.grp → t.group k = s.group k) ∧
    ∀ tk, tk ≠ s.curGroup.tk → t.team tk = s.team tk
/-- It continues, changing of its group no register. -/
def TeamRun (i : Instr) (s : State) (act : DWord) (p : Team → Prop) : Prop :=
  ∃ t, exec i s = .next t ∧ TeamOnly s t ∧ Continues s t ∧ Accounted s t act ∧ AllRegs s t ∧ p t.curTeam
/-- An MMA of any of the three families that its issue checks pass. -/
def MmaReady (s : State) (opc : Nat) (x : MmaOp) : Prop :=
  s.curGroup.gget x.gang.toNat ≠ 0 ∧ shapeOk (opc == 0x73) (s.curGroup.sget (x.b.toNat + 1)) = true ∧
  stonesFit s.curJob.jd (s.curGroup.sget (x.b.toNat + 1)) 1 = true ∧
  x.d.toNat + shNb (s.curGroup.sget (x.b.toNat + 1)) ≤ s.curJob.jd.atl ∧ (s.curGroup.sget x.b.toNat).toNat % 64 = 0 ∧
  s.curGroup.pathFull .m = false
/-- The arrival that an MMA records at its latch. -/
def arrival (s : State) (opc : Nat) (x : MmaOp) : Arrival :=
  { q := s.curGroup.q, opc := opc, z := x.z, hb := s.curGroup.sget x.b.toNat, hs := s.curGroup.sget (x.b.toNat + 1),
    a := s.curGroup.sget x.a.toNat, tile := x.d.toNat, pc := s.cur.pc, len := s.cur.len, lanes := s.cur.lanes, id := s.curGroup.nextId }
/-- It arrives: no register changes, the group waits at its latch, which holds the arrival after those it held. -/
def ArriveRun (i : Instr) (s : State) (opc : Nat) (x : MmaOp) : Prop :=
  let m := s.curGroup.gget x.gang.toNat
  MmaReady s opc x → (∀ y ∈ (s.curTeam.latch m).arr, (arrival s opc x).agrees y = true ∧ (arrival s opc x).meets y = false) →
    ∃ u, exec i s = .next (u.latchCheck s.curGroup.tk) ∧ TeamOnly s u ∧ AllRegs s u ∧ u.curGroup.wait = .latch m ∧
      u.curGroup.lanes = s.curGroup.lanes ∧ (u.curTeam.latch m).arr = (s.curTeam.latch m).arr ++ [arrival s opc x] ∧
      u.curTeam.mem = s.curTeam.mem ∧ u.curTeam.acc = s.curTeam.acc
/-- An MMA that an issue check refuses traps ILLEGAL_OPERAND. -/
def MmaRefused (i : Instr) (s : State) (opc : Nat) (x : MmaOp) : Prop :=
  s.curGroup.gget x.gang.toNat = 0 ∨ shapeOk (opc == 0x73) (s.curGroup.sget (x.b.toNat + 1)) = false ∨
    s.curJob.jd.atl < x.d.toNat + shNb (s.curGroup.sget (x.b.toNat + 1)) → Traps i s (fun t => t.cause = 2)
/-- A load of stones that its checks pass, no copy of its group having still to write what it reads. -/
def LoadReady (s : State) (ldg : Bool) (a b : BitVec 7) (x : Xlate) (fb : BitVec 512) (c : Cover) : Prop :=
  let hs := s.curGroup.sget (b.toNat + 1)
  shapeOk false hs = true ∧ stonesFit s.curJob.jd hs 1 = true ∧ (s.curGroup.sget b.toNat).toNat % 64 = 0 ∧
  (s.curGroup.sget a.toNat).toNat % 16 = 0 ∧ s.curGroup.pathFull .m = false ∧ s.curGroup.quiet = true ∧
  s.loadCheck s.cur.grp ldg (s.curGroup.sget a.toNat) (s.curGroup.sget b.toNat) hs = .ok (x, fb, c) ∧
  s.pinRoom s.curGroup.place.die c.pins.length = true ∧ (∀ y ∈ s.copies, y.grp ≠ s.cur.grp)
/-- It enters the mill: it continues with no register changed, its team holds it as the last operation, nothing of it done. -/
def MillRun (i : Instr) (s : State) (p : MillOp → Prop) : Prop :=
  ∃ t o, exec i s = .next t ∧ Continues s t ∧ Accounted s t s.cur.lanes ∧ AllRegs s t ∧ (∀ k, k ≠ s.cur.grp → t.group k = s.group k) ∧
    t.curTeam = { s.curTeam with mill := s.curTeam.mill ++ [o] } ∧ o.slab = 0 ∧ o.mask = laneBit s.curGroup.q ∧ p o
/-- A load of stones enters the mill with its format block, its shape and one part for each stone. -/
def LoadRun (i : Instr) (s : State) (ldg : Bool) (a b : BitVec 7) : Prop :=
  let hs := s.curGroup.sget (b.toNat + 1)
  ∀ x fb c, LoadReady s ldg a b x fb c → MillRun i s (fun o => o.kind = .load ldg ∧ o.fb = fb ∧ o.shape = hs ∧
    o.kb = shKb hs * shNb hs * qFactor (fbFcb fb) ∧ o.mem.map (fun y => (y.a, y.hb, y.hs)) = [(s.curGroup.sget a.toNat, s.curGroup.sget b.toNat, hs)])
/-- QNTZ or DQNT that its checks pass enters the mill with one part for each row. -/
def QuantRun (i : Instr) (s : State) (qz : Bool) (rm : Rm) (sat : Bool) (a b : BitVec 7) : Prop :=
  let g := s.curGroup
  let src := (g.sget a.toNat).toNat
  let fva := g.sget b.toNat
  let qw := g.sget (b.toNat + 1)
  ∀ x fb, rm ≠ .sr → qw.toNat < 2 ^ 34 → fva.toNat % 64 = 0 → g.pathFull .m = false → g.quiet = true →
    s.readBlock s.cur.grp fva = .ok (x, fb) → s.poisonNow (x.pa / 128) = false → fbQuantOk fb qz (qwLen qw) = true →
    (∀ r ∈ quantReads s.curTeam.mem fb qz src qw, padBounds s.curJob.jd .team r.1 r.2 0 1 = none ∧ wordsPoisoned s.curTeam.poison r.1 r.2 = false) →
    (∀ r ∈ quantRows s.curTeam.mem fb qz sat (rmode g.fmode false rm) src qw, padBounds s.curJob.jd .team r.1 r.2.length 0 1 = none) →
    (∀ y ∈ s.copies, y.grp ≠ s.cur.grp) →
    MillRun i s (fun o => o.kind = (if qz then .qntz else .dqnt) ∧ o.fb = fb ∧ o.shape = qw ∧ o.kb = qwRows qw ∧ o.sat = sat ∧ o.fl = 0 ∧
      o.mode = rmode g.fmode false rm ∧ o.mem.map (fun y => y.a) = [g.sget a.toNat])
/-- A part of operation `i` of a team is made: the operation goes on to its next part, or has left the mill with its last. -/
def PartRun (s : State) (job team i : Nat) (o : MillOp) (p : State → Prop) (fl : Nat) : Prop :=
  let tk := tkey job team
  ∃ t, execMillPart job team i s = .next t ∧ p t ∧ (t.team tk).acc = (s.team tk).acc ∧
    if o.slab + 1 = o.kb then (t.team tk).mill = (s.team tk).mill.eraseIdx i
    else ∃ o2, (t.team tk).mill[i]? = some o2 ∧ o2.slab = o.slab + 1 ∧ o2.mem = o.mem ∧ o2.fl = fl

end Sys2Proof.Says

section

open Sys2Proof Sys2Proof.Machine Sys2Proof.Says

/-! ## Matrix instructions -/

/-- GANGSET writes a legal place mask or zero and refuses any other; MMA, MMAS and MMAG arrive at the latch of their gang's mask, or are
refused at issue (R239, R241 to R243). -/
def Obligations.Gangs : Prop :=
  (∀ s d a, s.curGroup.sget a.toNat = 0 ∨ gangOk s.curJob.jd s.curGroup.q (s.curGroup.sget a.toNat) = true →
    ∃ t, exec (.gangset d a) s = .next t ∧ Done s t s.cur.lanes ∧ t.curGroup.s = s.curGroup.s ∧ t.curGroup.v = s.curGroup.v ∧
      ∀ n, t.curGroup.gget n = if n = d.toNat then s.curGroup.sget a.toNat else s.curGroup.gget n) ∧
  (∀ s d a, s.curGroup.sget a.toNat ≠ 0 → gangOk s.curJob.jd s.curGroup.q (s.curGroup.sget a.toNat) = false →
    Traps (.gangset d a) s (fun t => t.cause = 2)) ∧
  (∀ s x, ArriveRun (.mma x) s 0x71 x ∧ MmaRefused (.mma x) s 0x71 x) ∧
  (∀ s x, ArriveRun (.mmas x) s 0x72 x ∧ MmaRefused (.mmas x) s 0x72 x) ∧
  ∀ s x, ArriveRun (.mmag x) s 0x73 x ∧ MmaRefused (.mmag x) s 0x73 x

/-- A latch whose members have all arrived and whose checks pass completes: the operation enters the mill, every member goes on, no
accumulator has changed; a mill operation that is first of its members commits one slab, and its last slab ends it (R103, R244, R245,
R249). -/
def Obligations.MillSteps : Prop :=
  (∀ s job team mask a rest r, let tk := tkey job team
    let l := (s.team tk).latch mask
    l.members = a :: rest → s.latchReady tk l = true → s.teamPlaced job team = true → s.readBlock (tk * 64 + a.q) a.hb = .ok r →
    s.latchCopies tk (a :: rest) (latchRuns (s.team tk).mem a.opc r.2 (a :: rest) a.hs) r.1.pa = false → s.poisonNow (r.1.pa / 128) = false →
    latchFault s tk (s.job job).jd a.opc r.2 (a :: rest) a.hs (groupTable (s.team tk).mem a.opc a.hs (rest.length + 1)) = none →
    ∃ t o, exec (.latchComplete job team mask) s = .next t ∧ (t.team tk).mill = (s.team tk).mill ++ [o] ∧ o.mask = mask ∧ o.slab = 0 ∧
      o.fb = r.2 ∧ o.mem = a :: rest ∧ (t.team tk).acc = (s.team tk).acc ∧ (t.team tk).mem = (s.team tk).mem) ∧
  ∀ s job team i o, let tk := tkey job team
    (s.team tk).mill[i]? = some o → o.kind = .mma → s.teamRuns job team = true → (s.team tk).millFirst i o = true → (s.team tk).badRun o = none →
    ∃ t, exec (.slabCommit job team i) s = .next t ∧ t.mem = s.mem ∧ (t.team tk).mem = (s.team tk).mem ∧
      (t.team tk).acc = (s.slabTeam tk (s.job job).jd.seed o).1.acc ∧
      if o.slab + 1 = o.kb then (t.team tk).mill = (s.team tk).mill.eraseIdx i
      else ∃ o2, (t.team tk).mill[i]? = some o2 ∧ o2.slab = o.slab + 1 ∧ o2.mem = o.mem

/-- BLOAD and BLOADG enter the mill and then fill the stones of their rectangle one by one, each and no other; BREL clears a rectangle; ACCZ
zeroes its tiles, ACCRD reads 16 rows of a tile into 16 registers, ACCWR writes them; QNTZ and DQNT enter the mill and then write their rows
in team memory one by one, the flags gathered entering FF with the last (R252 to R257). -/
def Obligations.StonesAndTiles : Prop :=
  (∀ s a b, LoadRun (.bload a b) s false a b) ∧
  (∀ s a b, LoadRun (.bloadg a b) s true a b) ∧
  (∀ s a, let hs := s.curGroup.sget a.toNat
    let q := if (s.curTeam.stone (shSb hs)).rcd.vl then qFactor (s.curTeam.stone (shSb hs)).rcd.fcb.toNat else 1
    shapeOk false hs = true → stonesFit s.curJob.jd hs q = true → (∀ o ∈ s.curTeam.mill, o.onStones = false) → TeamRun (.brel a) s s.cur.lanes (fun t =>
      ∀ n, t.stone n = if shSb hs ≤ n ∧ n < shSb hs + shKb hs * shNb hs * q then Stone.zero else s.curTeam.stone n)) ∧
  (∀ s d n, d.toNat + n.toNat + 1 ≤ s.curJob.jd.atl → s.tilesBusy d.toNat (n.toNat + 1) = false →
    TeamRun (.accz d n) s s.cur.lanes (fun t => ∀ tile r c, r < 16 → c < 128 → getD 0 t.acc (accKey tile r c) =
      if d.toNat ≤ tile ∧ tile ≤ d.toNat + n.toNat then 0 else getD 0 s.curTeam.acc (accKey tile r c))) ∧
  (∀ s gd d a b c, accCol s.curGroup b = some c → a.toNat < s.curJob.jd.atl → s.tilesBusy a.toNat 1 = false →
    VectorRun (.accrd gd d a b) s gd d 16 (fun l => pack 32 16 (fun r => getD 0 s.curTeam.acc (accKey a.toNat r (c + l))))) ∧
  (∀ s gd d a b c, accCol s.curGroup b = some c → d.toNat < s.curJob.jd.atl → s.tilesBusy d.toNat 1 = false →
    (∀ l ∈ lanesOf (s.active gd), l < s.curGroup.width) → TeamRun (.accwr gd d a b) s (s.active gd) (fun t => ∀ tile r k, r < 16 → k < 128 → getD 0 t.acc (accKey tile r k) =
      if tile = d.toNat ∧ c ≤ k ∧ (s.active gd).getLsbD (k - c) = true then s.curGroup.v32 (a.toNat + r) (k - c)
      else getD 0 s.curTeam.acc (accKey tile r k))) ∧
  (∀ s rm sat a b, QuantRun (.qntz rm sat a b) s true rm sat a b) ∧
  (∀ s rm a b, QuantRun (.dqnt rm a b) s false rm false a b) ∧
  (∀ s job team i o a g, let tk := tkey job team
    (s.team tk).mill[i]? = some o → o.kind = .load g → o.mem = [a] → s.teamRuns job team = true → (s.team tk).millFirst i o = true →
    (∀ w ∈ runWords (stoneRuns o.fb a.a a.hs o.slab), (s.pinned o.pin (8 * w)).isSome = true) → s.opPoison o (stoneRuns o.fb a.a a.hs o.slab) = none →
    PartRun s job team i o (fun t =>
      (∀ n, n ≠ shSb a.hs + o.slab → (t.team tk).stone n = (s.team tk).stone n) ∧ (t.team tk).mem = (s.team tk).mem ∧
      let r := ((t.team tk).stone (shSb a.hs + o.slab)).rcd
      r.vl = true ∧ r.rl = g ∧ r.lva = a.a.setWidth 57 ∧ r.fva = a.hb.setWidth 57 ∧ r.fcb.toNat = fbFcb o.fb) 0) ∧
  ∀ s job team i o a, let tk := tkey job team
    let w := quantRow (o.mem_ (s.team tk).mem) o.fb (o.kind == .qntz) o.sat o.mode a.a.toNat o.shape o.slab
    (s.team tk).mill[i]? = some o → o.kind = .qntz ∨ o.kind = .dqnt → o.mem = [a] → s.teamRuns job team = true → (s.team tk).millFirst i o = true →
    (s.team tk).badRun o = none → (∀ r ∈ w.1, padBounds (s.job (tk / 65536)).jd .team r.1 r.2.length 0 1 = none) →
    PartRun s job team i o (fun t =>
      (t.team tk).mem = w.1.foldl (fun m r => Memory.writeN m r.1 r.2) (s.team tk).mem ∧
      let k := tk * 64 + a.q
      (t.group k).v = (s.group k).v ∧ (t.group k).s = (s.group k).s ∧ (t.group k).p = (s.group k).p ∧
      (t.group k).fmode = if o.slab + 1 = o.kb then (s.group k).fmode ||| BitVec.ofNat 32 ((o.fl ||| w.2) % 32 * 8) else (s.group k).fmode) (o.fl ||| w.2)

end

namespace Sys2Proof.Says

open Sys2Proof.Machine

/-- A copy as the engine holds it. -/
def engineCopy (s : State) (c : Copy) (pd : Bool) : Copy :=
  { c with id := s.nextCopy, grp := s.cur.grp, flight := s.curGroup.nextId, die := s.curGroup.place.die, pc := s.cur.pc, excl := pd }
/-- The static checks of a copy pass: its control word, its lengths, its alignment, an initialised barrier, bounds, pages. -/
def CopyOk (s : State) (c : Copy) (pd : Bool) : Prop :=
  copyAlign (engineCopy s c pd) = none ∧ (s.curTeam.bar c.bar.toNat).ec ≠ 0 ∧
  padBounds s.curJob.jd c.ss c.src.toNat c.len c.sstr c.rows = none ∧
  (c.kind = .bapnd ∨ padBounds s.curJob.jd c.ds c.dst.toNat c.len c.dstr c.rows = none) ∧
  (s.copyCover (engineCopy s c pd)).fault = none ∧ (s.copyCover (engineCopy s c pd)).count.length ≤ 4096
/-- Nothing makes it wait: bytes enough in RV under PD, accesses performed, room for its pins, no comb segment in transit. -/
def CopyFree (s : State) (c : Copy) (pd : Bool) : Prop :=
  (pd = true → c.rows * c.len ≤ (s.curTeam.bar c.bar.toNat).rv.toNat) ∧ s.copyReady = true ∧
  s.pinRoom s.curGroup.place.die (s.copyCover (engineCopy s c pd)).pins.length = true ∧ s.combBusy (engineCopy s c pd) = false
/-- It enters the engine: counted in PB, out of RV under PD, one more in counter C; no register and no byte it moves has changed. -/
def EngineRun (i : Instr) (s : State) (c : Copy) (pd : Bool) (p : State → Copy → Prop) : Prop :=
  ∃ t c2, exec i s = .next t ∧ AllRegs s t ∧ t.copies = s.copies ++ [c2] ∧ p t c2 ∧
    t.curTeam.mem = s.curTeam.mem ∧ t.curJob.comb = s.curJob.comb ∧ t.curGroup.cnt.c = s.curGroup.cnt.c + 1 ∧
    t.curTeam.bar c.bar.toNat = { s.curTeam.bar c.bar.toNat with
      pb := (s.curTeam.bar c.bar.toNat).pb + BitVec.ofNat 64 (c.rows * c.len),
      rv := (s.curTeam.bar c.bar.toNat).rv - (if pd then BitVec.ofNat 64 (c.rows * c.len) else 0) }
/-- A copy of at least one byte enters the engine; one of none is complete at once. -/
def CopyRun (i : Instr) (s : State) (c : Copy) (pd : Bool) : Prop :=
  (c.rows * c.len ≠ 0 → CopyOk s c pd → CopyFree s c pd → s.combBlocked (engineCopy s c pd) = none →
    EngineRun i s c pd (fun t c2 => Continues s t ∧ Accounted s t s.cur.lanes ∧ c2 = { engineCopy s c pd with wants := c2.wants })) ∧
  (c.rows * c.len = 0 → copyAlign (engineCopy s c pd) = none → (s.curTeam.bar c.bar.toNat).ec ≠ 0 → s.curGroup.pathFull .c = false →
    ∃ t, exec i s = .next t ∧ OwnGroupOnly s t ∧ Continues s t ∧ Accounted s t s.cur.lanes ∧ AllRegs s t)
/-- The words of a descriptor: source, destination, length, control (R258). -/
def Descriptor (g : Group) (a : BitVec 7) (c : Copy) : Prop :=
  c.src = g.sget a.toNat ∧ c.dst = g.sget (a.toNat + 1) ∧ c.len = (g.sget (a.toNat + 2)).toNat ∧
  c.ss = spaceOf ((g.sget (a.toNat + 3)).toNat % 4) ∧ c.ds = spaceOf ((g.sget (a.toNat + 3)).toNat / 4 % 4)
/-- A barrier once checked: a complete phase flips. -/
def checked (b : Barrier) : Barrier := if b.ac = b.ec ∧ b.pb = 0 ∧ b.rv = 0 then { b with ph := !b.ph, ac := 0 } else b
/-- Lanes of the issue state wait in BW until what they wait for happens. -/
def BwRun (i : Instr) (s : State) (b : BwKind) : Prop :=
  LanesThen i s s.cur.lanes (fun u => u.curGroup = { s.curGroup with lanes := u.curGroup.lanes } ∧
    ∀ l, l < s.curGroup.lanes.length → u.curGroup.lane l =
      branched s s.cur.lanes (fun _ x => { x with st := .bw, bw := b, nxt := s.nextPc }) l)
/-- Four scalars from sd. -/
def fourFrom (s : State) (d : Nat) (x : Nat → DWord) (n : Nat) : DWord :=
  if n ≠ 0 ∧ d ≤ n ∧ n < d + 4 then x (n - d) else s.curGroup.sget n

end Sys2Proof.Says

section

open Sys2Proof Sys2Proof.Machine Sys2Proof.Says

/-! ## Copies and barriers -/

/-- BCOPY, BCOPY2D and BAPND read their descriptor, and enter the engine with their bytes counted on their barrier, or complete at once
where a copy names no byte; the group of a BAPND waits for its reservation; a malformed control word or length traps (R102, R258 to
R261). -/
def Obligations.CopiesBegin : Prop :=
  (∀ s d a, ∃ c, Descriptor s.curGroup a c ∧ c.kind = .bcopy ∧ c.bar = d ∧ c.rows = 1 ∧
    if ctlOk (s.curGroup.sget (a.toNat + 3)) = false ∨ 2 ^ 40 ≤ c.len then Traps (.bcopy d a) s (fun t => t.cause = 2)
    else CopyRun (.bcopy d a) s c (descPd s.curGroup a)) ∧
  (∀ s d a b, ∃ c, Descriptor s.curGroup a c ∧ c.kind = .bcopy2d ∧ c.bar = d ∧
    c.rows = (if s.curGroup.sget b.toNat = 0 then 2 ^ 32 else (s.curGroup.sget b.toNat).toNat) ∧
    c.sstr = (s.curGroup.sget (b.toNat + 1)).toNat % 2 ^ 32 ∧ c.dstr = (s.curGroup.sget (b.toNat + 1)).toNat / 2 ^ 32 ∧
    if ctlOk (s.curGroup.sget (a.toNat + 3)) = false ∨ 2 ^ 40 ≤ c.len ∨ 2 ^ 32 ≤ (s.curGroup.sget b.toNat).toNat ∨ 2 ^ 64 ≤ c.rows * c.len then
      Traps (.bcopy2d d a b) s (fun t => t.cause = 2)
    else CopyRun (.bcopy2d d a b) s c (descPd s.curGroup a)) ∧
  ∀ s d a b, ∃ c, Descriptor s.curGroup a c ∧ c.kind = .bapnd ∧ c.bar = d ∧ c.rows = 1 ∧
    if ctlOk (s.curGroup.sget (a.toNat + 3)) = false ∨ c.ds ≠ .global ∨ 2 ^ 22 ≤ c.len then Traps (.bapnd d a b) s (fun t => t.cause = 2)
    else ∀ x, CopyOk s c (descPd s.curGroup a) → CopyFree s c (descPd s.curGroup a) →
      ((s.copyCover (engineCopy s c (descPd s.curGroup a))).pins.find? (fun p => p.2.2.2.1 == .bapnd)).map (fun p => p.2.2.2.2) = some x →
      (s.recordAt x.pa).isSome = true → s.ridRoom (myDie s) 1 = true →
      EngineRun (.bapnd d a b) s c (descPd s.curGroup a) (fun t c2 => t.curGroup.lanes = s.curGroup.lanes ∧ t.curGroup.wait = .hop c2.id ∧
        ∃ h, t.hops = s.hops ++ [h] ∧ c2 = { engineCopy s c (descPd s.curGroup a) with hop := some h.id } ∧ h.op = 0x20 ∧ h.len = c.len ∧ h.st = b ∧ h.copy = some c2.id)

/-- A BCOPY or BCOPY2D moves line by line or word by word: what it can read of its source it takes, no byte changing; once it has the bytes of a
line or word of its destination they stand there, and nothing else of any scratchpad or cached line changes (R94, R98, R259). -/
def Obligations.CopyMoves : Prop :=
  (∀ s i c a b n bs pz, s.copies[i]? = some c → c.stopped = false → c.kind = .bcopy ∨ c.kind = .bcopy2d → s.copyNext c = (a, b, n) →
    c.buf.length < n → let x := a + c.buf.length
    let m := min (n - c.buf.length) (s.unitRoom c c.ss x)
    s.copyWaits c c.ss x m = false → s.copyRead c c.ss x m = some (bs, pz) →
    ∃ t c2, exec (.copyLinePerformed i) s = .next t ∧ c2 ∈ t.copies ∧ c2.id = c.id ∧ c2.buf = c.buf ++ bs ∧ c2.bufPz = (c.bufPz || pz) ∧
      t.mem = s.mem ∧ (∀ d la, (t.l2line d la).data = (s.l2line d la).data) ∧ t.teams = s.teams ∧ t.jobs = s.jobs) ∧
  ∀ s i c a b n u, s.copies[i]? = some c → c.stopped = false → c.kind = .bcopy ∨ c.kind = .bcopy2d → s.copyNext c = (a, b, n) →
    n ≤ c.buf.length → s.copyWaits c c.ds b n = false → s.copyWrite c c.ds b c.buf c.bufPz = some u →
    ∃ t, exec (.copyLinePerformed i) s = .next t ∧ t.mem = s.mem ∧ t.l2 = u.l2 ∧
      (∀ tk, (t.team tk).mem = (u.team tk).mem) ∧ ∀ j, (t.job j).comb = (u.job j).comb

/-- BCHK asks for its segments and the group waits for their registration; BCHKIN takes segments in S and O out of the comb; both refuse a
malformed word or an uninitialised barrier (R34, R35, R262). -/
def Obligations.CombChecks : Prop :=
  (∀ s d a b, 2 ^ 23 ≤ (s.curGroup.sget b.toNat).toNat ∨ (s.curTeam.bar d.toNat).ec = 0 → Traps (.bchk d a b) s (fun t => t.cause = 2)) ∧
  (∀ s d a b, let x := s.curGroup.sget b.toNat
    let va := (s.curGroup.sget a.toNat).toNat
    let cov := s.coverRange s.curGroup.job s.curGroup.place.die (if segMx x then .bchkEx else .bchk) 4098 va (va + 4096 * segCnt x) Cover.start
    x.toNat < 2 ^ 23 → (s.curTeam.bar d.toNat).ec ≠ 0 → va % 4096 = 0 → segWs x + segCnt x ≤ s.curJob.jd.nw →
    (∀ i, i < segCnt x → (s.curJob.tag_ (segWs x + i)).st = 0) → cov.fault = none → s.copyReady = true →
    s.pinRoom s.curGroup.place.die cov.pins.length = true →
    ∃ t c, exec (.bchk d a b) s = .next t ∧ AllRegs s t ∧ t.curGroup.lanes = s.curGroup.lanes ∧ t.copies = s.copies ++ [c] ∧
      t.curGroup.wait = .hop c.id ∧ c.kind = .bchk ∧ c.ws = segWs x ∧ c.cnt = segCnt x ∧ c.excl = segMx x ∧ c.src.toNat = va ∧
      t.curGroup.cnt.c = s.curGroup.cnt.c + 1 ∧ t.curJob.tags = s.curJob.tags) ∧
  (∀ s d b, 2 ^ 23 ≤ (s.curGroup.sget b.toNat).toNat ∨ segMx (s.curGroup.sget b.toNat) = true ∨ (s.curTeam.bar d.toNat).ec = 0 →
    Traps (.bchkin d b) s (fun t => t.cause = 2)) ∧
  ∀ s d b, let x := s.curGroup.sget b.toNat
    let out := ((List.range (segCnt x)).map (fun i => segWs x + i)).filter (fun i => (s.curJob.tag_ i).st == 2)
    let cov := out.foldl (fun c i => s.coverRange s.curGroup.job s.curGroup.place.die .copyDst 2 ((s.curJob.tag_ i).gva.toNat * 4096)
      ((s.curJob.tag_ i).gva.toNat * 4096 + 4096) c) Cover.start
    x.toNat < 2 ^ 23 → segMx x = false → (s.curTeam.bar d.toNat).ec ≠ 0 → segWs x + segCnt x ≤ s.curJob.jd.nw →
    (∀ i, i < segCnt x → (s.curJob.tag_ (segWs x + i)).st ≠ 3) → cov.fault = none → s.copyReady = true →
    s.pinRoom s.curGroup.place.die cov.pins.length = true → s.rangeWait = [] →
    ∃ t, exec (.bchkin d b) s = .next t ∧ AllRegs s t ∧ ∀ i, t.curJob.tag_ i =
      if segWs x ≤ i ∧ i < segWs x + segCnt x then
        (if (s.curJob.tag_ i).st = 1 then SegTag.idle
         else if (s.curJob.tag_ i).st = 2 then { s.curJob.tag_ i with st := 3, td := true } else s.curJob.tag_ i)
      else s.curJob.tag_ i

/-- BARINIT, BAREXP, BARARR, BARWAIT, BARTRY, TBAR and CBAR: the barrier's new word, checked, the phase read, the lanes that wait; a barrier
that is not initialised, or a zero count, is ILLEGAL_OPERAND (R100, R263 to R265). -/
def Obligations.Barriers : Prop :=
  (∀ s d a, (s.curGroup.sget a.toNat).toNat % 2 ^ 16 ≠ 0 → s.barWaited s.curGroup.tk d.toNat = false → s.barCounted s.curGroup.tk d.toNat = false →
    TeamRun (.barinit d a) s s.cur.lanes (fun t => t.mem = s.curTeam.mem ∧ ∀ n, t.bar n = if n = d.toNat then
      { Barrier.zero with ec := (s.curGroup.sget a.toNat).setWidth 16 } else s.curTeam.bar n)) ∧
  (∀ s d a, let b := s.curTeam.bar d.toNat
    let x := s.curGroup.sget a.toNat
    b.ec ≠ 0 → b.rv.toNat + x.toNat < 2 ^ 64 → ∃ t, exec (.barexp d a) s = .next t ∧ Accounted s t s.cur.lanes ∧ AllRegs s t ∧ t.mem = s.mem ∧
      ∀ n, t.curTeam.bar n = if n = d.toNat then checked { b with rv := b.rv + x } else s.curTeam.bar n) ∧
  (∀ s d a, let b := s.curTeam.bar a.toNat
    b.ec ≠ 0 → s.curGroup.quiet = true → b.ac ≠ b.ec → ∃ t, exec (.bararr d a) s = .next t ∧ Accounted s t s.cur.lanes ∧
      t.mem = s.mem ∧ t.curGroup.v = s.curGroup.v ∧ t.curGroup.p = s.curGroup.p ∧
      (∀ n, t.curGroup.sget n = withScalar s d.toNat (if b.ph then 1 else 0) n) ∧
      ∀ n, t.curTeam.bar n = if n = a.toNat then checked { b with ac := b.ac + 1 } else s.curTeam.bar n) ∧
  (∀ s a b, (s.curTeam.bar a.toNat).ec ≠ 0 → (s.curTeam.bar a.toNat).ph = (s.curGroup.sget b.toNat).getLsbD 0 →
    BwRun (.barwait a b) s (.bar a)) ∧
  (∀ s a b, (s.curTeam.bar a.toNat).ec ≠ 0 → (s.curTeam.bar a.toNat).ph ≠ (s.curGroup.sget b.toNat).getLsbD 0 →
    LanesRun (.barwait a b) s s.cur.lanes (branched s 0 (fun _ x => x))) ∧
  (∀ s d a b, (s.curTeam.bar a.toNat).ec ≠ 0 → ScalarRun (.bartry d a b) s d
    (if (s.curTeam.bar a.toNat).ph = (s.curGroup.sget b.toNat).getLsbD 0 then 0 else 1)) ∧
  (∀ s, s.curGroup.quiet = true → BwRun .tbar s .team) ∧
  (∀ s, s.curGroup.quiet = true → BwRun .cbar s .cluster) ∧
  (∀ s d a b, (s.curTeam.bar a.toNat).ec = 0 → Traps (.barwait a b) s (fun t => t.cause = 2) ∧ Traps (.bartry d a b) s (fun t => t.cause = 2) ∧
    Traps (.bararr d a) s (fun t => t.cause = 2)) ∧
  ∀ s d a, (s.curGroup.sget a.toNat).toNat % 2 ^ 16 = 0 → Traps (.barinit d a) s (fun t => t.cause = 2)

/-- TILEGET takes the next tile of the job's sluice and its coordinates, or all ones when none is left, and counts; TILESTAT takes
nothing (R127, R266). -/
def Obligations.Sluice : Prop :=
  (∀ s d, let n := s.curJob.next
    let w := s.curJob.jd.xe.toNat + 1
    let h := s.curJob.jd.ye.toNat + 1
    n < w * h * (s.curJob.jd.ze.toNat + 1) → ∃ t, exec (.tileget d) s = .next t ∧ Continues s t ∧ t.mem = s.mem ∧
      t.curJob = { s.curJob with next := n + 1 } ∧ t.curGroup.hand = some (BitVec.ofNat 48 n) ∧
      getD 0 t.curGroup.perf 11 = getD 0 s.curGroup.perf 11 + 1 ∧ t.curGroup.v = s.curGroup.v ∧
      ∀ k, t.curGroup.sget k = fourFrom s d.toNat (fun j => BitVec.ofNat 64
        (if j = 0 then n else if j = 1 then n % w else if j = 2 then n / w % h else n / (w * h))) k) ∧
  (∀ s d, s.curJob.jd.nTiles ≤ s.curJob.next → ∃ t, exec (.tileget d) s = .next t ∧ OwnGroupOnly s t ∧ Continues s t ∧
    t.curGroup.hand = none ∧ getD 0 t.curGroup.perf 11 = getD 0 s.curGroup.perf 11 + 1 ∧ t.curGroup.v = s.curGroup.v ∧
    ∀ k, t.curGroup.sget k = fourFrom s d.toNat (fun j => if j = 0 then BitVec.allOnes 64 else 0) k) ∧
  ∀ s d, ScalarStep (.tilestat d) s s.cur.lanes (fun n =>
    if n = d.toNat + 1 then BitVec.ofNat 64 s.curJob.jd.nTiles else withScalar s d.toNat (BitVec.ofNat 64 s.curJob.next) n)

end

namespace Sys2Proof.Says

open Sys2Proof.Machine

/-- It reads time: a value is written to a scalar, time has passed, nothing else changes but the PC and the issue's counts. -/
def TimeRun (i : Instr) (s : State) (d : BitVec 7) (p : State → DWord → Prop) : Prop :=
  ∃ t v, exec i s = .next t ∧ Continues s t ∧ Accounted s t s.cur.lanes ∧ t.mem = s.mem ∧ t.l2 = s.l2 ∧ t.teams = s.teams ∧
    t.curGroup.v = s.curGroup.v ∧ t.curGroup.p = s.curGroup.p ∧ t.curGroup.fmode = s.curGroup.fmode ∧
    (∀ n, t.curGroup.sget n = withScalar s d.toNat v n) ∧ p t v
/-- The job's timer was read: the device timer has not gone back. -/
def TimerRead (s t : State) (v : DWord) : Prop :=
  s.timer.toNat ≤ t.timer.toNat ∧ v = t.timer + s.curJob.toff ∧ t.curJob.tlast = v ∧ t.curGroup.ccnt = s.curGroup.ccnt
/-- The group's cycle count was read: it has not gone back. -/
def CcntRead (s t : State) (v : DWord) : Prop := s.curGroup.ccnt.toNat ≤ v.toNat ∧ t.curGroup.ccnt = v ∧ t.timer = s.timer
/-- It completes and changes of its own group one special register, which `f` gives. -/
def CsrRun (i : Instr) (s : State) (f : Group → Group) : Prop :=
  ∃ t, exec i s = .next t ∧ Done s t s.cur.lanes ∧ t.curGroup = { f s.curGroup with
    lanes := t.curGroup.lanes, perf := t.curGroup.perf, sk := t.curGroup.sk, sc := t.curGroup.sc, skip := t.curGroup.skip, stepPend := t.curGroup.stepPend }
/-- XM was written: each lane's status follows its bit, and XM keeps the bits of lanes that have not ended. -/
def XmWritten (s u : State) (x : DWord) : Prop :=
  (∀ l, l < s.curGroup.lanes.length → (u.curGroup.lane l).st = xmStatus (x.getLsbD l) (s.curGroup.lane l).st) ∧
  ∀ l, l < 64 → u.curGroup.xm.getLsbD l = (x.getLsbD l && decide (l < s.curGroup.width) &&
    decide (l < s.curGroup.lanes.length) && (s.curGroup.lane l).st != .ex)
/-- The lanes of the issue state sleep until the timer's value plus a number of ticks, at most all ones. -/
def SleepRun (i : Instr) (s : State) (ticks : DWord) : Prop :=
  (ticks = 0 → LanesRun i s s.cur.lanes (branched s 0 (fun _ x => x))) ∧
  (ticks ≠ 0 → ∃ u : State, exec i s = .next (s.retire s.cur.lanes (u.afterLanes s.cur.grp)) ∧ u.mem = s.mem ∧ s.timer.toNat ≤ u.timer.toNat ∧
    u.curGroup = { s.curGroup with lanes := u.curGroup.lanes } ∧
    ∀ l, l < s.curGroup.lanes.length → u.curGroup.lane l = branched s s.cur.lanes (fun _ x => { x with
      st := .sl, nxt := s.nextPc,
      wake := BitVec.ofNat 64 (min (2 ^ 64 - 1) ((u.timer + s.curJob.toff).toNat + ticks.toNat)) }) l)
/-- The registers that a trap writes (R271). -/
def Recorded (fi : FaultInfo) (g : Group) (lanes : DWord) (pc : VAddr) (len : Nat) (t : Trap) : Prop :=
  fi.cause = BitVec.ofNat 64 t.cause ∧ fi.pc = pc.setWidth 64 ∧ fi.addr = t.addr ∧ fi.lm = lanes ∧
  fi.info.extractLsb' 48 16 = BitVec.ofNat 16 t.code ∧ fi.info.extractLsb' 43 5 = BitVec.ofNat 5 t.fl ∧
  fi.info.extractLsb' 39 4 = BitVec.ofNat 4 t.rsn ∧ fi.info.extractLsb' 36 3 = BitVec.ofNat 3 t.at_ ∧
  fi.info.extractLsb' 32 4 = BitVec.ofNat 4 (t.len.getD len) ∧ fi.info.extractLsb' 26 6 = BitVec.ofNat 6 t.lane ∧
  fi.info.getLsbD 25 = t.ap ∧ fi.info.extractLsb' 0 25 = 0 ∧
  ∀ l, lanes.getLsbD l = true → (∀ k, k < l → lanes.getLsbD k = false) →
    fi.cc.extractLsb' 0 32 = (g.lane l).cc ∧ fi.cc.extractLsb' 32 8 = (g.lane l).depth ∧ fi.cc.extractLsb' 40 24 = 0

end Sys2Proof.Says

section

open Sys2Proof Sys2Proof.Machine Sys2Proof.Says

/-! ## Traps and system instructions -/

/-- TRAP raises TRAP_INSN with its immediate as CODE and LEN 8, DBGBRK raises BREAKPOINT with CODE 0 and LEN 8, each precise at itself;
the trap entry is all that happens (R275, R289). -/
def Obligations.TrapInstructions : Prop :=
  (∀ s code, exec (.trap code) s = .next (s.trapCur { Trap.of 0x22 with code := code.toNat, len := some 8 })) ∧
  ∀ s, exec .dbgbrk s = .next (s.trapCur { Trap.of 0x20 with code := 0, len := some 8 })

/-- Taking a trap. With a handler and TM = 0: the fault information registers describe it, TM is set, the trapping lanes stand at TRAPV,
every other register, group and byte stays. With TM = 1: the job stops and the registers keep the first trap. With TRAPV = 0: the job
stops and the registers describe the trap. A BREAKPOINT or STEP under a debugger stops the job with TM left 0. The trap of the instruction
being executed is that entry, its issue counted as any other (R271 to R273, R290 to R292).
TRET returns the RUN and JW lanes of FILM to FIPC with the depth and CC of the trap, clears TM and sets SK; without a trap to return
from, or with a lane of FILM asleep or at a barrier, it is ILLEGAL_OPERAND. DBGSTEP sets the step count (R274, R290). -/
def Obligations.TrapEntryAndReturn : Prop :=
  ((∀ (s : State) t, ¬(s.curJob.da = true ∧ (t.cause = 0x20 ∨ t.cause = 0x21)) →
    s.trapCur t = s.retire s.cur.act (s.takeTrap s.cur.grp s.cur.lanes s.cur.pc s.cur.len t) ∧ Accounted s (s.trapCur t) s.cur.act) ∧
  ∀ (s : State) k lanes pc len t, let g := s.group k
    let u := s.takeTrap k lanes pc len t
    let stopped := (u.job g.job).st = .stopping ∧ (u.job g.job).held = true ∧ (u.group k).v = g.v ∧ (u.group k).s = g.s ∧
      (u.group k).tm = g.tm
    let debug := (s.job g.job).da = true ∧ (t.cause = 0x20 ∨ t.cause = 0x21)
    u.mem = s.mem ∧ u.l2 = s.l2 ∧ (∀ j, j ≠ k → u.group j = s.group j) ∧
    (debug → stopped ∧ Recorded (u.group k).fi g lanes pc len t) ∧
    (¬debug → g.tm = true → stopped ∧ (u.group k).fi = g.fi) ∧
    (¬debug → g.tm = false → (s.job g.job).jd.trapv = 0 → stopped ∧ Recorded (u.group k).fi g lanes pc len t) ∧
    (¬debug → g.tm = false → (s.job g.job).jd.trapv ≠ 0 →
      u = { s with groups := u.groups } ∧ Recorded (u.group k).fi g lanes pc len t ∧ (u.group k).tm = true ∧
      u.group k = { g with fi := (u.group k).fi, tm := true, lanes := (u.group k).lanes } ∧
      ∀ l, l < g.lanes.length → (u.group k).lane l =
        if lanes.getLsbD l = true then { g.lane l with pc := (s.job g.job).jd.trapv } else g.lane l)) ∧
  ((∀ s, s.curGroup.tm = true → s.curGroup.tretBlocked = false →
    ∃ u : State, exec .tret s = .next (s.retire s.cur.lanes (u.afterLanes s.cur.grp)).setSk ∧ OwnGroupOnly s u ∧
      u.curGroup = { s.curGroup with tm := false, lanes := u.curGroup.lanes } ∧
      ∀ l, l < s.curGroup.lanes.length → u.curGroup.lane l =
        if s.curGroup.fi.lm.getLsbD l = true ∧ ((s.curGroup.lane l).st = .run ∨ (s.curGroup.lane l).st = .jw) then
          { s.curGroup.lane l with
            pc := s.curGroup.fi.pc.setWidth 57, cc := s.curGroup.fi.cc.extractLsb' 0 32, depth := s.curGroup.fi.cc.extractLsb' 32 8,
            st := .run, jr := 0, nxt := 0 }
        else s.curGroup.lane l) ∧
  (∀ s, s.curGroup.tm = false ∨ s.curGroup.tretBlocked = true → Traps .tret s (fun t => t.cause = 2)) ∧
  ∀ s a, ∃ t, exec (.dbgstep a) s = .next t ∧ OwnGroupOnly s t ∧ Continues s t ∧ t.curGroup.sc = (s.curGroup.sget a.toNat).setWidth 16 ∧
    t.curGroup.s = s.curGroup.s ∧ t.curGroup.v = s.curGroup.v ∧ t.curGroup.fi = s.curGroup.fi ∧ t.curGroup.tm = s.curGroup.tm)

/-- CSRRD reads every special register by its number and traps ILLEGAL_OPERAND for any other; CSRWR writes FMODE with its reserved bits
zero, XM as XMWR does, and FIPC while TM = 1, and traps for every other number (R276 to R278). -/
def Obligations.SpecialRegisters : Prop :=
  (∀ s d, ScalarRun (.csrrd d 0x000) s d (s.curGroup.fmode.setWidth 64)) ∧
  (∀ s d, ∃ m : DWord, (∀ l, l < 64 → m.getLsbD l = (s.curGroup.xm.getLsbD l && decide (l < s.curGroup.width))) ∧
    ScalarRun (.csrrd d 0x001) s d m) ∧
  (∀ s d, TimeRun (.csrrd d 0x002) s d (CcntRead s)) ∧
  (∀ s d, ScalarRun (.csrrd d 0x003) s d (BitVec.ofNat 64 (s.curGroup.team * s.curJob.jd.gpt + s.curGroup.q))) ∧
  (∀ s d, ScalarRun (.csrrd d 0x004) s d (BitVec.ofNat 64 s.curGroup.team)) ∧
  (∀ s d, ScalarRun (.csrrd d 0x005) s d
    (BitVec.ofNat 64 (if s.curJob.jd.pr then 2 * s.curGroup.team + s.curGroup.q % 2 else s.curGroup.team))) ∧
  (∀ s d, ScalarRun (.csrrd d 0x006) s d (BitVec.ofNat 64 s.curGroup.job)) ∧
  (∀ s d, ScalarRun (.csrrd d 0x007) s d s.curJob.jd.seed) ∧
  (∀ s d, ScalarRun (.csrrd d 0x008) s d (s.curGroup.draw.setWidth 64)) ∧
  (∀ s d, ScalarRun (.csrrd d 0x009) s d (BitVec.ofNat 64 (s.curJob.clusters.length * s.curJob.jd.cs))) ∧
  (∀ s d, ScalarRun (.csrrd d 0x00A) s d (BitVec.ofNat 64 s.curGroup.width)) ∧
  (∀ s d, ScalarRun (.csrrd d 0x00B) s d ((if s.curGroup.sk then 2 else 0) + if s.curGroup.tm then 1 else 0)) ∧
  (∀ s d, ScalarRun (.csrrd d 0x010) s d s.curGroup.fi.cause) ∧
  (∀ s d, ScalarRun (.csrrd d 0x011) s d s.curGroup.fi.pc) ∧
  (∀ s d, ScalarRun (.csrrd d 0x012) s d s.curGroup.fi.info) ∧
  (∀ s d, ScalarRun (.csrrd d 0x013) s d s.curGroup.fi.addr) ∧
  (∀ s d, ScalarRun (.csrrd d 0x014) s d s.curGroup.fi.lm) ∧
  (∀ s d, ScalarRun (.csrrd d 0x015) s d s.curGroup.fi.cc) ∧
  (∀ s d, ScalarRun (.csrrd d 0x018) s d (s.curGroup.sc.setWidth 64)) ∧
  (∀ s d (i : Nat), i < 8 → ScalarRun (.csrrd d (BitVec.ofNat 16 (0x20 + i))) s d (getD 0 s.curJob.bpm i)) ∧
  (∀ s d, ScalarRun (.csrrd d 0x028) s d s.curJob.dbgctl) ∧
  (∀ s d, TimeRun (.csrrd d 0x030) s d (TimerRead s)) ∧
  (∀ s d n, n ∉ ([0x000, 0x001, 0x002, 0x003, 0x004, 0x005, 0x006, 0x007, 0x008, 0x009, 0x00A, 0x00B, 0x010, 0x011, 0x012, 0x013, 0x014,
    0x015, 0x018, 0x020, 0x021, 0x022, 0x023, 0x024, 0x025, 0x026, 0x027, 0x028, 0x030] : List (BitVec 16)) →
    Traps (.csrrd d n) s (fun t => t.cause = 2)) ∧
  (∀ s a, CsrRun (.csrwr 0x000 a) s (fun g => { g with fmode := (s.curGroup.sget a.toNat).setWidth 32 &&& 0x1FFFF })) ∧
  (∀ s a, LanesThen (.csrwr 0x001 a) s s.cur.lanes (fun u => XmWritten s u (s.curGroup.sget a.toNat))) ∧
  (∀ s a, s.curGroup.tm = true → CsrRun (.csrwr 0x011 a) s (fun g => { g with
    fi := { g.fi with pc := ((s.curGroup.sget a.toNat).extractLsb' 2 55 ++ (0 : BitVec 2)).setWidth 64 } })) ∧
  ∀ s n a, n ≠ 0x000 → n ≠ 0x001 → n ≠ 0x011 ∨ s.curGroup.tm = false → Traps (.csrwr n a) s (fun t => t.cause = 2)

/-- CLOCK reads the job's timer and CLOCK.C the group's cycle count, neither of which goes back; SLEEP puts the lanes of the issue state to
sleep for a number of ticks, and they wake at their next instruction once the timer has reached their time (R279, R280). How much time
passes before a read is the model's free value (log 4).
EVSIG adds an event to the job's buffer or waits for room; CKOPEN opens an interval, CKCLOSE asks for its close, CKCOST and PERFRD read;
the oldest access of a path, once complete, lowers its counter (R93, R281 to R284, R286, R292). -/
def Obligations.TimeSleepEvents : Prop :=
  ((∀ s d, TimeRun (.clock d) s d (TimerRead s)) ∧
  (∀ s d, TimeRun (.clockC d) s d (CcntRead s)) ∧
  (∀ s a, SleepRun (.sleep a) s (s.curGroup.sget a.toNat)) ∧
  (∀ s i, SleepRun (.sleepImm i) s (immOf false i)) ∧
  ∀ s k w, (s.group k).firstWake = some w → s.resident k = true →
    ∃ u : State, exec (.sleepWake k) s = .next (u.afterLanes k) ∧ u.mem = s.mem ∧
      (u.group k) = { s.group k with lanes := (u.group k).lanes } ∧
      ∀ l, l < (s.group k).lanes.length → (u.group k).lane l =
        if ((s.group k).lane l).st = .sl ∧ ((s.group k).lane l).wake.toNat ≤ (u.timer + (s.job (s.group k).job).toff).toNat then
          { (s.group k).lane l with st := .run, pc := ((s.group k).lane l).nxt, nxt := 0, wake := 0 }
        else (s.group k).lane l) ∧
  ((∀ s a b, s.curGroup.quiet = true → s.curJob.evbuf.length < 64 → ∃ t, exec (.evsig a b) s = .next t ∧ Continues s t ∧
    Accounted s t s.cur.lanes ∧ AllRegs s t ∧ t.mem = s.mem ∧ t.curJob = { s.curJob with evbuf := s.curJob.evbuf ++
      [((s.curGroup.sget a.toNat).setWidth 32, s.curGroup.sget b.toNat, s.curGroup.team, s.groupId s.curGroup)] }) ∧
  (∀ s a b, s.curGroup.quiet = false ∨ 64 ≤ s.curJob.evbuf.length → exec (.evsig a b) s = .next s.holdCur) ∧
  (∀ s d, s.curJob.jd.ckp = 0 → Traps (.ckopen d) s (fun t => t.cause = 2)) ∧
  (∀ s d, s.curJob.jd.ckp ≠ 0 → s.curJob.close = none → ∃ t, exec (.ckopen d) s = .next t ∧ Continues s t ∧ Accounted s t s.cur.lanes ∧
    t.mem = s.mem ∧ t.curJob.opn = true ∧ t.curJob.iv = (if s.curJob.opn then s.curJob.iv else s.curJob.iv + 1) ∧
    ∀ n, t.curGroup.sget n = withScalar s d.toNat (t.curJob.iv.setWidth 64) n) ∧
  (∀ s d a, s.curJob.jd.ckp = 0 ∨ 2 ≤ (s.curGroup.sget a.toNat).toNat → Traps (.ckclose d a) s (fun t => t.cause = 2)) ∧
  (∀ s d a, s.curJob.jd.ckp ≠ 0 → (s.curGroup.sget a.toNat).toNat < 2 → s.curJob.opn = false → ScalarRun (.ckclose d a) s d 0) ∧
  (∀ s d a, s.curJob.jd.ckp ≠ 0 → (s.curGroup.sget a.toNat).toNat < 2 → s.curJob.opn = true →
    ∃ t c, exec (.ckclose d a) s = .next t ∧ AllRegs s t ∧ t.mem = s.mem ∧ t.curGroup.wait = .close ∧ t.curJob.close = some c ∧
      { grp := s.cur.grp, d := d, lanes := s.cur.lanes, pc := s.cur.pc, len := s.cur.len } ∈ c.joined ∧
      ((s.curGroup.sget a.toNat).getLsbD 0 = true → c.stop = true)) ∧
  (∀ s d, ScalarStep (.ckcost d) s s.cur.lanes (fun n =>
    if n = d.toNat + 1 then BitVec.ofNat 64 (s.costAc s.curGroup.job) else withScalar s d.toNat (BitVec.ofNat 64 (s.costBytes s.curGroup.job)) n)) ∧
  (∀ s d a, 11 < (s.curGroup.sget a.toNat).toNat → Traps (.perfrd d a) s (fun t => t.cause = 2)) ∧
  (∀ s d a, s.perfReady (s.curGroup.sget a.toNat).toNat = false → exec (.perfrd d a) s = .next s.holdCur) ∧
  (∀ s d a, (s.curGroup.sget a.toNat).toNat ∈ [0, 1, 7, 8, 10, 11] → s.perfReady (s.curGroup.sget a.toNat).toNat = true →
    ScalarRun (.perfrd d a) s d (getD 0 s.curGroup.perf (s.curGroup.sget a.toNat).toNat)) ∧
  (∀ s d a, (s.curGroup.sget a.toNat).toNat ∈ [2, 3, 4, 5, 6, 9] → ∃ t v, exec (.perfrd d a) s = .next t ∧ Continues s t ∧ t.mem = s.mem ∧
    getD 0 t.curGroup.perf (s.curGroup.sget a.toNat).toNat = v ∧ ∀ n, t.curGroup.sget n = withScalar s d.toNat v n) ∧
  ∀ s k p f, (s.group k).oldest p = some f → f.done = true → ∃ t, exec (.accessComplete k p) s = .next t ∧ t.mem = s.mem ∧
    ((t.group k).cnt.get p) = (s.group k).cnt.get p - 1 ∧ (t.group k).flights = (s.group k).flights.filter (fun x => x.id != f.id) ∧
    (t.group k).v = (s.group k).v ∧ (t.group k).s = (s.group k).s ∧ (t.group k).p = (s.group k).p)

end

namespace Sys2Proof.Says

open Sys2Proof.Machine

/-- The thread whose turn it is goes on with one register written (x0 ignores it); nothing else of the machine changes. -/
def ThreadRun (i : Instr) (s : State) (rd : BitVec 5) (v : DWord) : Prop :=
  let k := s.turnThread
  ∃ t, exec i s = .next t ∧ t = { s with threads := t.threads, turn := none } ∧ (∀ j, j ≠ k → t.thread j = s.thread j) ∧
    t.thread k = { s.thread k with x := (t.thread k).x, pc := (s.thread k).pc + 4, minstret := (s.thread k).minstret + 1 } ∧
    ∀ r, (t.thread k).xget r = if r = rd.toNat ∧ r ≠ 0 then v else (s.thread k).xget r
/-- A thread changes alone: every other thread and everything else stays. -/
def ThreadOnly (i : Instr) (s : State) (k : Nat) (x : Thread) : Prop :=
  ∃ t, exec i s = .next t ∧ t = { s with threads := t.threads } ∧ (∀ j, j ≠ k → t.thread j = s.thread j) ∧ t.thread k = x
/-- A thread takes an exception: cause, value, saved pc, and no register of it written. -/
def ThreadTraps (i : Instr) (s : State) (k cause : Nat) (v : DWord) : Prop :=
  ∃ t, exec i s = .next t ∧ t = { s with threads := t.threads, turn := none } ∧ (∀ j, j ≠ k → t.thread j = s.thread j) ∧
    (t.thread k).mcause = BitVec.ofNat 64 cause ∧ (t.thread k).mtval = v ∧ (t.thread k).mepc = (s.thread k).pc ∧
    (t.thread k).pc = (s.thread k).mtvec &&& ~~~ 3 ∧ (t.thread k).x = (s.thread k).x
/-- The key slot that a thread's address names, for a line that has one (R331). -/
def slotOf (addr : DWord) : BitVec 6 := if keyed (addr.toNat % 2 ^ 52) then addr.extractLsb' 52 6 else 0
/-- A thread's access is performed: the address is well formed, aligned, and of HBM, the pool or host memory. -/
def ThreadAccess (addr : DWord) (w : Nat) : Prop :=
  addr.toNat < 2 ^ 58 ∧ w ∈ [1, 2, 4, 8] ∧ addr.toNat % 2 ^ 52 % w = 0 ∧
    (regionOf (addr.toNat % 2 ^ 52) = .hbm ∨ regionOf (addr.toNat % 2 ^ 52) = .pool ∨ regionOf (addr.toNat % 2 ^ 52) = .host)

/-- The word of a CSR instruction: CSR number, destination, funct3, source. -/
def csrWord (n rd f3 rs1 : Nat) : Word := BitVec.ofNat 32 (n * 2 ^ 20 + rs1 * 2 ^ 15 + f3 * 2 ^ 12 + rd * 2 ^ 7 + 0x73)
/-- `csrrs rd, n, x0` reads a value into any register (x0 ignores it), and the thread goes on. -/
def CsrReads (s : State) (k n : Nat) (v : DWord) : Prop :=
  ∀ rd, rd < 32 → ∃ t, s.riscv k (csrWord n rd 2 0) = .next t ∧ t = { s with threads := t.threads, turn := none, free := t.free } ∧
    (∀ j, j ≠ k → t.thread j = s.thread j) ∧
    t.thread k = { s.thread k with x := (t.thread k).x, pc := (s.thread k).pc + 4, minstret := (s.thread k).minstret + 1 } ∧
    ∀ r, (t.thread k).xget r = if r = rd ∧ r ≠ 0 then v else (s.thread k).xget r
/-- `csrrw x0, n, rs` changes the thread as `f` says of the value of any register, and the thread goes on. -/
def CsrWrites (s : State) (k n : Nat) (f : Thread → DWord → Thread) : Prop :=
  ∀ rs, rs < 32 → ∃ t, s.riscv k (csrWord n 0 1 rs) = .next t ∧ (∀ j, j ≠ k → t.thread j = s.thread j) ∧
    t.thread k = f { s.thread k with pc := (s.thread k).pc + 4, minstret := (s.thread k).minstret + 1 } ((s.thread k).xget rs)
/-- A word of the base set raises an exception: cause, saved pc, and no register of the thread written. -/
def WordTraps (s : State) (k : Nat) (w : Word) (cause : Nat) : Prop :=
  ∃ t, s.riscv k w = .next t ∧ t = { s with threads := t.threads, turn := none } ∧ (∀ j, j ≠ k → t.thread j = s.thread j) ∧
    (t.thread k).mcause = BitVec.ofNat 64 cause ∧ (t.thread k).mepc = (s.thread k).pc ∧
    (t.thread k).pc = (s.thread k).mtvec &&& ~~~ 3 ∧ (t.thread k).x = (s.thread k).x
/-- A thread may issue: it executes code and is not blocked. -/
def ThreadReady (s : State) (k : Nat) : Prop := (s.thread k).on = true ∧ (s.thread k).blocked = none

end Sys2Proof.Says

section

open Sys2Proof Sys2Proof.Machine Sys2Proof.Says

/-! ## Firmware threads -/

/-- WAITPKT returns at once without a queue, returns the doorbell once it differs or an event is pending, and otherwise blocks its
thread; EVWAKE sets the event of a thread of its core; CRC32C advances a CRC over eight bytes (R332).
Writes of nwdog and nevpend, a watchdog's expiry (fatal for the supervisor), and a register that only holds what was written
(R7, R333, R343).
A thread's load returns the value now at its address under the slot it names, once the home has gathered the line (log 52), its store puts the low bytes of a register there,
and either goes on; an address with nonzero high bits is an access fault; an undefined word is mcause 2 (R331, R332). How the thread
takes an exception, and that a narrow load is extended with zeros, is the model's choice (log 8). -/
def Obligations.Firmware : Prop :=
  (((∀ s rd rs1, (s.thread s.turnThread).queue? = none → ThreadRun (.waitpkt rd rs1) s rd ((s.thread s.turnThread).xget rs1.toNat)) ∧
  (∀ s rd rs1 q, let db : DWord := BitVec.ofNat 64 (s.queue q).db
    (s.thread s.turnThread).queue? = some q →
    (db ≠ (s.thread s.turnThread).xget rs1.toNat ∨ (s.thread s.turnThread).nevpend = true → ThreadRun (.waitpkt rd rs1) s rd db) ∧
    (db = (s.thread s.turnThread).xget rs1.toNat → (s.thread s.turnThread).nevpend = false →
      ∃ t, exec (.waitpkt rd rs1) s = .next t ∧ t = { s with threads := t.threads, turn := none } ∧
        t.thread s.turnThread = { s.thread s.turnThread with blocked := some (rd, db) } ∧ ∀ j, j ≠ s.turnThread → t.thread j = s.thread j)) ∧
  (∀ s rd rs1 rs2, let th := s.thread s.turnThread
    ThreadRun (.crc32c rd rs1 rs2) s rd ((crcBytes ((th.xget rs1.toNat).setWidth 32)
      ((List.range 8).map (fun i => (th.xget rs2.toNat).extractLsb' (8 * i) 8))).setWidth 64)) ∧
  ∀ s rs1, let k := s.turnThread
    let u := k / 32 * 32 + ((s.thread k).xget rs1.toNat).toNat % 32
    ∃ t, exec (.evwake rs1) s = .next t ∧ t = { s with threads := t.threads, turn := none } ∧ (t.thread u).nevpend = true ∧
      ((s.thread u).queue?.isSome = true → (t.thread u).blocked = none) ∧ (∀ j, j ≠ k → j ≠ u → t.thread j = s.thread j) ∧
      (u ≠ k → t.thread k = { s.thread k with pc := (s.thread k).pc + 4, minstret := (s.thread k).minstret + 1 })) ∧
  ((∀ s k v, ThreadOnly (.nwdogWrite k v) s k { s.thread k with nwdog := v &&& 0xFFFFFFFF, wleft := v &&& 0xFFFFFFFF }) ∧
  (∀ s k v, v.getLsbD 0 = false → ThreadOnly (.nevpendWrite k v) s k { s.thread k with nevpend := false }) ∧
  (∀ s k v, v.getLsbD 0 = true → exec (.nevpendWrite k v) s = .next s) ∧
  (∀ s k, (s.thread k).nwdog ≠ 0 → ∃ t, exec (.watchdogExpiry k) s = .next t ∧
    t.thread k = { s.thread k with
      nwdcnt := if (s.thread k).nwdcnt = 0xFFFFFFFF then 0xFFFFFFFF else (s.thread k).nwdcnt + 1, pc := (s.thread k).nentry, blocked := none,
      wleft := (s.thread k).nwdog, on := true } ∧
    (∀ j, j ≠ k → t.thread j = s.thread j) ∧ t.turn ≠ some k ∧
    (k ≠ 0 → t.boot = s.boot ∧ t.mem = s.mem ∧ t.jobs = s.jobs) ∧ (k = 0 → t.boot.fatal = true)) ∧
  ∀ s r u v, u < 256 → ∃ t, exec (.registerWrite r u v) s = .next t ∧ t = { s with boot := { s.boot with ctl := t.boot.ctl } } ∧
    ∀ r2 u2, u2 < 256 → getD 0 t.boot.ctl (ctlKey r2 * 256 + u2) = if r2 = r ∧ u2 = u then v else getD 0 s.boot.ctl (ctlKey r2 * 256 + u2))) ∧
  ((∀ s k addr w reg, let pa := addr.toNat % 2 ^ 52
    ThreadAccess addr w → ∃ t, exec (.nolelavinLoadStore k .load addr w reg) s = .next t ∧
    t = { s.readHome (pa / 128) with threads := t.threads, turn := none } ∧ (t.thread k).pc = (s.thread k).pc + 4 ∧ (∀ j, j ≠ k → t.thread j = s.thread j) ∧
    ∀ r, (t.thread k).xget r = if r = reg.toNat ∧ r ≠ 0 then BitVec.ofNat 64 ((s.readHome (pa / 128)).numNow (slotOf addr) pa w)
      else (s.thread k).xget r) ∧
  (∀ s k addr w reg, let pa := addr.toNat % 2 ^ 52
    ThreadAccess addr w → (s.recall (pa / 128)).liveCopy (pa / 128) = none →
    ∃ t, exec (.nolelavinLoadStore k .store addr w reg) s = .next t ∧ t.turn = none ∧
    t.thread k = { s.thread k with pc := (s.thread k).pc + 4, minstret := (s.thread k).minstret + 1 } ∧ (∀ j, j ≠ k → t.thread j = s.thread j) ∧
    t.numNow (slotOf addr) pa w = ((s.thread k).xget reg.toNat).toNat % 2 ^ (8 * w)) ∧
  (∀ s k addr w reg, 2 ^ 58 ≤ addr.toNat → ThreadTraps (.nolelavinLoadStore k .load addr w reg) s k 5 addr ∧
    ThreadTraps (.nolelavinLoadStore k .store addr w reg) s k 7 addr) ∧
  ∀ s k, ThreadTraps (.nolelavinIllegalInstruction k) s k 2 0)

/-- The CSRs of a Nolelavin thread, as CSR instructions reach them: nthid and mhartid, nqmap, ndbell and nwdcnt read as R331 and R333 say,
writes of nwdog, nevpend and nentry have their effect, and a number of the two ranges outside the table, or a write to a read-only
number, is an illegal instruction, whose exception entry is the model's choice (log 8). A core's next thread is the first ready one
in rotation (R331). -/
def Obligations.NolelavinCsrs : Prop :=
  (∀ s k, CsrReads s k 0xFC0 (BitVec.ofNat 64 k) ∧ CsrReads s k 0xF14 (BitVec.ofNat 64 k) ∧ CsrReads s k 0xFC1 (s.thread k).nqmap ∧
    CsrReads s k 0xFC3 ((s.thread k).nwdcnt.setWidth 64) ∧ CsrReads s k 0x7C0 (s.thread k).nwdog ∧
    CsrReads s k 0x7C1 (if (s.thread k).nevpend then 1 else 0) ∧ CsrReads s k 0x7C2 (s.thread k).nentry) ∧
  (∀ s k q, (s.thread k).queue? = some q → CsrReads s k 0xFC2 (BitVec.ofNat 64 (s.queue q).db)) ∧
  (∀ s k, CsrWrites s k 0x7C0 (fun t v => { t with nwdog := v &&& 0xFFFFFFFF, wleft := v &&& 0xFFFFFFFF }) ∧
    CsrWrites s k 0x7C1 (fun t v => if v.getLsbD 0 then t else { t with nevpend := false }) ∧
    CsrWrites s k 0x7C2 (fun t v => { t with nentry := v &&& ~~~ 1 })) ∧
  (∀ (s : State) k n rd f3 rs1, n < 4096 → rd < 32 → f3 < 8 → f3 ≠ 0 → rs1 < 32 →
    ((0x7C0 ≤ n ∧ n ≤ 0x7FF) ∨ 0xFC0 ≤ n) → n ∉ [0x7C0, 0x7C1, 0x7C2, 0xFC0, 0xFC1, 0xFC2, 0xFC3] → WordTraps s k (csrWord n rd f3 rs1) 2) ∧
  (∀ (s : State) k n rd f3 rs1, n < 4096 → 0xC00 ≤ n → rd < 32 → f3 < 8 → f3 ≠ 0 → rs1 < 32 → (f3 % 4 = 1 ∨ rs1 ≠ 0) →
    WordTraps s k (csrWord n rd f3 rs1) 2) ∧
  ∀ (s : State) core last k, s.nextThread core last = some k → ∃ i, i < 32 ∧ k = core * 32 + (last + 1 + i) % 32 ∧ ThreadReady s k ∧
    ∀ j, j < i → ¬ThreadReady s (core * 32 + (last + 1 + j) % 32)

end

namespace Sys2Proof.Says

open Sys2Proof.Machine

/-- Message `k` is `m`, of a type. -/
def Sent (s : State) (k : Nat) (m : Msg) (ty : Nat) : Prop := s.msgs[k]? = some m ∧ m.ty.toNat = ty
/-- The receiver of a message. -/
def Msg.at (m : Msg) : Nat := m.dst.toNat
/-- An event happens, with what it leaves. -/
def Happens (i : Instr) (s : State) (p : State → Prop) : Prop := ∃ t, exec i s = .next t ∧ p t
/-- A TOK leaves for the sender of a request with `n` tokens, the owner token or not, and data; the answering agent has `n` fewer. -/
def Answers (i : Instr) (s : State) (k : Nat) (m : Msg) (n : Nat) (ow : Bool) : Prop :=
  Happens i s (fun t => ∃ x : Msg, t.msgs = dropAt s.msgs k ++ [x] ∧ x.ty = 3 ∧ x.dst = m.src ∧ x.la = m.la ∧ x.tc = n ∧ x.ow = ow ∧ x.d = true ∧
    (t.holds_ m.dst.toNat m.la).tc + n = (s.holds_ m.dst.toNat m.la).tc ∧ t.mem = s.mem)
/-- A home that must ask nobody: its away table has room for the line, and host permission lets it give tokens out as `own` asks. -/
def MayGive (s : State) (a la : Nat) (own : Bool) : Prop :=
  a = homeOf (la * 128) → s.awayRoom la = true ∧ (if own then s.mayOwn la else s.mayShare la) = true
/-- A message is taken, and but for a sample of the miss nothing else happens. -/
def Dropped (i : Instr) (s : State) (k : Nat) : Prop := Happens i s (fun t => t = { s.takeMsg k with free := t.free, rings := t.rings })
/-- Nothing waits for tokens. -/
def NoneWait (s : State) : Prop := s.pend = [] ∧ s.homeq = [] ∧ s.reqs = [] ∧ s.acts = []
/-- Some entry of a home's table with an index. -/
def Entered (t : State) (home idx : Nat) (p : PEntry → Prop) : Prop := ∃ e : PEntry, e ∈ t.ptab ∧ e.home = home ∧ e.idx = idx ∧ p e
/-- Every entry of a home's table with an index. -/
def Every (t : State) (home idx : Nat) (p : PEntry → Prop) : Prop := ∀ e : PEntry, e ∈ t.ptab → e.home = home → e.idx = idx → p e

end Sys2Proof.Says

section

open Sys2Proof Sys2Proof.Machine Sys2Proof.Says

/-! ## Token coherence -/

/-- GETS, GETX and TOK at an agent that neither copies back a line nor forwards it: an owner answers a read with one token and data,
with the owner token only when it has no other; a write request takes everything held, with data from the owner; tokens that arrive are
added, with their data at an L2, or go on home from an L2 without a free way; H0 asks the host for its copy before it moves tokens kept
for the host (R55, R58, R68; that a GETS makes it ask too is the model's choice, log 60). -/
def Obligations.TokensMove : Prop :=
  (∀ s k m, let a := m.dst.toNat
    Sent s k m 1 → s.frozenAt a m.la = false → s.actFor a m.la = none →
    ((s.holds_ a m.la).ow = false → Dropped (.gets k) s k) ∧
    ((s.holds_ a m.la).ow = true → 2 ≤ (s.holds_ a m.la).tc → MayGive s a m.la false → Answers (.gets k) s k m 1 false) ∧
    ((s.holds_ a m.la).ow = true → (s.holds_ a m.la).tc = 1 → MayGive s a m.la true → Answers (.gets k) s k m 1 true)) ∧
  (∀ s k m, let a := m.dst.toNat
    Sent s k m 2 → s.frozenAt a m.la = false → s.actFor a m.la = none → MayGive s a m.la true →
    ((s.holds_ a m.la).tc = 0 → Dropped (.getx k) s k) ∧
    ((s.holds_ a m.la).tc ≠ 0 → Happens (.getx k) s (fun t => ∃ x : Msg, t.msgs = dropAt s.msgs k ++ [x] ∧ x.ty = 3 ∧ x.dst = m.src ∧
      x.la = m.la ∧ x.tc = (s.holds_ a m.la).tc ∧ x.ow = (s.holds_ a m.la).ow ∧ x.d = (s.holds_ a m.la).ow ∧ (t.holds_ a m.la).tc = 0 ∧
      t.mem = s.mem))) ∧
  (∀ s k m, Sent s k m 1 → s.frozenAt m.dst.toNat m.la = false → (s.actFor m.dst.toNat m.la).isSome = true →
    Dropped (.gets k) s k) ∧
  (∀ s k m, Sent s k m 2 → s.frozenAt m.dst.toNat m.la = false → (s.actFor m.dst.toNat m.la).isSome = true → Dropped (.getx k) s k) ∧
  (∀ s k m, m.dst = 8 → s.frozenAt 8 m.la = true → .bisnp m.la ∉ s.hostOut →
    let t := { s with hostOut := s.hostOut ++ [.bisnp m.la] }
    (Sent s k m 1 → exec (.gets k) s = .next t) ∧ (Sent s k m 2 → exec (.getx k) s = .next t) ∧ (Sent s k m 5 → exec (.act k) s = .next t)) ∧
  (∀ s k m, m.dst.toNat < 4 → Sent s k m 3 → NoneWait s → (s.l2line m.dst.toNat m.la).tc = 0 → (s.l2line m.dst.toNat m.la).isSealed = false →
    s.freeWay m.dst.toNat m.la m.kid = none →
    exec (.tok k) s = .next { s with msgs := dropAt s.msgs k ++ [{ m with src := m.dst, dst := BitVec.ofNat 4 (homeOf (m.la * 128)) }] }) ∧
  ∀ s k m, let a := m.dst.toNat
    Sent s k m 3 → s.stagingFull (dieOf (m.la * 128)) = false → NoneWait s →
    (a < 4 → (s.l2line a m.la).tc ≠ 0 ∨ (s.freeWay a m.la m.kid).isSome = true) →
    Happens (.tok k) s (fun t => t.msgs = dropAt s.msgs k ∧ (t.holds_ a m.la).tc = (s.holds_ a m.la).tc + m.tc ∧
      (t.holds_ a m.la).ow = ((s.holds_ a m.la).ow || m.ow) ∧ (m.d = true → a < 4 → (t.l2line a m.la).data = m.data ∧ (t.l2line a m.la).dv = true) ∧
      (m.ow = false ∨ m.dt = false ∨ a < 4 → t.mem = s.mem))

/-- Persistent requests: the home enters a request in its table; an agent records an activation and acknowledges; the home counts
acknowledgements and the requester's report; an agent ends its forwarding and acknowledges; with the last acknowledgement the entry is
gone (R62 to R64).
A request is reissued with its attempt counted, escalates, or is held with 12 outstanding and then sent; a cached line's tokens go
home on eviction, the owner's with data (R58, R60, R62). -/
def Obligations.Requests : Prop :=
  ((∀ s k m i, Sent s k m 4 → (if m.src.toNat < 4 then s.freeEntry m.dst.toNat 0 48 else s.freeEntry m.dst.toNat 48 16) = some i →
    Happens (.preq k) s (fun t => Entered t m.dst.toNat i (fun e => e.rq = m.src.toNat ∧ e.la = m.la ∧ e.kd = m.pk ∧ e.rid = m.rid) ∧ t.mem = s.mem)) ∧
  (∀ s k m, Sent s k m 5 → m.src ≠ m.dst → s.frozenAt m.dst.toNat m.la = false → Happens (.act k) s (fun t =>
    { agent := m.dst.toNat, home := m.src.toNat, idx := m.pe, la := m.la, kd := m.pk, rq := m.rid } ∈ t.acts ∧
    { mkMsg 6 m.dst.toNat m.src.toNat m.la with pe := m.pe } ∈ t.msgs ∧ t.mem = s.mem)) ∧
  (∀ s k m, Sent s k m 6 → Happens (.actack k) s (fun t => t.mem = s.mem ∧
    Every t m.dst.toNat m.pe (fun e => m.src.toNat ∈ e.ak ∨ e.st = .deactivating))) ∧
  (∀ s k m, Sent s k m 7 → Happens (.done k) s (fun t => t.mem = s.mem ∧ Every t m.dst.toNat m.pe (fun e => e.done = true))) ∧
  (∀ s k m, Sent s k m 8 → Happens (.deact k) s (fun t => t.mem = s.mem ∧
    (∀ x : Activation, x ∈ t.acts ↔ x ∈ s.acts ∧ ¬(x.agent = m.dst.toNat ∧ x.home = m.src.toNat ∧ x.idx = m.pe)) ∧
    t.msgs = dropAt s.msgs k ++ [{ mkMsg 9 m.dst.toNat m.src.toNat m.la with pe := m.pe }] ∧
    ∀ (r : Nat) (q : Req), s.reqs[r]? = some q → t.reqs[r]? = some (if q.agent = m.dst.toNat ∧ q.la = m.la ∧ q.esc = false then { q with attempt := 0 } else q))) ∧
  (∀ s k m, Sent s k m 9 → Happens (.deactack k) s (fun t => t.mem = s.mem)) ∧
  ∀ s k m e, Sent s k m 9 → s.ptab.find? (fun x => x.home == m.dst.toNat && x.idx == m.pe) = some e → e.st = .deactivating →
    (∀ b, b ∈ agentsOf e.la → b ≠ e.home → b = m.src.toNat ∨ b ∈ e.ak) →
    Happens (.deactack k) s (fun t => ¬Entered t m.dst.toNat m.pe (fun _ => True))) ∧
  ((∀ s r q, s.reqs[r]? = some q → q.esc = false → s.actFor q.agent q.la = none → q.attempt < 3 ∨ q.heldEsc = true →
    Happens (.transientReissue r) s (fun t => ∃ q2 : Req, t.reqs[r]? = some q2 ∧
      q2 = { q with attempt := if q.attempt < 3 then q.attempt + 1 else 3 } ∧
      t.msgs = s.msgs ++ ((agentsOf q.la).filter (fun b => b != q.agent)).map (fun b =>
        { mkMsg (if q.write then 2 else 1) q.agent b q.la with at_ := BitVec.ofNat 2 q2.attempt, rid := q.rid, kid := q.kid }))) ∧
  (∀ s r q, s.reqs[r]? = some q → q.esc = false → q.heldEsc = false → q.attempt = 3 → s.actFor q.agent q.la = none → q.agent < 4 →
    if 12 ≤ s.escalated q.agent (homeOf (q.la * 128)) then
      exec (.transientEscalation r) s = .next { s with reqs := dropAt s.reqs r ++ [{ q with heldEsc := true }] }
    else Happens (.transientEscalation r) s (fun t => t.reqs[r]? = some { q with esc := true } ∧
      t.msgs = s.msgs ++ [{ mkMsg 4 q.agent (homeOf (q.la * 128)) q.la with pk := q.write, rid := q.rid, kid := q.kid }])) ∧
  (∀ s r q i, s.reqs[r]? = some q → q.esc = false → q.heldEsc = false → q.attempt = 3 → s.actFor q.agent q.la = none →
    q.agent = homeOf (q.la * 128) → s.freeEntry q.agent 48 16 = some i →
    Happens (.transientEscalation r) s (fun t => t.reqs[r]? = some { q with esc := true } ∧ t.mem = s.mem ∧
      Entered t q.agent i (fun e => e.rq = q.agent ∧ e.la = q.la ∧ e.kd = q.write ∧ e.rid = q.rid ∧ e.hm = true))) ∧
  (∀ (s : State) (die home r : Nat) (q : Req), s.escalated die home < 12 → die < 4 → s.reqs[r]? = some q → q.agent = die → q.heldEsc = true →
    homeOf (q.la * 128) = home →
    (∀ i (x : Req), i < r → s.reqs[i]? = some x → ¬(x.agent = die ∧ x.heldEsc = true ∧ homeOf (x.la * 128) = home)) →
    Happens (.heldEscalationSend die home) s (fun t => t.reqs[r]? = some { q with esc := true, heldEsc := false } ∧
      t.msgs = s.msgs ++ [{ mkMsg 4 die home q.la with pk := q.write, rid := q.rid, kid := q.kid }])) ∧
  ∀ s die la, let x := s.l2line die la
    (∀ b, b ∈ s.pend → b.die = die → b.pa / 128 ≠ la) → x.wb = false →
    (x.isSealed = true → Happens (.lineEviction die la) s (fun t => t.l2line die la = Line.none ∧ t.msgs = s.msgs)) ∧
    (x.isSealed = false → die < 4 → x.tc ≠ 0 → Happens (.lineEviction die la) s (fun t => t.l2line die la = Line.none ∧ t.mem = s.mem ∧
      ∃ m : Msg, t.msgs = s.msgs ++ [m] ∧ m.ty = 3 ∧ m.dst = BitVec.ofNat 4 (homeOf (la * 128)) ∧ m.la = la ∧ m.tc = x.tc ∧ m.ow = x.ow ∧ m.d = x.ow ∧
        (x.ow = true → m.data = x.data ∧ m.dt = x.dt))))

/-- The home writes a line that a WB brings and answers; at WBACK the L2's line is clean; an atomic at its home reads and writes memory
there and answers the old value, but a poisoned line is answered as poison and not written; a message of a type that is never sent is fatal (R57, R59, R66, R343). -/
def Obligations.HomeMessages : Prop :=
  (∀ s k m, Sent s k m 14 → Happens (.wb k) s (fun t => t.memLine m.kid m.la = m.data ∧
    t.msgs = dropAt s.msgs k ++ [mkMsg 15 m.dst.toNat m.src.toNat m.la] ∧ t.l2 = s.l2)) ∧
  (∀ s k m, Sent s k m 15 → Happens (.wback k) s (fun t => t.mem = s.mem ∧ t.msgs = dropAt s.msgs k ∧
    t.l2line m.dst.toNat m.la = { s.l2line m.dst.toNat m.la with dt := false, wb := false })) ∧
  (∀ s k m o w, Sent s k m 10 → opAtom m.op.toNat = some (o, w) → (s.holding m.la).tc = 16 → s.mayOwn m.la = true →
    (∀ q, q ∈ s.homeq → q.la ≠ m.la) → getD false s.poison m.la = false → s.poolDark m.la = false → let off := field m.data.toNat 128 7
    let old := lineNum (s.memLine m.kid m.la) off w
    off + w ≤ 128 → Happens (.hopAtomic k) s (fun t =>
      lineNum (t.memLine m.kid m.la) off w = atomNew o (8 * w) old (field m.data.toNat 0 64) (field m.data.toNat 64 64) % 2 ^ (8 * w) ∧
      ∃ x : Msg, t.msgs = dropAt s.msgs k ++ [x] ∧ x.ty = 11 ∧ x.dst = m.src ∧ x.rid = m.rid ∧ x.data = BitVec.ofNat 1024 old)) ∧
  (∀ s k m, Sent s k m 10 → (opAtom m.op.toNat).isSome = true → (s.holding m.la).tc = 16 → s.mayOwn m.la = true →
    (∀ q, q ∈ s.homeq → q.la ≠ m.la) → getD false s.poison m.la = true → Happens (.hopAtomic k) s (fun t => t.mem = s.mem ∧
      ∃ x : Msg, t.msgs = dropAt s.msgs k ++ [x] ∧ x.ty = 11 ∧ x.dst = m.src ∧ x.rid = m.rid ∧ x.pz = true)) ∧
  (∀ s k m, Sent s k m 10 → (opAtom m.op.toNat).isSome = true → (s.holding m.la).tc ≠ 16 →
    Happens (.hopAtomic k) s (fun t => t.homeq = s.homeq ++ [m] ∧ t.mem = s.mem)) ∧
  (∀ s k m, Sent s k m 0 → Happens (.invalidMessageType k) s (fun t => t.boot.fatal = true)) ∧
  ∀ s k m ty, 16 ≤ ty → Sent s k m ty → Happens (.invalidMessageType k) s (fun t => t.boot.fatal = true)

end

namespace Sys2Proof.Says

open Sys2Proof.Machine

/-- Message `k` is a home operation with an OP code, for the page of record `i`. -/
def AsksPage (s : State) (k op : Nat) (m : Msg) (i : Nat) (r : PageRec) : Prop :=
  Sent s k m 10 ∧ m.op.toNat = op ∧ s.recordAt (m.la * 128) = some (i, r)
/-- A tail word: SL and SP of the record, the four answer bits, the reserve tail, a value (R73). -/
def IsTail (w : DWord) (r : PageRec) (fu sd pb ry : Bool) (val : Nat) : Prop :=
  w.getLsbD 63 = r.sl ∧ w.getLsbD 62 = r.sp ∧ w.getLsbD 61 = fu ∧ w.getLsbD 60 = sd ∧ w.getLsbD 59 = pb ∧ w.getLsbD 58 = ry ∧
    (w.extractLsb' 22 22).toNat = r.rt % 2 ^ 22 ∧ (w.extractLsb' 0 22).toNat = val % 2 ^ 22 ∧ w.extractLsb' 44 14 = 0
/-- The sender's operation is answered, by the one message sent, with a word. -/
def Tells (s t : State) (k : Nat) (m : Msg) (p : DWord → Prop) : Prop :=
  ∃ x : Msg, t.msgs = dropAt s.msgs k ++ [x] ∧ x.ty = 11 ∧ x.dst = m.src ∧ x.rid = m.rid ∧ x.op = m.op ∧ p (x.data.extractLsb' 0 64)
/-- An L2 has no copy of a line, and a way for one. -/
def HasRoom (s : State) (die la : Nat) (kid : BitVec 6) : Prop :=
  (s.l2line die la).isSealed = false ∧ (s.l2line die la).tc = 0 ∧ (s.freeWay die la kid).isSome = true
/-- Bytes of an append rounded up to 16. -/
def upTo16 (n : Nat) : Nat := (n + 15) / 16 * 16
/-- Byte `j` of a line. -/
def byteOf (d : BitVec 1024) (j : Nat) : Byte := d.extractLsb' (8 * j) 8

end Sys2Proof.Says

section

open Sys2Proof Sys2Proof.Machine Sys2Proof.Says

/-! ## Append-seal pages -/

/-- A reservation: refused with SD on a sealed, closing or freed page, answered with FU where it does not fit and RY where a table is
full, and otherwise given at the reserve tail, which grows; a reserver answered RY asks again, unless a stop takes its append back (R72, R74,
R75). The value of an answer that reserves nothing is the model's choice where the spec gives none (log 64).
Append data is written at its place under the page's key while its append is open, and is dropped otherwise; a SEAL seals a page with nothing outstanding, or closes it to appends, and
is refused on a freed one; TAILRD answers the commit tail (R72, R76, R80). -/
def Obligations.ReservationsAppendsSeals : Prop :=
  ((∀ s k m i r, AsksPage s k 0x20 m i r → r.sl = true ∨ r.sp = true ∨ r.fr = true →
    Happens (.arsv k) s (fun t => Tells s t k m (fun w => IsTail w r false true false false 0) ∧ t = { s with msgs := t.msgs })) ∧
  (∀ s k m i r, let l := (m.data.extractLsb' 0 22).toNat
    AsksPage s k 0x20 m i r → r.sl = false → r.sp = false → r.fr = false → l ≠ 0 → asSize r.ps < r.rt + upTo16 l →
    Happens (.arsv k) s (fun t => Tells s t k m (fun w => IsTail w r true false false false 0) ∧ t = { s with msgs := t.msgs })) ∧
  (∀ s k m i r, let l := (m.data.extractLsb' 0 22).toNat
    AsksPage s k 0x20 m i r → r.sl = false → r.sp = false → r.fr = false → l ≠ 0 → r.rt + upTo16 l ≤ asSize r.ps →
    r.na = 255 ∨ 1024 ≤ s.openAppends (i / 65536) →
    Happens (.arsv k) s (fun t => Tells s t k m (fun w => IsTail w r false false false true 0) ∧ t = { s with msgs := t.msgs })) ∧
  (∀ s k m i r, let l := (m.data.extractLsb' 0 22).toNat
    let r2 := { r with rt := r.rt + upTo16 l, na := r.na + 1 }
    AsksPage s k 0x20 m i r → r.sl = false → r.sp = false → r.fr = false → l ≠ 0 → r.rt + upTo16 l ≤ asSize r.ps → r.na ≠ 255 →
    s.openAppends (i / 65536) < 1024 →
    Happens (.arsv k) s (fun t => Tells s t k m (fun w => IsTail w r2 false false false false r.rt) ∧ lookup t.records i = some r2 ∧
      t.mem = s.mem ∧ ∃ a : Append, t.appends = s.appends ++ [a] ∧ a.st = r.rt ∧ a.ln = l ∧ a.rb = 0 ∧ a.rid = m.rid ∧ a.src = m.src.toNat)) ∧
  (∀ s k m i r, AsksPage s k 0x20 m i r → r.sl = false → r.sp = false → r.fr = false → m.data.extractLsb' 0 22 = 0 →
    Happens (.arsv k) s (fun t => Tells s t k m (fun w => IsTail w r false false false false 0) ∧ t = { s with msgs := t.msgs })) ∧
  ∀ s h x, s.hops[h]? = some x → x.op = 0x20 → x.retry = true → x.start = none → s.running x.grp = true → s.stopAsked x.grp = false →
    Happens (.arsvRetry h) s (fun t => t = { s with hops := t.hops, msgs := t.msgs } ∧ t.hops[h]? = some { x with retry := false } ∧
      ∃ m : Msg, t.msgs = s.msgs ++ [m] ∧ m.ty = 10 ∧ m.op = 0x20 ∧ m.rid = x.id % 4096 ∧ m.la = x.la)) ∧
  ((∀ s k m i r a, AsksPage s k 0x21 m i r → a ∈ s.appends → Append.takes a i (r.bfn.toNat * 4096) m = true →
    s.stagingFull (dieOf (m.la * 128)) = false → Happens (.adat k) s (fun t => ∀ j, j < 128 →
      t.memByte r.kid (m.la * 128 + j) = if m.mask.getLsbD j then byteOf m.data j else s.memByte r.kid (m.la * 128 + j))) ∧
  (∀ s k m i r, AsksPage s k 0x21 m i r → (∀ a, a ∈ s.appends → Append.takes a i (r.bfn.toNat * 4096) m = false) →
    exec (.adat k) s = .next (s.takeMsg k)) ∧
  (∀ s k m i r, AsksPage s k 0x22 m i r → r.sl = true →
    Happens (.hopSeal k) s (fun t => Tells s t k m (fun w => IsTail w r false false false false r.rt) ∧ t = { s with msgs := t.msgs })) ∧
  (∀ s k m i r, AsksPage s k 0x22 m i r → r.sl = false → r.fr = true →
    Happens (.hopSeal k) s (fun t => Tells s t k m (fun w => IsTail w r false true false false 0) ∧ t = { s with msgs := t.msgs })) ∧
  (∀ s k m i r, AsksPage s k 0x22 m i r → r.sl = false → r.fr = false → r.ct ≠ r.rt →
    Happens (.hopSeal k) s (fun t => t.msgs = dropAt s.msgs k ∧ t.mem = s.mem ∧ lookup t.records i = some { r with sp := true } ∧ (i, m) ∈ t.seals)) ∧
  (∀ s k m i r, AsksPage s k 0x22 m i r → r.sl = false → r.fr = false → r.ct = r.rt → (∀ e, e ∈ s.seals → e.1 ≠ i) →
    Happens (.hopSeal k) s (fun t => lookup t.records i = some { r with sl := true, sp := false } ∧
      Tells s t k m (fun w => IsTail w { r with sl := true, sp := false } false false false false r.rt) ∧ t.mem = s.mem)) ∧
  ∀ s k m i r, AsksPage s k 0x23 m i r →
    Happens (.hopTailrd k) s (fun t => Tells s t k m (fun w => IsTail w r false false false false r.ct) ∧ t = { s with msgs := t.msgs }))

/-- Reads of append-seal lines: at the home, the line with zeros at and above the commit tail, or a sealed line; a sealed line comes from
the die's replica or the home, and is cached where it arrives, if there is room; an answer ends the SEAL or TAILRD that asked, RY makes an append ask again, and an answer that
nothing waits for is dropped (R57, R74, R78, R81, R87, R88).
A page record is created over a frame of zeros; a free closes a page to appends, once nothing maps it, and runs its steps to the record's
end; a replica is entered for a sealed page, in place of the least recently used one where the pool has no frame; another device's free drops the sealed lines it names (R71, R86 to R90). -/
def Obligations.PagesReadAndFreed : Prop :=
  ((∀ s k m i r, AsksPage s k 0x24 m i r → r.sl = false → Happens (.ard k) s (fun t => t = { s with msgs := t.msgs } ∧
    ∃ x : Msg, t.msgs = dropAt s.msgs k ++ [x] ∧ x.ty = 11 ∧ x.dst = m.src ∧ x.rid = m.rid ∧ ∀ j, j < 128 →
      byteOf x.data j = (if m.la * 128 + j < r.bfn.toNat * 4096 + r.ct then s.memByte r.kid (m.la * 128 + j) else 0) ∧
      x.mask.getLsbD j = decide (m.la * 128 + j < r.bfn.toNat * 4096 + r.ct))) ∧
  (∀ s k m i r, AsksPage s k 0x24 m i r → r.sl = true → Happens (.ard k) s (fun t => t = { s with msgs := t.msgs } ∧
    ∃ x : Msg, t.msgs = dropAt s.msgs k ++ [x] ∧ x.ty = 13 ∧ x.dst = m.src ∧ x.rid = m.rid ∧ x.data = s.memLine r.kid m.la)) ∧
  (∀ s k m p, Sent s k m 12 → s.replicaOf (m.dst.toNat - 4) (m.la * 128) = some p → Happens (.srd k) s (fun t =>
    t = { s with msgs := t.msgs, replicas := s.replicas.filter (fun x => x != p) ++ [p] } ∧ ∃ x : Msg, t.msgs = dropAt s.msgs k ++ [x] ∧ x.ty = 13 ∧ x.dst = m.src ∧
      x.data = s.memLine m.kid (p.rfn.toNat * 32 + (m.la - p.sfn.toNat * 32)))) ∧
  (∀ s k m i r, Sent s k m 12 → s.replicaOf (m.dst.toNat - 4) (m.la * 128) = none → s.recordAt (m.la * 128) = some (i, r) → r.sl = true →
    homeOf (m.la * 128) = m.dst.toNat → Happens (.srd k) s (fun t => t = { s with msgs := t.msgs } ∧
      ∃ x : Msg, t.msgs = dropAt s.msgs k ++ [x] ∧ x.ty = 13 ∧ x.dst = m.src ∧ x.data = s.memLine r.kid m.la)) ∧
  (∀ s k m, Sent s k m 13 → HasRoom s m.dst.toNat m.la m.kid → s.askedBy m = none ∨ m.pz = false →
    Happens (.srsp k) s (fun t => (t.l2line m.dst.toNat m.la).data = m.data ∧ t.mem = s.mem ∧
    (t.l2line m.dst.toNat m.la).dv = true ∧ (t.l2line m.dst.toNat m.la).isSealed = true ∧ (t.l2line m.dst.toNat m.la).tc = 0)) ∧
  (∀ s k m, Sent s k m 13 → ¬HasRoom s m.dst.toNat m.la m.kid → s.askedBy m = none → exec (.srsp k) s = .next (s.takeMsg k)) ∧
  (∀ s k m h, Sent s k m 11 → s.hopBy m.dst.toNat m.rid = some h → h.op = 0x22 ∨ h.op = 0x23 → h.retry = false → m.op = h.op →
    (∀ f, f ∈ (s.group h.grp).flights → f.id = h.flight → f.vals = []) →
    Happens (.hrsp k) s (fun t => t.msgs = dropAt s.msgs k ∧ t.mem = s.mem ∧ (∀ x, x ∈ t.hops ↔ x ∈ s.hops ∧ x.id ≠ h.id) ∧
      (t.group h.grp).v = (s.group h.grp).v ∧
      ∀ n, (t.group h.grp).sget n = if n = h.st.toNat ∧ n ≠ 0 then m.data.extractLsb' 0 64 else (s.group h.grp).sget n)) ∧
  (∀ s k m h, Sent s k m 11 → s.hopBy m.dst.toNat m.rid = some h → h.op = 0x20 → h.retry = false → h.copy = none → m.op = 0x20 →
    m.data.getLsbD 59 = false → m.data.getLsbD 58 = true →
    Happens (.hrsp k) s (fun t => t = { s.takeMsg k with hops := t.hops } ∧ ∀ x, x ∈ t.hops ↔ ∃ y, y ∈ s.hops ∧ x = if y.id = h.id then { h with retry := true } else y)) ∧
  ∀ s k m, Sent s k m 11 → (m.op = 0x24 ∨ m.op.toNat < 0x20 → s.askedBy m = none) →
    (m.op ≠ 0x24 → 0x20 ≤ m.op.toNat → s.hopBy m.dst.toNat m.rid = none) → exec (.hrsp k) s = .next (s.takeMsg k)) ∧
  ((∀ s home rcd frame ps part kid, (lookup s.records (recKey home rcd)).all (fun r => !r.v) = true → ps ≠ 3 →
    homeOf (frame.toNat * 4096) = home → rcd < 65536 → frame.toNat * 4096 % asSize ps = 0 → keyed (frame.toNat * 4096) = true →
    s.frameTaken (frame.toNat * 4096) (frame.toNat * 4096 + asSize ps) = false →
    s.recordIn home (frame.toNat * 4096) (frame.toNat * 4096 + asSize ps) = false →
    Happens (.pageRecordCreate home rcd frame ps part kid) s (fun t => (∃ r, lookup t.records (recKey home rcd) = some r ∧ r.v = true ∧ r.sl = false ∧
        r.rt = 0 ∧ r.ct = 0 ∧ r.bfn = frame ∧ r.ps = ps ∧ r.kid = kid ∧ r.pt = part) ∧
      (∀ a, frame.toNat * 4096 ≤ a → a < frame.toNat * 4096 + asSize ps → t.memByte kid a = 0) ∧
      ∀ a, a < frame.toNat * 4096 ∨ frame.toNat * 4096 + asSize ps ≤ a → Memory.read t.mem a = Memory.read s.mem a)) ∧
  (∀ s home rcd r, lookup s.records (recKey home rcd) = some r → r.v = true → r.fr = false →
    s.mapped (r.bfn.toNat * 4096) (r.bfn.toNat * 4096 + asSize r.ps) = false →
    Happens (.freeRequest home rcd) s (fun t => lookup t.records (recKey home rcd) = some { r with fr := true } ∧ t.mem = s.mem ∧
      t.frees = s.frees ++ [{ home := home, rcd := rcd, step := 3, frames := [], acks := [] }])) ∧
  (∀ s home rcd f r, s.frees.find? (fun f => f.home == home && f.rcd == rcd) = some f → lookup s.records (recKey home rcd) = some r →
    (f.step = 3 → Happens (.freeService home rcd) s (fun t => t.mem = s.mem ∧
      ∀ a, a ∈ t.appends → recKey a.home a.rcd = recKey home rcd → a.rb = a.ln)) ∧
    (f.step = 4 → s.readsUnderWay r = true → exec (.freeService home rcd) s = .fault .notEnabled) ∧
    (f.step = 4 → s.readsUnderWay r = false → Happens (.freeService home rcd) s (fun t => t.mem = s.mem ∧ (∀ p, p ∈ t.replicas → p.sfn ≠ r.bfn) ∧
      ∀ e, e ∈ t.l2 → e.2.isSealed = true → e.1 % 2 ^ 45 < r.bfn.toNat * 32 ∨ r.bfn.toNat * 32 + asSize r.ps / 128 ≤ e.1 % 2 ^ 45)) ∧
    (f.step = 5 → f.acks ≠ [] → exec (.freeService home rcd) s = .fault .notEnabled) ∧
    (f.step = 5 → f.acks = [] → Happens (.freeService home rcd) s (fun t => t = { s with frees := t.frees })) ∧
    (f.step = 6 → Happens (.freeService home rcd) s (fun t =>
      lookup t.records (recKey home rcd) = some { r with v := false, rm := 0, fr := false } ∧ t.mem = s.mem))) ∧
  (∀ s die home rcd r f l, lookup s.records (recKey home rcd) = some r → r.v = true → r.sl = true → r.fr = false →
    (s.part r.pt.toNat).rcd.pool[die]?.getD 0 ≠ 0 → (∀ p, p ∈ s.replicas → ¬(p.die = die ∧ p.sfn = r.bfn)) →
    (s.part r.pt.toNat).pool.find? (fun e => e.1 == die) = some (die, f :: l) → (s.replicas.filter (fun p => p.die == die)).length < 16384 →
    Happens (.replicaCreate die home rcd) s (fun t => { die := die, ps := r.ps, pt := r.pt, sfn := r.bfn, rfn := f } ∈ t.replicas ∧
      lookup t.records (recKey home rcd) = some { r with rm := r.rm ||| ((1 : BitVec 4) <<< die) })) ∧
  (∀ s die home rcd r v, lookup s.records (recKey home rcd) = some r → r.v = true → r.sl = true → r.fr = false →
    (s.part r.pt.toNat).rcd.pool[die]?.getD 0 ≠ 0 → (∀ p, p ∈ s.replicas → ¬(p.die = die ∧ p.sfn = r.bfn)) →
    (s.part r.pt.toNat).pool.find? (fun e => e.1 == die) = some (die, []) → (s.replicas.filter (fun p => p.die == die)).length ≤ 16384 →
    s.replicas.find? (fun p => p.die == die && p.pt == r.pt) = some v →
    Happens (.replicaCreate die home rcd) s (fun t => v ∉ t.replicas ∧
      { die := die, ps := r.ps, pt := r.pt, sfn := r.bfn, rfn := v.rfn } ∈ t.replicas)) ∧
  ∀ s base n, Happens (.sealedLineInvalidate base n) s (fun t => t = { s with l2 := t.l2 } ∧
    ∀ e, e ∈ t.l2 ↔ e ∈ s.l2 ∧ ¬(e.2.isSealed = true ∧ base.toNat * 32 ≤ e.1 % 2 ^ 45 ∧ e.1 % 2 ^ 45 < base.toNat * 32 + n * 32)))

end

namespace Sys2Proof.Says

open Sys2Proof.Machine

/-- A fault record has gone, and every group that waited on it goes on. -/
def Resolved (s t : State) (f : FaultRec) : Prop :=
  (∀ x, x ∈ t.faults ↔ x ∈ s.faults ∧ x.id ≠ f.id) ∧
  ∀ j, j ∈ f.joined → (s.group j.grp).wait = .fault f.die f.id → (t.group j.grp).wait = .none
/-- The step of a check-out: its first run not yet asked for, all before it granted. -/
def NextRun (s : State) (i : Nat) (c : Copy) (k : Nat) (r : Run) : Prop :=
  s.copies[i]? = some c ∧ c.kind = .bchk ∧ c.filling = false ∧ c.stopped = false ∧ c.runs[k]? = some r ∧ r.asked = false ∧
    ∀ n x, n < k → c.runs[n]? = some x → x.asked = true ∧ x.granted.isSome = true
/-- Every run of a check-out is granted, and none of its segments moves. -/
def AllGranted (s : State) (i : Nat) (c : Copy) : Prop :=
  s.copies[i]? = some c ∧ c.kind = .bchk ∧ c.filling = false ∧ c.stopped = false ∧ (∀ r, r ∈ c.runs → r.asked = true ∧ r.granted.isSome = true) ∧
    ∀ n, n < c.cnt → ((s.job (s.group c.grp).job).tag_ (c.ws + n)).st ≠ 3
/-- The home refuses a run now: a request that waits would be passed over, or the range table has an entry that conflicts, or none free. -/
def Refused (s : State) (c : Copy) (r : Run) : Prop :=
  s.passesOver s.rangeWait c.excl r = true ∨ ∃ b, s.grantIdx r.home c.excl r = .error b
/-- Nothing holds a page that is under a move: no TLB, no pin, no invalidation under way. -/
def NotHeld (s : State) (m : Move) : Prop :=
  (∀ x, x ∈ s.tlb → x.rtag = m.rtag → overlap x.va.toNat x.size m.base m.size = false) ∧
  (∀ x, x ∈ s.pins → x.rtag = m.rtag → overlap x.va x.size m.base m.size = false) ∧ ∀ v, v ∈ s.invals → v.names m.rtag m.base m.size = false
/-- A page that may begin to move: its job and its entry. -/
def MovesPage (s : State) (rtag : Nat) (va : VAddr) (j : Nat) (e : DWord) : Prop :=
  s.rootJob rtag = some j ∧ e = s.entry (s.part (s.job j).part).skid (s.walkEnd j va.toNat).2

end Sys2Proof.Says

section

open Sys2Proof Sys2Proof.Machine Sys2Proof.Says

/-! ## Check-outs and translation -/

/-- A run of a check-out is granted with an entry of its home's range table where nothing conflicts or waits before it, waits where the job has
a wait limit, and otherwise, or at the limit, the check-out is taken back and its BCHK traps; once all are granted its segments, all in I,
enter T, and one that has left I traps; a filled segment is S or O, a written-back one I; the
firmware moves or releases entries of a job that does not run (R34 to R37). -/
def Obligations.CheckOuts : Prop :=
  (∀ s i c k r idx, NextRun s i c k r → s.passesOver s.rangeWait c.excl r = false → s.grantIdx r.home c.excl r = .ok idx →
    Happens (.checkoutRegister i) s (fun t => ∃ e : RangeEnt,
    t.ranges = s.ranges ++ [e] ∧ e.home = r.home ∧ e.idx = idx ∧ e.bfn = r.bfn ∧ e.len = r.len ∧ e.md = c.excl ∧ e.hd = c.die ∧ e.hc = r.len)) ∧
  (∀ s i c k r, NextRun s i c k r → Refused s c r → (s.job (s.group c.grp).job).jd.ckw ≠ 0 →
    Happens (.checkoutRegister i) s (fun t => t.rangeWait = s.rangeWait ++ [(r.home, c.id, k)] ∧ t.ranges = s.ranges)) ∧
  (∀ s i c k r, NextRun s i c k r → Refused s c r → (s.job (s.group c.grp).job).jd.ckw = 0 →
    Happens (.checkoutRegister i) s (fun t => ∀ x, x ∈ t.copies → x.id ≠ c.id)) ∧
  (∀ s i c, let j := (s.group c.grp).job
    AllGranted s i c →
    if ∀ n, n < c.cnt → ((s.job j).tag_ (c.ws + n)).st = 0 then
      Happens (.checkoutRegister i) s (fun t => ∀ n, n < c.cnt → ((t.job j).tag_ (c.ws + n)).st = 3 ∧ ((t.job j).tag_ (c.ws + n)).md = c.excl)
    else Happens (.checkoutRegister i) s (fun t => ∀ x, x ∈ t.copies → x.id ≠ c.id)) ∧
  (∀ s i c, s.copies[i]? = some c → c.kind = .bchk → c.filling = false → (∃ r, r ∈ c.runs ∧ r.asked = true ∧ r.granted = none) →
    Happens (.checkoutWaitExpiry i) s (fun t => (∀ x, x ∈ t.copies → x.id ≠ c.id) ∧
      ((s.group c.grp).tm = false → (s.job (s.group c.grp).job).jd.trapv ≠ 0 → (∃ f, f ∈ (s.group c.grp).flights ∧ f.id = c.flight) →
        (t.group c.grp).fi.cause = 0x14 ∧ (t.group c.grp).tm = true))) ∧
  (∀ s i c, s.copies[i]? = some c → c.kind = .bchk → c.filling = true → c.off = 4096 → Happens (.segmentFillDone i) s (fun t =>
    ((t.job (s.group c.grp).job).tag_ (c.ws + c.row)).st = if c.excl then 2 else 1)) ∧
  (∀ s i c, s.copies[i]? = some c → c.kind = .bchkin → c.stopped = false → c.off = 4096 → s.rangeWait = [] →
    ((s.job (s.group c.grp).job).tag_ (c.ws + c.row)).st = 3 →
    Happens (.segmentWritebackDone i) s (fun t => (t.job (s.group c.grp).job).tag_ (c.ws + c.row) = SegTag.idle)) ∧
  ∀ s home idx e, s.ranges.find? (fun e => e.home == home && e.idx == idx) = some e →
    (s.job e.js).st = .stopped ∨ (s.job e.js).st = .ended ∨ (s.job e.js).st = .failed →
    (∀ d g, Happens (.rangeTableWrite home idx (.move d g)) s (fun t => t = { s with ranges := t.ranges } ∧
      { e with hd := d.toNat, seg := g.toNat } ∈ t.ranges)) ∧
    (s.rangeWait = [] → Happens (.rangeTableWrite home idx .release) s (fun t => t = { s with ranges := t.ranges } ∧
      ∀ x, x ∈ t.ranges ↔ x ∈ s.ranges ∧ ¬(x.home = home ∧ x.idx = idx)))

/-- A walk that ends on a resident page that the die's TLB does not hold fills it, and one that finds nothing, or reads what is held, changes
nothing; an invalidation ends once no pin is named, and then no TLB or walk cache holds what it names (R18, R110 to R112).
A page move: the entry is cleared and the move recorded, the frame is copied once nothing holds the page and no byte outside the two
frames changes, an entry that names the frame filled ends the move (R44, R120).
Fault service: a record is replayed, forwarded to the host's manager, delivered to the trap handlers of the groups joined to it, or its
page is promoted; the manager answers with an entry or a refusal; nothing of it happens while a move holds the page (R115, R116). -/
def Obligations.WalksFaultsMoves : Prop :=
  (((∀ s die rtag va w j p, s.rootJob rtag = some j → s.walkOn j die va.toNat = .page p → pteRs p.leaf = true → p.size ≠ 0 →
    (∀ x, x ∈ s.held die (s.job j).rtag va.toNat → x.page.same p = false) → Happens (.walkComplete die rtag va w) s (fun t => ∃ e, e ∈ t.tlb ∧ e.die = die ∧ e.rtag = (s.job j).rtag ∧ e.leaf = p.leaf ∧ e.size = p.size ∧
      e.va.toNat ≤ va.toNat ∧ va.toNat < e.va.toNat + p.size)) ∧
  (∀ s die rtag va w j, s.rootJob rtag = some j → s.walkOn j die va.toNat = .absent ∨ s.walkOn j die va.toNat = .malformed →
    exec (.walkComplete die rtag va w) s = .next s) ∧
  (∀ s die rtag va j p x, s.rootJob rtag = some j → s.walkOn j die va.toNat = .page p → x ∈ s.held die (s.job j).rtag va.toNat →
    x.page.same p = true → exec (.walkComplete die rtag va false) s = .next s) ∧
  (∀ s rtag page, exec (.tlbInvalidate rtag page) s = .next { s with invals := s.invals ++ [{ rtag := rtag, page := page }] }) ∧
  ∀ s i v, s.invals[i]? = some v → (∀ p, p ∈ s.pins → v.names p.rtag p.va p.size = false) →
    Happens (.tlbInvalidateComplete i) s (fun t => t = { s with tlb := t.tlb, wcache := t.wcache, invals := dropAt s.invals i } ∧
      (∀ e, e ∈ t.tlb ↔ e ∈ s.tlb ∧ v.names e.rtag e.va.toNat e.size = false) ∧ ∀ c, c ∈ t.wcache ↔ c ∈ s.wcache ∧ c.under v = false)) ∧
  ((∀ s rtag va j e rs, let n := pageSize (s.walkEnd j va.toNat).1 e
    let b := va.toNat / n * n
    MovesPage s rtag va j e → pteV e = true → pteLf e = true → pteRs e = true → s.moving rtag b n = false → s.mayMove (pteFn e * 4096) n = true →
    Happens (.pageMove rtag va (.clear rs)) s (fun t => t.tlb = s.tlb ∧
      t.moves = s.moves ++ [{ rtag := rtag, va := va, base := b, size := n, old := e, copied := none }])) ∧
  (∀ s rtag va (m : Move) (f : BitVec 40), (s.rootJob rtag).isSome = true → s.moveOf rtag va = some m → m.rtag = rtag → NotHeld s m →
    s.mayMove (pteFn m.old * 4096) m.size = true → s.frameFree (f.toNat * 4096) m.size = true →
    Happens (.pageMove rtag va (.copy f)) s (fun t => t.tlb = s.tlb ∧ { m with copied := some f } ∈ t.moves ∧
      ∀ a, a < f.toNat * 4096 ∨ f.toNat * 4096 + m.size ≤ a → a < pteFn m.old * 4096 ∨ pteFn m.old * 4096 + m.size ≤ a →
        Memory.read t.mem a = Memory.read s.mem a)) ∧
  (∀ s rtag va m f, s.moveOf rtag va = some m → m.rtag = rtag → ¬NotHeld s m → exec (.pageMove rtag va (.copy f)) s = .fault .notEnabled) ∧
  ∀ s rtag va m leaf, (s.rootJob rtag).isSome = true → s.moveOf rtag va = some m → m.copied = some (BitVec.ofNat 40 (pteFn leaf)) →
    pteCl leaf = pteCl m.old → pteKid leaf = pteKid m.old → pteW leaf = pteW m.old → pteX leaf = pteX m.old → pteSz leaf = pteSz m.old →
    pteV leaf = true → pteLf leaf = true →
    Happens (.pageMove rtag va (.write leaf)) s (fun t => t.tlb = s.tlb ∧ ∀ x, x ∈ t.moves ↔ x ∈ s.moves ∧ x ≠ m))) ∧
  ((∀ s die i f, s.faultAt die i = some f → s.moving f.rtag f.base f.size = false →
    Happens (.faultServiceResolve die i .replay) s (fun t => t.mem = s.mem ∧ Resolved s t f)) ∧
  (∀ s die i f, s.faultAt die i = some f → (s.part f.pt).rcd.fwd = true → f.forwarded = false → s.moving f.rtag f.base f.size = false →
    Happens (.faultServiceResolve die i .forward) s (fun t => t.mem = s.mem ∧ t.groups = s.groups ∧ { f with forwarded := true } ∈ t.faults)) ∧
  (∀ s die i f, s.faultAt die i = some f → (s.part f.pt).rcd.fwd = false → f.engines = [] → s.moving f.rtag f.base f.size = false →
    Happens (.faultServiceResolve die i .deliver) s (fun t => t.mem = s.mem ∧ Resolved s t f)) ∧
  (∀ s die i f leaf, let w := s.walkEnd f.js f.va.toNat
    let e := s.entry (s.part f.pt).skid w.2
    s.faultAt die i = some f → f.rsn = 3 → pteV e = true → pteLf e = true → pteRs e = false → pteRs leaf = true →
    leafOk s.boot.ddn w.1 leaf = true → pteSz leaf = pteSz e → pteKid leaf = pteKid e → s.moving f.rtag f.base f.size = false →
    s.frameFree (pteFn leaf * 4096) (pageSize w.1 leaf) = true →
    Happens (.faultServiceResolve die i (.promote leaf)) s (fun t => Resolved s t f)) ∧
  (∀ s die i f how, s.faultAt die i = some f → s.moving f.rtag f.base f.size = true →
    exec (.faultServiceResolve die i how) s = .fault .notEnabled) ∧
  ∀ s die i f, s.faultAt die i = some f → f.forwarded = true → s.moving f.rtag f.base f.size = false →
    (∀ leaf, Happens (.hostFaultAnswer die i (.entry leaf)) s (fun t => Resolved s t f)) ∧
    (f.engines = [] → Happens (.hostFaultAnswer die i .refusal) s (fun t => t.mem = s.mem ∧ Resolved s t f)))

end

namespace Sys2Proof.Says

open Sys2Proof.Machine

/-- A stored code object that the load service accepts (R181, R182). -/
def Loadable (s : State) (job : Nat) (base : VAddr) (image : List Byte) (kid : BitVec 6) : Prop :=
  (s.job job).live = true ∧ objOk image = true ∧ (s.job job).cot.length < 64 ∧ base.toNat % 4096 = 0 ∧ base.toNat + objSize image ≤ 2 ^ 57 ∧
    s.keyOk kid.toNat (s.job job).part = true
/-- A line of HBM of a die. -/
def OfDie (die la : Nat) : Prop := regionOf (la * 128) = .hbm ∧ dieOf (la * 128) = die
/-- Nothing of an instruction in flight is under way but the access at an index. -/
def Alone (s : State) (i : Nat) (a : Access) : Prop :=
  (∀ k b, k ≠ i → s.pend[k]? = some b → ¬(b.grp = a.grp ∧ b.flight = a.flight)) ∧ (∀ h, h ∈ s.hops → ¬(h.grp = a.grp ∧ h.flight = a.flight)) ∧
    (∀ o, o ∈ (s.group a.grp).outs → o.flight ≠ a.flight) ∧ ∃ f, (s.group a.grp).flightOf a.flight = some f ∧ f.vals = []
/-- A measurement register is extended by bytes (R350). -/
def Extended (s t : State) (i : Nat) (d : List Byte) : Prop :=
  getD 0 t.boot.meas i = shake256 (toBytes 32 (getD 0 s.boot.meas i).toNat ++ d)

end Sys2Proof.Says

section

open Sys2Proof Sys2Proof.Machine Sys2Proof.Says

/-! ## Firmware services -/

/-- A scrub pass poisons uncorrectable lines of its die and changes no byte; a fatal error fails every job; a key slot is loaded only in a
session for the one partition that owns it, and measured, or cleared, once no segment under it is in T (R45 to R50, R343, R351).
Answers from outside: a device or remote access that nothing older holds back takes its answer, which its lane's register shows once the
instruction has no other access under way, a refused remote access traps where its group holds, and a pool line takes the pool's data or poison
(R17, R24, R94, R346). -/
def Obligations.ErrorsKeysAnswers : Prop :=
  ((∀ s die good bad, Happens (.scrubPass die good bad) s (fun t => t.mem = s.mem ∧ ∀ la, la ∈ bad → OfDie die la → getD false t.poison la = true)) ∧
  (∀ s k die, 1 ≤ k → k ≤ 4 → Happens (.fatalError k die) s (fun t => t.boot.fatal = true ∧
    ∀ j, (s.job j).live = true → (t.job j).st = .failed)) ∧
  (∀ s slot part key, s.boot.session = true → slot ≠ 0 → s.slotBusy slot = false →
    (∀ e, e ∈ s.parts → e.1 ≠ part.toNat → e.2.setUp = true → e.2.rcd.slots.getLsbD slot.toNat = false) →
    Happens (.keySlotLoad slot part key) s (fun t => lookup t.keys slot.toNat = some { part := part, key := key } ∧
      Extended s t 5 [slot.setWidth 8, part.setWidth 8])) ∧
  ∀ s slot, slot ≠ 0 → s.slotBusy slot = false → Happens (.keySlotClear slot) s (fun t => lookup t.keys slot.toNat = none ∧ t.boot = s.boot)) ∧
  ((∀ s i a data, s.pend[i]? = some a → a.kind = .deviceIo → s.blockedAt i a = false →
    Happens (.deviceIoAnswer i data) s (fun t => t.pend = dropAt s.pend i ∧ t.mem = s.mem ∧
      ∀ d, Alone s i a → a.op = .load false d → a.w = 4 → a.off = 0 → (t.group a.grp).v32 d.toNat a.lane.toNat = data.extractLsb' 0 32)) ∧
  (∀ s i a data x, s.pend[i]? = some a → a.kind = .remote → s.blockedAt i a = false →
    Happens (.remoteAccessAnswer i (some data) x) s (fun t => t.pend = dropAt s.pend i ∧ t.mem = s.mem ∧ (x = none → t.l2 = s.l2) ∧
      ∀ d, Alone s i a → a.op = .load false d → a.w = 4 → a.off = 0 → (t.group a.grp).v32 d.toNat a.lane.toNat = data.extractLsb' 0 32)) ∧
  (∀ s i a x, s.pend[i]? = some a → a.kind = .remote → s.blockedAt i a = false → s.precise a = true →
    ((s.group a.grp).flightOf a.flight).isSome = true → (s.group a.grp).tm = false → (s.job (s.group a.grp).job).jd.trapv ≠ 0 →
    Happens (.remoteAccessAnswer i none x) s (fun t => t.mem = s.mem ∧ (∀ b, b ∈ t.pend → ¬(b.grp = a.grp ∧ b.flight = a.flight)) ∧ (t.group a.grp).tm = true ∧
      (t.group a.grp).fi.cause = 0x11 ∧ (t.group a.grp).fi.info.extractLsb' 39 4 = 9 ∧ (t.group a.grp).fi.addr = a.va.setWidth 64)) ∧
  (∀ s la d, regionOf (la * 128) = .pool → s.poolDark la = false → Happens (.poolCompletion la (some d)) s (fun t =>
    t.memLine (getD 0 s.lineKid la) la = d ∧ getD false t.poison la = false)) ∧
  ∀ s la, regionOf (la * 128) = .pool → Happens (.poolCompletion la none) s (fun t => t.mem = s.mem ∧ getD false t.poison la = true))

/-- The load service enters an object that passes its checks in the job's table and changes nothing for any other; a rewrite of text drops
what cores had fetched of its pages (R181 to R183, R329).
The debug service writes breakpoint registers and DBGCTL at any time, registers and PCs of a stopped job, resumes a held one, and
places a breakpoint in a private copy of a page (R287, R330). -/
def Obligations.CodeObjectsAndDebug : Prop :=
  ((∀ s job base image frame kid, Loadable s job base image kid → Happens (.codeObjectLoad job base image frame kid) s (fun t =>
    (t.job job).cot = (s.job job).cot ++ [{ base := base, size := objSize image }])) ∧
  (∀ s job base image frame kid, ¬Loadable s job base image kid → exec (.codeObjectLoad job base image frame kid) s = .next s) ∧
  ∀ s job va words stubs, (s.job job).live = true → va.toNat % 4 = 0 → Happens (.textRewrite job va words stubs) s (fun t => t.jobs = s.jobs ∧
    ∀ e, e ∈ t.ibuf ↔ e ∈ s.ibuf ∧ ¬(e.1 / 2 ^ 66 = job ∧ va.toNat / 4096 * 4096 ≤ e.1 % 2 ^ 57 ∧
      e.1 % 2 ^ 57 < (va.toNat + 4 * words.length + 4095) / 4096 * 4096))) ∧
  ((∀ s job i v, (s.job job).live = true → Happens (.debugServiceRequest job (.bpm i v)) s (fun t => ∀ n,
    getD 0 (t.job job).bpm n = if n = i.toNat then v &&& 0x81FFFFFFFFFFFFFC else getD 0 (s.job job).bpm n)) ∧
  (∀ s job v, (s.job job).live = true → Happens (.debugServiceRequest job (.ctl v)) s (fun t => (t.job job).dbgctl = v &&& 1)) ∧
  (∀ s job tm q r v, (s.job job).live = true → (s.job job).st = .stopped → (s.group (gkey job tm q)).live = true →
    Happens (.debugServiceRequest job (.writeS tm q r v)) s (fun t => t = { s with groups := t.groups } ∧
      ∀ n, (t.group (gkey job tm q)).sget n = if n = r.toNat ∧ n ≠ 0 then v else (s.group (gkey job tm q)).sget n)) ∧
  (∀ s job tm q l r v, (s.job job).live = true → (s.job job).st = .stopped → (s.group (gkey job tm q)).live = true →
    Happens (.debugServiceRequest job (.writeV tm q l r v)) s (fun t => t = { s with groups := t.groups } ∧
      (t.group (gkey job tm q)).v32 r.toNat l.toNat = v)) ∧
  (∀ s job tm q l pc, (s.job job).live = true → (s.job job).st = .stopped → (s.group (gkey job tm q)).live = true →
    l.toNat < (s.group (gkey job tm q)).lanes.length →
    Happens (.debugServiceRequest job (.writePc tm q l pc)) s (fun t => t = { s with groups := t.groups } ∧
      (t.group (gkey job tm q)).lane l.toNat = { (s.group (gkey job tm q)).lane l.toNat with pc := pc &&& ~~~ 3 })) ∧
  (∀ s job, (s.job job).live = true → (s.job job).st = .stopped → (s.job job).held = true →
    Happens (.debugServiceRequest job .resume) s (fun t => t.job job = { s.job job with held := false })) ∧
  ∀ s job va frame p, (s.job job).live = true → (s.job job).st = .stopped → s.walk job va.toNat = .page p → va.toNat % 4 = 0 →
    frame.toNat * 4096 % p.size = 0 →
    Happens (.debugPrivateBreakpoint job va frame) s (fun t => (t.job job).priv = (s.job job).priv ++ [(va, p.leaf)]))

end

namespace Sys2Proof.Says

open Sys2Proof.Machine

/-- A cluster of a job stands so. -/
def ClusterIs (s : State) (j c : Nat) (p : Cluster → Prop) : Prop := ∃ x : Cluster, (s.job j).clusters[c]? = some x ∧ p x
/-- A close is in progress, and the record before it has streamed. -/
def ClosesNow (s : State) (job : Nat) (c : Close) : Prop :=
  (s.job job).live = true ∧ (s.job job).close = some c ∧ (s.job job).stream = none
/-- Nothing of a close waits: every group is at its restart point, everything that R312 names has performed, no line of the set is dirty. -/
def CloseReady (s : State) (job : Nat) (c : Close) : Prop :=
  ClosesNow s job c ∧ c.asked = true ∧ c.halted = true ∧ s.saveReady (s.groupsIn (s.closeTeams job)) = true ∧ s.dirtyInSet job = []
/-- The last log page of a record, which has room for some bytes. -/
def LogRoom (s : State) (r : Record) (n k : Nat) (p : PageRec) : Prop :=
  r.keys.getLast? = some k ∧ lookup s.records k = some p ∧ p.v = true ∧ p.sl = false ∧ p.ct + n ≤ asSize p.ps
/-- A record has begun, its last log page has no room for some bytes, and the pool has no frame for another. -/
def LogFull (s : State) (r : Record) (n : Nat) : Prop := r.keys ≠ [] ∧ (∀ k p, ¬LogRoom s r n k p) ∧ s.sparePool (2 ^ 21) = none
/-- A record fails: no log, CKF set, the next record full. -/
def RecordFails (i : Instr) (s : State) (job : Nat) : Prop :=
  Happens i s (fun t => t.mem = s.mem ∧ (t.job job).ckf = true ∧ (t.job job).full = true ∧
    (t.job job).stream = none ∧ (t.job job).log = (s.job job).log ∧ ∀ e, e ∈ t.frozen → e.2 ≠ job)
/-- Bytes stand in memory from an address on, as a key slot reads them. -/
def InMemory (t : State) (kid : BitVec 6) (a : Nat) (bs : List Byte) : Prop := ∀ i b, bs[i]? = some b → t.memByte kid (a + i) = b

end Sys2Proof.Says

section

open Sys2Proof Sys2Proof.Machine Sys2Proof.Says

/-! ## Stops, checkpoints and resumes -/

/-- A stop is requested of a placed cluster, ends once its groups and engines are at restart points, with a pass of the distributor, and the save
writes an image under the system key, which frees its cores; a resume places a saved cluster of a job whose keys are loaded and whose image is
whole, and is refused otherwise; the job status block shows the job (R47, R301, R306, R311 to R313, R320, R326). -/
def Obligations.StopsAndResumes : Prop :=
  (∀ s job cl, (s.job job).live = true → ClusterIs s job cl (fun c => c.st = .placed) → Happens (.stopRequest job cl) s (fun t => t.mem = s.mem ∧
    ClusterIs t job cl (fun c => c.st = .stopping) ∧ t.groups = s.groups)) ∧
  (∀ s job cl, (s.job job).live = true → ClusterIs s job cl (fun c => c.st = .stopping) → (s.job job).closing = false →
    s.teamsRest (s.teamsIn job cl) = true → ∃ u : State, exec (.stopComplete job cl) s = .next (u.pass (s.job job).jd.rdie) ∧ u.mem = s.mem ∧
      ClusterIs u job cl (fun c => c.st = .halted ∧ c.entry = u.timer.toNat) ∧ s.timer.toNat ≤ u.timer.toNat) ∧
  (∀ s job cl base, ClusterIs s job cl (fun c => c.st = .halted) → s.inError job = false → (s.job job).closing = false →
    s.saveReady (s.groupsIn (s.teamsIn job cl)) = true → (s.job job).saveBase cl = some base → base % 128 = 0 →
    Happens (.saveComplete job cl) s (fun t => ClusterIs t job cl (fun c => c.st = .saved) ∧ (t.job job).image.isSome = true ∧
      (∃ im, lookup (t.job job).saved cl = some (base, im) ∧ t.rangeBytes (s.skidOf job) base im.length = im ∧
        ∀ a, a < base ∨ base + (padLine im).length ≤ a → Memory.read t.mem a = Memory.read s.mem a) ∧
      ∀ e, e ∈ (s.teamsIn job cl).flatMap s.coresOf → Instr.coreFree e.1 e.2 ∈ t.agenda)) ∧
  (∀ s job die half mask, let j := s.job job
    j.live = true → j.held = false → (List.range j.clusters.length).any (fun c => j.waits c .saved) = true → mask ≠ 0 → mask &&& ~~~ (s.part j.part).coreMask die half = 0 →
    die < 4 → half < 2 → (j.jd.pr = true → oddPair mask = false) → die = j.jd.rdie ∨ j.offCores = true →
    (s.keysOk job [] = true → ((s.moveRegion job die half mask).bind (fun t => t.seatSaved job)).isSome = true →
      ((∀ c, j.waits c .saved = true → s.imageGood job c = true) → Happens (.resume job die half mask) s (fun t =>
        ∃ c, ClusterIs s job c (fun x => x.st = .saved) ∧ ClusterIs t job c (fun x => x.holds = true))) ∧
      ((∀ c, j.waits c .saved = true → s.imageGood job c = false) → Happens (.resume job die half mask) s (fun t => t.groups = s.groups ∧
        t.mem = s.mem ∧ ∃ c, j.waits c .saved = true ∧ (t.job job).waits c .saved = false ∧ ClusterIs t job c (fun x => x.st = .saved)))) ∧
    (s.keysOk job [] = false → Happens (.resume job die half mask) s (fun t => (j.offCores = true → (t.job job).st = .stopped) ∧
      t.groups = s.groups ∧ t.mem = s.mem))) ∧
  ∀ s job, Happens (.jsbUpdate job) s (fun t => t.jobs = s.jobs ∧ t.groups = s.groups ∧
    ∀ p, s.walk job (s.job job).jd.jsb.toNat = .page p → pteRs p.leaf = true →
      let a := pteFn p.leaf * 4096 + (s.job job).jd.jsb.toNat % p.size
      a % 128 + 64 ≤ 128 → (s.recall (a / 128)).liveCopy (a / 128) = none → t.numNow (pteKid p.leaf) a 8 = (s.job job).jst)

/-- Checkpoint requests open an interval or ask for its close, moves ask for a full close; a close stops the job, captures the context of
its interval in a record and goes on in the next; units stream one by one into the record's log pages, and the record completes the log, its last
page sealed, or fails, as it does when the pool has no frame for a page (R91, R282 to R285, R322 to R327). -/
def Obligations.Closes : Prop :=
  (∀ s job, (s.job job).live = true → (s.job job).jd.ckp = 2 → Happens (.checkpointTimer job) s (fun t => t = { s with jobs := t.jobs } ∧
    ((s.job job).opn = false → (t.job job).opn = true ∧ (t.job job).iv = (s.job job).iv + 1 ∧ (t.job job).close = (s.job job).close) ∧
    ((s.job job).opn = true → (t.job job).close.isSome = true ∧ (t.job job).iv = (s.job job).iv))) ∧
  (∀ s job, (s.job job).live = true → Happens (.move job) s (fun t => t = { s with jobs := t.jobs } ∧
    ∃ c, (t.job job).close = some c ∧ c.isMove = true)) ∧
  (∀ s job c, ClosesNow s job c → c.asked = false →
    Happens (.closeStop job) s (fun t => t = { s with jobs := t.jobs } ∧ (t.job job).close = some { c with asked := true })) ∧
  (∀ s job c, ClosesNow s job c → c.asked = true → c.halted = false → s.teamsRest (s.closeTeams job) = true →
    Happens (.closeStop job) s (fun t => t.mem = s.mem ∧ (t.job job).close = some { c with halted := true })) ∧
  (∀ s job c, CloseReady s job c → ∃ t : State, exec (.closeStop job) s =
      .next (if (s.job job).clusters.any (fun x => x.st == .stopping) && !c.isMove then t.pass (s.job job).jd.rdie else t) ∧
    (t.job job).close = none ∧ (c.stop = true → (t.job job).opn = false) ∧ (c.stop = false → (t.job job).iv = c.n + 1) ∧
    (∃ r, (t.job job).stream = some r ∧ r.iv = c.n ∧ r.complete = false ∧ (c.isMove = true → r.kind = 2)) ∧
    (c.isMove = true → (t.job job).st = .stopped ∧ (t.job job).held = true)) ∧
  (∀ s job r u k p, let bs := unitEntry (u, s.unitBytes r u)
    (s.job job).stream = some r → s.nextUnit (s.job job).todo = some u → LogRoom s r bs.length k p →
    Happens (.unitStreamed job) s (fun t => lookup t.frozen u = none ∧ u ∉ (t.job job).todo ∧
      (∃ r2, (t.job job).stream = some r2 ∧ (u, s.unitBytes r u) ∈ r2.units ∧ r2.img = r.img ∧ r2.keys = r.keys) ∧
      lookup t.records k = some { p with rt := p.rt + bs.length, ct := p.ct + bs.length } ∧ InMemory t p.kid (p.bfn.toNat * 4096 + p.ct) bs)) ∧
  (∀ s job r u, (s.job job).stream = some r → s.nextUnit (s.job job).todo = some u → LogFull s r 65552 → RecordFails (.unitStreamed job) s job) ∧
  (∀ s job r k p, let d := r.digest job (s.job job).part
    (s.job job).stream = some r → (s.job job).todo = [] → r.kind ≠ 2 → LogRoom s r 64 k p →
    Happens (.recordComplete job) s (fun t => (t.job job).log = (s.job job).log ++ [{ r with dig := d, complete := true }] ∧ (t.job job).liv = r.iv ∧
      (t.job job).ldig = d ∧ (t.job job).ckdig = d ∧ (t.job job).ckf = false ∧ (t.job job).stream = none ∧
      lookup t.records k = some { p with rt := p.rt + 64, ct := p.ct + 64, sl := true })) ∧
  (∀ s job r, (s.job job).stream = some r → (s.job job).todo = [] → LogFull s r 64 → RecordFails (.recordComplete job) s job) ∧
  ∀ s job r, (s.job job).stream = some r → RecordFails (.recordFailed job) s job

end

namespace Sys2Proof.Says

open Sys2Proof.Machine

/-- Nothing for a distributor to do: no queue has a head that waits, no partition owns an enabled deadline class. -/
def NothingWaits (s : State) : Prop :=
  (∀ q, q ∈ s.queues → s.headOf q.1 = none) ∧ ∀ p, p ∈ s.parts → ∀ c, c ∈ p.2.rcd.classes → c.getLsbD 63 = false
/-- One queue, whose head cluster finds its cores. -/
def OneHead (s : State) (die j c : Nat) : Prop :=
  (∀ p, p ∈ s.parts → ∀ k, k ∈ p.2.rcd.classes → k.getLsbD 63 = false) ∧
  (∃ q x, s.queues = [(q, x)] ∧ s.headOf q = some (j, c)) ∧ ((s.job j).waits c .saved = true → s.imageGood j c = true) ∧ (s.job j).jd.rdie = die ∧
  (s.choose (s.heldCores.map (fun e => e.1)) j c).isSome = true
/-- Time units are counted on the device timer. -/
def TimeUnit (s t : State) : Prop := s.timer.toNat + 147 < 2 ^ 64 → s.timer.toNat + 147 ≤ t.timer.toNat

end Sys2Proof.Says

section

open Sys2Proof Sys2Proof.Machine Sys2Proof.Says

/-! ## Scheduling -/

/-- A distributor's pass, on a freed core or a time unit, changes nothing where nothing waits, and places a head cluster whose cores are
free (R301, R302).
A deadline job that its queue's head is of is accepted where no accepted one shares its cores, and then all of them are reserved or its own; one past its run time
loses its standing and is reported; an idle die is noted (R299, R300, R359).
A team that is over ends: its successor starts in place at the chained entry with the chained argument and the team's memory, or the
team is gone (R126, R131, R204). -/
def Obligations.Scheduling : Prop :=
  (((∀ s die core, NothingWaits s → exec (.coreFree die core) s = .next s) ∧
  (∀ s die core j c, OneHead s die j c → Happens (.coreFree die core) s (fun t => ClusterIs t j c (fun x => x.holds = true))) ∧
  (∀ s die, NothingWaits s → Happens (.distributorTimeUnit die) s (fun t => TimeUnit s t ∧ t = { s with timer := t.timer, free := t.free })) ∧
  ∀ s die, Happens (.distributorTimeUnit die) s (TimeUnit s)) ∧
  ((∀ s job, let j := s.job job
    j.live = true → j.jd.dc ≠ 0 → j.accepted = false → s.headJob j.queue = some job →
    (∀ e, e ∈ s.jobs → e.2.live = true → e.2.accepted = true → ∀ k, k ∈ e.2.jd.coreKeys → k ∉ j.jd.coreKeys) →
    Happens (.deadlineAccept job) s (fun t => (t.job job).accepted = true ∧ (t.job job).standing = true)) ∧
  (∀ s job c, let j := s.job job
    j.live = true → j.standing = true → j.clusters.find? (fun c => c.holds) = some c →
    Happens (.deadlineOverrun job) s (fun t => (t.job job).standing = false ∧ (t.job job).ovr = true ∧ t.mem = s.mem ∧
      (c.placedAt + (j.jd.brt * 1024 + 6) / 7 < 2 ^ 64 → c.placedAt + (j.jd.brt * 1024 + 6) / 7 ≤ t.timer.toNat))) ∧
  ∀ s die, (∀ e, e ∈ s.heldCores → e.1.1 ≠ die) → die ∉ s.boot.idle →
    Happens (.dieIdle die) s (fun t => t = { s with boot := { s.boot with idle := s.boot.idle ++ [die] } }))) ∧
  ((∀ s job tm, let tk := tkey job tm
    let x := s.team tk
    s.teamRuns job tm = true → s.teamOver tk = true → x.chain.v = true → (s.job job).jd.gpt ≤ 64 →
    Happens (.teamEnd job tm) s (fun t => t.mem = s.mem ∧ (t.team tk).mem = x.mem ∧ (t.team tk).bars = x.bars ∧ (t.team tk).acc = x.acc ∧
      (t.team tk).chain.v = false ∧ ∀ q, q < (s.job job).jd.gpt → (t.group (gkey job tm q)).live = true ∧
        (t.group (gkey job tm q)).sget 1 = x.chain.a ∧ ∀ l, l < (s.job job).jd.width →
          (t.group (gkey job tm q)).lane l = { Lane.dead with pc := x.chain.e, st := .run })) ∧
  ∀ (s : State) (job tm : Nat), tm < 65536 → s.teamRuns job tm = true → s.teamOver (tkey job tm) = true → (s.team (tkey job tm)).chain.v = false →
    Happens (.teamEnd job tm) s (fun t => t.team (tkey job tm) = Team.dead))

end

namespace Sys2Proof.Says

open Sys2Proof.Machine

/-- The queue runs and its next packet is whole: type, payload words, header. -/
def AtPacket (s : State) (q ty nw : Nat) (h : DWord) : Prop :=
  let x := s.queue q
  h = s.qword q 0 ∧ x.qs = 1 ∧ x.left ≠ 0 ∧ (x.buf = [] → x.left ≤ 2 ^ x.rsz) ∧ (h.extractLsb' 56 8).toNat = ty ∧
    (h.extractLsb' 48 8).toNat = nw ∧ nw < x.left
/-- A packet in the ring is done: the pointer is past its words. -/
def Past (s t : State) (q n : Nat) : Prop := (t.queue q).ip = ((s.queue q).ip + n) % 2 ^ 32 ∧ (t.queue q).buf = []
/-- The queue has halted with a packet error at the packet. -/
def Failed (s t : State) (q code : Nat) : Prop := (t.queue q).qs = 3 ∧ (t.queue q).err = code ∧ (t.queue q).epos = (s.queue q).ip
/-- A payload word as an address. -/
def addrWord (s : State) (q i : Nat) : Nat := ((s.qword q i).extractLsb' 0 52).toNat
/-- The descriptor and the root frame of a JOB packet. -/
def jobWords (s : State) (q : Nat) : List DWord :=
  (List.range 16).map (fun i => BitVec.ofNat 64 (s.fwRead (s.queue q).part (addrWord s q 1 + 8 * i) 8))
def jobRoot (s : State) (q : Nat) : BitVec 40 := (s.qword q 2).extractLsb' 12 40
/-- The word of memory that a packet names, now. -/
def wordNow (s : State) (q i : Nat) : Nat := s.numNow (s.fwKid (s.queue q).part (addrWord s q i)) (addrWord s q i) 8
/-- The wait condition of a WAITV (R336). -/
def WaitHolds (s : State) (q : Nat) : Prop :=
  let x := (s.qword q 2).toNat
  let c := ((s.qword q 3).extractLsb' 0 2).toNat
  (c = 0 ∧ wordNow s q 1 = x) ∨ (c = 1 ∧ wordNow s q 1 ≠ x) ∨ (c = 2 ∧ x ≤ wordNow s q 1) ∨ (c = 3 ∧ wordNow s q 1 < x)

end Sys2Proof.Says

section

open Sys2Proof Sys2Proof.Machine Sys2Proof.Says

/-! ## Queues, packets and events -/

/-- NOP, JOIN and HALT; CALL and RET with their depth and pointers; the errors of a bad type, count, address or depth (R336 to R338).
WAITV goes on once its condition holds and fails at its time-out; SIGV, once the queue's jobs have ended, stores or adds its value
(R336). -/
def Obligations.Packets : Prop :=
  ((∀ s q nw h, AtPacket s q 0 nw h → (s.queue q).buf = [] → Happens (.packetNop q) s (fun t => Past s t q (nw + 1) ∧ t.mem = s.mem)) ∧
  (∀ s q h, AtPacket s q 4 0 h → (s.queue q).buf = [] → Happens (.packetJoin q) s (fun t => Past s t q 1 ∧ (t.queue q).look = [] ∧ t.mem = s.mem)) ∧
  (∀ s q h, AtPacket s q 9 0 h → (s.queue q).buf = [] → Happens (.packetHalt q) s (fun t => Past s t q 1 ∧ (t.queue q).qs = 2 ∧ t.mem = s.mem)) ∧
  (∀ s q h, let a := addrWord s q 1
    let n := ((s.qword q 2).extractLsb' 0 32).toNat
    AtPacket s q 2 2 h → (s.queue q).buf = [] → s.addrOk q a = true → n ≠ 0 → n ≤ 2 ^ 24 → s.assigned (s.queue q).part (a + 8 * n - 1) = true →
    (s.queue q).dep < 2 → Happens (.packetCall q) s (fun t => (t.queue q).buf = [(a, n)] ∧ (t.queue q).dep = (s.queue q).dep + 1 ∧
      (t.queue q).ip = (s.queue q).ip ∧ t.mem = s.mem)) ∧
  (∀ s q h, AtPacket s q 2 2 h → s.addrOk q (addrWord s q 1) = false → Happens (.packetCall q) s (fun t => Failed s t q 3)) ∧
  (∀ s q h b, AtPacket s q 3 0 h → (s.queue q).buf = [b] → (s.queue q).dep = 1 → Happens (.packetRet q) s (fun t => Past s t q 3 ∧
    (t.queue q).dep = 0 ∧ t.mem = s.mem)) ∧
  (∀ s q h, AtPacket s q 3 0 h → (s.queue q).dep = 0 → Happens (.packetRet q) s (fun t => Failed s t q 6)) ∧
  (∀ s q ty nw h, AtPacket s q ty nw h → 9 < ty → Happens (.packetNop q) s (fun t => Failed s t q 1 ∧ t.jobs = s.jobs)) ∧
  ∀ s q nw h, AtPacket s q 9 nw h → nw ≠ 0 → Happens (.packetHalt q) s (fun t => Failed s t q 2)) ∧
  ((∀ s q h, AtPacket s q 5 3 h → (s.queue q).buf = [] → s.addrOk q (addrWord s q 1) = true → WaitHolds s q →
    Happens (.packetWaitv q) s (fun t => Past s t q 4 ∧ t.mem = s.mem)) ∧
  (∀ s q h, AtPacket s q 5 3 h → s.addrOk q (addrWord s q 1) = false → Happens (.packetWaitv q) s (fun t => Failed s t q 3)) ∧
  (∀ s q h, AtPacket s q 5 3 h → ¬WaitHolds s q → (s.qword q 3).extractLsb' 32 32 ≠ 0 → Happens (.waitvTimeout q) s (fun t => Failed s t q 7)) ∧
  ∀ s q h, let a := addrWord s q 1
    AtPacket s q 6 3 h → (s.queue q).buf = [] → s.addrOk q a = true → (∀ j, j ∈ (s.queue q).jobs → (s.job j).queue = q → (s.job j).live = false) →
    (s.recall (a / 128)).liveCopy (a / 128) = none → Happens (.packetSigv q) s (fun t => Past s t q 4 ∧ t.numNow (s.fwKid (s.queue q).part a) a 8 =
      if (s.qword q 3).getLsbD 0 = true then (wordNow s q 1 + (s.qword q 2).toNat) % 2 ^ 64 else (s.qword q 2).toNat))

/-- JOB admits a job that stands the checks, and fails otherwise; CKPT asks for an interval's opening or close, PREEMPT stops and holds a job
or releases it; each fails for a job of another partition (R282, R298, R336).
The host rewrites a queue's state; a doorbell takes effect for a queue of its function's partition in RUN, and is counted or discarded
otherwise; a ring takes one record at a time, the deferred errors first, where it is found to have space (R337, R341, R342, R345). -/
def Obligations.PacketJobsAndQueues : Prop :=
  ((∀ s q h u i, AtPacket s q 1 2 h → (s.queue q).buf = [] → addrWord s q 1 % 128 = 0 → s.addrOk q (addrWord s q 1) = true →
    s.assigned (s.queue q).part ((jobRoot s q).toNat * 4096) = true → s.admitJob q (h.extractLsb' 0 32) (jobWords s q) (jobRoot s q) = some (u, i) →
    Happens (.packetJob q) s (fun t => Past s t q 3 ∧ (t.job i).live = true ∧ (t.job i).queue = q ∧ (t.job i).tag = h.extractLsb' 0 32 ∧
      (t.job i).root = jobRoot s q ∧ (t.job i).jd = JobDesc.ofWords (jobWords s q))) ∧
  (∀ s q h, AtPacket s q 1 2 h → addrWord s q 1 % 128 = 0 → s.addrOk q (addrWord s q 1) = true →
    s.assigned (s.queue q).part ((jobRoot s q).toNat * 4096) = true →
    jdOk (jobWords s q) = false ∨ s.jobOk (s.queue q).part (JobDesc.ofWords (jobWords s q)) (jobRoot s q) = false →
    Happens (.packetJob q) s (fun t => Failed s t q 4 ∧ t.jobs = s.jobs)) ∧
  (∀ s q h, let j := ((s.qword q 1).extractLsb' 0 32).toNat
    AtPacket s q 7 1 h → (s.queue q).buf = [] → s.ownJob q j = true → (s.job j).jd.ckp = 1 ∨ (s.job j).jd.ckp = 2 →
    Happens (.packetCkpt q) s (fun t => Past s t q 2 ∧ t.mem = s.mem ∧
      ((s.job j).opn = false → (t.job j).opn = true ∧ (t.job j).iv = (s.job j).iv + 1) ∧ ((s.job j).opn = true → (t.job j).close.isSome = true))) ∧
  (∀ s q h, let j := ((s.qword q 1).extractLsb' 0 32).toNat
    AtPacket s q 7 1 h → s.ownJob q j = false ∨ (s.job j).jd.ckp ≠ 1 ∧ (s.job j).jd.ckp ≠ 2 →
    Happens (.packetCkpt q) s (fun t => Failed s t q 8 ∧ t.jobs = s.jobs)) ∧
  (∀ s q h, let j := ((s.qword q 1).extractLsb' 0 32).toNat
    AtPacket s q 8 1 h → (s.queue q).buf = [] → s.ownJob q j = true → (s.qword q 1).getLsbD 32 = false →
    Happens (.packetPreempt q) s (fun t => Past s t q 2 ∧ (t.job j).held = true ∧ t.mem = s.mem ∧
      ((s.job j).offCores = true → (t.job j).st = .stopped) ∧ ((s.job j).offCores = false → (t.job j).st = .stopping))) ∧
  (∀ s q h, let j := ((s.qword q 1).extractLsb' 0 32).toNat
    AtPacket s q 8 1 h → (s.queue q).buf = [] → s.ownJob q j = true → (s.qword q 1).getLsbD 32 = true → s.copies = [] →
    Happens (.packetPreempt q) s (fun t => Past s t q 2 ∧ (t.job j).held = false)) ∧
  ∀ s q h, AtPacket s q 8 1 h → s.ownJob q ((s.qword q 1).extractLsb' 0 32).toNat = false →
    Happens (.packetPreempt q) s (fun t => Failed s t q 8 ∧ t.jobs = s.jobs)) ∧
  ((∀ s q w, w.length = 7 → (lookup s.queues q).isSome = true → (s.part (s.queue q).part).tdisp ≠ .error →
    Happens (.qcbRewrite q w) s (fun t => t = { s with queues := t.queues } ∧ (t.queue q).buf = [] ∧ (t.queue q).look = [] ∧
      (t.queue q).jobs = (s.queue q).jobs ∧ (t.queue q).ip = ((w.getD 1 0).extractLsb' 32 32).toNat ∧
      (t.queue q).db = ((w.getD 1 0).extractLsb' 0 32).toNat ∧ (t.queue q).qs = ((w.getD 5 0).extractLsb' 0 3).toNat)) ∧
  (∀ s q w, w.length = 7 → (lookup s.queues q).isSome = true → (s.part (s.queue q).part).tdisp = .error → exec (.qcbRewrite q w) s = .next s) ∧
  (∀ s fn q v, 1 ≤ fn → fn ≤ 16 → q < 4096 → (s.part (fn - 1)).tdisp ≠ .run → exec (.doorbellWrite fn q v) s = .next s) ∧
  (∀ s fn q v, 1 ≤ fn → fn ≤ 16 → q < 4096 → (s.part (fn - 1)).tdisp = .run → q ∉ (s.part (fn - 1)).rcd.queues →
    Happens (.doorbellWrite fn q v) s (fun t => t.queues = s.queues ∧ (t.part (fn - 1)).errs = (s.part (fn - 1)).errs + 1)) ∧
  (∀ s fn q v, 1 ≤ fn → fn ≤ 16 → q < 4096 → (s.part (fn - 1)).tdisp = .run → q ∈ (s.part (fn - 1)).rcd.queues →
    Happens (.doorbellWrite fn q v) s (fun t => (t.queue q).db = v.toNat ∧ t.mem = s.mem ∧
      (t.queue q).qs = if (s.queue q).qs = 0 then 1 else (s.queue q).qs)) ∧
  ∀ s part ring, let r := s.ring part ring
    (s.part part).tdisp ≠ .error →
    (r.latched ≠ 0 → Happens (.eventRecordPost part ring) s (fun t =>
      ((t.ring part ring).ewr = r.ewr ∧ (t.ring part ring).latched = r.latched ∧ t.mem = s.mem) ∨
      ((t.ring part ring).ewr = r.ewr + 1 ∧ (t.ring part ring).latched = 0 ∧ (t.ring part ring).wait = r.wait))) ∧
    ∀ e l, r.latched = 0 → r.wait = e :: l → Happens (.eventRecordPost part ring) s (fun t =>
      ((t.ring part ring).ewr = r.ewr ∧ (t.ring part ring).wait = r.wait ∧ t.mem = s.mem) ∨
      ((t.ring part ring).ewr = r.ewr + 1 ∧ (t.ring part ring).wait = l ∧
        let a := r.ebf.toNat * 4096 + 32 * (r.ewr.toNat % 2 ^ (r.esz + 4))
        ((s.recall (a / 128)).liveCopy (a / 128) = none → t.numNow (s.fwKid part a) a 32 = e.toNat))))

end

namespace Sys2Proof.Says

open Sys2Proof.Machine

/-- The event cannot finish: it stays for later, and an agent asks for the line. -/
def Waits (s t : State) (i : Instr) (a la : Nat) (write : Bool) : Prop :=
  t.agenda = s.agenda ++ [i] ∧ (t.reqOf a la write).isSome = true ∧ t.mem = s.mem
/-- H0 sends a line's new data home with all the tokens. -/
def SendsHome (t : State) (la : Nat) (kid : BitVec 6) (d : BitVec 1024) : Prop :=
  ∃ m : Msg, m ∈ t.msgs ∧ m.ty = 3 ∧ m.dst.toNat = homeOf (la * 128) ∧ m.la = la ∧ m.tc = 16 ∧ m.d = true ∧ m.dt = true ∧ m.kid = kid ∧ m.data = d
/-- H0 holds every token of a line that has another home, with data. -/
def AllAtH0 (s : State) (la : Nat) : Prop :=
  regionOf (la * 128) = .hbm ∧ (s.h0line la).tc = 16 ∧ (s.h0line la).dv = true ∧ (s.h0line la).ow = true
/-- The value that a snoop is answered with: the line, if it is dirty. -/
def DirtyValue (s : State) (la : Nat) : Option (BitVec 1024) := if getD false s.hostDirty la then some (s.memLine 0 la) else none
/-- A response leaves for another device: data or a refusal, poison, the line of a sealed page. -/
def Answered (s : State) (dev : Nat) (a : BitVec 39) (w : Nat) (data : Option Nat) (pz : Bool) (line : Option (BitVec 1024)) : State :=
  { s with remoteOut := s.remoteOut ++ [{ dev := dev, addr := a, w := w, data := data, pz := pz, line := line }] }
/-- Another device's access of a line with no record, which an import entry admits under a loaded slot. -/
def ImportOf (s : State) (dev part : Nat) (a : BitVec 39) (w : Nat) (op : RemoteOp) (e : Import) : Prop :=
  remoteShape a w op = true ∧ s.importFor dev part a.toNat w (decide (op ≠ .read)) = some e ∧ s.recordAt a.toNat = none ∧
    s.keyOk e.kid.toNat e.tpart = true
/-- An error is counted for a place, and nothing else happens. -/
def OnlyLogged (s t : State) (pa : Nat) : Prop :=
  t = { s with errlog := t.errlog } ∧ getD 0 t.errlog (errRegion pa) = getD 0 s.errlog (errRegion pa) + 1

end Sys2Proof.Says

section

open Sys2Proof Sys2Proof.Machine Sys2Proof.Says

/-! ## The host and other devices -/

/-- SnpData leaves a recalled line shared (log 40), SnpInv with no permission and all tokens home, and either is answered with the line's value
if it is dirty, once the tokens have come, which it asks for first; a grant that H0 has asked for gives host permission (R67).
A CXL.mem read keeps the tokens at H0 where the host may cache the line and sends them home otherwise; a write goes home dirty with
every token; without the tokens H0 asks for them; a slot not loaded gives nothing; a BIRsp that H0 has asked for ends the host's copy with its
data, under its decoder's slot (R47, R68). -/
def Obligations.HostLines : Prop :=
  ((∀ s la, regionOf (la * 128) = .host → (s.holding la).ow = true → Happens (.hostSnpdata la) s (fun t => t.mem = s.mem ∧
    t.hostOut = s.hostOut ++ [.snpRsp la (DirtyValue s la)] ∧ (t.hostPerm la = if s.hostPerm la = .excl then .shared else s.hostPerm la) ∧
    (s.reqs = [] → t = { s with perm := t.perm, hostOut := t.hostOut, hostDirty := t.hostDirty, wants := t.wants }))) ∧
  (∀ s la, regionOf (la * 128) = .host → (s.holding la).tc = 16 → Happens (.hostSnpinv la) s (fun t => t.mem = s.mem ∧
    .snpRsp la (DirtyValue s la) ∈ t.hostOut ∧ t.hostPerm la = .none ∧ (∀ b, b ≠ la → t.hostPerm b = s.hostPerm b) ∧
    (s.reqs = [] → t = { s with perm := t.perm, hostOut := t.hostOut, hostDirty := t.hostDirty, wants := t.wants }))) ∧
  (∀ s la, regionOf (la * 128) = .host → (s.holding la).ow = false → (s.freeEntry 8 48 16).isSome = true →
    Happens (.hostSnpdata la) s (fun t => Waits s t (.hostSnpdata la) 8 la false ∧ t.perm = s.perm ∧ t.hostOut = s.hostOut)) ∧
  (∀ s la, regionOf (la * 128) = .host → (s.holding la).tc ≠ 16 → (s.freeEntry 8 48 16).isSome = true →
    Happens (.hostSnpinv la) s (fun t => Waits s t (.hostSnpinv la) 8 la true ∧ t.perm = s.perm ∧ t.hostOut = s.hostOut)) ∧
  (∀ s la excl, (if excl = true then .rdOwn la else .rdShared la) ∉ s.hostOut → exec (.hostPermissionGrant la excl) s = .fault .notEnabled) ∧
  ∀ s la excl, regionOf (la * 128) = .host → (if excl = true then .rdOwn la else .rdShared la) ∈ s.hostOut →
    Happens (.hostPermissionGrant la excl) s (fun t =>
    (t.hostPerm la = if excl = true ∨ s.hostPerm la = .excl then .excl else .shared) ∧ (∀ b, b ≠ la → t.hostPerm b = s.hostPerm b) ∧
    (s.hostPerm la ≠ .none → (∀ m, m ∈ s.homeq → m.la ≠ la) → t.mem = s.mem))) ∧
  ((∀ s addr pa kid, s.hdmOf addr = some (pa, kid) → s.hdmLocked addr kid = false → s.h0Has (pa / 128) true = true →
    Happens (.hostCxlMemRead addr true) s (fun t => (t.h0line (pa / 128)) = { s.h0line (pa / 128) with wb := true } ∧ t.mem = s.mem ∧
      (s.reqs = [] → t.msgs = s.msgs))) ∧
  (∀ s addr pa kid, s.hdmOf addr = some (pa, kid) → s.hdmLocked addr kid = false → regionOf (pa / 128 * 128) = .hbm → s.h0Has (pa / 128) false = true →
    (s.h0line (pa / 128)).wb = false →
    Happens (.hostCxlMemRead addr false) s (fun t => (t.h0line (pa / 128)).tc = 0 ∧ t.mem = s.mem)) ∧
  (∀ s addr c pa kid, s.hdmOf addr = some (pa, kid) → s.hdmLocked addr kid = false → s.h0Has (pa / 128) c = false →
    Happens (.hostCxlMemRead addr c) s (fun t => Waits s t (.hostCxlMemRead addr c) 8 (pa / 128) c)) ∧
  (∀ s addr d pa kid, s.hdmOf addr = some (pa, kid) → s.hdmLocked addr kid = false → AllAtH0 s (pa / 128) →
    Happens (.hostCxlMemWrite addr d) s (fun t => SendsHome t (pa / 128) kid d ∧ (t.h0line (pa / 128)).tc = 0 ∧ t.mem = s.mem)) ∧
  (∀ s addr d pa kid, s.hdmOf addr = some (pa, kid) → s.hdmLocked addr kid = false → s.h0Has (pa / 128) true = false →
    Happens (.hostCxlMemWrite addr d) s (fun t => Waits s t (.hostCxlMemWrite addr d) 8 (pa / 128) true)) ∧
  (∀ s addr c d pa kid, s.hdmOf addr = some (pa, kid) → s.hdmLocked addr kid = true →
    Happens (.hostCxlMemRead addr c) s (fun t => OnlyLogged s t pa) ∧ Happens (.hostCxlMemWrite addr d) s (fun t => OnlyLogged s t pa)) ∧
  (∀ s la d, (s.h0line la).wb = false ∨ .bisnp la ∉ s.hostOut → exec (.birsp la d) s = .fault .notEnabled) ∧
  ∀ s la d, (s.h0line la).wb = true → .bisnp la ∈ s.hostOut →
    Happens (.birsp la none) s (fun t => t.h0line la = { s.h0line la with wb := false } ∧ t.mem = s.mem ∧ t.home = s.home ∧
      t.hostOut = s.hostOut.erase (.bisnp la)) ∧
    Happens (.birsp la (some d)) s (fun t => t.mem = s.mem ∧ t.h0line la =
      { s.h0line la with wb := false, data := d, dt := true, pz := false, kid := (s.hdmKid (la * 128)).getD (s.h0line la).kid }))

/-- Another device's access: without an import entry, or a write to an append-seal page, it is refused; a page that is not sealed reads zero above
its commit tail; a read of a sealed page is entered as an export, or marks the page where the table is full, and answered with the line marked as
sealed; H0 performs the others with its tokens, asks for them, or asks the host for its copy first; each is answered (R24, R78, R85, R89, R348). -/
def Obligations.RemoteAccesses : Prop :=
  (∀ s dev part a w op, remoteShape a w op = true → s.importFor dev part a.toNat w (decide (op ≠ .read)) = none →
    exec (.remoteAccessIn dev part a w op) s = .next (Answered s dev a w none false none)) ∧
  (∀ s dev part a w op e k r, remoteShape a w op = true → s.importFor dev part a.toNat w true = some e → s.recordAt a.toNat = some (k, r) →
    s.keyOk e.kid.toNat e.tpart = true → op ≠ .read →
    exec (.remoteAccessIn dev part a w op) s = .next (Answered s dev a w none false none)) ∧
  (∀ s dev part (a : BitVec 39) w e k r, remoteShape a w .read = true → s.importFor dev part a.toNat w false = some e →
    s.recordAt a.toNat = some (k, r) → s.keyOk e.kid.toNat e.tpart = true → r.sl = false → ∃ n,
    exec (.remoteAccessIn dev part a w .read) s = .next (Answered s dev a w (some n) (getD false s.poison (a.toNat / 128)) none) ∧
    (r.bfn.toNat * 4096 + r.ct ≤ a.toNat → n = 0)) ∧
  (∀ s dev part (a : BitVec 39) w e k r, remoteShape a w .read = true → s.importFor dev part a.toNat w false = some e →
    s.recordAt a.toNat = some (k, r) → s.keyOk e.kid.toNat e.tpart = true → r.sl = true →
    Happens (.remoteAccessIn dev part a w .read) s (fun t => t.mem = s.mem ∧
      (∃ n z, t.remoteOut = (Answered s dev a w (some n) z (some (s.memLine e.kid (a.toNat / 128)))).remoteOut) ∧
      ((k / 65536, k % 65536, dev) ∈ t.exports ∨ lookup t.records k = some { r with xb := true }))) ∧
  (∀ (s : State) dev part (a : BitVec 39) w op e, let la := a.toNat / 128
    ImportOf s dev part a w op e → (s.h0line la).wb = true → .bisnp la ∉ s.hostOut → exec (.remoteAccessIn dev part a w op) s =
      .next { s with hostOut := s.hostOut ++ [.bisnp la], agenda := s.agenda ++ [.remoteAccessIn dev part a w op] }) ∧
  (∀ (s : State) dev part (a : BitVec 39) w op e, let la := a.toNat / 128
    ImportOf s dev part a w op e → (s.h0line la).wb = false → s.h0Has la (decide (op ≠ .read)) = false →
    Happens (.remoteAccessIn dev part a w op) s (fun t => Waits s t (.remoteAccessIn dev part a w op) 8 la (decide (op ≠ .read)))) ∧
  (∀ (s : State) dev part (a : BitVec 39) w e, let la := a.toNat / 128
    ImportOf s dev part a w .read e → (s.h0line la).wb = false → s.h0Has la false = true →
    Happens (.remoteAccessIn dev part a w .read) s (fun t => t.mem = s.mem ∧ t.remoteOut =
      (Answered s dev a w (some (lineNum (s.h0line la).data (a.toNat % 128) w)) (s.h0line la).pz none).remoteOut)) ∧
  (∀ (s : State) dev part (a : BitVec 39) w bs e, let la := a.toNat / 128
    ImportOf s dev part a w (.write bs) e → (s.h0line la).wb = false → AllAtH0 s la →
    Happens (.remoteAccessIn dev part a w (.write bs)) s (fun t => t.mem = s.mem ∧
      t.remoteOut = (Answered s dev a w (some 0) false none).remoteOut ∧ SendsHome t la e.kid (linePut (s.h0line la).data (a.toNat % 128) (bs.take w)))) ∧
  ∀ (s : State) dev part (a : BitVec 39) w o (wide : Bool) x y e, let la := a.toNat / 128
    let n := if wide then 8 else 4
    let old := lineNum (s.h0line la).data (a.toNat % 128) n
    ImportOf s dev part a w (.atom o wide x y) e → (s.h0line la).wb = false → AllAtH0 s la → (s.h0line la).pz = false →
    Happens (.remoteAccessIn dev part a w (.atom o wide x y)) s (fun t => t.mem = s.mem ∧
      t.remoteOut = (Answered s dev a w (some old) false none).remoteOut ∧
      SendsHome t la e.kid (linePut (s.h0line la).data (a.toNat % 128) (toBytes n (atomNew o (8 * n) old x.toNat y.toNat))))

end

namespace Sys2Proof.Says

open Sys2Proof.Machine

/-- What is left of the running machine is gone, what a reset keeps is kept, and the boot ROM has run. -/
def FreshlyBooted (s t : State) : Prop :=
  t.groups = [] ∧ t.teams = [] ∧ t.jobs = [] ∧ t.queues = [] ∧ t.keys = [] ∧ t.parts = [] ∧ t.l2 = [] ∧ t.msgs = [] ∧ t.boot.rom = false ∧
    t.boot.fatal = false ∧ t.boot.session = false ∧ t.boot.fc = s.boot.fc ∧ t.boot.dump = s.boot.dump ∧
    t.boot.deviceKey = Config.deviceKey s.free ∧ t.agenda = s.agenda
/-- An item of an interface is written with a value, its neighbours are not. -/
def itemSet (p : Part) (x : DWord) : FrozenItem → Part
  | .command => { p with command := x &&& 7 }
  | .bar0 => { p with bar0 := x &&& 0xFFFFFFFFFFFFC000 }
  | .bar2 => { p with bar2 := x &&& 0xFFFFFFFFFFF00000 }
  | .msix => { p with msix := x }
  | .ide => { p with ide := x }
  | .record => p
  | .decoder => p
  | .importEntry => p

end Sys2Proof.Says

section

open Sys2Proof Sys2Proof.Machine Sys2Proof.Says

/-! ## Interfaces, boot and power -/

/-- An interface is locked, started with its nonce and stopped, its slots cleared; a write of a frozen item is an error once locked
unless it changes nothing; a report is given where locked; partitions share nothing, and each names a system key slot of its own (R296, R351, R353 to R355). -/
def Obligations.InterfaceStates : Prop :=
  (∀ s n, s.boot.session = true → (s.part n).tdisp = .unlocked → (s.part n).ide.toNat ∈ s.boot.streams → (s.part n).bar0 ≠ 0 → (s.part n).bar2 ≠ 0 →
    Happens (.lockInterfaceRequest n) s (fun t => (t.part n).tdisp = .locked ∧ t.mem = s.mem ∧ ∀ m, m ≠ n → t.part m = s.part m)) ∧
  (∀ s n, s.boot.session = false ∨ (s.part n).tdisp ≠ .unlocked ∨ (s.part n).bar0 = 0 → exec (.lockInterfaceRequest n) s = .next s) ∧
  (∀ s n, s.boot.session = true → (s.part n).tdisp = .locked → Happens (.startInterfaceRequest n (s.part n).nonce) s (fun t =>
    t.part n = { s.part n with tdisp := .run } ∧ t.mem = s.mem)) ∧
  (∀ s n x, x ≠ (s.part n).nonce ∨ (s.part n).tdisp ≠ .locked → exec (.startInterfaceRequest n x) s = .next s) ∧
  (∀ s n, s.boot.session = true → (s.part n).tdisp ≠ .unlocked → Happens (.stopInterfaceRequest n) s (fun t => (t.part n).tdisp = .unlocked ∧
    ∀ i, i ≠ 0 → i < 64 → (s.part n).rcd.slots.getLsbD i = true → lookup t.keys i = none)) ∧
  (∀ s n, (s.part n).tdisp ≠ .unlocked → Happens (.getDeviceInterfaceReport n) s (fun t => t.part n = { s.part n with report := s.reportOf n } ∧
    t.mem = s.mem)) ∧
  (∀ s n item x, (s.part n).tdisp = .unlocked → Happens (.frozenItemWrite n item x) s (fun t => t.part n = itemSet (s.part n) x item ∧ t.mem = s.mem)) ∧
  (∀ s n x, (s.part n).tdisp = .locked ∨ (s.part n).tdisp = .run → Happens (.frozenItemWrite n .bar0 x) s (fun t =>
    (t.part n).bar0 = (s.part n).bar0 ∧ ((t.part n).tdisp = .error ↔ x &&& 0xFFFFFFFFFFFFC000 ≠ (s.part n).bar0))) ∧
  (∀ s n item x, (s.part n).tdisp = .error → exec (.frozenItemWrite n item x) s = .next s) ∧
  (∀ s n r, n < 16 → (s.part n).tdisp = .unlocked → PartRec.skidOk r = true → (∀ e, e ∈ s.parts → e.1 ≠ n → e.2.setUp = true → sharesWith r e.2.rcd = false) →
    Happens (.partitionSetup n r) s (fun t => (t.part n).setUp = true ∧ (t.part n).rcd = { r with sched := r.sched &&& schedMask } ∧ t.mem = s.mem)) ∧
  ∀ s n r, 16 ≤ n ∨ (s.part n).tdisp ≠ .unlocked ∨ PartRec.skidOk r = false ∨ (∃ e, e ∈ s.parts ∧ e.1 ≠ n ∧ e.2.setUp = true ∧ sharesWith r e.2.rcd = true) →
    exec (.partitionSetup n r) s = .next s

/-- A reset from either side gives a booted machine with the fuses and the dump; recovery starts an image that is signed and new enough;
the fuse count only rises; a session and its stream keys; measurements; training clears a die's memory or is fatal; D3hot (R349 to R352,
R357 to R359). -/
def Obligations.BootAndPower : Prop :=
  (∀ s, Happens .reset s (FreshlyBooted s)) ∧
  (∀ s, Happens .mailboxReset s (FreshlyBooted s)) ∧
  (∀ s svn image, s.boot.recovery = true → s.boot.status ≠ 0 → Happens (.recoveryGo svn image) s (fun t => t.mem = s.mem ∧ t.boot.fc = s.boot.fc ∧
    t.boot.status = (if Config.signatureOk image = false then 4 else if svn < s.boot.fc ∨ 64 < svn then 5 else 0) ∧
    (t.boot.status = 0 → t.boot.svn = svn))) ∧
  (∀ s, Happens .fcCommit s (fun t => t = { s with boot := { s.boot with fc := max s.boot.fc s.boot.svn } })) ∧
  (∀ s, Happens .spdmSecureSession s (fun t => t = { s with boot := { s.boot with session := true } })) ∧
  (∀ s k, s.boot.session = true → Happens (.ideKeyProgramming k) s (fun t => k ∈ t.boot.streams ∧ t.mem = s.mem)) ∧
  (∀ s k, s.boot.session = false → exec (.ideKeyProgramming k) s = .next s) ∧
  (∀ s, exec .getMeasurements s = .next s) ∧
  (∀ s die, Happens (.hbmTraining die true) s (fun t => ∀ a, if regionOf a = .hbm ∧ dieOf a = die
    then Memory.read t.mem a = 0 ∧ (∀ la, a = la * 128 → t.holding la = Holding.all) else Memory.read t.mem a = Memory.read s.mem a)) ∧
  (∀ s die, Happens (.hbmTraining die false) s (fun t => t.boot.fatal = true)) ∧
  (∀ s p ok ddn, p < 18 → (∀ n, ddn = some n → n < 1152) → Happens (.linkTraining p ok ddn) s (fun t => getD false t.boot.ports p = ok ∧ (ok = true → t.boot.ddn = ddn) ∧ t.mem = s.mem)) ∧
  (∀ s, (∀ e, e ∈ s.parts → e.2.tdisp = .unlocked) → Happens .d3hotRequest s (fun t => t.boot.power = .d3hot ∧ t.groups = [] ∧ t.mem = s.mem)) ∧
  ∀ s e, e ∈ s.parts → e.2.tdisp ≠ .unlocked → exec .d3hotRequest s = .next s

/-- A word that is no instruction traps: all ones in its first word under a debugger is BREAKPOINT of code 9 and length 4; a word that
breaks an operand rule is ILLEGAL_OPERAND; any other is ILLEGAL_OPCODE; each with the word's own length (R173, R174, R287). -/
def Obligations.IllegalWords : Prop :=
  ∀ (s : State) w, let trap := fun t => exec (.illegalOpcode w) s = .next (s.trapCur t)
    (w.extractLsb' 0 32 = 0xFFFFFFFF ∧ s.curJob.da = true → trap { Trap.of 0x20 with code := 9, len := some 4 }) ∧
    (¬(w.extractLsb' 0 32 = 0xFFFFFFFF ∧ s.curJob.da = true) →
      (decode w = .error .operand → ∃ t, t.cause = 2 ∧ t.len = some (lenOf w) ∧ trap t) ∧
      (decode w ≠ .error .operand → ∃ t, t.cause = 1 ∧ t.len = some (lenOf w) ∧ trap t))

end

namespace Sys2Proof.Says

open Sys2Proof.Machine

/-- The machine is up, no thread has its turn, and of all that may happen only sail `key` has something: issue `i` of word `w`. -/
def OnlyIssue (s : State) (key : Nat) (i : Issue) (w : IWord) : Prop :=
  s.boot.fatal = false ∧ s.boot.rom = false ∧ s.turn = none ∧ s.eventMoves = [] ∧ s.agenda = [] ∧ s.threadMoves = [] ∧
  s.sailKeys.filter (fun k => (s.sailIssue k).isSome) = [key] ∧ s.sailIssue key = some i ∧ i.c.w = .word w
/-- The machine is up and it is the turn of a thread, which can run and fetches from memory. -/
def ThreadTurn (s : State) (n : Nat) : Prop :=
  s.boot.fatal = false ∧ s.boot.rom = false ∧ s.turn = some n ∧ (s.thread n).blocked = none ∧ (s.thread n).pc.toNat < 2 ^ 58 ∧
  regionOf ((s.thread n).pc.toNat % 2 ^ 52) = .hbm

end Sys2Proof.Says

section

open Sys2Proof Sys2Proof.Machine Sys2Proof.Says

/-! ## Words, steps and runs -/

/-- Words written out from the encoding tables decode to the instructions they stand for, and the altered words of the example of R174
have their outcomes (R164 to R174, R332). -/
def Obligations.DecodeWords : Prop :=
  decode 0x1000000400600581 = .ok (.ld false { g := Sys2Proof.noGuard, ord := .plain, w := .w32, d := 6, ad := .base 8, off := .o8 16 }) ∧
  decode 0x00800C0100A190ED = .ok (.vfma { g := { gp := 3, gn := false }, rm := .rne, ty := .f32, d := 10, a := 2, b := .reg 3, c := 4 }) ∧
  decode 0x000186A08000000100400082 = .ok (.vadd false { g := Sys2Proof.noGuard, ty := .s32, d := 4, a := 2, b := .ilit 100000 }) ∧
  decode 0x40000000 = .ok .nop ∧
  decode 0xFFFFF004 = .ok (.braSb 0x7FFFF8) ∧
  decode 0x803C3C0000100145 = .ok (.pmovImm Sys2Proof.noGuard 1 (.i16 0x0F0F)) ∧
  decode 0x8001900280600041 = .ok (.sadd false { ty := .s64, d := 6, a := 5, b := .imm 100 }) ∧
  decode 0x08203005004001C5 = .ok (.mma { z := true, d := 4, gang := 1, a := 10, b := 12 }) ∧
  decode 0x80010800000001F1 = .ok (.trap 0x42) ∧
  decode 3 = .error .opcode ∧ decode 0x1FD = .error .opcode ∧ decode 0 = .error .opcode ∧
  decode 0x00800C0100A1F0ED = .error .operand ∧
  decode 0x000186A08000040100400082 = .error .operand ∧
  decode 0x00800C01600190ED = .error .operand ∧
  decodeCustom 0x5850B = some (.waitpkt 10 11)

/-- Every well-formed instruction that has words is read back from them, with every operand; what the decoder answers is well formed
(R165 to R172, R332). -/
def Obligations.EncodeDecode : Prop :=
  (∀ i w, i.wf = true → encode i = some w →
    if w.extractLsb' 0 2 = 3 then decodeCustom (w.extractLsb' 0 32) = some i else decode w = .ok i) ∧
  ∀ w i, decode w = .ok i → i.wf = true

/-- A step runs the decoded instruction: the issue's state is given to the meaning, a hold is noted and otherwise the holds are dropped; a
word that does not decode, names registers that the job has not, meets a redundancy mismatch, or stands at a step or breakpoint has its trap; a thread runs its custom word, or its word of the
base set, an event of the agenda its meaning; a fetch finds the words of memory (R107, R133, R136, R174, R288, R331; which move a step takes of several is the model's free choice, log 1). -/
def Obligations.StepRuns : Prop :=
  (∀ s key i w ins, OnlyIssue s key i w → i.s.stopTrap = none → decode w = .ok ins → ins.fits i.s.curGroup.vr = true →
    i.s.dupError ins = none → step s = keepHolds s (i.s.finishIssue (exec ins i.s))) ∧
  (∀ s key i w ins e, OnlyIssue s key i w → i.s.stopTrap = none → decode w = .ok ins → ins.fits i.s.curGroup.vr = true →
    i.s.dupError ins = some e → step s = keepHolds s (i.s.finishIssue (.next ((i.s.dropErr e.1).trapCur
      { Trap.of 0x3F with code := 4, lane := e.2 })))) ∧
  (∀ s key i w t, OnlyIssue s key i w → i.s.stopTrap = some t → step s = keepHolds s (i.s.finishIssue (i.s.stopAt t))) ∧
  (∀ s key i w ins, OnlyIssue s key i w → i.s.stopTrap = none → decode w = .ok ins → ins.fits i.s.curGroup.vr = false →
    step s = keepHolds s (i.s.finishIssue (.next (i.s.trapCur { Trap.illegalOperand 0 with len := some (lenOf w) })))) ∧
  (∀ s key i w e, OnlyIssue s key i w → i.s.stopTrap = none → decode w = .error e →
    step s = keepHolds s (i.s.finishIssue (exec (.illegalOpcode w) i.s))) ∧
  (∀ s n ins, ThreadTurn s n → decodeCustom (s.threadWord (s.thread n).pc) = some ins → step s = keepHolds s (exec ins s)) ∧
  (∀ s n, ThreadTurn s n → decodeCustom (s.threadWord (s.thread n).pc) = none → (s.threadWord (s.thread n).pc).extractLsb' 0 7 = 0x0B →
    step s = keepHolds s (exec (.nolelavinIllegalInstruction n) s)) ∧
  (∀ s n, ThreadTurn s n → decodeCustom (s.threadWord (s.thread n).pc) = none →
    (s.threadWord (s.thread n).pc).extractLsb' 0 7 ∉ [0x0B, 0x2B, 0x5B, 0x7B] →
    step s = keepHolds s (s.riscv n (s.threadWord (s.thread n).pc))) ∧
  (∀ (s : State) i rest t, s.boot.fatal = false → s.boot.rom = false → s.turn = none → s.eventMoves = [] → s.issueMoves = [] → s.threadMoves = [] →
    s.agenda = i :: rest → encode i = none → exec i { s with agenda := rest } = .next t → step s = keepHolds s (.next t)) ∧
  (∀ (s : State) (g : Group) pc x, let w := BitVec.ofNat 32 (s.numNow x.kid x.pa 4)
    s.xlate g.job g.place.die .fetch 4 (pc.setWidth 64) = .ok x → s.poisonNow (x.pa / 128) = false →
    lookup s.ibuf (ibufKey g.job g.place.die g.place.core pc) = none → lookup s.stale (x.pa / 4) = none → lenOf (w.setWidth 96) = 4 →
    ∃ t, s.fetch g pc = (t, .word (w.setWidth 96)) ∧ t.groups = s.groups) ∧
  ∀ s : State, s.boot.fatal = false → s.boot.rom = false → s.turn = none → s.nextMoves ≠ [] →
    ∃ f, f ∈ s.nextMoves ∧ (step s = keepHolds s (f s) ∨ step s = keepHolds s (f s.spend))

/-- After reset every table is empty and all tokens are home; the first step runs the boot ROM (R53, R349).
After a fatal error nothing is accepted but a reset or a recovery: every other input is dropped, and no step clears the error (R343). -/
def Obligations.ResetAndFatal : Prop :=
  (State.reset.groups = [] ∧ State.reset.jobs = [] ∧ State.reset.keys = [] ∧ State.reset.boot.rom = true ∧ State.reset.boot.fatal = false ∧
  (∀ la, State.reset.holding la = { tc := 16, ow := true }) ∧ State.reset.memWf ∧
  ∀ s, s.boot.fatal = false → s.boot.rom = true → ∃ t, step s = .next t ∧ FreshlyBooted s t) ∧
  ((∀ s, s.boot.fatal = true → s.agenda = [] → step s = .fault .fatalStop) ∧
  (∀ s i rest, s.boot.fatal = true → s.agenda = i :: rest → i ≠ .reset → i ≠ .mailboxReset → (∀ n l, i ≠ .recoveryGo n l) →
    step s = .next { s with agenda := rest }) ∧
  ∀ s rest, s.boot.fatal = true → s.agenda = .reset :: rest → ∃ t, step s = .next t ∧ t.boot.fatal = false ∧ t.agenda = rest)

/-- Every step keeps memory in its canonical form: addresses rise and no entry holds what an unlisted address reads as
(R5; what it reads as is log 3). -/
def Obligations.MemoryForm : Prop := Invariant State.memWf

end
end

