-- ==== Sys2Proof/Laws/Maps.lean ====
section
/-!
SUPPORT. Laws of the sparse maps and of memory: a read after a write, other keys, and the canonical form.
-/

namespace Sys2Proof.Laws

open Sys2Proof.Machine

variable {α : Type}

/-! ## Reads after writes -/

@[simp] theorem lookup_insert_self (m : List (Nat × α)) (k : Nat) (v : α) : lookup (mapInsert m k v) k = some v := by
  induction m with
  | nil => simp [mapInsert, lookup]
  | cons e t ih =>
    obtain ⟨a, x⟩ := e
    simp only [mapInsert]
    split
    · simp [lookup]
    · split
      · simp [lookup]
      · simp [lookup, *]

theorem lookup_insert_ne (m : List (Nat × α)) {k j : Nat} (v : α) (h : j ≠ k) : lookup (mapInsert m k v) j = lookup m j := by
  induction m with
  | nil => simp [mapInsert, lookup, Ne.symm h]
  | cons e t ih =>
    obtain ⟨a, x⟩ := e
    simp only [mapInsert]
    split
    · simp [lookup, Ne.symm h]
    · split
      · rename_i h1; subst h1; simp [lookup, Ne.symm h]
      · simp [lookup, ih]

@[simp] theorem lookup_remove_self (m : List (Nat × α)) (k : Nat) : lookup (remove m k) k = none := by
  induction m with
  | nil => rfl
  | cons e t ih =>
    obtain ⟨a, x⟩ := e
    simp only [remove]
    split
    · exact ih
    · simp [lookup, *]

theorem lookup_remove_ne (m : List (Nat × α)) {k j : Nat} (h : j ≠ k) : lookup (remove m k) j = lookup m j := by
  induction m with
  | nil => rfl
  | cons e t ih =>
    obtain ⟨a, x⟩ := e
    simp only [remove]
    split
    · rename_i h1; subst h1; simp [lookup, Ne.symm h, ih]
    · simp [lookup, ih]

@[simp] theorem getD_insert_self (d : α) (m : List (Nat × α)) (k : Nat) (v : α) : getD d (mapInsert m k v) k = v := by
  simp [getD]

theorem getD_insert_ne (d : α) (m : List (Nat × α)) {k j : Nat} (v : α) (h : j ≠ k) :
    getD d (mapInsert m k v) j = getD d m j := by simp [getD, lookup_insert_ne m v h]

/-- A read after a write gives the value written. -/
@[simp] theorem getD_setD_self [DecidableEq α] (d : α) (m : List (Nat × α)) (k : Nat) (v : α) : getD d (setD d m k v) k = v := by
  unfold setD
  split
  · subst v; simp [getD]
  · simp

/-- A write leaves every other key alone. -/
theorem getD_setD_ne [DecidableEq α] (d : α) (m : List (Nat × α)) {k j : Nat} (v : α) (h : j ≠ k) :
    getD d (setD d m k v) j = getD d m j := by
  unfold setD
  split
  · simp [getD, lookup_remove_ne m h]
  · exact getD_insert_ne d m v h

/-! ## The canonical form -/

theorem above_insert (m : List (Nat × α)) {b k : Nat} (v : α) (h : above b m = true) (hb : b < k) : above b (mapInsert m k v) = true := by
  cases m with
  | nil => simpa [mapInsert, above] using hb
  | cons e t =>
    obtain ⟨a, x⟩ := e
    simp only [mapInsert]
    split
    · simpa [above] using hb
    · split
      · simpa [above] using hb
      · simpa [above] using h

theorem mapWf_tail_above [DecidableEq α] (d : α) {a : Nat} {x : α} {t : List (Nat × α)} (h : mapWf d ((a, x) :: t) = true) :
    x ≠ d ∧ above a t = true ∧ mapWf d t = true := by
  simp only [mapWf, Bool.and_eq_true, decide_eq_true_eq] at h
  exact ⟨h.1.1, h.1.2, h.2⟩

theorem above_mono {b c : Nat} {m : List (Nat × α)} (h : above c m = true) (hb : b ≤ c) : above b m = true := by
  cases m with
  | nil => rfl
  | cons e t =>
    simp only [above, decide_eq_true_eq] at h ⊢
    omega

theorem mapWf_insert [DecidableEq α] (d : α) (m : List (Nat × α)) (k : Nat) (v : α) (hv : v ≠ d) (h : mapWf d m = true) :
    mapWf d (mapInsert m k v) = true := by
  induction m with
  | nil => simp [mapInsert, mapWf, above, hv]
  | cons e t ih =>
    obtain ⟨a, x⟩ := e
    obtain ⟨h1, h2, h3⟩ := mapWf_tail_above d h
    simp only [mapInsert]
    split
    · rename_i hk
      simp only [mapWf, above, Bool.and_eq_true, decide_eq_true_eq]
      exact ⟨⟨hv, hk⟩, ⟨h1, h2⟩, h3⟩
    · split
      · rename_i ha; subst ha
        simp only [mapWf, Bool.and_eq_true, decide_eq_true_eq]
        exact ⟨⟨hv, h2⟩, h3⟩
      · rename_i hk ha
        simp only [mapWf, Bool.and_eq_true, decide_eq_true_eq]
        exact ⟨⟨h1, above_insert t v h2 (by omega)⟩, ih h3⟩

theorem above_remove [DecidableEq α] (d : α) {b : Nat} (m : List (Nat × α)) (k : Nat) (h : above b m = true) (hw : mapWf d m = true) :
    above b (remove m k) = true := by
  induction m with
  | nil => rfl
  | cons e t ih =>
    obtain ⟨a, x⟩ := e
    obtain ⟨-, h2, h3⟩ := mapWf_tail_above d hw
    simp only [remove]
    simp only [above, decide_eq_true_eq] at h
    split
    · exact ih (above_mono h2 (by omega)) h3
    · simpa [above] using h

theorem mapWf_remove [DecidableEq α] (d : α) (m : List (Nat × α)) (k : Nat) (h : mapWf d m = true) : mapWf d (remove m k) = true := by
  induction m with
  | nil => rfl
  | cons e t ih =>
    obtain ⟨a, x⟩ := e
    obtain ⟨h1, h2, h3⟩ := mapWf_tail_above d h
    simp only [remove]
    split
    · exact ih h3
    · simp only [mapWf, Bool.and_eq_true, decide_eq_true_eq]
      exact ⟨⟨h1, above_remove d t k h2 h3⟩, ih h3⟩

/-- A write keeps the canonical form. -/
theorem mapWf_setD [DecidableEq α] (d : α) (m : List (Nat × α)) (k : Nat) (v : α) (h : mapWf d m = true) :
    mapWf d (setD d m k v) = true := by
  unfold setD
  split
  · exact mapWf_remove d m k h
  · rename_i hv; exact mapWf_insert d m k v hv h

theorem above_filter {b : Nat} (m : List (Nat × α)) (f : Nat × α → Bool) (d : α) [DecidableEq α] (h : above b m = true)
    (hw : mapWf d m = true) : above b (m.filter f) = true := by
  induction m with
  | nil => rfl
  | cons e t ih =>
    obtain ⟨a, x⟩ := e
    obtain ⟨-, h2, h3⟩ := mapWf_tail_above d hw
    simp only [above, decide_eq_true_eq] at h
    by_cases hf : f (a, x) = true
    · simpa [List.filter_cons, hf, above] using h
    · simpa [List.filter_cons, hf] using ih (above_mono h2 (by omega)) h3

/-- Keeping part of a map keeps the canonical form. -/
theorem mapWf_filter [DecidableEq α] (d : α) (m : List (Nat × α)) (f : Nat × α → Bool) (h : mapWf d m = true) :
    mapWf d (m.filter f) = true := by
  induction m with
  | nil => rfl
  | cons e t ih =>
    obtain ⟨a, x⟩ := e
    obtain ⟨h1, h2, h3⟩ := mapWf_tail_above d h
    by_cases hf : f (a, x) = true
    · simp only [List.filter_cons, hf, if_true, mapWf, Bool.and_eq_true, decide_eq_true_eq]
      exact ⟨⟨h1, above_filter t f d h2 h3⟩, ih h3⟩
    · simpa [List.filter_cons, hf] using ih h3

/-! ## Memory -/

@[simp] theorem read_write_self (m : List Host.Cell) (a : Nat) (b : Byte) : Memory.read (Memory.write m a b) a = b := by
  simp [Memory.read, Memory.write]

theorem read_write_ne (m : List Host.Cell) {a c : Nat} (b : Byte) (h : c ≠ a) : Memory.read (Memory.write m a b) c = Memory.read m c := by
  simp [Memory.read, Memory.write, getD_setD_ne _ m b h]

theorem wf_write (m : List Host.Cell) (a : Nat) (b : Byte) (h : Memory.wf m = true) : Memory.wf (Memory.write m a b) = true :=
  mapWf_setD _ m a b h

theorem wf_writeN (m : List Host.Cell) (a : Nat) (bs : List Byte) (h : Memory.wf m = true) : Memory.wf (Memory.writeN m a bs) = true := by
  induction bs generalizing m a with
  | nil => exact h
  | cons b l ih => exact ih _ _ (wf_write m a b h)

theorem wf_filter (m : List Host.Cell) (f : Host.Cell → Bool) (h : Memory.wf m = true) : Memory.wf (m.filter f) = true :=
  mapWf_filter _ m f h

/-- Two parts of a map that follow one another make a canonical map. -/
theorem mapWf_append [DecidableEq α] (d : α) {b : Nat} : ∀ (m l : List (Nat × α)), mapWf d m = true → mapWf d l = true →
    (∀ e ∈ m, e.1 < b) → (∀ e ∈ l, b ≤ e.1) → mapWf d (m ++ l) = true
  | [], _, _, hl, _, _ => hl
  | (a, x) :: t, l, hm, hl, h1, h2 => by
    obtain ⟨h3, h4, h5⟩ := mapWf_tail_above d hm
    simp only [List.cons_append, mapWf, Bool.and_eq_true, decide_eq_true_eq]
    refine ⟨⟨h3, ?_⟩, mapWf_append d t l h5 hl (fun e he => h1 e (by simp [he])) h2⟩
    cases t with
    | nil =>
      cases l with
      | nil => rfl
      | cons e r =>
        have := h1 (a, x) (by simp)
        have := h2 e (by simp)
        simp only [List.nil_append, above, decide_eq_true_eq]
        omega
    | cons e r => simpa [above] using h4

theorem mem_cells {a : Nat} {bs : List Byte} {e : Host.Cell} (h : e ∈ Memory.cells a bs) : a ≤ e.1 ∧ e.1 < a + bs.length := by
  simp only [Memory.cells, List.mem_filterMap] at h
  obtain ⟨x, hx, hb⟩ := h
  have := (List.of_mem_zip hx).1
  split at hb
  · cases hb
  · cases hb
    simp only [List.mem_range] at this
    exact ⟨Nat.le_add_right _ _, by simpa using this⟩

theorem cells_cons (a : Nat) (b : Byte) (l : List Byte) :
    Memory.cells a (b :: l) = (if b = memDefault then [] else [(a, b)]) ++ Memory.cells (a + 1) l := by
  simp only [Memory.cells, List.length_cons, List.range_succ_eq_map, List.zip_cons_cons, List.filterMap_cons, List.zip_map_left,
    List.filterMap_map, Nat.add_zero]
  have : ((fun e : Nat × Byte => if e.2 = memDefault then none else some (a + e.1, e.2)) ∘ Prod.map Nat.succ id) =
      fun e : Nat × Byte => if e.2 = memDefault then none else some (a + 1 + e.1, e.2) := by
    funext e
    simp [Nat.succ_eq_add_one, show a + (e.1 + 1) = a + 1 + e.1 by omega]
  rw [this]
  split <;> simp_all

theorem wf_cells (a : Nat) (bs : List Byte) : Memory.wf (Memory.cells a bs) = true := by
  induction bs generalizing a with
  | nil => rfl
  | cons b l ih =>
    rw [cells_cons]
    refine mapWf_append memDefault (b := a + 1) _ _ ?_ (ih _) ?_ (fun e he => (mem_cells he).1)
    · split
      · rfl
      · rename_i hb; simpa [mapWf, above] using hb
    · intro e he
      split at he
      · simp at he
      · simp at he; subst he; exact Nat.lt_succ_self _

/-- A long write keeps the canonical form. -/
theorem wf_put (m : List Host.Cell) (a : Nat) (bs : List Byte) (h : Memory.wf m = true) : Memory.wf (Memory.put m a bs) = true := by
  refine mapWf_append memDefault (b := a + bs.length) _ _
    (mapWf_append memDefault (b := a) _ _ (wf_filter m _ h) (wf_cells a bs) ?_ (fun e he => (mem_cells he).1)) (wf_filter m _ h) ?_ ?_
  · intro e he; simpa using (List.mem_filter.mp he).2
  · intro e he
    rcases List.mem_append.mp he with he | he
    · have : e.1 < a := by simpa using (List.mem_filter.mp he).2
      omega
    · exact (mem_cells he).2
  · intro e he; simpa using (List.mem_filter.mp he).2

/-- A write of bytes leaves every byte outside them alone. -/
theorem read_writeN_ne (m : List Host.Cell) {a c : Nat} (bs : List Byte) (h : c < a ∨ a + bs.length ≤ c) :
    Memory.read (Memory.writeN m a bs) c = Memory.read m c := by
  induction bs generalizing m a with
  | nil => rfl
  | cons b l ih =>
    simp only [List.length_cons] at h
    rw [Memory.writeN, ih _ (by omega), read_write_ne _ _ (by omega)]

/-- A write of bytes is read back. -/
theorem read_writeN_at (m : List Host.Cell) (a i : Nat) (bs : List Byte) (h : i < bs.length) :
    Memory.read (Memory.writeN m a bs) (a + i) = bs.getD i 0 := by
  induction bs generalizing m a i with
  | nil => simp at h
  | cons b l ih =>
    rw [Memory.writeN]
    cases i with
    | zero => rw [read_writeN_ne _ _ (by omega)]; simp
    | succ j =>
      have := ih (Memory.write m a b) (a + 1) j (by simpa using h)
      rw [show a + (j + 1) = a + 1 + j by omega, this]; simp

theorem fill_length (m : List Host.Cell) (a n : Nat) (l : List Byte) : (Memory.fill m a n l).length = l.length + n := by
  induction n generalizing m a l with
  | zero => cases m <;> simp [Memory.fill]
  | succ n ih =>
    cases m with
    | nil => rw [Memory.fill, ih]; simp only [List.length_cons]; omega
    | cons c m => rw [Memory.fill]; split <;> rw [ih] <;> simp only [List.length_cons] <;> omega
/-- A run of bytes has its length. -/
theorem slice_length (m : List Host.Cell) (a n : Nat) : (Memory.slice m a n).length = n := by
  rw [Memory.slice, fill_length]; simp

end Sys2Proof.Laws
end

