-- ==== Sys2Proof/Laws/Ends.lean ====
section
/-!
SUPPORT. Laws of the groups of a state, of the register writes of a group, and of the end of an instruction: what each can do,
said once.
-/

namespace Sys2Proof.Laws

open Sys2Proof.Machine

/-! ## Groups of a state -/

@[simp] theorem group_setGroup_self (s : State) (k : Nat) (g : Group) : (s.setGroup k g).group k = g := by
  simp [State.group, State.setGroup]
theorem group_setGroup_ne (s : State) {k j : Nat} (g : Group) (h : j ≠ k) : (s.setGroup k g).group j = s.group j := by
  simp [State.group, State.setGroup, getD_insert_ne, h]
@[simp] theorem cur_setGroup (s : State) (k : Nat) (g : Group) : (s.setGroup k g).cur = s.cur := rfl
@[simp] theorem mem_setGroup (s : State) (k : Nat) (g : Group) : (s.setGroup k g).mem = s.mem := rfl
@[simp] theorem jobs_setGroup (s : State) (k : Nat) (g : Group) : (s.setGroup k g).jobs = s.jobs := rfl
@[simp] theorem teams_setGroup (s : State) (k : Nat) (g : Group) : (s.setGroup k g).teams = s.teams := rfl
@[simp] theorem job_setGroup (s : State) (k j : Nat) (g : Group) : (s.setGroup k g).job j = s.job j := rfl
@[simp] theorem team_setGroup (s : State) (k j : Nat) (g : Group) : (s.setGroup k g).team j = s.team j := rfl
@[simp] theorem curGroup_setCurGroup (s : State) (g : Group) : (s.setCurGroup g).curGroup = g := by
  simp [State.curGroup, State.setCurGroup]
@[simp] theorem cur_setCurGroup (s : State) (g : Group) : (s.setCurGroup g).cur = s.cur := rfl
theorem setGroup_rest (s : State) (k : Nat) (g : Group) : s.setGroup k g = { s with groups := (s.setGroup k g).groups } := rfl

/-! ## Lanes -/

@[simp] theorem mapLanes_v (g : Group) (m : DWord) (f : Lane → Lane) : (g.mapLanes m f).v = g.v := rfl
@[simp] theorem mapLanes_s (g : Group) (m : DWord) (f : Lane → Lane) : (g.mapLanes m f).s = g.s := rfl
@[simp] theorem mapLanes_p (g : Group) (m : DWord) (f : Lane → Lane) : (g.mapLanes m f).p = g.p := rfl
@[simp] theorem mapLanes_perf (g : Group) (m : DWord) (f : Lane → Lane) : (g.mapLanes m f).perf = g.perf := rfl

theorem lane_mapLanes (g : Group) (m : DWord) (f : Lane → Lane) (l : Nat) :
    (g.mapLanes m f).lane l = if m.getLsbD l = true ∧ l < g.lanes.length then f (g.lane l) else g.lane l := by
  simp only [Group.lane, Group.mapLanes, List.getD_eq_getElem?_getD, List.getElem?_mapIdx]
  by_cases h : l < g.lanes.length
  · simp [h]
  · simp [h]

theorem mem_lanesOf (m : DWord) (l : Nat) : l ∈ lanesOf m ↔ m.getLsbD l = true := by
  simp only [lanesOf, List.mem_filter, List.mem_range]
  constructor
  · exact fun h => h.2
  · intro h; refine ⟨?_, h⟩
    by_contra hc; simp [BitVec.getLsbD_of_ge m l (by omega)] at h

theorem nodup_lanesOf (m : DWord) : (lanesOf m).Nodup := List.nodup_range.filter _

/-! ## Scalars and predicates -/

theorem sget_sset (g : Group) (d n : Nat) (v : DWord) :
    (g.sset d v).sget n = if n = d ∧ n ≠ 0 then v else g.sget n := by
  unfold Group.sset Group.sget
  by_cases hn : n = 0
  · simp [hn]
  · by_cases hd : d = 0
    · simp [hd, hn]
    · by_cases h : n = d
      · subst h; simp [hn]
      · simp [hd, hn, h, getD_setD_ne]

theorem sset_rest (g : Group) (d : Nat) (v : DWord) : g.sset d v = { g with s := (g.sset d v).s } := by
  unfold Group.sset; split <;> rfl

theorem pmask_psetMask (g : Group) (d n : Nat) (m x : DWord) :
    (g.psetMask d m x).pmask n = if n = d ∧ n ≠ 0 then ((g.pmask n &&& ~~~ m) ||| (x &&& m)) else g.pmask n := by
  unfold Group.psetMask
  by_cases hd : d = 0
  · subst hd; simp only [if_true]
    rw [if_neg (by rintro ⟨h1, h2⟩; exact h2 h1)]
  · rw [if_neg hd]
    unfold Group.pmask
    by_cases hn : n = 0
    · simp [hn]
    · by_cases h : n = d
      · subst h; simp [hn]
      · simp [hn, h, getD_setD_ne]

theorem pred_psetMask (g : Group) (d n l : Nat) (m x : DWord) (hl : l < 64) :
    (g.psetMask d m x).pred n l = if n = d ∧ n ≠ 0 ∧ m.getLsbD l = true then x.getLsbD l else g.pred n l := by
  unfold Group.pred
  rw [pmask_psetMask]
  by_cases h : n = d ∧ n ≠ 0
  · rw [if_pos h]
    by_cases hm : m.getLsbD l = true
    · rw [if_pos ⟨h.1, h.2, hm⟩]
      simp only [BitVec.getLsbD_or, BitVec.getLsbD_and, BitVec.getLsbD_not, hm]; simp [hl]
    · rw [if_neg (by tauto)]
      simp only [BitVec.getLsbD_or, BitVec.getLsbD_and, BitVec.getLsbD_not, hm]; simp [hl]
  · rw [if_neg h, if_neg (by tauto)]

theorem psetMask_rest (g : Group) (d : Nat) (m x : DWord) : g.psetMask d m x = { g with p := (g.psetMask d m x).p } := by
  unfold Group.psetMask; split <;> rfl

/-! ## Vector registers -/

theorem v32_setV32 (g : Group) (n l r i : Nat) (x : Word) (hl : l < 64) (hi : i < 64) :
    (g.setV32 n l x).v32 r i = if r = n ∧ i = l then x else g.v32 r i := by
  unfold Group.setV32 Group.v32
  by_cases h : r = n
  · subst h
    by_cases h2 : i = l
    · subst h2; simp
    · simp only [h2, and_false, if_false]
      rw [getD_setD_ne]; omega
  · simp only [h, false_and, if_false]
    have hk : r * 64 + i ≠ n * 64 + l := by omega
    show getD (marker r) (setD (marker n) g.v (n * 64 + l) x) (r * 64 + i) = getD (marker r) g.v (r * 64 + i)
    unfold getD setD
    split
    · rw [lookup_remove_ne _ hk]
    · rw [lookup_insert_ne _ _ hk]

theorem setV32_rest (g : Group) (n l : Nat) (x : Word) :
    g.setV32 n l x = { g with v := (g.setV32 n l x).v, dirtyV := (g.setV32 n l x).dirtyV } := rfl

theorem setVN_rest (k : Nat) : ∀ (g : Group) (n l x : Nat),
    Group.setVN k g n l x = { g with v := (Group.setVN k g n l x).v, dirtyV := (Group.setVN k g n l x).dirtyV } := by
  induction k with
  | zero => intro g n l x; rfl
  | succ k ih => intro g n l x; unfold Group.setVN; rw [ih]; rfl

theorem v32_setVN (k : Nat) : ∀ (g : Group) (n l x r i : Nat), l < 64 → i < 64 →
    (Group.setVN k g n l x).v32 r i =
      if i = l ∧ n ≤ r ∧ r < n + k then BitVec.ofNat 32 (x / 2 ^ (32 * (r - n))) else g.v32 r i := by
  induction k with
  | zero => intro g n l x r i _ _; simp only [Group.setVN]; rw [if_neg (by omega)]
  | succ k ih =>
    intro g n l x r i hl hi
    unfold Group.setVN
    rw [ih _ _ _ _ _ _ hl hi, v32_setV32 _ _ _ _ _ _ hl hi]
    by_cases h1 : i = l
    · by_cases h2 : r = n
      · subst h2
        rw [if_neg (by omega), if_pos ⟨rfl, h1⟩, if_pos (by omega)]; simp
      · by_cases h3 : n + 1 ≤ r ∧ r < n + 1 + k
        · rw [if_pos (by omega), if_pos (by omega)]
          have : r - n = (r - (n + 1)) + 1 := by omega
          rw [this, Nat.mul_add, Nat.pow_add, Nat.mul_comm (2 ^ _) , ← Nat.div_div_eq_div_mul]
        · rw [if_neg (by omega), if_neg (by omega), if_neg (by omega)]
    · rw [if_neg (by omega), if_neg (by omega), if_neg (by omega)]

theorem setLanes_rest (g : Group) (k n : Nat) (ls : List Nat) (f : Nat → Nat) :
    g.setLanes k n ls f = { g with v := (g.setLanes k n ls f).v, dirtyV := (g.setLanes k n ls f).dirtyV } := by
  unfold Group.setLanes
  induction ls generalizing g with
  | nil => rfl
  | cons l ls ih => simp only [List.foldl_cons]; rw [ih, setVN_rest]

theorem v32_setLanes (g : Group) (k n : Nat) (ls : List Nat) (f : Nat → Nat) (r i : Nat) (hls : ∀ l ∈ ls, l < 64) (hn : ls.Nodup)
    (hi : i < 64) :
    (g.setLanes k n ls f).v32 r i =
      if i ∈ ls ∧ n ≤ r ∧ r < n + k then BitVec.ofNat 32 (f i / 2 ^ (32 * (r - n))) else g.v32 r i := by
  unfold Group.setLanes
  induction ls generalizing g with
  | nil => simp
  | cons l ls ih =>
    simp only [List.foldl_cons]
    have hl : l < 64 := hls l (by simp)
    rw [ih _ (fun x hx => hls x (by simp [hx])) (List.nodup_cons.mp hn).2, v32_setVN _ _ _ _ _ _ _ hl hi]
    have hnot := (List.nodup_cons.mp hn).1
    by_cases h1 : i = l
    · subst h1
      by_cases h2 : n ≤ r ∧ r < n + k
      · rw [if_neg (by tauto), if_pos ⟨rfl, h2⟩, if_pos (by simp [h2])]
      · rw [if_neg (by tauto), if_neg (by tauto), if_neg (by tauto)]
    · by_cases h2 : n ≤ r ∧ r < n + k
      · by_cases h3 : i ∈ ls
        · rw [if_pos ⟨h3, h2⟩, if_pos (by simp [h3, h2])]
        · rw [if_neg (by tauto), if_neg (by tauto), if_neg (by simp [h1, h3])]
      · rw [if_neg (by tauto), if_neg (by tauto), if_neg (by tauto)]

/-- Writing the lanes of a mask, read back. -/
theorem v32_setLanes_mask (g : Group) (k n : Nat) (m : DWord) (f : Nat → Nat) (r i : Nat) (hi : i < 64) :
    (g.setLanes k n (lanesOf m) f).v32 r i =
      if m.getLsbD i = true ∧ n ≤ r ∧ r < n + k then BitVec.ofNat 32 (f i / 2 ^ (32 * (r - n))) else g.v32 r i := by
  rw [v32_setLanes _ _ _ _ _ _ _ (fun l hl => by simp [lanesOf] at hl; exact hl.1) (nodup_lanesOf m) hi]
  simp only [mem_lanesOf]

/-! ## The end of an instruction -/

/-- What retiring leaves of a group: its lanes, and the counts and keys of the issue. -/
theorem retire_rest (old : Group) (da : Bool) (act : DWord) (g : Group) :
    old.retire da act g = { g with
      perf := (old.retire da act g).perf, sk := (old.retire da act g).sk, sc := (old.retire da act g).sc,
      skip := (old.retire da act g).skip, stepPend := (old.retire da act g).stepPend } := by cases g; rfl

theorem getD_count (g : Group) (i k n : Nat) :
    getD 0 (g.count i n).perf k = getD 0 g.perf k + (if k = i then BitVec.ofNat 64 n else 0) := by
  unfold Group.count
  by_cases h : k = i
  · subst h; simp
  · simp [h, getD_setD_ne]

theorem perf_retire (old : Group) (da : Bool) (act : DWord) (g : Group) (k : Nat) :
    getD 0 (old.retire da act g).perf k =
      getD 0 g.perf k + (if k = 0 then 1 else if k = 1 then BitVec.ofNat 64 (popcount 64 act.toNat) else 0) := by
  show getD 0 ((g.count 0 1).count 1 (popcount 64 act.toNat)).perf k = _
  rw [getD_count, getD_count]
  by_cases h0 : k = 0
  · subst h0; simp
  · by_cases h1 : k = 1
    · subst h1; simp
    · simp [h0, h1]

/-- An instruction that changes its group alone ends: it is done, and the group holds what it was given. -/
theorem finish_done (s : State) (act : DWord) (h : Group) (hl : h.lanes = s.curGroup.lanes) (hp : h.perf = s.curGroup.perf)
    (hk : h.sk = s.curGroup.sk) (hkk : h.skip = s.curGroup.skip) (hc : h.sc = s.curGroup.sc) (hs : h.stepPend = s.curGroup.stepPend) :
    ∃ t, s.finish act h = .next t ∧ Done s t act ∧
      t.curGroup = { h with
        lanes := t.curGroup.lanes, perf := t.curGroup.perf, sk := t.curGroup.sk, sc := t.curGroup.sc, skip := t.curGroup.skip,
        stepPend := t.curGroup.stepPend } := by
  refine ⟨_, rfl, ?_⟩
  generalize ht : s.retire act (s.setCurGroup h).advance = t
  have hcur : t.cur = s.cur := by subst ht; rfl
  have hg : t.curGroup = s.curGroup.retire (s.curJob).da act (h.mapLanes s.cur.lanes (fun x => { x with pc := s.nextPc })) := by
    subst ht
    simp only [State.curGroup, State.retire, State.advance, State.setCurGroup, cur_setGroup, group_setGroup_self]
    rfl
  refine ⟨⟨⟨?_, ?_, ?_⟩, ?_, ?_⟩, ?_⟩
  · subst ht; rfl
  · intro k hk; subst ht
    simp [State.retire, State.advance, State.setCurGroup, group_setGroup_ne, hk]
  · intro a; subst ht; rfl
  · intro l
    have : t.curGroup.lane l = (h.mapLanes s.cur.lanes (fun x => { x with pc := s.nextPc })).lane l := by rw [hg]; rfl
    rw [this, lane_mapLanes, hl]
    simp [Group.lane, hl]
  · refine ⟨fun k => ?_, ?_, ?_, ?_, ?_⟩
    · rw [hg, perf_retire]; simp [hp]
    · rw [hg]; show (h.sk && !s.curGroup.sk) = false
      rw [hk]; cases s.curGroup.sk <;> rfl
    · rw [hg]; show (h.skip && !s.curGroup.skip) = false
      rw [hkk]; cases s.curGroup.skip <;> rfl
    · rw [hg]
      show (if s.curGroup.sc ≠ 0 && (!s.curGroup.tm || s.curJob.da) then s.curGroup.sc - 1 else h.sc) = _
      rw [hc]
      cases s.curGroup.tm <;> cases s.curJob.da <;> simp
    · rw [hg]
      show (h.stepPend || (s.curGroup.sc == 1 && (!s.curGroup.tm || s.curJob.da))) = _
      rw [hs]
  · rw [hg]; rfl

/-- A scalar instruction completes with its result. -/
theorem scalarWrite_run (s : State) (d : BitVec 7) (v : DWord) :
    ∃ t, scalarWrite s d v = .next t ∧ Done s t s.cur.lanes ∧
      t.curGroup = { s.curGroup with
        s := t.curGroup.s, lanes := t.curGroup.lanes, perf := t.curGroup.perf, sk := t.curGroup.sk,
        sc := t.curGroup.sc, skip := t.curGroup.skip, stepPend := t.curGroup.stepPend } ∧
      ∀ n, t.curGroup.sget n = withScalar s d.toNat v n := by
  have hr := sset_rest s.curGroup d.toNat v
  obtain ⟨t, h1, h2, h3⟩ := finish_done s s.cur.lanes (s.curGroup.sset d.toNat v) (by rw [hr]) (by rw [hr]) (by rw [hr]) (by rw [hr]) (by rw [hr])
    (by rw [hr])
  refine ⟨t, h1, h2, ?_, ?_⟩
  · rw [hr] at h3; rw [h3]
  · intro n
    have : t.curGroup.sget n = (s.curGroup.sset d.toNat v).sget n := by rw [h3]; rfl
    rw [this, sget_sset]; rfl

/-- A predicate instruction completes with its result. -/
theorem predWrite_run (s : State) (gd : Guard) (d : BitVec 4) (x : DWord) :
    ∃ t, predWrite s gd d x = .next t ∧ Done s t (s.active gd) ∧
      t.curGroup = { s.curGroup with
        p := t.curGroup.p, lanes := t.curGroup.lanes, perf := t.curGroup.perf, sk := t.curGroup.sk,
        sc := t.curGroup.sc, skip := t.curGroup.skip, stepPend := t.curGroup.stepPend } ∧
      ∀ n l, l < 64 → t.curGroup.pred n l = withPred s (s.active gd) d.toNat (fun l => x.getLsbD l) n l := by
  have hr := psetMask_rest s.curGroup d.toNat (s.active gd) x
  obtain ⟨t, h1, h2, h3⟩ := finish_done s (s.active gd) (s.curGroup.psetMask d.toNat (s.active gd) x) (by rw [hr]) (by rw [hr])
    (by rw [hr]) (by rw [hr]) (by rw [hr]) (by rw [hr])
  refine ⟨t, h1, h2, ?_, ?_⟩
  · rw [hr] at h3; rw [h3]
  · intro n l hl
    have : t.curGroup.pred n l = (s.curGroup.psetMask d.toNat (s.active gd) x).pred n l := by rw [h3]; rfl
    rw [this, pred_psetMask _ _ _ _ _ _ hl]; rfl

/-- A vector instruction completes with its result. -/
theorem vecWrite_run (s : State) (gd : Guard) (k : Nat) (d : BitVec 11) (f : Nat → Nat) :
    ∃ t, vecWrite s gd k d f = .next t ∧ Done s t (s.active gd) ∧
      t.curGroup = { s.curGroup with
        v := t.curGroup.v, dirtyV := t.curGroup.dirtyV, lanes := t.curGroup.lanes, perf := t.curGroup.perf, sk := t.curGroup.sk,
        sc := t.curGroup.sc, skip := t.curGroup.skip, stepPend := t.curGroup.stepPend } ∧
      ∀ n l, l < 64 → t.curGroup.v32 n l = withVector s (s.active gd) d.toNat k f n l := by
  have hr := setLanes_rest s.curGroup k d.toNat (lanesOf (s.active gd)) f
  obtain ⟨t, h1, h2, h3⟩ := finish_done s (s.active gd) (s.curGroup.setLanes k d.toNat (lanesOf (s.active gd)) f) (by rw [hr])
    (by rw [hr]) (by rw [hr]) (by rw [hr]) (by rw [hr]) (by rw [hr])
  refine ⟨t, h1, h2, ?_, ?_⟩
  · rw [hr] at h3; rw [h3]
  · intro n l hl
    have : t.curGroup.v32 n l = (s.curGroup.setLanes k d.toNat (lanesOf (s.active gd)) f).v32 n l := by rw [h3]; rfl
    rw [this, v32_setLanes_mask _ _ _ _ _ _ _ hl]; rfl

end Sys2Proof.Laws
end

