-- ==== Sys2Proof/Laws/State.lean ====
section
/-!
SUPPORT. What each named update of the state leaves in each field, one lemma per field per update.
-/

namespace Sys2Proof.Laws

open Sys2Proof.Machine

variable (s : State)

/-! ## setGroup -/

@[simp] theorem setGroup_mem (k : Nat) (x : Group) : (s.setGroup k x).mem = s.mem := rfl
@[simp] theorem setGroup_lineKid (k : Nat) (x : Group) : (s.setGroup k x).lineKid = s.lineKid := rfl
@[simp] theorem setGroup_lineOld (k : Nat) (x : Group) : (s.setGroup k x).lineOld = s.lineOld := rfl
@[simp] theorem setGroup_poison (k : Nat) (x : Group) : (s.setGroup k x).poison = s.poison := rfl
@[simp] theorem setGroup_l2 (k : Nat) (x : Group) : (s.setGroup k x).l2 = s.l2 := rfl
@[simp] theorem setGroup_home (k : Nat) (x : Group) : (s.setGroup k x).home = s.home := rfl
@[simp] theorem setGroup_perm (k : Nat) (x : Group) : (s.setGroup k x).perm = s.perm := rfl
@[simp] theorem setGroup_hostDirty (k : Nat) (x : Group) : (s.setGroup k x).hostDirty = s.hostDirty := rfl
@[simp] theorem setGroup_wants (k : Nat) (x : Group) : (s.setGroup k x).wants = s.wants := rfl
@[simp] theorem setGroup_hostOut (k : Nat) (x : Group) : (s.setGroup k x).hostOut = s.hostOut := rfl
@[simp] theorem setGroup_remoteOut (k : Nat) (x : Group) : (s.setGroup k x).remoteOut = s.remoteOut := rfl
@[simp] theorem setGroup_h0 (k : Nat) (x : Group) : (s.setGroup k x).h0 = s.h0 := rfl
@[simp] theorem setGroup_msgs (k : Nat) (x : Group) : (s.setGroup k x).msgs = s.msgs := rfl
@[simp] theorem setGroup_reqs (k : Nat) (x : Group) : (s.setGroup k x).reqs = s.reqs := rfl
@[simp] theorem setGroup_ptab (k : Nat) (x : Group) : (s.setGroup k x).ptab = s.ptab := rfl
@[simp] theorem setGroup_pseq (k : Nat) (x : Group) : (s.setGroup k x).pseq = s.pseq := rfl
@[simp] theorem setGroup_acts (k : Nat) (x : Group) : (s.setGroup k x).acts = s.acts := rfl
@[simp] theorem setGroup_pend (k : Nat) (x : Group) : (s.setGroup k x).pend = s.pend := rfl
@[simp] theorem setGroup_hops (k : Nat) (x : Group) : (s.setGroup k x).hops = s.hops := rfl
@[simp] theorem setGroup_homeq (k : Nat) (x : Group) : (s.setGroup k x).homeq = s.homeq := rfl
@[simp] theorem setGroup_records (k : Nat) (x : Group) : (s.setGroup k x).records = s.records := rfl
@[simp] theorem setGroup_appends (k : Nat) (x : Group) : (s.setGroup k x).appends = s.appends := rfl
@[simp] theorem setGroup_seals (k : Nat) (x : Group) : (s.setGroup k x).seals = s.seals := rfl
@[simp] theorem setGroup_replicas (k : Nat) (x : Group) : (s.setGroup k x).replicas = s.replicas := rfl
@[simp] theorem setGroup_exports (k : Nat) (x : Group) : (s.setGroup k x).exports = s.exports := rfl
@[simp] theorem setGroup_frees (k : Nat) (x : Group) : (s.setGroup k x).frees = s.frees := rfl
@[simp] theorem setGroup_tlb (k : Nat) (x : Group) : (s.setGroup k x).tlb = s.tlb := rfl
@[simp] theorem setGroup_wcache (k : Nat) (x : Group) : (s.setGroup k x).wcache = s.wcache := rfl
@[simp] theorem setGroup_invals (k : Nat) (x : Group) : (s.setGroup k x).invals = s.invals := rfl
@[simp] theorem setGroup_pins (k : Nat) (x : Group) : (s.setGroup k x).pins = s.pins := rfl
@[simp] theorem setGroup_faults (k : Nat) (x : Group) : (s.setGroup k x).faults = s.faults := rfl
@[simp] theorem setGroup_ranges (k : Nat) (x : Group) : (s.setGroup k x).ranges = s.ranges := rfl
@[simp] theorem setGroup_rangeWait (k : Nat) (x : Group) : (s.setGroup k x).rangeWait = s.rangeWait := rfl
@[simp] theorem setGroup_copies (k : Nat) (x : Group) : (s.setGroup k x).copies = s.copies := rfl
@[simp] theorem setGroup_groups (k : Nat) (x : Group) : (s.setGroup k x).groups = mapInsert s.groups k x := rfl
@[simp] theorem setGroup_teams (k : Nat) (x : Group) : (s.setGroup k x).teams = s.teams := rfl
@[simp] theorem setGroup_jobs (k : Nat) (x : Group) : (s.setGroup k x).jobs = s.jobs := rfl
@[simp] theorem setGroup_sails (k : Nat) (x : Group) : (s.setGroup k x).sails = s.sails := rfl
@[simp] theorem setGroup_reserved (k : Nat) (x : Group) : (s.setGroup k x).reserved = s.reserved := rfl
@[simp] theorem setGroup_ibuf (k : Nat) (x : Group) : (s.setGroup k x).ibuf = s.ibuf := rfl
@[simp] theorem setGroup_stale (k : Nat) (x : Group) : (s.setGroup k x).stale = s.stale := rfl
@[simp] theorem setGroup_hints (k : Nat) (x : Group) : (s.setGroup k x).hints = s.hints := rfl
@[simp] theorem setGroup_moves (k : Nat) (x : Group) : (s.setGroup k x).moves = s.moves := rfl
@[simp] theorem setGroup_track (k : Nat) (x : Group) : (s.setGroup k x).track = s.track := rfl
@[simp] theorem setGroup_frozen (k : Nat) (x : Group) : (s.setGroup k x).frozen = s.frozen := rfl
@[simp] theorem setGroup_staged (k : Nat) (x : Group) : (s.setGroup k x).staged = s.staged := rfl
@[simp] theorem setGroup_rings (k : Nat) (x : Group) : (s.setGroup k x).rings = s.rings := rfl
@[simp] theorem setGroup_softErrs (k : Nat) (x : Group) : (s.setGroup k x).softErrs = s.softErrs := rfl
@[simp] theorem setGroup_errcount (k : Nat) (x : Group) : (s.setGroup k x).errcount = s.errcount := rfl
@[simp] theorem setGroup_errlog (k : Nat) (x : Group) : (s.setGroup k x).errlog = s.errlog := rfl
@[simp] theorem setGroup_errTimes (k : Nat) (x : Group) : (s.setGroup k x).errTimes = s.errTimes := rfl
@[simp] theorem setGroup_marked (k : Nat) (x : Group) : (s.setGroup k x).marked = s.marked := rfl
@[simp] theorem setGroup_retired (k : Nat) (x : Group) : (s.setGroup k x).retired = s.retired := rfl
@[simp] theorem setGroup_keys (k : Nat) (x : Group) : (s.setGroup k x).keys = s.keys := rfl
@[simp] theorem setGroup_parts (k : Nat) (x : Group) : (s.setGroup k x).parts = s.parts := rfl
@[simp] theorem setGroup_queues (k : Nat) (x : Group) : (s.setGroup k x).queues = s.queues := rfl
@[simp] theorem setGroup_events (k : Nat) (x : Group) : (s.setGroup k x).events = s.events := rfl
@[simp] theorem setGroup_threads (k : Nat) (x : Group) : (s.setGroup k x).threads = s.threads := rfl
@[simp] theorem setGroup_imports (k : Nat) (x : Group) : (s.setGroup k x).imports = s.imports := rfl
@[simp] theorem setGroup_decoders (k : Nat) (x : Group) : (s.setGroup k x).decoders = s.decoders := rfl
@[simp] theorem setGroup_hdm (k : Nat) (x : Group) : (s.setGroup k x).hdm = s.hdm := rfl
@[simp] theorem setGroup_boot (k : Nat) (x : Group) : (s.setGroup k x).boot = s.boot := rfl
@[simp] theorem setGroup_timer (k : Nat) (x : Group) : (s.setGroup k x).timer = s.timer := rfl
@[simp] theorem setGroup_free (k : Nat) (x : Group) : (s.setGroup k x).free = s.free := rfl
@[simp] theorem setGroup_agenda (k : Nat) (x : Group) : (s.setGroup k x).agenda = s.agenda := rfl
@[simp] theorem setGroup_turn (k : Nat) (x : Group) : (s.setGroup k x).turn = s.turn := rfl
@[simp] theorem setGroup_lastSys (k : Nat) (x : Group) : (s.setGroup k x).lastSys = s.lastSys := rfl
@[simp] theorem setGroup_lastCp (k : Nat) (x : Group) : (s.setGroup k x).lastCp = s.lastCp := rfl
@[simp] theorem setGroup_cur (k : Nat) (x : Group) : (s.setGroup k x).cur = s.cur := rfl
@[simp] theorem setGroup_holds (k : Nat) (x : Group) : (s.setGroup k x).holds = s.holds := rfl

/-! ## setTeam -/

@[simp] theorem setTeam_mem (k : Nat) (x : Team) : (s.setTeam k x).mem = s.mem := rfl
@[simp] theorem setTeam_lineKid (k : Nat) (x : Team) : (s.setTeam k x).lineKid = s.lineKid := rfl
@[simp] theorem setTeam_lineOld (k : Nat) (x : Team) : (s.setTeam k x).lineOld = s.lineOld := rfl
@[simp] theorem setTeam_poison (k : Nat) (x : Team) : (s.setTeam k x).poison = s.poison := rfl
@[simp] theorem setTeam_l2 (k : Nat) (x : Team) : (s.setTeam k x).l2 = s.l2 := rfl
@[simp] theorem setTeam_home (k : Nat) (x : Team) : (s.setTeam k x).home = s.home := rfl
@[simp] theorem setTeam_perm (k : Nat) (x : Team) : (s.setTeam k x).perm = s.perm := rfl
@[simp] theorem setTeam_hostDirty (k : Nat) (x : Team) : (s.setTeam k x).hostDirty = s.hostDirty := rfl
@[simp] theorem setTeam_wants (k : Nat) (x : Team) : (s.setTeam k x).wants = s.wants := rfl
@[simp] theorem setTeam_hostOut (k : Nat) (x : Team) : (s.setTeam k x).hostOut = s.hostOut := rfl
@[simp] theorem setTeam_remoteOut (k : Nat) (x : Team) : (s.setTeam k x).remoteOut = s.remoteOut := rfl
@[simp] theorem setTeam_h0 (k : Nat) (x : Team) : (s.setTeam k x).h0 = s.h0 := rfl
@[simp] theorem setTeam_msgs (k : Nat) (x : Team) : (s.setTeam k x).msgs = s.msgs := rfl
@[simp] theorem setTeam_reqs (k : Nat) (x : Team) : (s.setTeam k x).reqs = s.reqs := rfl
@[simp] theorem setTeam_ptab (k : Nat) (x : Team) : (s.setTeam k x).ptab = s.ptab := rfl
@[simp] theorem setTeam_pseq (k : Nat) (x : Team) : (s.setTeam k x).pseq = s.pseq := rfl
@[simp] theorem setTeam_acts (k : Nat) (x : Team) : (s.setTeam k x).acts = s.acts := rfl
@[simp] theorem setTeam_pend (k : Nat) (x : Team) : (s.setTeam k x).pend = s.pend := rfl
@[simp] theorem setTeam_hops (k : Nat) (x : Team) : (s.setTeam k x).hops = s.hops := rfl
@[simp] theorem setTeam_homeq (k : Nat) (x : Team) : (s.setTeam k x).homeq = s.homeq := rfl
@[simp] theorem setTeam_records (k : Nat) (x : Team) : (s.setTeam k x).records = s.records := rfl
@[simp] theorem setTeam_appends (k : Nat) (x : Team) : (s.setTeam k x).appends = s.appends := rfl
@[simp] theorem setTeam_seals (k : Nat) (x : Team) : (s.setTeam k x).seals = s.seals := rfl
@[simp] theorem setTeam_replicas (k : Nat) (x : Team) : (s.setTeam k x).replicas = s.replicas := rfl
@[simp] theorem setTeam_exports (k : Nat) (x : Team) : (s.setTeam k x).exports = s.exports := rfl
@[simp] theorem setTeam_frees (k : Nat) (x : Team) : (s.setTeam k x).frees = s.frees := rfl
@[simp] theorem setTeam_tlb (k : Nat) (x : Team) : (s.setTeam k x).tlb = s.tlb := rfl
@[simp] theorem setTeam_wcache (k : Nat) (x : Team) : (s.setTeam k x).wcache = s.wcache := rfl
@[simp] theorem setTeam_invals (k : Nat) (x : Team) : (s.setTeam k x).invals = s.invals := rfl
@[simp] theorem setTeam_pins (k : Nat) (x : Team) : (s.setTeam k x).pins = s.pins := rfl
@[simp] theorem setTeam_faults (k : Nat) (x : Team) : (s.setTeam k x).faults = s.faults := rfl
@[simp] theorem setTeam_ranges (k : Nat) (x : Team) : (s.setTeam k x).ranges = s.ranges := rfl
@[simp] theorem setTeam_rangeWait (k : Nat) (x : Team) : (s.setTeam k x).rangeWait = s.rangeWait := rfl
@[simp] theorem setTeam_copies (k : Nat) (x : Team) : (s.setTeam k x).copies = s.copies := rfl
@[simp] theorem setTeam_groups (k : Nat) (x : Team) : (s.setTeam k x).groups = s.groups := rfl
@[simp] theorem setTeam_teams (k : Nat) (x : Team) : (s.setTeam k x).teams = mapInsert s.teams k x := rfl
@[simp] theorem setTeam_jobs (k : Nat) (x : Team) : (s.setTeam k x).jobs = s.jobs := rfl
@[simp] theorem setTeam_sails (k : Nat) (x : Team) : (s.setTeam k x).sails = s.sails := rfl
@[simp] theorem setTeam_reserved (k : Nat) (x : Team) : (s.setTeam k x).reserved = s.reserved := rfl
@[simp] theorem setTeam_ibuf (k : Nat) (x : Team) : (s.setTeam k x).ibuf = s.ibuf := rfl
@[simp] theorem setTeam_stale (k : Nat) (x : Team) : (s.setTeam k x).stale = s.stale := rfl
@[simp] theorem setTeam_hints (k : Nat) (x : Team) : (s.setTeam k x).hints = s.hints := rfl
@[simp] theorem setTeam_moves (k : Nat) (x : Team) : (s.setTeam k x).moves = s.moves := rfl
@[simp] theorem setTeam_track (k : Nat) (x : Team) : (s.setTeam k x).track = s.track := rfl
@[simp] theorem setTeam_frozen (k : Nat) (x : Team) : (s.setTeam k x).frozen = s.frozen := rfl
@[simp] theorem setTeam_staged (k : Nat) (x : Team) : (s.setTeam k x).staged = s.staged := rfl
@[simp] theorem setTeam_rings (k : Nat) (x : Team) : (s.setTeam k x).rings = s.rings := rfl
@[simp] theorem setTeam_softErrs (k : Nat) (x : Team) : (s.setTeam k x).softErrs = s.softErrs := rfl
@[simp] theorem setTeam_errcount (k : Nat) (x : Team) : (s.setTeam k x).errcount = s.errcount := rfl
@[simp] theorem setTeam_errlog (k : Nat) (x : Team) : (s.setTeam k x).errlog = s.errlog := rfl
@[simp] theorem setTeam_errTimes (k : Nat) (x : Team) : (s.setTeam k x).errTimes = s.errTimes := rfl
@[simp] theorem setTeam_marked (k : Nat) (x : Team) : (s.setTeam k x).marked = s.marked := rfl
@[simp] theorem setTeam_retired (k : Nat) (x : Team) : (s.setTeam k x).retired = s.retired := rfl
@[simp] theorem setTeam_keys (k : Nat) (x : Team) : (s.setTeam k x).keys = s.keys := rfl
@[simp] theorem setTeam_parts (k : Nat) (x : Team) : (s.setTeam k x).parts = s.parts := rfl
@[simp] theorem setTeam_queues (k : Nat) (x : Team) : (s.setTeam k x).queues = s.queues := rfl
@[simp] theorem setTeam_events (k : Nat) (x : Team) : (s.setTeam k x).events = s.events := rfl
@[simp] theorem setTeam_threads (k : Nat) (x : Team) : (s.setTeam k x).threads = s.threads := rfl
@[simp] theorem setTeam_imports (k : Nat) (x : Team) : (s.setTeam k x).imports = s.imports := rfl
@[simp] theorem setTeam_decoders (k : Nat) (x : Team) : (s.setTeam k x).decoders = s.decoders := rfl
@[simp] theorem setTeam_hdm (k : Nat) (x : Team) : (s.setTeam k x).hdm = s.hdm := rfl
@[simp] theorem setTeam_boot (k : Nat) (x : Team) : (s.setTeam k x).boot = s.boot := rfl
@[simp] theorem setTeam_timer (k : Nat) (x : Team) : (s.setTeam k x).timer = s.timer := rfl
@[simp] theorem setTeam_free (k : Nat) (x : Team) : (s.setTeam k x).free = s.free := rfl
@[simp] theorem setTeam_agenda (k : Nat) (x : Team) : (s.setTeam k x).agenda = s.agenda := rfl
@[simp] theorem setTeam_turn (k : Nat) (x : Team) : (s.setTeam k x).turn = s.turn := rfl
@[simp] theorem setTeam_lastSys (k : Nat) (x : Team) : (s.setTeam k x).lastSys = s.lastSys := rfl
@[simp] theorem setTeam_lastCp (k : Nat) (x : Team) : (s.setTeam k x).lastCp = s.lastCp := rfl
@[simp] theorem setTeam_cur (k : Nat) (x : Team) : (s.setTeam k x).cur = s.cur := rfl
@[simp] theorem setTeam_holds (k : Nat) (x : Team) : (s.setTeam k x).holds = s.holds := rfl

/-! ## setJob -/

@[simp] theorem setJob_mem (k : Nat) (x : Job) : (s.setJob k x).mem = s.mem := rfl
@[simp] theorem setJob_lineKid (k : Nat) (x : Job) : (s.setJob k x).lineKid = s.lineKid := rfl
@[simp] theorem setJob_lineOld (k : Nat) (x : Job) : (s.setJob k x).lineOld = s.lineOld := rfl
@[simp] theorem setJob_poison (k : Nat) (x : Job) : (s.setJob k x).poison = s.poison := rfl
@[simp] theorem setJob_l2 (k : Nat) (x : Job) : (s.setJob k x).l2 = s.l2 := rfl
@[simp] theorem setJob_home (k : Nat) (x : Job) : (s.setJob k x).home = s.home := rfl
@[simp] theorem setJob_perm (k : Nat) (x : Job) : (s.setJob k x).perm = s.perm := rfl
@[simp] theorem setJob_hostDirty (k : Nat) (x : Job) : (s.setJob k x).hostDirty = s.hostDirty := rfl
@[simp] theorem setJob_wants (k : Nat) (x : Job) : (s.setJob k x).wants = s.wants := rfl
@[simp] theorem setJob_hostOut (k : Nat) (x : Job) : (s.setJob k x).hostOut = s.hostOut := rfl
@[simp] theorem setJob_remoteOut (k : Nat) (x : Job) : (s.setJob k x).remoteOut = s.remoteOut := rfl
@[simp] theorem setJob_h0 (k : Nat) (x : Job) : (s.setJob k x).h0 = s.h0 := rfl
@[simp] theorem setJob_msgs (k : Nat) (x : Job) : (s.setJob k x).msgs = s.msgs := rfl
@[simp] theorem setJob_reqs (k : Nat) (x : Job) : (s.setJob k x).reqs = s.reqs := rfl
@[simp] theorem setJob_ptab (k : Nat) (x : Job) : (s.setJob k x).ptab = s.ptab := rfl
@[simp] theorem setJob_pseq (k : Nat) (x : Job) : (s.setJob k x).pseq = s.pseq := rfl
@[simp] theorem setJob_acts (k : Nat) (x : Job) : (s.setJob k x).acts = s.acts := rfl
@[simp] theorem setJob_pend (k : Nat) (x : Job) : (s.setJob k x).pend = s.pend := rfl
@[simp] theorem setJob_hops (k : Nat) (x : Job) : (s.setJob k x).hops = s.hops := rfl
@[simp] theorem setJob_homeq (k : Nat) (x : Job) : (s.setJob k x).homeq = s.homeq := rfl
@[simp] theorem setJob_records (k : Nat) (x : Job) : (s.setJob k x).records = s.records := rfl
@[simp] theorem setJob_appends (k : Nat) (x : Job) : (s.setJob k x).appends = s.appends := rfl
@[simp] theorem setJob_seals (k : Nat) (x : Job) : (s.setJob k x).seals = s.seals := rfl
@[simp] theorem setJob_replicas (k : Nat) (x : Job) : (s.setJob k x).replicas = s.replicas := rfl
@[simp] theorem setJob_exports (k : Nat) (x : Job) : (s.setJob k x).exports = s.exports := rfl
@[simp] theorem setJob_frees (k : Nat) (x : Job) : (s.setJob k x).frees = s.frees := rfl
@[simp] theorem setJob_tlb (k : Nat) (x : Job) : (s.setJob k x).tlb = s.tlb := rfl
@[simp] theorem setJob_wcache (k : Nat) (x : Job) : (s.setJob k x).wcache = s.wcache := rfl
@[simp] theorem setJob_invals (k : Nat) (x : Job) : (s.setJob k x).invals = s.invals := rfl
@[simp] theorem setJob_pins (k : Nat) (x : Job) : (s.setJob k x).pins = s.pins := rfl
@[simp] theorem setJob_faults (k : Nat) (x : Job) : (s.setJob k x).faults = s.faults := rfl
@[simp] theorem setJob_ranges (k : Nat) (x : Job) : (s.setJob k x).ranges = s.ranges := rfl
@[simp] theorem setJob_rangeWait (k : Nat) (x : Job) : (s.setJob k x).rangeWait = s.rangeWait := rfl
@[simp] theorem setJob_copies (k : Nat) (x : Job) : (s.setJob k x).copies = s.copies := rfl
@[simp] theorem setJob_groups (k : Nat) (x : Job) : (s.setJob k x).groups = s.groups := rfl
@[simp] theorem setJob_teams (k : Nat) (x : Job) : (s.setJob k x).teams = s.teams := rfl
@[simp] theorem setJob_jobs (k : Nat) (x : Job) : (s.setJob k x).jobs = mapInsert s.jobs k x := rfl
@[simp] theorem setJob_sails (k : Nat) (x : Job) : (s.setJob k x).sails = s.sails := rfl
@[simp] theorem setJob_reserved (k : Nat) (x : Job) : (s.setJob k x).reserved = s.reserved := rfl
@[simp] theorem setJob_ibuf (k : Nat) (x : Job) : (s.setJob k x).ibuf = s.ibuf := rfl
@[simp] theorem setJob_stale (k : Nat) (x : Job) : (s.setJob k x).stale = s.stale := rfl
@[simp] theorem setJob_hints (k : Nat) (x : Job) : (s.setJob k x).hints = s.hints := rfl
@[simp] theorem setJob_moves (k : Nat) (x : Job) : (s.setJob k x).moves = s.moves := rfl
@[simp] theorem setJob_track (k : Nat) (x : Job) : (s.setJob k x).track = s.track := rfl
@[simp] theorem setJob_frozen (k : Nat) (x : Job) : (s.setJob k x).frozen = s.frozen := rfl
@[simp] theorem setJob_staged (k : Nat) (x : Job) : (s.setJob k x).staged = s.staged := rfl
@[simp] theorem setJob_rings (k : Nat) (x : Job) : (s.setJob k x).rings = s.rings := rfl
@[simp] theorem setJob_softErrs (k : Nat) (x : Job) : (s.setJob k x).softErrs = s.softErrs := rfl
@[simp] theorem setJob_errcount (k : Nat) (x : Job) : (s.setJob k x).errcount = s.errcount := rfl
@[simp] theorem setJob_errlog (k : Nat) (x : Job) : (s.setJob k x).errlog = s.errlog := rfl
@[simp] theorem setJob_errTimes (k : Nat) (x : Job) : (s.setJob k x).errTimes = s.errTimes := rfl
@[simp] theorem setJob_marked (k : Nat) (x : Job) : (s.setJob k x).marked = s.marked := rfl
@[simp] theorem setJob_retired (k : Nat) (x : Job) : (s.setJob k x).retired = s.retired := rfl
@[simp] theorem setJob_keys (k : Nat) (x : Job) : (s.setJob k x).keys = s.keys := rfl
@[simp] theorem setJob_parts (k : Nat) (x : Job) : (s.setJob k x).parts = s.parts := rfl
@[simp] theorem setJob_queues (k : Nat) (x : Job) : (s.setJob k x).queues = s.queues := rfl
@[simp] theorem setJob_events (k : Nat) (x : Job) : (s.setJob k x).events = s.events := rfl
@[simp] theorem setJob_threads (k : Nat) (x : Job) : (s.setJob k x).threads = s.threads := rfl
@[simp] theorem setJob_imports (k : Nat) (x : Job) : (s.setJob k x).imports = s.imports := rfl
@[simp] theorem setJob_decoders (k : Nat) (x : Job) : (s.setJob k x).decoders = s.decoders := rfl
@[simp] theorem setJob_hdm (k : Nat) (x : Job) : (s.setJob k x).hdm = s.hdm := rfl
@[simp] theorem setJob_boot (k : Nat) (x : Job) : (s.setJob k x).boot = s.boot := rfl
@[simp] theorem setJob_timer (k : Nat) (x : Job) : (s.setJob k x).timer = s.timer := rfl
@[simp] theorem setJob_free (k : Nat) (x : Job) : (s.setJob k x).free = s.free := rfl
@[simp] theorem setJob_agenda (k : Nat) (x : Job) : (s.setJob k x).agenda = s.agenda := rfl
@[simp] theorem setJob_turn (k : Nat) (x : Job) : (s.setJob k x).turn = s.turn := rfl
@[simp] theorem setJob_lastSys (k : Nat) (x : Job) : (s.setJob k x).lastSys = s.lastSys := rfl
@[simp] theorem setJob_lastCp (k : Nat) (x : Job) : (s.setJob k x).lastCp = s.lastCp := rfl
@[simp] theorem setJob_cur (k : Nat) (x : Job) : (s.setJob k x).cur = s.cur := rfl
@[simp] theorem setJob_holds (k : Nat) (x : Job) : (s.setJob k x).holds = s.holds := rfl

/-! ## setCurGroup -/

@[simp] theorem setCurGroup_mem (x : Group) : (s.setCurGroup x).mem = s.mem := rfl
@[simp] theorem setCurGroup_lineKid (x : Group) : (s.setCurGroup x).lineKid = s.lineKid := rfl
@[simp] theorem setCurGroup_lineOld (x : Group) : (s.setCurGroup x).lineOld = s.lineOld := rfl
@[simp] theorem setCurGroup_poison (x : Group) : (s.setCurGroup x).poison = s.poison := rfl
@[simp] theorem setCurGroup_l2 (x : Group) : (s.setCurGroup x).l2 = s.l2 := rfl
@[simp] theorem setCurGroup_home (x : Group) : (s.setCurGroup x).home = s.home := rfl
@[simp] theorem setCurGroup_perm (x : Group) : (s.setCurGroup x).perm = s.perm := rfl
@[simp] theorem setCurGroup_hostDirty (x : Group) : (s.setCurGroup x).hostDirty = s.hostDirty := rfl
@[simp] theorem setCurGroup_wants (x : Group) : (s.setCurGroup x).wants = s.wants := rfl
@[simp] theorem setCurGroup_hostOut (x : Group) : (s.setCurGroup x).hostOut = s.hostOut := rfl
@[simp] theorem setCurGroup_remoteOut (x : Group) : (s.setCurGroup x).remoteOut = s.remoteOut := rfl
@[simp] theorem setCurGroup_h0 (x : Group) : (s.setCurGroup x).h0 = s.h0 := rfl
@[simp] theorem setCurGroup_msgs (x : Group) : (s.setCurGroup x).msgs = s.msgs := rfl
@[simp] theorem setCurGroup_reqs (x : Group) : (s.setCurGroup x).reqs = s.reqs := rfl
@[simp] theorem setCurGroup_ptab (x : Group) : (s.setCurGroup x).ptab = s.ptab := rfl
@[simp] theorem setCurGroup_pseq (x : Group) : (s.setCurGroup x).pseq = s.pseq := rfl
@[simp] theorem setCurGroup_acts (x : Group) : (s.setCurGroup x).acts = s.acts := rfl
@[simp] theorem setCurGroup_pend (x : Group) : (s.setCurGroup x).pend = s.pend := rfl
@[simp] theorem setCurGroup_hops (x : Group) : (s.setCurGroup x).hops = s.hops := rfl
@[simp] theorem setCurGroup_homeq (x : Group) : (s.setCurGroup x).homeq = s.homeq := rfl
@[simp] theorem setCurGroup_records (x : Group) : (s.setCurGroup x).records = s.records := rfl
@[simp] theorem setCurGroup_appends (x : Group) : (s.setCurGroup x).appends = s.appends := rfl
@[simp] theorem setCurGroup_seals (x : Group) : (s.setCurGroup x).seals = s.seals := rfl
@[simp] theorem setCurGroup_replicas (x : Group) : (s.setCurGroup x).replicas = s.replicas := rfl
@[simp] theorem setCurGroup_exports (x : Group) : (s.setCurGroup x).exports = s.exports := rfl
@[simp] theorem setCurGroup_frees (x : Group) : (s.setCurGroup x).frees = s.frees := rfl
@[simp] theorem setCurGroup_tlb (x : Group) : (s.setCurGroup x).tlb = s.tlb := rfl
@[simp] theorem setCurGroup_wcache (x : Group) : (s.setCurGroup x).wcache = s.wcache := rfl
@[simp] theorem setCurGroup_invals (x : Group) : (s.setCurGroup x).invals = s.invals := rfl
@[simp] theorem setCurGroup_pins (x : Group) : (s.setCurGroup x).pins = s.pins := rfl
@[simp] theorem setCurGroup_faults (x : Group) : (s.setCurGroup x).faults = s.faults := rfl
@[simp] theorem setCurGroup_ranges (x : Group) : (s.setCurGroup x).ranges = s.ranges := rfl
@[simp] theorem setCurGroup_rangeWait (x : Group) : (s.setCurGroup x).rangeWait = s.rangeWait := rfl
@[simp] theorem setCurGroup_copies (x : Group) : (s.setCurGroup x).copies = s.copies := rfl
@[simp] theorem setCurGroup_groups (x : Group) : (s.setCurGroup x).groups = mapInsert s.groups s.cur.grp x := rfl
@[simp] theorem setCurGroup_teams (x : Group) : (s.setCurGroup x).teams = s.teams := rfl
@[simp] theorem setCurGroup_jobs (x : Group) : (s.setCurGroup x).jobs = s.jobs := rfl
@[simp] theorem setCurGroup_sails (x : Group) : (s.setCurGroup x).sails = s.sails := rfl
@[simp] theorem setCurGroup_reserved (x : Group) : (s.setCurGroup x).reserved = s.reserved := rfl
@[simp] theorem setCurGroup_ibuf (x : Group) : (s.setCurGroup x).ibuf = s.ibuf := rfl
@[simp] theorem setCurGroup_stale (x : Group) : (s.setCurGroup x).stale = s.stale := rfl
@[simp] theorem setCurGroup_hints (x : Group) : (s.setCurGroup x).hints = s.hints := rfl
@[simp] theorem setCurGroup_moves (x : Group) : (s.setCurGroup x).moves = s.moves := rfl
@[simp] theorem setCurGroup_track (x : Group) : (s.setCurGroup x).track = s.track := rfl
@[simp] theorem setCurGroup_frozen (x : Group) : (s.setCurGroup x).frozen = s.frozen := rfl
@[simp] theorem setCurGroup_staged (x : Group) : (s.setCurGroup x).staged = s.staged := rfl
@[simp] theorem setCurGroup_rings (x : Group) : (s.setCurGroup x).rings = s.rings := rfl
@[simp] theorem setCurGroup_softErrs (x : Group) : (s.setCurGroup x).softErrs = s.softErrs := rfl
@[simp] theorem setCurGroup_errcount (x : Group) : (s.setCurGroup x).errcount = s.errcount := rfl
@[simp] theorem setCurGroup_errlog (x : Group) : (s.setCurGroup x).errlog = s.errlog := rfl
@[simp] theorem setCurGroup_errTimes (x : Group) : (s.setCurGroup x).errTimes = s.errTimes := rfl
@[simp] theorem setCurGroup_marked (x : Group) : (s.setCurGroup x).marked = s.marked := rfl
@[simp] theorem setCurGroup_retired (x : Group) : (s.setCurGroup x).retired = s.retired := rfl
@[simp] theorem setCurGroup_keys (x : Group) : (s.setCurGroup x).keys = s.keys := rfl
@[simp] theorem setCurGroup_parts (x : Group) : (s.setCurGroup x).parts = s.parts := rfl
@[simp] theorem setCurGroup_queues (x : Group) : (s.setCurGroup x).queues = s.queues := rfl
@[simp] theorem setCurGroup_events (x : Group) : (s.setCurGroup x).events = s.events := rfl
@[simp] theorem setCurGroup_threads (x : Group) : (s.setCurGroup x).threads = s.threads := rfl
@[simp] theorem setCurGroup_imports (x : Group) : (s.setCurGroup x).imports = s.imports := rfl
@[simp] theorem setCurGroup_decoders (x : Group) : (s.setCurGroup x).decoders = s.decoders := rfl
@[simp] theorem setCurGroup_hdm (x : Group) : (s.setCurGroup x).hdm = s.hdm := rfl
@[simp] theorem setCurGroup_boot (x : Group) : (s.setCurGroup x).boot = s.boot := rfl
@[simp] theorem setCurGroup_timer (x : Group) : (s.setCurGroup x).timer = s.timer := rfl
@[simp] theorem setCurGroup_free (x : Group) : (s.setCurGroup x).free = s.free := rfl
@[simp] theorem setCurGroup_agenda (x : Group) : (s.setCurGroup x).agenda = s.agenda := rfl
@[simp] theorem setCurGroup_turn (x : Group) : (s.setCurGroup x).turn = s.turn := rfl
@[simp] theorem setCurGroup_lastSys (x : Group) : (s.setCurGroup x).lastSys = s.lastSys := rfl
@[simp] theorem setCurGroup_lastCp (x : Group) : (s.setCurGroup x).lastCp = s.lastCp := rfl
@[simp] theorem setCurGroup_cur (x : Group) : (s.setCurGroup x).cur = s.cur := rfl
@[simp] theorem setCurGroup_holds (x : Group) : (s.setCurGroup x).holds = s.holds := rfl

/-! ## setCurTeam -/

@[simp] theorem setCurTeam_mem (x : Team) : (s.setCurTeam x).mem = s.mem := rfl
@[simp] theorem setCurTeam_lineKid (x : Team) : (s.setCurTeam x).lineKid = s.lineKid := rfl
@[simp] theorem setCurTeam_lineOld (x : Team) : (s.setCurTeam x).lineOld = s.lineOld := rfl
@[simp] theorem setCurTeam_poison (x : Team) : (s.setCurTeam x).poison = s.poison := rfl
@[simp] theorem setCurTeam_l2 (x : Team) : (s.setCurTeam x).l2 = s.l2 := rfl
@[simp] theorem setCurTeam_home (x : Team) : (s.setCurTeam x).home = s.home := rfl
@[simp] theorem setCurTeam_perm (x : Team) : (s.setCurTeam x).perm = s.perm := rfl
@[simp] theorem setCurTeam_hostDirty (x : Team) : (s.setCurTeam x).hostDirty = s.hostDirty := rfl
@[simp] theorem setCurTeam_wants (x : Team) : (s.setCurTeam x).wants = s.wants := rfl
@[simp] theorem setCurTeam_hostOut (x : Team) : (s.setCurTeam x).hostOut = s.hostOut := rfl
@[simp] theorem setCurTeam_remoteOut (x : Team) : (s.setCurTeam x).remoteOut = s.remoteOut := rfl
@[simp] theorem setCurTeam_h0 (x : Team) : (s.setCurTeam x).h0 = s.h0 := rfl
@[simp] theorem setCurTeam_msgs (x : Team) : (s.setCurTeam x).msgs = s.msgs := rfl
@[simp] theorem setCurTeam_reqs (x : Team) : (s.setCurTeam x).reqs = s.reqs := rfl
@[simp] theorem setCurTeam_ptab (x : Team) : (s.setCurTeam x).ptab = s.ptab := rfl
@[simp] theorem setCurTeam_pseq (x : Team) : (s.setCurTeam x).pseq = s.pseq := rfl
@[simp] theorem setCurTeam_acts (x : Team) : (s.setCurTeam x).acts = s.acts := rfl
@[simp] theorem setCurTeam_pend (x : Team) : (s.setCurTeam x).pend = s.pend := rfl
@[simp] theorem setCurTeam_hops (x : Team) : (s.setCurTeam x).hops = s.hops := rfl
@[simp] theorem setCurTeam_homeq (x : Team) : (s.setCurTeam x).homeq = s.homeq := rfl
@[simp] theorem setCurTeam_records (x : Team) : (s.setCurTeam x).records = s.records := rfl
@[simp] theorem setCurTeam_appends (x : Team) : (s.setCurTeam x).appends = s.appends := rfl
@[simp] theorem setCurTeam_seals (x : Team) : (s.setCurTeam x).seals = s.seals := rfl
@[simp] theorem setCurTeam_replicas (x : Team) : (s.setCurTeam x).replicas = s.replicas := rfl
@[simp] theorem setCurTeam_exports (x : Team) : (s.setCurTeam x).exports = s.exports := rfl
@[simp] theorem setCurTeam_frees (x : Team) : (s.setCurTeam x).frees = s.frees := rfl
@[simp] theorem setCurTeam_tlb (x : Team) : (s.setCurTeam x).tlb = s.tlb := rfl
@[simp] theorem setCurTeam_wcache (x : Team) : (s.setCurTeam x).wcache = s.wcache := rfl
@[simp] theorem setCurTeam_invals (x : Team) : (s.setCurTeam x).invals = s.invals := rfl
@[simp] theorem setCurTeam_pins (x : Team) : (s.setCurTeam x).pins = s.pins := rfl
@[simp] theorem setCurTeam_faults (x : Team) : (s.setCurTeam x).faults = s.faults := rfl
@[simp] theorem setCurTeam_ranges (x : Team) : (s.setCurTeam x).ranges = s.ranges := rfl
@[simp] theorem setCurTeam_rangeWait (x : Team) : (s.setCurTeam x).rangeWait = s.rangeWait := rfl
@[simp] theorem setCurTeam_copies (x : Team) : (s.setCurTeam x).copies = s.copies := rfl
@[simp] theorem setCurTeam_groups (x : Team) : (s.setCurTeam x).groups = s.groups := rfl
@[simp] theorem setCurTeam_teams (x : Team) : (s.setCurTeam x).teams = mapInsert s.teams s.curGroup.tk x := rfl
@[simp] theorem setCurTeam_jobs (x : Team) : (s.setCurTeam x).jobs = s.jobs := rfl
@[simp] theorem setCurTeam_sails (x : Team) : (s.setCurTeam x).sails = s.sails := rfl
@[simp] theorem setCurTeam_reserved (x : Team) : (s.setCurTeam x).reserved = s.reserved := rfl
@[simp] theorem setCurTeam_ibuf (x : Team) : (s.setCurTeam x).ibuf = s.ibuf := rfl
@[simp] theorem setCurTeam_stale (x : Team) : (s.setCurTeam x).stale = s.stale := rfl
@[simp] theorem setCurTeam_hints (x : Team) : (s.setCurTeam x).hints = s.hints := rfl
@[simp] theorem setCurTeam_moves (x : Team) : (s.setCurTeam x).moves = s.moves := rfl
@[simp] theorem setCurTeam_track (x : Team) : (s.setCurTeam x).track = s.track := rfl
@[simp] theorem setCurTeam_frozen (x : Team) : (s.setCurTeam x).frozen = s.frozen := rfl
@[simp] theorem setCurTeam_staged (x : Team) : (s.setCurTeam x).staged = s.staged := rfl
@[simp] theorem setCurTeam_rings (x : Team) : (s.setCurTeam x).rings = s.rings := rfl
@[simp] theorem setCurTeam_softErrs (x : Team) : (s.setCurTeam x).softErrs = s.softErrs := rfl
@[simp] theorem setCurTeam_errcount (x : Team) : (s.setCurTeam x).errcount = s.errcount := rfl
@[simp] theorem setCurTeam_errlog (x : Team) : (s.setCurTeam x).errlog = s.errlog := rfl
@[simp] theorem setCurTeam_errTimes (x : Team) : (s.setCurTeam x).errTimes = s.errTimes := rfl
@[simp] theorem setCurTeam_marked (x : Team) : (s.setCurTeam x).marked = s.marked := rfl
@[simp] theorem setCurTeam_retired (x : Team) : (s.setCurTeam x).retired = s.retired := rfl
@[simp] theorem setCurTeam_keys (x : Team) : (s.setCurTeam x).keys = s.keys := rfl
@[simp] theorem setCurTeam_parts (x : Team) : (s.setCurTeam x).parts = s.parts := rfl
@[simp] theorem setCurTeam_queues (x : Team) : (s.setCurTeam x).queues = s.queues := rfl
@[simp] theorem setCurTeam_events (x : Team) : (s.setCurTeam x).events = s.events := rfl
@[simp] theorem setCurTeam_threads (x : Team) : (s.setCurTeam x).threads = s.threads := rfl
@[simp] theorem setCurTeam_imports (x : Team) : (s.setCurTeam x).imports = s.imports := rfl
@[simp] theorem setCurTeam_decoders (x : Team) : (s.setCurTeam x).decoders = s.decoders := rfl
@[simp] theorem setCurTeam_hdm (x : Team) : (s.setCurTeam x).hdm = s.hdm := rfl
@[simp] theorem setCurTeam_boot (x : Team) : (s.setCurTeam x).boot = s.boot := rfl
@[simp] theorem setCurTeam_timer (x : Team) : (s.setCurTeam x).timer = s.timer := rfl
@[simp] theorem setCurTeam_free (x : Team) : (s.setCurTeam x).free = s.free := rfl
@[simp] theorem setCurTeam_agenda (x : Team) : (s.setCurTeam x).agenda = s.agenda := rfl
@[simp] theorem setCurTeam_turn (x : Team) : (s.setCurTeam x).turn = s.turn := rfl
@[simp] theorem setCurTeam_lastSys (x : Team) : (s.setCurTeam x).lastSys = s.lastSys := rfl
@[simp] theorem setCurTeam_lastCp (x : Team) : (s.setCurTeam x).lastCp = s.lastCp := rfl
@[simp] theorem setCurTeam_cur (x : Team) : (s.setCurTeam x).cur = s.cur := rfl
@[simp] theorem setCurTeam_holds (x : Team) : (s.setCurTeam x).holds = s.holds := rfl

/-! ## setCurJob -/

@[simp] theorem setCurJob_mem (x : Job) : (s.setCurJob x).mem = s.mem := rfl
@[simp] theorem setCurJob_lineKid (x : Job) : (s.setCurJob x).lineKid = s.lineKid := rfl
@[simp] theorem setCurJob_lineOld (x : Job) : (s.setCurJob x).lineOld = s.lineOld := rfl
@[simp] theorem setCurJob_poison (x : Job) : (s.setCurJob x).poison = s.poison := rfl
@[simp] theorem setCurJob_l2 (x : Job) : (s.setCurJob x).l2 = s.l2 := rfl
@[simp] theorem setCurJob_home (x : Job) : (s.setCurJob x).home = s.home := rfl
@[simp] theorem setCurJob_perm (x : Job) : (s.setCurJob x).perm = s.perm := rfl
@[simp] theorem setCurJob_hostDirty (x : Job) : (s.setCurJob x).hostDirty = s.hostDirty := rfl
@[simp] theorem setCurJob_wants (x : Job) : (s.setCurJob x).wants = s.wants := rfl
@[simp] theorem setCurJob_hostOut (x : Job) : (s.setCurJob x).hostOut = s.hostOut := rfl
@[simp] theorem setCurJob_remoteOut (x : Job) : (s.setCurJob x).remoteOut = s.remoteOut := rfl
@[simp] theorem setCurJob_h0 (x : Job) : (s.setCurJob x).h0 = s.h0 := rfl
@[simp] theorem setCurJob_msgs (x : Job) : (s.setCurJob x).msgs = s.msgs := rfl
@[simp] theorem setCurJob_reqs (x : Job) : (s.setCurJob x).reqs = s.reqs := rfl
@[simp] theorem setCurJob_ptab (x : Job) : (s.setCurJob x).ptab = s.ptab := rfl
@[simp] theorem setCurJob_pseq (x : Job) : (s.setCurJob x).pseq = s.pseq := rfl
@[simp] theorem setCurJob_acts (x : Job) : (s.setCurJob x).acts = s.acts := rfl
@[simp] theorem setCurJob_pend (x : Job) : (s.setCurJob x).pend = s.pend := rfl
@[simp] theorem setCurJob_hops (x : Job) : (s.setCurJob x).hops = s.hops := rfl
@[simp] theorem setCurJob_homeq (x : Job) : (s.setCurJob x).homeq = s.homeq := rfl
@[simp] theorem setCurJob_records (x : Job) : (s.setCurJob x).records = s.records := rfl
@[simp] theorem setCurJob_appends (x : Job) : (s.setCurJob x).appends = s.appends := rfl
@[simp] theorem setCurJob_seals (x : Job) : (s.setCurJob x).seals = s.seals := rfl
@[simp] theorem setCurJob_replicas (x : Job) : (s.setCurJob x).replicas = s.replicas := rfl
@[simp] theorem setCurJob_exports (x : Job) : (s.setCurJob x).exports = s.exports := rfl
@[simp] theorem setCurJob_frees (x : Job) : (s.setCurJob x).frees = s.frees := rfl
@[simp] theorem setCurJob_tlb (x : Job) : (s.setCurJob x).tlb = s.tlb := rfl
@[simp] theorem setCurJob_wcache (x : Job) : (s.setCurJob x).wcache = s.wcache := rfl
@[simp] theorem setCurJob_invals (x : Job) : (s.setCurJob x).invals = s.invals := rfl
@[simp] theorem setCurJob_pins (x : Job) : (s.setCurJob x).pins = s.pins := rfl
@[simp] theorem setCurJob_faults (x : Job) : (s.setCurJob x).faults = s.faults := rfl
@[simp] theorem setCurJob_ranges (x : Job) : (s.setCurJob x).ranges = s.ranges := rfl
@[simp] theorem setCurJob_rangeWait (x : Job) : (s.setCurJob x).rangeWait = s.rangeWait := rfl
@[simp] theorem setCurJob_copies (x : Job) : (s.setCurJob x).copies = s.copies := rfl
@[simp] theorem setCurJob_groups (x : Job) : (s.setCurJob x).groups = s.groups := rfl
@[simp] theorem setCurJob_teams (x : Job) : (s.setCurJob x).teams = s.teams := rfl
@[simp] theorem setCurJob_jobs (x : Job) : (s.setCurJob x).jobs = mapInsert s.jobs s.curGroup.job x := rfl
@[simp] theorem setCurJob_sails (x : Job) : (s.setCurJob x).sails = s.sails := rfl
@[simp] theorem setCurJob_reserved (x : Job) : (s.setCurJob x).reserved = s.reserved := rfl
@[simp] theorem setCurJob_ibuf (x : Job) : (s.setCurJob x).ibuf = s.ibuf := rfl
@[simp] theorem setCurJob_stale (x : Job) : (s.setCurJob x).stale = s.stale := rfl
@[simp] theorem setCurJob_hints (x : Job) : (s.setCurJob x).hints = s.hints := rfl
@[simp] theorem setCurJob_moves (x : Job) : (s.setCurJob x).moves = s.moves := rfl
@[simp] theorem setCurJob_track (x : Job) : (s.setCurJob x).track = s.track := rfl
@[simp] theorem setCurJob_frozen (x : Job) : (s.setCurJob x).frozen = s.frozen := rfl
@[simp] theorem setCurJob_staged (x : Job) : (s.setCurJob x).staged = s.staged := rfl
@[simp] theorem setCurJob_rings (x : Job) : (s.setCurJob x).rings = s.rings := rfl
@[simp] theorem setCurJob_softErrs (x : Job) : (s.setCurJob x).softErrs = s.softErrs := rfl
@[simp] theorem setCurJob_errcount (x : Job) : (s.setCurJob x).errcount = s.errcount := rfl
@[simp] theorem setCurJob_errlog (x : Job) : (s.setCurJob x).errlog = s.errlog := rfl
@[simp] theorem setCurJob_errTimes (x : Job) : (s.setCurJob x).errTimes = s.errTimes := rfl
@[simp] theorem setCurJob_marked (x : Job) : (s.setCurJob x).marked = s.marked := rfl
@[simp] theorem setCurJob_retired (x : Job) : (s.setCurJob x).retired = s.retired := rfl
@[simp] theorem setCurJob_keys (x : Job) : (s.setCurJob x).keys = s.keys := rfl
@[simp] theorem setCurJob_parts (x : Job) : (s.setCurJob x).parts = s.parts := rfl
@[simp] theorem setCurJob_queues (x : Job) : (s.setCurJob x).queues = s.queues := rfl
@[simp] theorem setCurJob_events (x : Job) : (s.setCurJob x).events = s.events := rfl
@[simp] theorem setCurJob_threads (x : Job) : (s.setCurJob x).threads = s.threads := rfl
@[simp] theorem setCurJob_imports (x : Job) : (s.setCurJob x).imports = s.imports := rfl
@[simp] theorem setCurJob_decoders (x : Job) : (s.setCurJob x).decoders = s.decoders := rfl
@[simp] theorem setCurJob_hdm (x : Job) : (s.setCurJob x).hdm = s.hdm := rfl
@[simp] theorem setCurJob_boot (x : Job) : (s.setCurJob x).boot = s.boot := rfl
@[simp] theorem setCurJob_timer (x : Job) : (s.setCurJob x).timer = s.timer := rfl
@[simp] theorem setCurJob_free (x : Job) : (s.setCurJob x).free = s.free := rfl
@[simp] theorem setCurJob_agenda (x : Job) : (s.setCurJob x).agenda = s.agenda := rfl
@[simp] theorem setCurJob_turn (x : Job) : (s.setCurJob x).turn = s.turn := rfl
@[simp] theorem setCurJob_lastSys (x : Job) : (s.setCurJob x).lastSys = s.lastSys := rfl
@[simp] theorem setCurJob_lastCp (x : Job) : (s.setCurJob x).lastCp = s.lastCp := rfl
@[simp] theorem setCurJob_cur (x : Job) : (s.setCurJob x).cur = s.cur := rfl
@[simp] theorem setCurJob_holds (x : Job) : (s.setCurJob x).holds = s.holds := rfl

/-! ## setPart -/

@[simp] theorem setPart_mem (k : Nat) (x : Part) : (s.setPart k x).mem = s.mem := rfl
@[simp] theorem setPart_lineKid (k : Nat) (x : Part) : (s.setPart k x).lineKid = s.lineKid := rfl
@[simp] theorem setPart_lineOld (k : Nat) (x : Part) : (s.setPart k x).lineOld = s.lineOld := rfl
@[simp] theorem setPart_poison (k : Nat) (x : Part) : (s.setPart k x).poison = s.poison := rfl
@[simp] theorem setPart_l2 (k : Nat) (x : Part) : (s.setPart k x).l2 = s.l2 := rfl
@[simp] theorem setPart_home (k : Nat) (x : Part) : (s.setPart k x).home = s.home := rfl
@[simp] theorem setPart_perm (k : Nat) (x : Part) : (s.setPart k x).perm = s.perm := rfl
@[simp] theorem setPart_hostDirty (k : Nat) (x : Part) : (s.setPart k x).hostDirty = s.hostDirty := rfl
@[simp] theorem setPart_wants (k : Nat) (x : Part) : (s.setPart k x).wants = s.wants := rfl
@[simp] theorem setPart_hostOut (k : Nat) (x : Part) : (s.setPart k x).hostOut = s.hostOut := rfl
@[simp] theorem setPart_remoteOut (k : Nat) (x : Part) : (s.setPart k x).remoteOut = s.remoteOut := rfl
@[simp] theorem setPart_h0 (k : Nat) (x : Part) : (s.setPart k x).h0 = s.h0 := rfl
@[simp] theorem setPart_msgs (k : Nat) (x : Part) : (s.setPart k x).msgs = s.msgs := rfl
@[simp] theorem setPart_reqs (k : Nat) (x : Part) : (s.setPart k x).reqs = s.reqs := rfl
@[simp] theorem setPart_ptab (k : Nat) (x : Part) : (s.setPart k x).ptab = s.ptab := rfl
@[simp] theorem setPart_pseq (k : Nat) (x : Part) : (s.setPart k x).pseq = s.pseq := rfl
@[simp] theorem setPart_acts (k : Nat) (x : Part) : (s.setPart k x).acts = s.acts := rfl
@[simp] theorem setPart_pend (k : Nat) (x : Part) : (s.setPart k x).pend = s.pend := rfl
@[simp] theorem setPart_hops (k : Nat) (x : Part) : (s.setPart k x).hops = s.hops := rfl
@[simp] theorem setPart_homeq (k : Nat) (x : Part) : (s.setPart k x).homeq = s.homeq := rfl
@[simp] theorem setPart_records (k : Nat) (x : Part) : (s.setPart k x).records = s.records := rfl
@[simp] theorem setPart_appends (k : Nat) (x : Part) : (s.setPart k x).appends = s.appends := rfl
@[simp] theorem setPart_seals (k : Nat) (x : Part) : (s.setPart k x).seals = s.seals := rfl
@[simp] theorem setPart_replicas (k : Nat) (x : Part) : (s.setPart k x).replicas = s.replicas := rfl
@[simp] theorem setPart_exports (k : Nat) (x : Part) : (s.setPart k x).exports = s.exports := rfl
@[simp] theorem setPart_frees (k : Nat) (x : Part) : (s.setPart k x).frees = s.frees := rfl
@[simp] theorem setPart_tlb (k : Nat) (x : Part) : (s.setPart k x).tlb = s.tlb := rfl
@[simp] theorem setPart_wcache (k : Nat) (x : Part) : (s.setPart k x).wcache = s.wcache := rfl
@[simp] theorem setPart_invals (k : Nat) (x : Part) : (s.setPart k x).invals = s.invals := rfl
@[simp] theorem setPart_pins (k : Nat) (x : Part) : (s.setPart k x).pins = s.pins := rfl
@[simp] theorem setPart_faults (k : Nat) (x : Part) : (s.setPart k x).faults = s.faults := rfl
@[simp] theorem setPart_ranges (k : Nat) (x : Part) : (s.setPart k x).ranges = s.ranges := rfl
@[simp] theorem setPart_rangeWait (k : Nat) (x : Part) : (s.setPart k x).rangeWait = s.rangeWait := rfl
@[simp] theorem setPart_copies (k : Nat) (x : Part) : (s.setPart k x).copies = s.copies := rfl
@[simp] theorem setPart_groups (k : Nat) (x : Part) : (s.setPart k x).groups = s.groups := rfl
@[simp] theorem setPart_teams (k : Nat) (x : Part) : (s.setPart k x).teams = s.teams := rfl
@[simp] theorem setPart_jobs (k : Nat) (x : Part) : (s.setPart k x).jobs = s.jobs := rfl
@[simp] theorem setPart_sails (k : Nat) (x : Part) : (s.setPart k x).sails = s.sails := rfl
@[simp] theorem setPart_reserved (k : Nat) (x : Part) : (s.setPart k x).reserved = s.reserved := rfl
@[simp] theorem setPart_ibuf (k : Nat) (x : Part) : (s.setPart k x).ibuf = s.ibuf := rfl
@[simp] theorem setPart_stale (k : Nat) (x : Part) : (s.setPart k x).stale = s.stale := rfl
@[simp] theorem setPart_hints (k : Nat) (x : Part) : (s.setPart k x).hints = s.hints := rfl
@[simp] theorem setPart_moves (k : Nat) (x : Part) : (s.setPart k x).moves = s.moves := rfl
@[simp] theorem setPart_track (k : Nat) (x : Part) : (s.setPart k x).track = s.track := rfl
@[simp] theorem setPart_frozen (k : Nat) (x : Part) : (s.setPart k x).frozen = s.frozen := rfl
@[simp] theorem setPart_staged (k : Nat) (x : Part) : (s.setPart k x).staged = s.staged := rfl
@[simp] theorem setPart_rings (k : Nat) (x : Part) : (s.setPart k x).rings = s.rings := rfl
@[simp] theorem setPart_softErrs (k : Nat) (x : Part) : (s.setPart k x).softErrs = s.softErrs := rfl
@[simp] theorem setPart_errcount (k : Nat) (x : Part) : (s.setPart k x).errcount = s.errcount := rfl
@[simp] theorem setPart_errlog (k : Nat) (x : Part) : (s.setPart k x).errlog = s.errlog := rfl
@[simp] theorem setPart_errTimes (k : Nat) (x : Part) : (s.setPart k x).errTimes = s.errTimes := rfl
@[simp] theorem setPart_marked (k : Nat) (x : Part) : (s.setPart k x).marked = s.marked := rfl
@[simp] theorem setPart_retired (k : Nat) (x : Part) : (s.setPart k x).retired = s.retired := rfl
@[simp] theorem setPart_keys (k : Nat) (x : Part) : (s.setPart k x).keys = s.keys := rfl
@[simp] theorem setPart_parts (k : Nat) (x : Part) : (s.setPart k x).parts = mapInsert s.parts k x := rfl
@[simp] theorem setPart_queues (k : Nat) (x : Part) : (s.setPart k x).queues = s.queues := rfl
@[simp] theorem setPart_events (k : Nat) (x : Part) : (s.setPart k x).events = s.events := rfl
@[simp] theorem setPart_threads (k : Nat) (x : Part) : (s.setPart k x).threads = s.threads := rfl
@[simp] theorem setPart_imports (k : Nat) (x : Part) : (s.setPart k x).imports = s.imports := rfl
@[simp] theorem setPart_decoders (k : Nat) (x : Part) : (s.setPart k x).decoders = s.decoders := rfl
@[simp] theorem setPart_hdm (k : Nat) (x : Part) : (s.setPart k x).hdm = s.hdm := rfl
@[simp] theorem setPart_boot (k : Nat) (x : Part) : (s.setPart k x).boot = s.boot := rfl
@[simp] theorem setPart_timer (k : Nat) (x : Part) : (s.setPart k x).timer = s.timer := rfl
@[simp] theorem setPart_free (k : Nat) (x : Part) : (s.setPart k x).free = s.free := rfl
@[simp] theorem setPart_agenda (k : Nat) (x : Part) : (s.setPart k x).agenda = s.agenda := rfl
@[simp] theorem setPart_turn (k : Nat) (x : Part) : (s.setPart k x).turn = s.turn := rfl
@[simp] theorem setPart_lastSys (k : Nat) (x : Part) : (s.setPart k x).lastSys = s.lastSys := rfl
@[simp] theorem setPart_lastCp (k : Nat) (x : Part) : (s.setPart k x).lastCp = s.lastCp := rfl
@[simp] theorem setPart_cur (k : Nat) (x : Part) : (s.setPart k x).cur = s.cur := rfl
@[simp] theorem setPart_holds (k : Nat) (x : Part) : (s.setPart k x).holds = s.holds := rfl

/-! ## setThread -/

@[simp] theorem setThread_mem (k : Nat) (x : Thread) : (s.setThread k x).mem = s.mem := rfl
@[simp] theorem setThread_lineKid (k : Nat) (x : Thread) : (s.setThread k x).lineKid = s.lineKid := rfl
@[simp] theorem setThread_lineOld (k : Nat) (x : Thread) : (s.setThread k x).lineOld = s.lineOld := rfl
@[simp] theorem setThread_poison (k : Nat) (x : Thread) : (s.setThread k x).poison = s.poison := rfl
@[simp] theorem setThread_l2 (k : Nat) (x : Thread) : (s.setThread k x).l2 = s.l2 := rfl
@[simp] theorem setThread_home (k : Nat) (x : Thread) : (s.setThread k x).home = s.home := rfl
@[simp] theorem setThread_perm (k : Nat) (x : Thread) : (s.setThread k x).perm = s.perm := rfl
@[simp] theorem setThread_hostDirty (k : Nat) (x : Thread) : (s.setThread k x).hostDirty = s.hostDirty := rfl
@[simp] theorem setThread_wants (k : Nat) (x : Thread) : (s.setThread k x).wants = s.wants := rfl
@[simp] theorem setThread_hostOut (k : Nat) (x : Thread) : (s.setThread k x).hostOut = s.hostOut := rfl
@[simp] theorem setThread_remoteOut (k : Nat) (x : Thread) : (s.setThread k x).remoteOut = s.remoteOut := rfl
@[simp] theorem setThread_h0 (k : Nat) (x : Thread) : (s.setThread k x).h0 = s.h0 := rfl
@[simp] theorem setThread_msgs (k : Nat) (x : Thread) : (s.setThread k x).msgs = s.msgs := rfl
@[simp] theorem setThread_reqs (k : Nat) (x : Thread) : (s.setThread k x).reqs = s.reqs := rfl
@[simp] theorem setThread_ptab (k : Nat) (x : Thread) : (s.setThread k x).ptab = s.ptab := rfl
@[simp] theorem setThread_pseq (k : Nat) (x : Thread) : (s.setThread k x).pseq = s.pseq := rfl
@[simp] theorem setThread_acts (k : Nat) (x : Thread) : (s.setThread k x).acts = s.acts := rfl
@[simp] theorem setThread_pend (k : Nat) (x : Thread) : (s.setThread k x).pend = s.pend := rfl
@[simp] theorem setThread_hops (k : Nat) (x : Thread) : (s.setThread k x).hops = s.hops := rfl
@[simp] theorem setThread_homeq (k : Nat) (x : Thread) : (s.setThread k x).homeq = s.homeq := rfl
@[simp] theorem setThread_records (k : Nat) (x : Thread) : (s.setThread k x).records = s.records := rfl
@[simp] theorem setThread_appends (k : Nat) (x : Thread) : (s.setThread k x).appends = s.appends := rfl
@[simp] theorem setThread_seals (k : Nat) (x : Thread) : (s.setThread k x).seals = s.seals := rfl
@[simp] theorem setThread_replicas (k : Nat) (x : Thread) : (s.setThread k x).replicas = s.replicas := rfl
@[simp] theorem setThread_exports (k : Nat) (x : Thread) : (s.setThread k x).exports = s.exports := rfl
@[simp] theorem setThread_frees (k : Nat) (x : Thread) : (s.setThread k x).frees = s.frees := rfl
@[simp] theorem setThread_tlb (k : Nat) (x : Thread) : (s.setThread k x).tlb = s.tlb := rfl
@[simp] theorem setThread_wcache (k : Nat) (x : Thread) : (s.setThread k x).wcache = s.wcache := rfl
@[simp] theorem setThread_invals (k : Nat) (x : Thread) : (s.setThread k x).invals = s.invals := rfl
@[simp] theorem setThread_pins (k : Nat) (x : Thread) : (s.setThread k x).pins = s.pins := rfl
@[simp] theorem setThread_faults (k : Nat) (x : Thread) : (s.setThread k x).faults = s.faults := rfl
@[simp] theorem setThread_ranges (k : Nat) (x : Thread) : (s.setThread k x).ranges = s.ranges := rfl
@[simp] theorem setThread_rangeWait (k : Nat) (x : Thread) : (s.setThread k x).rangeWait = s.rangeWait := rfl
@[simp] theorem setThread_copies (k : Nat) (x : Thread) : (s.setThread k x).copies = s.copies := rfl
@[simp] theorem setThread_groups (k : Nat) (x : Thread) : (s.setThread k x).groups = s.groups := rfl
@[simp] theorem setThread_teams (k : Nat) (x : Thread) : (s.setThread k x).teams = s.teams := rfl
@[simp] theorem setThread_jobs (k : Nat) (x : Thread) : (s.setThread k x).jobs = s.jobs := rfl
@[simp] theorem setThread_sails (k : Nat) (x : Thread) : (s.setThread k x).sails = s.sails := rfl
@[simp] theorem setThread_reserved (k : Nat) (x : Thread) : (s.setThread k x).reserved = s.reserved := rfl
@[simp] theorem setThread_ibuf (k : Nat) (x : Thread) : (s.setThread k x).ibuf = s.ibuf := rfl
@[simp] theorem setThread_stale (k : Nat) (x : Thread) : (s.setThread k x).stale = s.stale := rfl
@[simp] theorem setThread_hints (k : Nat) (x : Thread) : (s.setThread k x).hints = s.hints := rfl
@[simp] theorem setThread_moves (k : Nat) (x : Thread) : (s.setThread k x).moves = s.moves := rfl
@[simp] theorem setThread_track (k : Nat) (x : Thread) : (s.setThread k x).track = s.track := rfl
@[simp] theorem setThread_frozen (k : Nat) (x : Thread) : (s.setThread k x).frozen = s.frozen := rfl
@[simp] theorem setThread_staged (k : Nat) (x : Thread) : (s.setThread k x).staged = s.staged := rfl
@[simp] theorem setThread_rings (k : Nat) (x : Thread) : (s.setThread k x).rings = s.rings := rfl
@[simp] theorem setThread_softErrs (k : Nat) (x : Thread) : (s.setThread k x).softErrs = s.softErrs := rfl
@[simp] theorem setThread_errcount (k : Nat) (x : Thread) : (s.setThread k x).errcount = s.errcount := rfl
@[simp] theorem setThread_errlog (k : Nat) (x : Thread) : (s.setThread k x).errlog = s.errlog := rfl
@[simp] theorem setThread_errTimes (k : Nat) (x : Thread) : (s.setThread k x).errTimes = s.errTimes := rfl
@[simp] theorem setThread_marked (k : Nat) (x : Thread) : (s.setThread k x).marked = s.marked := rfl
@[simp] theorem setThread_retired (k : Nat) (x : Thread) : (s.setThread k x).retired = s.retired := rfl
@[simp] theorem setThread_keys (k : Nat) (x : Thread) : (s.setThread k x).keys = s.keys := rfl
@[simp] theorem setThread_parts (k : Nat) (x : Thread) : (s.setThread k x).parts = s.parts := rfl
@[simp] theorem setThread_queues (k : Nat) (x : Thread) : (s.setThread k x).queues = s.queues := rfl
@[simp] theorem setThread_events (k : Nat) (x : Thread) : (s.setThread k x).events = s.events := rfl
@[simp] theorem setThread_threads (k : Nat) (x : Thread) : (s.setThread k x).threads = mapInsert s.threads k x := rfl
@[simp] theorem setThread_imports (k : Nat) (x : Thread) : (s.setThread k x).imports = s.imports := rfl
@[simp] theorem setThread_decoders (k : Nat) (x : Thread) : (s.setThread k x).decoders = s.decoders := rfl
@[simp] theorem setThread_hdm (k : Nat) (x : Thread) : (s.setThread k x).hdm = s.hdm := rfl
@[simp] theorem setThread_boot (k : Nat) (x : Thread) : (s.setThread k x).boot = s.boot := rfl
@[simp] theorem setThread_timer (k : Nat) (x : Thread) : (s.setThread k x).timer = s.timer := rfl
@[simp] theorem setThread_free (k : Nat) (x : Thread) : (s.setThread k x).free = s.free := rfl
@[simp] theorem setThread_agenda (k : Nat) (x : Thread) : (s.setThread k x).agenda = s.agenda := rfl
@[simp] theorem setThread_turn (k : Nat) (x : Thread) : (s.setThread k x).turn = s.turn := rfl
@[simp] theorem setThread_lastSys (k : Nat) (x : Thread) : (s.setThread k x).lastSys = s.lastSys := rfl
@[simp] theorem setThread_lastCp (k : Nat) (x : Thread) : (s.setThread k x).lastCp = s.lastCp := rfl
@[simp] theorem setThread_cur (k : Nat) (x : Thread) : (s.setThread k x).cur = s.cur := rfl
@[simp] theorem setThread_holds (k : Nat) (x : Thread) : (s.setThread k x).holds = s.holds := rfl

/-! ## setQueue -/

@[simp] theorem setQueue_mem (k : Nat) (x : Queue) : (s.setQueue k x).mem = s.mem := rfl
@[simp] theorem setQueue_lineKid (k : Nat) (x : Queue) : (s.setQueue k x).lineKid = s.lineKid := rfl
@[simp] theorem setQueue_lineOld (k : Nat) (x : Queue) : (s.setQueue k x).lineOld = s.lineOld := rfl
@[simp] theorem setQueue_poison (k : Nat) (x : Queue) : (s.setQueue k x).poison = s.poison := rfl
@[simp] theorem setQueue_l2 (k : Nat) (x : Queue) : (s.setQueue k x).l2 = s.l2 := rfl
@[simp] theorem setQueue_home (k : Nat) (x : Queue) : (s.setQueue k x).home = s.home := rfl
@[simp] theorem setQueue_perm (k : Nat) (x : Queue) : (s.setQueue k x).perm = s.perm := rfl
@[simp] theorem setQueue_hostDirty (k : Nat) (x : Queue) : (s.setQueue k x).hostDirty = s.hostDirty := rfl
@[simp] theorem setQueue_wants (k : Nat) (x : Queue) : (s.setQueue k x).wants = s.wants := rfl
@[simp] theorem setQueue_hostOut (k : Nat) (x : Queue) : (s.setQueue k x).hostOut = s.hostOut := rfl
@[simp] theorem setQueue_remoteOut (k : Nat) (x : Queue) : (s.setQueue k x).remoteOut = s.remoteOut := rfl
@[simp] theorem setQueue_h0 (k : Nat) (x : Queue) : (s.setQueue k x).h0 = s.h0 := rfl
@[simp] theorem setQueue_msgs (k : Nat) (x : Queue) : (s.setQueue k x).msgs = s.msgs := rfl
@[simp] theorem setQueue_reqs (k : Nat) (x : Queue) : (s.setQueue k x).reqs = s.reqs := rfl
@[simp] theorem setQueue_ptab (k : Nat) (x : Queue) : (s.setQueue k x).ptab = s.ptab := rfl
@[simp] theorem setQueue_pseq (k : Nat) (x : Queue) : (s.setQueue k x).pseq = s.pseq := rfl
@[simp] theorem setQueue_acts (k : Nat) (x : Queue) : (s.setQueue k x).acts = s.acts := rfl
@[simp] theorem setQueue_pend (k : Nat) (x : Queue) : (s.setQueue k x).pend = s.pend := rfl
@[simp] theorem setQueue_hops (k : Nat) (x : Queue) : (s.setQueue k x).hops = s.hops := rfl
@[simp] theorem setQueue_homeq (k : Nat) (x : Queue) : (s.setQueue k x).homeq = s.homeq := rfl
@[simp] theorem setQueue_records (k : Nat) (x : Queue) : (s.setQueue k x).records = s.records := rfl
@[simp] theorem setQueue_appends (k : Nat) (x : Queue) : (s.setQueue k x).appends = s.appends := rfl
@[simp] theorem setQueue_seals (k : Nat) (x : Queue) : (s.setQueue k x).seals = s.seals := rfl
@[simp] theorem setQueue_replicas (k : Nat) (x : Queue) : (s.setQueue k x).replicas = s.replicas := rfl
@[simp] theorem setQueue_exports (k : Nat) (x : Queue) : (s.setQueue k x).exports = s.exports := rfl
@[simp] theorem setQueue_frees (k : Nat) (x : Queue) : (s.setQueue k x).frees = s.frees := rfl
@[simp] theorem setQueue_tlb (k : Nat) (x : Queue) : (s.setQueue k x).tlb = s.tlb := rfl
@[simp] theorem setQueue_wcache (k : Nat) (x : Queue) : (s.setQueue k x).wcache = s.wcache := rfl
@[simp] theorem setQueue_invals (k : Nat) (x : Queue) : (s.setQueue k x).invals = s.invals := rfl
@[simp] theorem setQueue_pins (k : Nat) (x : Queue) : (s.setQueue k x).pins = s.pins := rfl
@[simp] theorem setQueue_faults (k : Nat) (x : Queue) : (s.setQueue k x).faults = s.faults := rfl
@[simp] theorem setQueue_ranges (k : Nat) (x : Queue) : (s.setQueue k x).ranges = s.ranges := rfl
@[simp] theorem setQueue_rangeWait (k : Nat) (x : Queue) : (s.setQueue k x).rangeWait = s.rangeWait := rfl
@[simp] theorem setQueue_copies (k : Nat) (x : Queue) : (s.setQueue k x).copies = s.copies := rfl
@[simp] theorem setQueue_groups (k : Nat) (x : Queue) : (s.setQueue k x).groups = s.groups := rfl
@[simp] theorem setQueue_teams (k : Nat) (x : Queue) : (s.setQueue k x).teams = s.teams := rfl
@[simp] theorem setQueue_jobs (k : Nat) (x : Queue) : (s.setQueue k x).jobs = s.jobs := rfl
@[simp] theorem setQueue_sails (k : Nat) (x : Queue) : (s.setQueue k x).sails = s.sails := rfl
@[simp] theorem setQueue_reserved (k : Nat) (x : Queue) : (s.setQueue k x).reserved = s.reserved := rfl
@[simp] theorem setQueue_ibuf (k : Nat) (x : Queue) : (s.setQueue k x).ibuf = s.ibuf := rfl
@[simp] theorem setQueue_stale (k : Nat) (x : Queue) : (s.setQueue k x).stale = s.stale := rfl
@[simp] theorem setQueue_hints (k : Nat) (x : Queue) : (s.setQueue k x).hints = s.hints := rfl
@[simp] theorem setQueue_moves (k : Nat) (x : Queue) : (s.setQueue k x).moves = s.moves := rfl
@[simp] theorem setQueue_track (k : Nat) (x : Queue) : (s.setQueue k x).track = s.track := rfl
@[simp] theorem setQueue_frozen (k : Nat) (x : Queue) : (s.setQueue k x).frozen = s.frozen := rfl
@[simp] theorem setQueue_staged (k : Nat) (x : Queue) : (s.setQueue k x).staged = s.staged := rfl
@[simp] theorem setQueue_rings (k : Nat) (x : Queue) : (s.setQueue k x).rings = s.rings := rfl
@[simp] theorem setQueue_softErrs (k : Nat) (x : Queue) : (s.setQueue k x).softErrs = s.softErrs := rfl
@[simp] theorem setQueue_errcount (k : Nat) (x : Queue) : (s.setQueue k x).errcount = s.errcount := rfl
@[simp] theorem setQueue_errlog (k : Nat) (x : Queue) : (s.setQueue k x).errlog = s.errlog := rfl
@[simp] theorem setQueue_errTimes (k : Nat) (x : Queue) : (s.setQueue k x).errTimes = s.errTimes := rfl
@[simp] theorem setQueue_marked (k : Nat) (x : Queue) : (s.setQueue k x).marked = s.marked := rfl
@[simp] theorem setQueue_retired (k : Nat) (x : Queue) : (s.setQueue k x).retired = s.retired := rfl
@[simp] theorem setQueue_keys (k : Nat) (x : Queue) : (s.setQueue k x).keys = s.keys := rfl
@[simp] theorem setQueue_parts (k : Nat) (x : Queue) : (s.setQueue k x).parts = s.parts := rfl
@[simp] theorem setQueue_queues (k : Nat) (x : Queue) : (s.setQueue k x).queues = mapInsert s.queues k x := rfl
@[simp] theorem setQueue_events (k : Nat) (x : Queue) : (s.setQueue k x).events = s.events := rfl
@[simp] theorem setQueue_threads (k : Nat) (x : Queue) : (s.setQueue k x).threads = s.threads := rfl
@[simp] theorem setQueue_imports (k : Nat) (x : Queue) : (s.setQueue k x).imports = s.imports := rfl
@[simp] theorem setQueue_decoders (k : Nat) (x : Queue) : (s.setQueue k x).decoders = s.decoders := rfl
@[simp] theorem setQueue_hdm (k : Nat) (x : Queue) : (s.setQueue k x).hdm = s.hdm := rfl
@[simp] theorem setQueue_boot (k : Nat) (x : Queue) : (s.setQueue k x).boot = s.boot := rfl
@[simp] theorem setQueue_timer (k : Nat) (x : Queue) : (s.setQueue k x).timer = s.timer := rfl
@[simp] theorem setQueue_free (k : Nat) (x : Queue) : (s.setQueue k x).free = s.free := rfl
@[simp] theorem setQueue_agenda (k : Nat) (x : Queue) : (s.setQueue k x).agenda = s.agenda := rfl
@[simp] theorem setQueue_turn (k : Nat) (x : Queue) : (s.setQueue k x).turn = s.turn := rfl
@[simp] theorem setQueue_lastSys (k : Nat) (x : Queue) : (s.setQueue k x).lastSys = s.lastSys := rfl
@[simp] theorem setQueue_lastCp (k : Nat) (x : Queue) : (s.setQueue k x).lastCp = s.lastCp := rfl
@[simp] theorem setQueue_cur (k : Nat) (x : Queue) : (s.setQueue k x).cur = s.cur := rfl
@[simp] theorem setQueue_holds (k : Nat) (x : Queue) : (s.setQueue k x).holds = s.holds := rfl

/-! ## setRing -/

@[simp] theorem setRing_mem (p k : Nat) (x : EvRing) : (s.setRing p k x).mem = s.mem := rfl
@[simp] theorem setRing_lineKid (p k : Nat) (x : EvRing) : (s.setRing p k x).lineKid = s.lineKid := rfl
@[simp] theorem setRing_lineOld (p k : Nat) (x : EvRing) : (s.setRing p k x).lineOld = s.lineOld := rfl
@[simp] theorem setRing_poison (p k : Nat) (x : EvRing) : (s.setRing p k x).poison = s.poison := rfl
@[simp] theorem setRing_l2 (p k : Nat) (x : EvRing) : (s.setRing p k x).l2 = s.l2 := rfl
@[simp] theorem setRing_home (p k : Nat) (x : EvRing) : (s.setRing p k x).home = s.home := rfl
@[simp] theorem setRing_perm (p k : Nat) (x : EvRing) : (s.setRing p k x).perm = s.perm := rfl
@[simp] theorem setRing_hostDirty (p k : Nat) (x : EvRing) : (s.setRing p k x).hostDirty = s.hostDirty := rfl
@[simp] theorem setRing_wants (p k : Nat) (x : EvRing) : (s.setRing p k x).wants = s.wants := rfl
@[simp] theorem setRing_hostOut (p k : Nat) (x : EvRing) : (s.setRing p k x).hostOut = s.hostOut := rfl
@[simp] theorem setRing_remoteOut (p k : Nat) (x : EvRing) : (s.setRing p k x).remoteOut = s.remoteOut := rfl
@[simp] theorem setRing_h0 (p k : Nat) (x : EvRing) : (s.setRing p k x).h0 = s.h0 := rfl
@[simp] theorem setRing_msgs (p k : Nat) (x : EvRing) : (s.setRing p k x).msgs = s.msgs := rfl
@[simp] theorem setRing_reqs (p k : Nat) (x : EvRing) : (s.setRing p k x).reqs = s.reqs := rfl
@[simp] theorem setRing_ptab (p k : Nat) (x : EvRing) : (s.setRing p k x).ptab = s.ptab := rfl
@[simp] theorem setRing_pseq (p k : Nat) (x : EvRing) : (s.setRing p k x).pseq = s.pseq := rfl
@[simp] theorem setRing_acts (p k : Nat) (x : EvRing) : (s.setRing p k x).acts = s.acts := rfl
@[simp] theorem setRing_pend (p k : Nat) (x : EvRing) : (s.setRing p k x).pend = s.pend := rfl
@[simp] theorem setRing_hops (p k : Nat) (x : EvRing) : (s.setRing p k x).hops = s.hops := rfl
@[simp] theorem setRing_homeq (p k : Nat) (x : EvRing) : (s.setRing p k x).homeq = s.homeq := rfl
@[simp] theorem setRing_records (p k : Nat) (x : EvRing) : (s.setRing p k x).records = s.records := rfl
@[simp] theorem setRing_appends (p k : Nat) (x : EvRing) : (s.setRing p k x).appends = s.appends := rfl
@[simp] theorem setRing_seals (p k : Nat) (x : EvRing) : (s.setRing p k x).seals = s.seals := rfl
@[simp] theorem setRing_replicas (p k : Nat) (x : EvRing) : (s.setRing p k x).replicas = s.replicas := rfl
@[simp] theorem setRing_exports (p k : Nat) (x : EvRing) : (s.setRing p k x).exports = s.exports := rfl
@[simp] theorem setRing_frees (p k : Nat) (x : EvRing) : (s.setRing p k x).frees = s.frees := rfl
@[simp] theorem setRing_tlb (p k : Nat) (x : EvRing) : (s.setRing p k x).tlb = s.tlb := rfl
@[simp] theorem setRing_wcache (p k : Nat) (x : EvRing) : (s.setRing p k x).wcache = s.wcache := rfl
@[simp] theorem setRing_invals (p k : Nat) (x : EvRing) : (s.setRing p k x).invals = s.invals := rfl
@[simp] theorem setRing_pins (p k : Nat) (x : EvRing) : (s.setRing p k x).pins = s.pins := rfl
@[simp] theorem setRing_faults (p k : Nat) (x : EvRing) : (s.setRing p k x).faults = s.faults := rfl
@[simp] theorem setRing_ranges (p k : Nat) (x : EvRing) : (s.setRing p k x).ranges = s.ranges := rfl
@[simp] theorem setRing_rangeWait (p k : Nat) (x : EvRing) : (s.setRing p k x).rangeWait = s.rangeWait := rfl
@[simp] theorem setRing_copies (p k : Nat) (x : EvRing) : (s.setRing p k x).copies = s.copies := rfl
@[simp] theorem setRing_groups (p k : Nat) (x : EvRing) : (s.setRing p k x).groups = s.groups := rfl
@[simp] theorem setRing_teams (p k : Nat) (x : EvRing) : (s.setRing p k x).teams = s.teams := rfl
@[simp] theorem setRing_jobs (p k : Nat) (x : EvRing) : (s.setRing p k x).jobs = s.jobs := rfl
@[simp] theorem setRing_sails (p k : Nat) (x : EvRing) : (s.setRing p k x).sails = s.sails := rfl
@[simp] theorem setRing_reserved (p k : Nat) (x : EvRing) : (s.setRing p k x).reserved = s.reserved := rfl
@[simp] theorem setRing_ibuf (p k : Nat) (x : EvRing) : (s.setRing p k x).ibuf = s.ibuf := rfl
@[simp] theorem setRing_stale (p k : Nat) (x : EvRing) : (s.setRing p k x).stale = s.stale := rfl
@[simp] theorem setRing_hints (p k : Nat) (x : EvRing) : (s.setRing p k x).hints = s.hints := rfl
@[simp] theorem setRing_moves (p k : Nat) (x : EvRing) : (s.setRing p k x).moves = s.moves := rfl
@[simp] theorem setRing_track (p k : Nat) (x : EvRing) : (s.setRing p k x).track = s.track := rfl
@[simp] theorem setRing_frozen (p k : Nat) (x : EvRing) : (s.setRing p k x).frozen = s.frozen := rfl
@[simp] theorem setRing_staged (p k : Nat) (x : EvRing) : (s.setRing p k x).staged = s.staged := rfl
@[simp] theorem setRing_rings (p k : Nat) (x : EvRing) : (s.setRing p k x).rings = s.rings := rfl
@[simp] theorem setRing_softErrs (p k : Nat) (x : EvRing) : (s.setRing p k x).softErrs = s.softErrs := rfl
@[simp] theorem setRing_errcount (p k : Nat) (x : EvRing) : (s.setRing p k x).errcount = s.errcount := rfl
@[simp] theorem setRing_errlog (p k : Nat) (x : EvRing) : (s.setRing p k x).errlog = s.errlog := rfl
@[simp] theorem setRing_errTimes (p k : Nat) (x : EvRing) : (s.setRing p k x).errTimes = s.errTimes := rfl
@[simp] theorem setRing_marked (p k : Nat) (x : EvRing) : (s.setRing p k x).marked = s.marked := rfl
@[simp] theorem setRing_retired (p k : Nat) (x : EvRing) : (s.setRing p k x).retired = s.retired := rfl
@[simp] theorem setRing_keys (p k : Nat) (x : EvRing) : (s.setRing p k x).keys = s.keys := rfl
@[simp] theorem setRing_parts (p k : Nat) (x : EvRing) : (s.setRing p k x).parts = s.parts := rfl
@[simp] theorem setRing_queues (p k : Nat) (x : EvRing) : (s.setRing p k x).queues = s.queues := rfl
@[simp] theorem setRing_events (p k : Nat) (x : EvRing) : (s.setRing p k x).events = mapInsert s.events (p * 16 + k) x := rfl
@[simp] theorem setRing_threads (p k : Nat) (x : EvRing) : (s.setRing p k x).threads = s.threads := rfl
@[simp] theorem setRing_imports (p k : Nat) (x : EvRing) : (s.setRing p k x).imports = s.imports := rfl
@[simp] theorem setRing_decoders (p k : Nat) (x : EvRing) : (s.setRing p k x).decoders = s.decoders := rfl
@[simp] theorem setRing_hdm (p k : Nat) (x : EvRing) : (s.setRing p k x).hdm = s.hdm := rfl
@[simp] theorem setRing_boot (p k : Nat) (x : EvRing) : (s.setRing p k x).boot = s.boot := rfl
@[simp] theorem setRing_timer (p k : Nat) (x : EvRing) : (s.setRing p k x).timer = s.timer := rfl
@[simp] theorem setRing_free (p k : Nat) (x : EvRing) : (s.setRing p k x).free = s.free := rfl
@[simp] theorem setRing_agenda (p k : Nat) (x : EvRing) : (s.setRing p k x).agenda = s.agenda := rfl
@[simp] theorem setRing_turn (p k : Nat) (x : EvRing) : (s.setRing p k x).turn = s.turn := rfl
@[simp] theorem setRing_lastSys (p k : Nat) (x : EvRing) : (s.setRing p k x).lastSys = s.lastSys := rfl
@[simp] theorem setRing_lastCp (p k : Nat) (x : EvRing) : (s.setRing p k x).lastCp = s.lastCp := rfl
@[simp] theorem setRing_cur (p k : Nat) (x : EvRing) : (s.setRing p k x).cur = s.cur := rfl
@[simp] theorem setRing_holds (p k : Nat) (x : EvRing) : (s.setRing p k x).holds = s.holds := rfl

/-! ## setRec -/

@[simp] theorem setRec_mem (k : Nat) (x : PageRec) : (s.setRec k x).mem = s.mem := rfl
@[simp] theorem setRec_lineKid (k : Nat) (x : PageRec) : (s.setRec k x).lineKid = s.lineKid := rfl
@[simp] theorem setRec_lineOld (k : Nat) (x : PageRec) : (s.setRec k x).lineOld = s.lineOld := rfl
@[simp] theorem setRec_poison (k : Nat) (x : PageRec) : (s.setRec k x).poison = s.poison := rfl
@[simp] theorem setRec_l2 (k : Nat) (x : PageRec) : (s.setRec k x).l2 = s.l2 := rfl
@[simp] theorem setRec_home (k : Nat) (x : PageRec) : (s.setRec k x).home = s.home := rfl
@[simp] theorem setRec_perm (k : Nat) (x : PageRec) : (s.setRec k x).perm = s.perm := rfl
@[simp] theorem setRec_hostDirty (k : Nat) (x : PageRec) : (s.setRec k x).hostDirty = s.hostDirty := rfl
@[simp] theorem setRec_wants (k : Nat) (x : PageRec) : (s.setRec k x).wants = s.wants := rfl
@[simp] theorem setRec_hostOut (k : Nat) (x : PageRec) : (s.setRec k x).hostOut = s.hostOut := rfl
@[simp] theorem setRec_remoteOut (k : Nat) (x : PageRec) : (s.setRec k x).remoteOut = s.remoteOut := rfl
@[simp] theorem setRec_h0 (k : Nat) (x : PageRec) : (s.setRec k x).h0 = s.h0 := rfl
@[simp] theorem setRec_msgs (k : Nat) (x : PageRec) : (s.setRec k x).msgs = s.msgs := rfl
@[simp] theorem setRec_reqs (k : Nat) (x : PageRec) : (s.setRec k x).reqs = s.reqs := rfl
@[simp] theorem setRec_ptab (k : Nat) (x : PageRec) : (s.setRec k x).ptab = s.ptab := rfl
@[simp] theorem setRec_pseq (k : Nat) (x : PageRec) : (s.setRec k x).pseq = s.pseq := rfl
@[simp] theorem setRec_acts (k : Nat) (x : PageRec) : (s.setRec k x).acts = s.acts := rfl
@[simp] theorem setRec_pend (k : Nat) (x : PageRec) : (s.setRec k x).pend = s.pend := rfl
@[simp] theorem setRec_hops (k : Nat) (x : PageRec) : (s.setRec k x).hops = s.hops := rfl
@[simp] theorem setRec_homeq (k : Nat) (x : PageRec) : (s.setRec k x).homeq = s.homeq := rfl
@[simp] theorem setRec_records (k : Nat) (x : PageRec) : (s.setRec k x).records = mapInsert s.records k x := rfl
@[simp] theorem setRec_appends (k : Nat) (x : PageRec) : (s.setRec k x).appends = s.appends := rfl
@[simp] theorem setRec_seals (k : Nat) (x : PageRec) : (s.setRec k x).seals = s.seals := rfl
@[simp] theorem setRec_replicas (k : Nat) (x : PageRec) : (s.setRec k x).replicas = s.replicas := rfl
@[simp] theorem setRec_exports (k : Nat) (x : PageRec) : (s.setRec k x).exports = s.exports := rfl
@[simp] theorem setRec_frees (k : Nat) (x : PageRec) : (s.setRec k x).frees = s.frees := rfl
@[simp] theorem setRec_tlb (k : Nat) (x : PageRec) : (s.setRec k x).tlb = s.tlb := rfl
@[simp] theorem setRec_wcache (k : Nat) (x : PageRec) : (s.setRec k x).wcache = s.wcache := rfl
@[simp] theorem setRec_invals (k : Nat) (x : PageRec) : (s.setRec k x).invals = s.invals := rfl
@[simp] theorem setRec_pins (k : Nat) (x : PageRec) : (s.setRec k x).pins = s.pins := rfl
@[simp] theorem setRec_faults (k : Nat) (x : PageRec) : (s.setRec k x).faults = s.faults := rfl
@[simp] theorem setRec_ranges (k : Nat) (x : PageRec) : (s.setRec k x).ranges = s.ranges := rfl
@[simp] theorem setRec_rangeWait (k : Nat) (x : PageRec) : (s.setRec k x).rangeWait = s.rangeWait := rfl
@[simp] theorem setRec_copies (k : Nat) (x : PageRec) : (s.setRec k x).copies = s.copies := rfl
@[simp] theorem setRec_groups (k : Nat) (x : PageRec) : (s.setRec k x).groups = s.groups := rfl
@[simp] theorem setRec_teams (k : Nat) (x : PageRec) : (s.setRec k x).teams = s.teams := rfl
@[simp] theorem setRec_jobs (k : Nat) (x : PageRec) : (s.setRec k x).jobs = s.jobs := rfl
@[simp] theorem setRec_sails (k : Nat) (x : PageRec) : (s.setRec k x).sails = s.sails := rfl
@[simp] theorem setRec_reserved (k : Nat) (x : PageRec) : (s.setRec k x).reserved = s.reserved := rfl
@[simp] theorem setRec_ibuf (k : Nat) (x : PageRec) : (s.setRec k x).ibuf = s.ibuf := rfl
@[simp] theorem setRec_stale (k : Nat) (x : PageRec) : (s.setRec k x).stale = s.stale := rfl
@[simp] theorem setRec_hints (k : Nat) (x : PageRec) : (s.setRec k x).hints = s.hints := rfl
@[simp] theorem setRec_moves (k : Nat) (x : PageRec) : (s.setRec k x).moves = s.moves := rfl
@[simp] theorem setRec_track (k : Nat) (x : PageRec) : (s.setRec k x).track = s.track := rfl
@[simp] theorem setRec_frozen (k : Nat) (x : PageRec) : (s.setRec k x).frozen = s.frozen := rfl
@[simp] theorem setRec_staged (k : Nat) (x : PageRec) : (s.setRec k x).staged = s.staged := rfl
@[simp] theorem setRec_rings (k : Nat) (x : PageRec) : (s.setRec k x).rings = s.rings := rfl
@[simp] theorem setRec_softErrs (k : Nat) (x : PageRec) : (s.setRec k x).softErrs = s.softErrs := rfl
@[simp] theorem setRec_errcount (k : Nat) (x : PageRec) : (s.setRec k x).errcount = s.errcount := rfl
@[simp] theorem setRec_errlog (k : Nat) (x : PageRec) : (s.setRec k x).errlog = s.errlog := rfl
@[simp] theorem setRec_errTimes (k : Nat) (x : PageRec) : (s.setRec k x).errTimes = s.errTimes := rfl
@[simp] theorem setRec_marked (k : Nat) (x : PageRec) : (s.setRec k x).marked = s.marked := rfl
@[simp] theorem setRec_retired (k : Nat) (x : PageRec) : (s.setRec k x).retired = s.retired := rfl
@[simp] theorem setRec_keys (k : Nat) (x : PageRec) : (s.setRec k x).keys = s.keys := rfl
@[simp] theorem setRec_parts (k : Nat) (x : PageRec) : (s.setRec k x).parts = s.parts := rfl
@[simp] theorem setRec_queues (k : Nat) (x : PageRec) : (s.setRec k x).queues = s.queues := rfl
@[simp] theorem setRec_events (k : Nat) (x : PageRec) : (s.setRec k x).events = s.events := rfl
@[simp] theorem setRec_threads (k : Nat) (x : PageRec) : (s.setRec k x).threads = s.threads := rfl
@[simp] theorem setRec_imports (k : Nat) (x : PageRec) : (s.setRec k x).imports = s.imports := rfl
@[simp] theorem setRec_decoders (k : Nat) (x : PageRec) : (s.setRec k x).decoders = s.decoders := rfl
@[simp] theorem setRec_hdm (k : Nat) (x : PageRec) : (s.setRec k x).hdm = s.hdm := rfl
@[simp] theorem setRec_boot (k : Nat) (x : PageRec) : (s.setRec k x).boot = s.boot := rfl
@[simp] theorem setRec_timer (k : Nat) (x : PageRec) : (s.setRec k x).timer = s.timer := rfl
@[simp] theorem setRec_free (k : Nat) (x : PageRec) : (s.setRec k x).free = s.free := rfl
@[simp] theorem setRec_agenda (k : Nat) (x : PageRec) : (s.setRec k x).agenda = s.agenda := rfl
@[simp] theorem setRec_turn (k : Nat) (x : PageRec) : (s.setRec k x).turn = s.turn := rfl
@[simp] theorem setRec_lastSys (k : Nat) (x : PageRec) : (s.setRec k x).lastSys = s.lastSys := rfl
@[simp] theorem setRec_lastCp (k : Nat) (x : PageRec) : (s.setRec k x).lastCp = s.lastCp := rfl
@[simp] theorem setRec_cur (k : Nat) (x : PageRec) : (s.setRec k x).cur = s.cur := rfl
@[simp] theorem setRec_holds (k : Nat) (x : PageRec) : (s.setRec k x).holds = s.holds := rfl

/-! ## setL2 -/

@[simp] theorem setL2_mem (d la : Nat) (x : Line) : (s.setL2 d la x).mem = s.mem := rfl
@[simp] theorem setL2_lineKid (d la : Nat) (x : Line) : (s.setL2 d la x).lineKid = s.lineKid := rfl
@[simp] theorem setL2_lineOld (d la : Nat) (x : Line) : (s.setL2 d la x).lineOld = s.lineOld := rfl
@[simp] theorem setL2_poison (d la : Nat) (x : Line) : (s.setL2 d la x).poison = s.poison := rfl
@[simp] theorem setL2_l2 (d la : Nat) (x : Line) : (s.setL2 d la x).l2 = setD Line.none s.l2 (l2key d la) x := rfl
@[simp] theorem setL2_home (d la : Nat) (x : Line) : (s.setL2 d la x).home = s.home := rfl
@[simp] theorem setL2_perm (d la : Nat) (x : Line) : (s.setL2 d la x).perm = s.perm := rfl
@[simp] theorem setL2_hostDirty (d la : Nat) (x : Line) : (s.setL2 d la x).hostDirty = s.hostDirty := rfl
@[simp] theorem setL2_wants (d la : Nat) (x : Line) : (s.setL2 d la x).wants = s.wants := rfl
@[simp] theorem setL2_hostOut (d la : Nat) (x : Line) : (s.setL2 d la x).hostOut = s.hostOut := rfl
@[simp] theorem setL2_remoteOut (d la : Nat) (x : Line) : (s.setL2 d la x).remoteOut = s.remoteOut := rfl
@[simp] theorem setL2_h0 (d la : Nat) (x : Line) : (s.setL2 d la x).h0 = s.h0 := rfl
@[simp] theorem setL2_msgs (d la : Nat) (x : Line) : (s.setL2 d la x).msgs = s.msgs := rfl
@[simp] theorem setL2_reqs (d la : Nat) (x : Line) : (s.setL2 d la x).reqs = s.reqs := rfl
@[simp] theorem setL2_ptab (d la : Nat) (x : Line) : (s.setL2 d la x).ptab = s.ptab := rfl
@[simp] theorem setL2_pseq (d la : Nat) (x : Line) : (s.setL2 d la x).pseq = s.pseq := rfl
@[simp] theorem setL2_acts (d la : Nat) (x : Line) : (s.setL2 d la x).acts = s.acts := rfl
@[simp] theorem setL2_pend (d la : Nat) (x : Line) : (s.setL2 d la x).pend = s.pend := rfl
@[simp] theorem setL2_hops (d la : Nat) (x : Line) : (s.setL2 d la x).hops = s.hops := rfl
@[simp] theorem setL2_homeq (d la : Nat) (x : Line) : (s.setL2 d la x).homeq = s.homeq := rfl
@[simp] theorem setL2_records (d la : Nat) (x : Line) : (s.setL2 d la x).records = s.records := rfl
@[simp] theorem setL2_appends (d la : Nat) (x : Line) : (s.setL2 d la x).appends = s.appends := rfl
@[simp] theorem setL2_seals (d la : Nat) (x : Line) : (s.setL2 d la x).seals = s.seals := rfl
@[simp] theorem setL2_replicas (d la : Nat) (x : Line) : (s.setL2 d la x).replicas = s.replicas := rfl
@[simp] theorem setL2_exports (d la : Nat) (x : Line) : (s.setL2 d la x).exports = s.exports := rfl
@[simp] theorem setL2_frees (d la : Nat) (x : Line) : (s.setL2 d la x).frees = s.frees := rfl
@[simp] theorem setL2_tlb (d la : Nat) (x : Line) : (s.setL2 d la x).tlb = s.tlb := rfl
@[simp] theorem setL2_wcache (d la : Nat) (x : Line) : (s.setL2 d la x).wcache = s.wcache := rfl
@[simp] theorem setL2_invals (d la : Nat) (x : Line) : (s.setL2 d la x).invals = s.invals := rfl
@[simp] theorem setL2_pins (d la : Nat) (x : Line) : (s.setL2 d la x).pins = s.pins := rfl
@[simp] theorem setL2_faults (d la : Nat) (x : Line) : (s.setL2 d la x).faults = s.faults := rfl
@[simp] theorem setL2_ranges (d la : Nat) (x : Line) : (s.setL2 d la x).ranges = s.ranges := rfl
@[simp] theorem setL2_rangeWait (d la : Nat) (x : Line) : (s.setL2 d la x).rangeWait = s.rangeWait := rfl
@[simp] theorem setL2_copies (d la : Nat) (x : Line) : (s.setL2 d la x).copies = s.copies := rfl
@[simp] theorem setL2_groups (d la : Nat) (x : Line) : (s.setL2 d la x).groups = s.groups := rfl
@[simp] theorem setL2_teams (d la : Nat) (x : Line) : (s.setL2 d la x).teams = s.teams := rfl
@[simp] theorem setL2_jobs (d la : Nat) (x : Line) : (s.setL2 d la x).jobs = s.jobs := rfl
@[simp] theorem setL2_sails (d la : Nat) (x : Line) : (s.setL2 d la x).sails = s.sails := rfl
@[simp] theorem setL2_reserved (d la : Nat) (x : Line) : (s.setL2 d la x).reserved = s.reserved := rfl
@[simp] theorem setL2_ibuf (d la : Nat) (x : Line) : (s.setL2 d la x).ibuf = s.ibuf := rfl
@[simp] theorem setL2_stale (d la : Nat) (x : Line) : (s.setL2 d la x).stale = s.stale := rfl
@[simp] theorem setL2_hints (d la : Nat) (x : Line) : (s.setL2 d la x).hints = s.hints := rfl
@[simp] theorem setL2_moves (d la : Nat) (x : Line) : (s.setL2 d la x).moves = s.moves := rfl
@[simp] theorem setL2_track (d la : Nat) (x : Line) : (s.setL2 d la x).track = s.track := rfl
@[simp] theorem setL2_frozen (d la : Nat) (x : Line) : (s.setL2 d la x).frozen = s.frozen := rfl
@[simp] theorem setL2_staged (d la : Nat) (x : Line) : (s.setL2 d la x).staged = s.staged := rfl
@[simp] theorem setL2_rings (d la : Nat) (x : Line) : (s.setL2 d la x).rings = s.rings := rfl
@[simp] theorem setL2_softErrs (d la : Nat) (x : Line) : (s.setL2 d la x).softErrs = s.softErrs := rfl
@[simp] theorem setL2_errcount (d la : Nat) (x : Line) : (s.setL2 d la x).errcount = s.errcount := rfl
@[simp] theorem setL2_errlog (d la : Nat) (x : Line) : (s.setL2 d la x).errlog = s.errlog := rfl
@[simp] theorem setL2_errTimes (d la : Nat) (x : Line) : (s.setL2 d la x).errTimes = s.errTimes := rfl
@[simp] theorem setL2_marked (d la : Nat) (x : Line) : (s.setL2 d la x).marked = s.marked := rfl
@[simp] theorem setL2_retired (d la : Nat) (x : Line) : (s.setL2 d la x).retired = s.retired := rfl
@[simp] theorem setL2_keys (d la : Nat) (x : Line) : (s.setL2 d la x).keys = s.keys := rfl
@[simp] theorem setL2_parts (d la : Nat) (x : Line) : (s.setL2 d la x).parts = s.parts := rfl
@[simp] theorem setL2_queues (d la : Nat) (x : Line) : (s.setL2 d la x).queues = s.queues := rfl
@[simp] theorem setL2_events (d la : Nat) (x : Line) : (s.setL2 d la x).events = s.events := rfl
@[simp] theorem setL2_threads (d la : Nat) (x : Line) : (s.setL2 d la x).threads = s.threads := rfl
@[simp] theorem setL2_imports (d la : Nat) (x : Line) : (s.setL2 d la x).imports = s.imports := rfl
@[simp] theorem setL2_decoders (d la : Nat) (x : Line) : (s.setL2 d la x).decoders = s.decoders := rfl
@[simp] theorem setL2_hdm (d la : Nat) (x : Line) : (s.setL2 d la x).hdm = s.hdm := rfl
@[simp] theorem setL2_boot (d la : Nat) (x : Line) : (s.setL2 d la x).boot = s.boot := rfl
@[simp] theorem setL2_timer (d la : Nat) (x : Line) : (s.setL2 d la x).timer = s.timer := rfl
@[simp] theorem setL2_free (d la : Nat) (x : Line) : (s.setL2 d la x).free = s.free := rfl
@[simp] theorem setL2_agenda (d la : Nat) (x : Line) : (s.setL2 d la x).agenda = s.agenda := rfl
@[simp] theorem setL2_turn (d la : Nat) (x : Line) : (s.setL2 d la x).turn = s.turn := rfl
@[simp] theorem setL2_lastSys (d la : Nat) (x : Line) : (s.setL2 d la x).lastSys = s.lastSys := rfl
@[simp] theorem setL2_lastCp (d la : Nat) (x : Line) : (s.setL2 d la x).lastCp = s.lastCp := rfl
@[simp] theorem setL2_cur (d la : Nat) (x : Line) : (s.setL2 d la x).cur = s.cur := rfl
@[simp] theorem setL2_holds (d la : Nat) (x : Line) : (s.setL2 d la x).holds = s.holds := rfl

/-! ## setHolding -/

@[simp] theorem setHolding_mem (la : Nat) (x : Holding) : (s.setHolding la x).mem = s.mem := rfl
@[simp] theorem setHolding_lineKid (la : Nat) (x : Holding) : (s.setHolding la x).lineKid = s.lineKid := rfl
@[simp] theorem setHolding_lineOld (la : Nat) (x : Holding) : (s.setHolding la x).lineOld = s.lineOld := rfl
@[simp] theorem setHolding_poison (la : Nat) (x : Holding) : (s.setHolding la x).poison = s.poison := rfl
@[simp] theorem setHolding_l2 (la : Nat) (x : Holding) : (s.setHolding la x).l2 = s.l2 := rfl
@[simp] theorem setHolding_home (la : Nat) (x : Holding) : (s.setHolding la x).home = setD Holding.all s.home la x := rfl
@[simp] theorem setHolding_perm (la : Nat) (x : Holding) : (s.setHolding la x).perm = s.perm := rfl
@[simp] theorem setHolding_hostDirty (la : Nat) (x : Holding) : (s.setHolding la x).hostDirty = s.hostDirty := rfl
@[simp] theorem setHolding_wants (la : Nat) (x : Holding) : (s.setHolding la x).wants = s.wants := rfl
@[simp] theorem setHolding_hostOut (la : Nat) (x : Holding) : (s.setHolding la x).hostOut = s.hostOut := rfl
@[simp] theorem setHolding_remoteOut (la : Nat) (x : Holding) : (s.setHolding la x).remoteOut = s.remoteOut := rfl
@[simp] theorem setHolding_h0 (la : Nat) (x : Holding) : (s.setHolding la x).h0 = s.h0 := rfl
@[simp] theorem setHolding_msgs (la : Nat) (x : Holding) : (s.setHolding la x).msgs = s.msgs := rfl
@[simp] theorem setHolding_reqs (la : Nat) (x : Holding) : (s.setHolding la x).reqs = s.reqs := rfl
@[simp] theorem setHolding_ptab (la : Nat) (x : Holding) : (s.setHolding la x).ptab = s.ptab := rfl
@[simp] theorem setHolding_pseq (la : Nat) (x : Holding) : (s.setHolding la x).pseq = s.pseq := rfl
@[simp] theorem setHolding_acts (la : Nat) (x : Holding) : (s.setHolding la x).acts = s.acts := rfl
@[simp] theorem setHolding_pend (la : Nat) (x : Holding) : (s.setHolding la x).pend = s.pend := rfl
@[simp] theorem setHolding_hops (la : Nat) (x : Holding) : (s.setHolding la x).hops = s.hops := rfl
@[simp] theorem setHolding_homeq (la : Nat) (x : Holding) : (s.setHolding la x).homeq = s.homeq := rfl
@[simp] theorem setHolding_records (la : Nat) (x : Holding) : (s.setHolding la x).records = s.records := rfl
@[simp] theorem setHolding_appends (la : Nat) (x : Holding) : (s.setHolding la x).appends = s.appends := rfl
@[simp] theorem setHolding_seals (la : Nat) (x : Holding) : (s.setHolding la x).seals = s.seals := rfl
@[simp] theorem setHolding_replicas (la : Nat) (x : Holding) : (s.setHolding la x).replicas = s.replicas := rfl
@[simp] theorem setHolding_exports (la : Nat) (x : Holding) : (s.setHolding la x).exports = s.exports := rfl
@[simp] theorem setHolding_frees (la : Nat) (x : Holding) : (s.setHolding la x).frees = s.frees := rfl
@[simp] theorem setHolding_tlb (la : Nat) (x : Holding) : (s.setHolding la x).tlb = s.tlb := rfl
@[simp] theorem setHolding_wcache (la : Nat) (x : Holding) : (s.setHolding la x).wcache = s.wcache := rfl
@[simp] theorem setHolding_invals (la : Nat) (x : Holding) : (s.setHolding la x).invals = s.invals := rfl
@[simp] theorem setHolding_pins (la : Nat) (x : Holding) : (s.setHolding la x).pins = s.pins := rfl
@[simp] theorem setHolding_faults (la : Nat) (x : Holding) : (s.setHolding la x).faults = s.faults := rfl
@[simp] theorem setHolding_ranges (la : Nat) (x : Holding) : (s.setHolding la x).ranges = s.ranges := rfl
@[simp] theorem setHolding_rangeWait (la : Nat) (x : Holding) : (s.setHolding la x).rangeWait = s.rangeWait := rfl
@[simp] theorem setHolding_copies (la : Nat) (x : Holding) : (s.setHolding la x).copies = s.copies := rfl
@[simp] theorem setHolding_groups (la : Nat) (x : Holding) : (s.setHolding la x).groups = s.groups := rfl
@[simp] theorem setHolding_teams (la : Nat) (x : Holding) : (s.setHolding la x).teams = s.teams := rfl
@[simp] theorem setHolding_jobs (la : Nat) (x : Holding) : (s.setHolding la x).jobs = s.jobs := rfl
@[simp] theorem setHolding_sails (la : Nat) (x : Holding) : (s.setHolding la x).sails = s.sails := rfl
@[simp] theorem setHolding_reserved (la : Nat) (x : Holding) : (s.setHolding la x).reserved = s.reserved := rfl
@[simp] theorem setHolding_ibuf (la : Nat) (x : Holding) : (s.setHolding la x).ibuf = s.ibuf := rfl
@[simp] theorem setHolding_stale (la : Nat) (x : Holding) : (s.setHolding la x).stale = s.stale := rfl
@[simp] theorem setHolding_hints (la : Nat) (x : Holding) : (s.setHolding la x).hints = s.hints := rfl
@[simp] theorem setHolding_moves (la : Nat) (x : Holding) : (s.setHolding la x).moves = s.moves := rfl
@[simp] theorem setHolding_track (la : Nat) (x : Holding) : (s.setHolding la x).track = s.track := rfl
@[simp] theorem setHolding_frozen (la : Nat) (x : Holding) : (s.setHolding la x).frozen = s.frozen := rfl
@[simp] theorem setHolding_staged (la : Nat) (x : Holding) : (s.setHolding la x).staged = s.staged := rfl
@[simp] theorem setHolding_rings (la : Nat) (x : Holding) : (s.setHolding la x).rings = s.rings := rfl
@[simp] theorem setHolding_softErrs (la : Nat) (x : Holding) : (s.setHolding la x).softErrs = s.softErrs := rfl
@[simp] theorem setHolding_errcount (la : Nat) (x : Holding) : (s.setHolding la x).errcount = s.errcount := rfl
@[simp] theorem setHolding_errlog (la : Nat) (x : Holding) : (s.setHolding la x).errlog = s.errlog := rfl
@[simp] theorem setHolding_errTimes (la : Nat) (x : Holding) : (s.setHolding la x).errTimes = s.errTimes := rfl
@[simp] theorem setHolding_marked (la : Nat) (x : Holding) : (s.setHolding la x).marked = s.marked := rfl
@[simp] theorem setHolding_retired (la : Nat) (x : Holding) : (s.setHolding la x).retired = s.retired := rfl
@[simp] theorem setHolding_keys (la : Nat) (x : Holding) : (s.setHolding la x).keys = s.keys := rfl
@[simp] theorem setHolding_parts (la : Nat) (x : Holding) : (s.setHolding la x).parts = s.parts := rfl
@[simp] theorem setHolding_queues (la : Nat) (x : Holding) : (s.setHolding la x).queues = s.queues := rfl
@[simp] theorem setHolding_events (la : Nat) (x : Holding) : (s.setHolding la x).events = s.events := rfl
@[simp] theorem setHolding_threads (la : Nat) (x : Holding) : (s.setHolding la x).threads = s.threads := rfl
@[simp] theorem setHolding_imports (la : Nat) (x : Holding) : (s.setHolding la x).imports = s.imports := rfl
@[simp] theorem setHolding_decoders (la : Nat) (x : Holding) : (s.setHolding la x).decoders = s.decoders := rfl
@[simp] theorem setHolding_hdm (la : Nat) (x : Holding) : (s.setHolding la x).hdm = s.hdm := rfl
@[simp] theorem setHolding_boot (la : Nat) (x : Holding) : (s.setHolding la x).boot = s.boot := rfl
@[simp] theorem setHolding_timer (la : Nat) (x : Holding) : (s.setHolding la x).timer = s.timer := rfl
@[simp] theorem setHolding_free (la : Nat) (x : Holding) : (s.setHolding la x).free = s.free := rfl
@[simp] theorem setHolding_agenda (la : Nat) (x : Holding) : (s.setHolding la x).agenda = s.agenda := rfl
@[simp] theorem setHolding_turn (la : Nat) (x : Holding) : (s.setHolding la x).turn = s.turn := rfl
@[simp] theorem setHolding_lastSys (la : Nat) (x : Holding) : (s.setHolding la x).lastSys = s.lastSys := rfl
@[simp] theorem setHolding_lastCp (la : Nat) (x : Holding) : (s.setHolding la x).lastCp = s.lastCp := rfl
@[simp] theorem setHolding_cur (la : Nat) (x : Holding) : (s.setHolding la x).cur = s.cur := rfl
@[simp] theorem setHolding_holds (la : Nat) (x : Holding) : (s.setHolding la x).holds = s.holds := rfl

/-! ## setH0 -/

@[simp] theorem setH0_mem (la : Nat) (x : Line) : (s.setH0 la x).mem = s.mem := rfl
@[simp] theorem setH0_lineKid (la : Nat) (x : Line) : (s.setH0 la x).lineKid = s.lineKid := rfl
@[simp] theorem setH0_lineOld (la : Nat) (x : Line) : (s.setH0 la x).lineOld = s.lineOld := rfl
@[simp] theorem setH0_poison (la : Nat) (x : Line) : (s.setH0 la x).poison = s.poison := rfl
@[simp] theorem setH0_l2 (la : Nat) (x : Line) : (s.setH0 la x).l2 = s.l2 := rfl
@[simp] theorem setH0_home (la : Nat) (x : Line) : (s.setH0 la x).home = s.home := rfl
@[simp] theorem setH0_perm (la : Nat) (x : Line) : (s.setH0 la x).perm = s.perm := rfl
@[simp] theorem setH0_hostDirty (la : Nat) (x : Line) : (s.setH0 la x).hostDirty = s.hostDirty := rfl
@[simp] theorem setH0_wants (la : Nat) (x : Line) : (s.setH0 la x).wants = s.wants := rfl
@[simp] theorem setH0_hostOut (la : Nat) (x : Line) : (s.setH0 la x).hostOut = s.hostOut := rfl
@[simp] theorem setH0_remoteOut (la : Nat) (x : Line) : (s.setH0 la x).remoteOut = s.remoteOut := rfl
@[simp] theorem setH0_h0 (la : Nat) (x : Line) : (s.setH0 la x).h0 = setD Line.none s.h0 la x := rfl
@[simp] theorem setH0_msgs (la : Nat) (x : Line) : (s.setH0 la x).msgs = s.msgs := rfl
@[simp] theorem setH0_reqs (la : Nat) (x : Line) : (s.setH0 la x).reqs = s.reqs := rfl
@[simp] theorem setH0_ptab (la : Nat) (x : Line) : (s.setH0 la x).ptab = s.ptab := rfl
@[simp] theorem setH0_pseq (la : Nat) (x : Line) : (s.setH0 la x).pseq = s.pseq := rfl
@[simp] theorem setH0_acts (la : Nat) (x : Line) : (s.setH0 la x).acts = s.acts := rfl
@[simp] theorem setH0_pend (la : Nat) (x : Line) : (s.setH0 la x).pend = s.pend := rfl
@[simp] theorem setH0_hops (la : Nat) (x : Line) : (s.setH0 la x).hops = s.hops := rfl
@[simp] theorem setH0_homeq (la : Nat) (x : Line) : (s.setH0 la x).homeq = s.homeq := rfl
@[simp] theorem setH0_records (la : Nat) (x : Line) : (s.setH0 la x).records = s.records := rfl
@[simp] theorem setH0_appends (la : Nat) (x : Line) : (s.setH0 la x).appends = s.appends := rfl
@[simp] theorem setH0_seals (la : Nat) (x : Line) : (s.setH0 la x).seals = s.seals := rfl
@[simp] theorem setH0_replicas (la : Nat) (x : Line) : (s.setH0 la x).replicas = s.replicas := rfl
@[simp] theorem setH0_exports (la : Nat) (x : Line) : (s.setH0 la x).exports = s.exports := rfl
@[simp] theorem setH0_frees (la : Nat) (x : Line) : (s.setH0 la x).frees = s.frees := rfl
@[simp] theorem setH0_tlb (la : Nat) (x : Line) : (s.setH0 la x).tlb = s.tlb := rfl
@[simp] theorem setH0_wcache (la : Nat) (x : Line) : (s.setH0 la x).wcache = s.wcache := rfl
@[simp] theorem setH0_invals (la : Nat) (x : Line) : (s.setH0 la x).invals = s.invals := rfl
@[simp] theorem setH0_pins (la : Nat) (x : Line) : (s.setH0 la x).pins = s.pins := rfl
@[simp] theorem setH0_faults (la : Nat) (x : Line) : (s.setH0 la x).faults = s.faults := rfl
@[simp] theorem setH0_ranges (la : Nat) (x : Line) : (s.setH0 la x).ranges = s.ranges := rfl
@[simp] theorem setH0_rangeWait (la : Nat) (x : Line) : (s.setH0 la x).rangeWait = s.rangeWait := rfl
@[simp] theorem setH0_copies (la : Nat) (x : Line) : (s.setH0 la x).copies = s.copies := rfl
@[simp] theorem setH0_groups (la : Nat) (x : Line) : (s.setH0 la x).groups = s.groups := rfl
@[simp] theorem setH0_teams (la : Nat) (x : Line) : (s.setH0 la x).teams = s.teams := rfl
@[simp] theorem setH0_jobs (la : Nat) (x : Line) : (s.setH0 la x).jobs = s.jobs := rfl
@[simp] theorem setH0_sails (la : Nat) (x : Line) : (s.setH0 la x).sails = s.sails := rfl
@[simp] theorem setH0_reserved (la : Nat) (x : Line) : (s.setH0 la x).reserved = s.reserved := rfl
@[simp] theorem setH0_ibuf (la : Nat) (x : Line) : (s.setH0 la x).ibuf = s.ibuf := rfl
@[simp] theorem setH0_stale (la : Nat) (x : Line) : (s.setH0 la x).stale = s.stale := rfl
@[simp] theorem setH0_hints (la : Nat) (x : Line) : (s.setH0 la x).hints = s.hints := rfl
@[simp] theorem setH0_moves (la : Nat) (x : Line) : (s.setH0 la x).moves = s.moves := rfl
@[simp] theorem setH0_track (la : Nat) (x : Line) : (s.setH0 la x).track = s.track := rfl
@[simp] theorem setH0_frozen (la : Nat) (x : Line) : (s.setH0 la x).frozen = s.frozen := rfl
@[simp] theorem setH0_staged (la : Nat) (x : Line) : (s.setH0 la x).staged = s.staged := rfl
@[simp] theorem setH0_rings (la : Nat) (x : Line) : (s.setH0 la x).rings = s.rings := rfl
@[simp] theorem setH0_softErrs (la : Nat) (x : Line) : (s.setH0 la x).softErrs = s.softErrs := rfl
@[simp] theorem setH0_errcount (la : Nat) (x : Line) : (s.setH0 la x).errcount = s.errcount := rfl
@[simp] theorem setH0_errlog (la : Nat) (x : Line) : (s.setH0 la x).errlog = s.errlog := rfl
@[simp] theorem setH0_errTimes (la : Nat) (x : Line) : (s.setH0 la x).errTimes = s.errTimes := rfl
@[simp] theorem setH0_marked (la : Nat) (x : Line) : (s.setH0 la x).marked = s.marked := rfl
@[simp] theorem setH0_retired (la : Nat) (x : Line) : (s.setH0 la x).retired = s.retired := rfl
@[simp] theorem setH0_keys (la : Nat) (x : Line) : (s.setH0 la x).keys = s.keys := rfl
@[simp] theorem setH0_parts (la : Nat) (x : Line) : (s.setH0 la x).parts = s.parts := rfl
@[simp] theorem setH0_queues (la : Nat) (x : Line) : (s.setH0 la x).queues = s.queues := rfl
@[simp] theorem setH0_events (la : Nat) (x : Line) : (s.setH0 la x).events = s.events := rfl
@[simp] theorem setH0_threads (la : Nat) (x : Line) : (s.setH0 la x).threads = s.threads := rfl
@[simp] theorem setH0_imports (la : Nat) (x : Line) : (s.setH0 la x).imports = s.imports := rfl
@[simp] theorem setH0_decoders (la : Nat) (x : Line) : (s.setH0 la x).decoders = s.decoders := rfl
@[simp] theorem setH0_hdm (la : Nat) (x : Line) : (s.setH0 la x).hdm = s.hdm := rfl
@[simp] theorem setH0_boot (la : Nat) (x : Line) : (s.setH0 la x).boot = s.boot := rfl
@[simp] theorem setH0_timer (la : Nat) (x : Line) : (s.setH0 la x).timer = s.timer := rfl
@[simp] theorem setH0_free (la : Nat) (x : Line) : (s.setH0 la x).free = s.free := rfl
@[simp] theorem setH0_agenda (la : Nat) (x : Line) : (s.setH0 la x).agenda = s.agenda := rfl
@[simp] theorem setH0_turn (la : Nat) (x : Line) : (s.setH0 la x).turn = s.turn := rfl
@[simp] theorem setH0_lastSys (la : Nat) (x : Line) : (s.setH0 la x).lastSys = s.lastSys := rfl
@[simp] theorem setH0_lastCp (la : Nat) (x : Line) : (s.setH0 la x).lastCp = s.lastCp := rfl
@[simp] theorem setH0_cur (la : Nat) (x : Line) : (s.setH0 la x).cur = s.cur := rfl
@[simp] theorem setH0_holds (la : Nat) (x : Line) : (s.setH0 la x).holds = s.holds := rfl

/-! ## spend -/

@[simp] theorem spend_mem : (s.spend).mem = s.mem := rfl
@[simp] theorem spend_lineKid : (s.spend).lineKid = s.lineKid := rfl
@[simp] theorem spend_lineOld : (s.spend).lineOld = s.lineOld := rfl
@[simp] theorem spend_poison : (s.spend).poison = s.poison := rfl
@[simp] theorem spend_l2 : (s.spend).l2 = s.l2 := rfl
@[simp] theorem spend_home : (s.spend).home = s.home := rfl
@[simp] theorem spend_perm : (s.spend).perm = s.perm := rfl
@[simp] theorem spend_hostDirty : (s.spend).hostDirty = s.hostDirty := rfl
@[simp] theorem spend_wants : (s.spend).wants = s.wants := rfl
@[simp] theorem spend_hostOut : (s.spend).hostOut = s.hostOut := rfl
@[simp] theorem spend_remoteOut : (s.spend).remoteOut = s.remoteOut := rfl
@[simp] theorem spend_h0 : (s.spend).h0 = s.h0 := rfl
@[simp] theorem spend_msgs : (s.spend).msgs = s.msgs := rfl
@[simp] theorem spend_reqs : (s.spend).reqs = s.reqs := rfl
@[simp] theorem spend_ptab : (s.spend).ptab = s.ptab := rfl
@[simp] theorem spend_pseq : (s.spend).pseq = s.pseq := rfl
@[simp] theorem spend_acts : (s.spend).acts = s.acts := rfl
@[simp] theorem spend_pend : (s.spend).pend = s.pend := rfl
@[simp] theorem spend_hops : (s.spend).hops = s.hops := rfl
@[simp] theorem spend_homeq : (s.spend).homeq = s.homeq := rfl
@[simp] theorem spend_records : (s.spend).records = s.records := rfl
@[simp] theorem spend_appends : (s.spend).appends = s.appends := rfl
@[simp] theorem spend_seals : (s.spend).seals = s.seals := rfl
@[simp] theorem spend_replicas : (s.spend).replicas = s.replicas := rfl
@[simp] theorem spend_exports : (s.spend).exports = s.exports := rfl
@[simp] theorem spend_frees : (s.spend).frees = s.frees := rfl
@[simp] theorem spend_tlb : (s.spend).tlb = s.tlb := rfl
@[simp] theorem spend_wcache : (s.spend).wcache = s.wcache := rfl
@[simp] theorem spend_invals : (s.spend).invals = s.invals := rfl
@[simp] theorem spend_pins : (s.spend).pins = s.pins := rfl
@[simp] theorem spend_faults : (s.spend).faults = s.faults := rfl
@[simp] theorem spend_ranges : (s.spend).ranges = s.ranges := rfl
@[simp] theorem spend_rangeWait : (s.spend).rangeWait = s.rangeWait := rfl
@[simp] theorem spend_copies : (s.spend).copies = s.copies := rfl
@[simp] theorem spend_groups : (s.spend).groups = s.groups := rfl
@[simp] theorem spend_teams : (s.spend).teams = s.teams := rfl
@[simp] theorem spend_jobs : (s.spend).jobs = s.jobs := rfl
@[simp] theorem spend_sails : (s.spend).sails = s.sails := rfl
@[simp] theorem spend_reserved : (s.spend).reserved = s.reserved := rfl
@[simp] theorem spend_ibuf : (s.spend).ibuf = s.ibuf := rfl
@[simp] theorem spend_stale : (s.spend).stale = s.stale := rfl
@[simp] theorem spend_hints : (s.spend).hints = s.hints := rfl
@[simp] theorem spend_moves : (s.spend).moves = s.moves := rfl
@[simp] theorem spend_track : (s.spend).track = s.track := rfl
@[simp] theorem spend_frozen : (s.spend).frozen = s.frozen := rfl
@[simp] theorem spend_staged : (s.spend).staged = s.staged := rfl
@[simp] theorem spend_rings : (s.spend).rings = s.rings := rfl
@[simp] theorem spend_softErrs : (s.spend).softErrs = s.softErrs := rfl
@[simp] theorem spend_errcount : (s.spend).errcount = s.errcount := rfl
@[simp] theorem spend_errlog : (s.spend).errlog = s.errlog := rfl
@[simp] theorem spend_errTimes : (s.spend).errTimes = s.errTimes := rfl
@[simp] theorem spend_marked : (s.spend).marked = s.marked := rfl
@[simp] theorem spend_retired : (s.spend).retired = s.retired := rfl
@[simp] theorem spend_keys : (s.spend).keys = s.keys := rfl
@[simp] theorem spend_parts : (s.spend).parts = s.parts := rfl
@[simp] theorem spend_queues : (s.spend).queues = s.queues := rfl
@[simp] theorem spend_events : (s.spend).events = s.events := rfl
@[simp] theorem spend_threads : (s.spend).threads = s.threads := rfl
@[simp] theorem spend_imports : (s.spend).imports = s.imports := rfl
@[simp] theorem spend_decoders : (s.spend).decoders = s.decoders := rfl
@[simp] theorem spend_hdm : (s.spend).hdm = s.hdm := rfl
@[simp] theorem spend_boot : (s.spend).boot = s.boot := rfl
@[simp] theorem spend_timer : (s.spend).timer = s.timer := rfl
@[simp] theorem spend_free : (s.spend).free = s.free + 1 := rfl
@[simp] theorem spend_agenda : (s.spend).agenda = s.agenda := rfl
@[simp] theorem spend_turn : (s.spend).turn = s.turn := rfl
@[simp] theorem spend_lastSys : (s.spend).lastSys = s.lastSys := rfl
@[simp] theorem spend_lastCp : (s.spend).lastCp = s.lastCp := rfl
@[simp] theorem spend_cur : (s.spend).cur = s.cur := rfl
@[simp] theorem spend_holds : (s.spend).holds = s.holds := rfl

/-! ## send -/

@[simp] theorem send_mem (m : Msg) : (s.send m).mem = s.mem := rfl
@[simp] theorem send_lineKid (m : Msg) : (s.send m).lineKid = s.lineKid := rfl
@[simp] theorem send_lineOld (m : Msg) : (s.send m).lineOld = s.lineOld := rfl
@[simp] theorem send_poison (m : Msg) : (s.send m).poison = s.poison := rfl
@[simp] theorem send_l2 (m : Msg) : (s.send m).l2 = s.l2 := rfl
@[simp] theorem send_home (m : Msg) : (s.send m).home = s.home := rfl
@[simp] theorem send_perm (m : Msg) : (s.send m).perm = s.perm := rfl
@[simp] theorem send_hostDirty (m : Msg) : (s.send m).hostDirty = s.hostDirty := rfl
@[simp] theorem send_wants (m : Msg) : (s.send m).wants = s.wants := rfl
@[simp] theorem send_hostOut (m : Msg) : (s.send m).hostOut = s.hostOut := rfl
@[simp] theorem send_remoteOut (m : Msg) : (s.send m).remoteOut = s.remoteOut := rfl
@[simp] theorem send_h0 (m : Msg) : (s.send m).h0 = s.h0 := rfl
@[simp] theorem send_msgs (m : Msg) : (s.send m).msgs = s.msgs ++ [m] := rfl
@[simp] theorem send_reqs (m : Msg) : (s.send m).reqs = s.reqs := rfl
@[simp] theorem send_ptab (m : Msg) : (s.send m).ptab = s.ptab := rfl
@[simp] theorem send_pseq (m : Msg) : (s.send m).pseq = s.pseq := rfl
@[simp] theorem send_acts (m : Msg) : (s.send m).acts = s.acts := rfl
@[simp] theorem send_pend (m : Msg) : (s.send m).pend = s.pend := rfl
@[simp] theorem send_hops (m : Msg) : (s.send m).hops = s.hops := rfl
@[simp] theorem send_homeq (m : Msg) : (s.send m).homeq = s.homeq := rfl
@[simp] theorem send_records (m : Msg) : (s.send m).records = s.records := rfl
@[simp] theorem send_appends (m : Msg) : (s.send m).appends = s.appends := rfl
@[simp] theorem send_seals (m : Msg) : (s.send m).seals = s.seals := rfl
@[simp] theorem send_replicas (m : Msg) : (s.send m).replicas = s.replicas := rfl
@[simp] theorem send_exports (m : Msg) : (s.send m).exports = s.exports := rfl
@[simp] theorem send_frees (m : Msg) : (s.send m).frees = s.frees := rfl
@[simp] theorem send_tlb (m : Msg) : (s.send m).tlb = s.tlb := rfl
@[simp] theorem send_wcache (m : Msg) : (s.send m).wcache = s.wcache := rfl
@[simp] theorem send_invals (m : Msg) : (s.send m).invals = s.invals := rfl
@[simp] theorem send_pins (m : Msg) : (s.send m).pins = s.pins := rfl
@[simp] theorem send_faults (m : Msg) : (s.send m).faults = s.faults := rfl
@[simp] theorem send_ranges (m : Msg) : (s.send m).ranges = s.ranges := rfl
@[simp] theorem send_rangeWait (m : Msg) : (s.send m).rangeWait = s.rangeWait := rfl
@[simp] theorem send_copies (m : Msg) : (s.send m).copies = s.copies := rfl
@[simp] theorem send_groups (m : Msg) : (s.send m).groups = s.groups := rfl
@[simp] theorem send_teams (m : Msg) : (s.send m).teams = s.teams := rfl
@[simp] theorem send_jobs (m : Msg) : (s.send m).jobs = s.jobs := rfl
@[simp] theorem send_sails (m : Msg) : (s.send m).sails = s.sails := rfl
@[simp] theorem send_reserved (m : Msg) : (s.send m).reserved = s.reserved := rfl
@[simp] theorem send_ibuf (m : Msg) : (s.send m).ibuf = s.ibuf := rfl
@[simp] theorem send_stale (m : Msg) : (s.send m).stale = s.stale := rfl
@[simp] theorem send_hints (m : Msg) : (s.send m).hints = s.hints := rfl
@[simp] theorem send_moves (m : Msg) : (s.send m).moves = s.moves := rfl
@[simp] theorem send_track (m : Msg) : (s.send m).track = s.track := rfl
@[simp] theorem send_frozen (m : Msg) : (s.send m).frozen = s.frozen := rfl
@[simp] theorem send_staged (m : Msg) : (s.send m).staged = s.staged := rfl
@[simp] theorem send_rings (m : Msg) : (s.send m).rings = s.rings := rfl
@[simp] theorem send_softErrs (m : Msg) : (s.send m).softErrs = s.softErrs := rfl
@[simp] theorem send_errcount (m : Msg) : (s.send m).errcount = s.errcount := rfl
@[simp] theorem send_errlog (m : Msg) : (s.send m).errlog = s.errlog := rfl
@[simp] theorem send_errTimes (m : Msg) : (s.send m).errTimes = s.errTimes := rfl
@[simp] theorem send_marked (m : Msg) : (s.send m).marked = s.marked := rfl
@[simp] theorem send_retired (m : Msg) : (s.send m).retired = s.retired := rfl
@[simp] theorem send_keys (m : Msg) : (s.send m).keys = s.keys := rfl
@[simp] theorem send_parts (m : Msg) : (s.send m).parts = s.parts := rfl
@[simp] theorem send_queues (m : Msg) : (s.send m).queues = s.queues := rfl
@[simp] theorem send_events (m : Msg) : (s.send m).events = s.events := rfl
@[simp] theorem send_threads (m : Msg) : (s.send m).threads = s.threads := rfl
@[simp] theorem send_imports (m : Msg) : (s.send m).imports = s.imports := rfl
@[simp] theorem send_decoders (m : Msg) : (s.send m).decoders = s.decoders := rfl
@[simp] theorem send_hdm (m : Msg) : (s.send m).hdm = s.hdm := rfl
@[simp] theorem send_boot (m : Msg) : (s.send m).boot = s.boot := rfl
@[simp] theorem send_timer (m : Msg) : (s.send m).timer = s.timer := rfl
@[simp] theorem send_free (m : Msg) : (s.send m).free = s.free := rfl
@[simp] theorem send_agenda (m : Msg) : (s.send m).agenda = s.agenda := rfl
@[simp] theorem send_turn (m : Msg) : (s.send m).turn = s.turn := rfl
@[simp] theorem send_lastSys (m : Msg) : (s.send m).lastSys = s.lastSys := rfl
@[simp] theorem send_lastCp (m : Msg) : (s.send m).lastCp = s.lastCp := rfl
@[simp] theorem send_cur (m : Msg) : (s.send m).cur = s.cur := rfl
@[simp] theorem send_holds (m : Msg) : (s.send m).holds = s.holds := rfl

/-! ## sendAll -/

@[simp] theorem sendAll_mem (l : List Msg) : (s.sendAll l).mem = s.mem := rfl
@[simp] theorem sendAll_lineKid (l : List Msg) : (s.sendAll l).lineKid = s.lineKid := rfl
@[simp] theorem sendAll_lineOld (l : List Msg) : (s.sendAll l).lineOld = s.lineOld := rfl
@[simp] theorem sendAll_poison (l : List Msg) : (s.sendAll l).poison = s.poison := rfl
@[simp] theorem sendAll_l2 (l : List Msg) : (s.sendAll l).l2 = s.l2 := rfl
@[simp] theorem sendAll_home (l : List Msg) : (s.sendAll l).home = s.home := rfl
@[simp] theorem sendAll_perm (l : List Msg) : (s.sendAll l).perm = s.perm := rfl
@[simp] theorem sendAll_hostDirty (l : List Msg) : (s.sendAll l).hostDirty = s.hostDirty := rfl
@[simp] theorem sendAll_wants (l : List Msg) : (s.sendAll l).wants = s.wants := rfl
@[simp] theorem sendAll_hostOut (l : List Msg) : (s.sendAll l).hostOut = s.hostOut := rfl
@[simp] theorem sendAll_remoteOut (l : List Msg) : (s.sendAll l).remoteOut = s.remoteOut := rfl
@[simp] theorem sendAll_h0 (l : List Msg) : (s.sendAll l).h0 = s.h0 := rfl
@[simp] theorem sendAll_msgs (l : List Msg) : (s.sendAll l).msgs = s.msgs ++ l := rfl
@[simp] theorem sendAll_reqs (l : List Msg) : (s.sendAll l).reqs = s.reqs := rfl
@[simp] theorem sendAll_ptab (l : List Msg) : (s.sendAll l).ptab = s.ptab := rfl
@[simp] theorem sendAll_pseq (l : List Msg) : (s.sendAll l).pseq = s.pseq := rfl
@[simp] theorem sendAll_acts (l : List Msg) : (s.sendAll l).acts = s.acts := rfl
@[simp] theorem sendAll_pend (l : List Msg) : (s.sendAll l).pend = s.pend := rfl
@[simp] theorem sendAll_hops (l : List Msg) : (s.sendAll l).hops = s.hops := rfl
@[simp] theorem sendAll_homeq (l : List Msg) : (s.sendAll l).homeq = s.homeq := rfl
@[simp] theorem sendAll_records (l : List Msg) : (s.sendAll l).records = s.records := rfl
@[simp] theorem sendAll_appends (l : List Msg) : (s.sendAll l).appends = s.appends := rfl
@[simp] theorem sendAll_seals (l : List Msg) : (s.sendAll l).seals = s.seals := rfl
@[simp] theorem sendAll_replicas (l : List Msg) : (s.sendAll l).replicas = s.replicas := rfl
@[simp] theorem sendAll_exports (l : List Msg) : (s.sendAll l).exports = s.exports := rfl
@[simp] theorem sendAll_frees (l : List Msg) : (s.sendAll l).frees = s.frees := rfl
@[simp] theorem sendAll_tlb (l : List Msg) : (s.sendAll l).tlb = s.tlb := rfl
@[simp] theorem sendAll_wcache (l : List Msg) : (s.sendAll l).wcache = s.wcache := rfl
@[simp] theorem sendAll_invals (l : List Msg) : (s.sendAll l).invals = s.invals := rfl
@[simp] theorem sendAll_pins (l : List Msg) : (s.sendAll l).pins = s.pins := rfl
@[simp] theorem sendAll_faults (l : List Msg) : (s.sendAll l).faults = s.faults := rfl
@[simp] theorem sendAll_ranges (l : List Msg) : (s.sendAll l).ranges = s.ranges := rfl
@[simp] theorem sendAll_rangeWait (l : List Msg) : (s.sendAll l).rangeWait = s.rangeWait := rfl
@[simp] theorem sendAll_copies (l : List Msg) : (s.sendAll l).copies = s.copies := rfl
@[simp] theorem sendAll_groups (l : List Msg) : (s.sendAll l).groups = s.groups := rfl
@[simp] theorem sendAll_teams (l : List Msg) : (s.sendAll l).teams = s.teams := rfl
@[simp] theorem sendAll_jobs (l : List Msg) : (s.sendAll l).jobs = s.jobs := rfl
@[simp] theorem sendAll_sails (l : List Msg) : (s.sendAll l).sails = s.sails := rfl
@[simp] theorem sendAll_reserved (l : List Msg) : (s.sendAll l).reserved = s.reserved := rfl
@[simp] theorem sendAll_ibuf (l : List Msg) : (s.sendAll l).ibuf = s.ibuf := rfl
@[simp] theorem sendAll_stale (l : List Msg) : (s.sendAll l).stale = s.stale := rfl
@[simp] theorem sendAll_hints (l : List Msg) : (s.sendAll l).hints = s.hints := rfl
@[simp] theorem sendAll_moves (l : List Msg) : (s.sendAll l).moves = s.moves := rfl
@[simp] theorem sendAll_track (l : List Msg) : (s.sendAll l).track = s.track := rfl
@[simp] theorem sendAll_frozen (l : List Msg) : (s.sendAll l).frozen = s.frozen := rfl
@[simp] theorem sendAll_staged (l : List Msg) : (s.sendAll l).staged = s.staged := rfl
@[simp] theorem sendAll_rings (l : List Msg) : (s.sendAll l).rings = s.rings := rfl
@[simp] theorem sendAll_softErrs (l : List Msg) : (s.sendAll l).softErrs = s.softErrs := rfl
@[simp] theorem sendAll_errcount (l : List Msg) : (s.sendAll l).errcount = s.errcount := rfl
@[simp] theorem sendAll_errlog (l : List Msg) : (s.sendAll l).errlog = s.errlog := rfl
@[simp] theorem sendAll_errTimes (l : List Msg) : (s.sendAll l).errTimes = s.errTimes := rfl
@[simp] theorem sendAll_marked (l : List Msg) : (s.sendAll l).marked = s.marked := rfl
@[simp] theorem sendAll_retired (l : List Msg) : (s.sendAll l).retired = s.retired := rfl
@[simp] theorem sendAll_keys (l : List Msg) : (s.sendAll l).keys = s.keys := rfl
@[simp] theorem sendAll_parts (l : List Msg) : (s.sendAll l).parts = s.parts := rfl
@[simp] theorem sendAll_queues (l : List Msg) : (s.sendAll l).queues = s.queues := rfl
@[simp] theorem sendAll_events (l : List Msg) : (s.sendAll l).events = s.events := rfl
@[simp] theorem sendAll_threads (l : List Msg) : (s.sendAll l).threads = s.threads := rfl
@[simp] theorem sendAll_imports (l : List Msg) : (s.sendAll l).imports = s.imports := rfl
@[simp] theorem sendAll_decoders (l : List Msg) : (s.sendAll l).decoders = s.decoders := rfl
@[simp] theorem sendAll_hdm (l : List Msg) : (s.sendAll l).hdm = s.hdm := rfl
@[simp] theorem sendAll_boot (l : List Msg) : (s.sendAll l).boot = s.boot := rfl
@[simp] theorem sendAll_timer (l : List Msg) : (s.sendAll l).timer = s.timer := rfl
@[simp] theorem sendAll_free (l : List Msg) : (s.sendAll l).free = s.free := rfl
@[simp] theorem sendAll_agenda (l : List Msg) : (s.sendAll l).agenda = s.agenda := rfl
@[simp] theorem sendAll_turn (l : List Msg) : (s.sendAll l).turn = s.turn := rfl
@[simp] theorem sendAll_lastSys (l : List Msg) : (s.sendAll l).lastSys = s.lastSys := rfl
@[simp] theorem sendAll_lastCp (l : List Msg) : (s.sendAll l).lastCp = s.lastCp := rfl
@[simp] theorem sendAll_cur (l : List Msg) : (s.sendAll l).cur = s.cur := rfl
@[simp] theorem sendAll_holds (l : List Msg) : (s.sendAll l).holds = s.holds := rfl

/-! ## takeMsg -/

@[simp] theorem takeMsg_mem (k : Nat) : (s.takeMsg k).mem = s.mem := rfl
@[simp] theorem takeMsg_lineKid (k : Nat) : (s.takeMsg k).lineKid = s.lineKid := rfl
@[simp] theorem takeMsg_lineOld (k : Nat) : (s.takeMsg k).lineOld = s.lineOld := rfl
@[simp] theorem takeMsg_poison (k : Nat) : (s.takeMsg k).poison = s.poison := rfl
@[simp] theorem takeMsg_l2 (k : Nat) : (s.takeMsg k).l2 = s.l2 := rfl
@[simp] theorem takeMsg_home (k : Nat) : (s.takeMsg k).home = s.home := rfl
@[simp] theorem takeMsg_perm (k : Nat) : (s.takeMsg k).perm = s.perm := rfl
@[simp] theorem takeMsg_hostDirty (k : Nat) : (s.takeMsg k).hostDirty = s.hostDirty := rfl
@[simp] theorem takeMsg_wants (k : Nat) : (s.takeMsg k).wants = s.wants := rfl
@[simp] theorem takeMsg_hostOut (k : Nat) : (s.takeMsg k).hostOut = s.hostOut := rfl
@[simp] theorem takeMsg_remoteOut (k : Nat) : (s.takeMsg k).remoteOut = s.remoteOut := rfl
@[simp] theorem takeMsg_h0 (k : Nat) : (s.takeMsg k).h0 = s.h0 := rfl
@[simp] theorem takeMsg_msgs (k : Nat) : (s.takeMsg k).msgs = dropAt s.msgs k := rfl
@[simp] theorem takeMsg_reqs (k : Nat) : (s.takeMsg k).reqs = s.reqs := rfl
@[simp] theorem takeMsg_ptab (k : Nat) : (s.takeMsg k).ptab = s.ptab := rfl
@[simp] theorem takeMsg_pseq (k : Nat) : (s.takeMsg k).pseq = s.pseq := rfl
@[simp] theorem takeMsg_acts (k : Nat) : (s.takeMsg k).acts = s.acts := rfl
@[simp] theorem takeMsg_pend (k : Nat) : (s.takeMsg k).pend = s.pend := rfl
@[simp] theorem takeMsg_hops (k : Nat) : (s.takeMsg k).hops = s.hops := rfl
@[simp] theorem takeMsg_homeq (k : Nat) : (s.takeMsg k).homeq = s.homeq := rfl
@[simp] theorem takeMsg_records (k : Nat) : (s.takeMsg k).records = s.records := rfl
@[simp] theorem takeMsg_appends (k : Nat) : (s.takeMsg k).appends = s.appends := rfl
@[simp] theorem takeMsg_seals (k : Nat) : (s.takeMsg k).seals = s.seals := rfl
@[simp] theorem takeMsg_replicas (k : Nat) : (s.takeMsg k).replicas = s.replicas := rfl
@[simp] theorem takeMsg_exports (k : Nat) : (s.takeMsg k).exports = s.exports := rfl
@[simp] theorem takeMsg_frees (k : Nat) : (s.takeMsg k).frees = s.frees := rfl
@[simp] theorem takeMsg_tlb (k : Nat) : (s.takeMsg k).tlb = s.tlb := rfl
@[simp] theorem takeMsg_wcache (k : Nat) : (s.takeMsg k).wcache = s.wcache := rfl
@[simp] theorem takeMsg_invals (k : Nat) : (s.takeMsg k).invals = s.invals := rfl
@[simp] theorem takeMsg_pins (k : Nat) : (s.takeMsg k).pins = s.pins := rfl
@[simp] theorem takeMsg_faults (k : Nat) : (s.takeMsg k).faults = s.faults := rfl
@[simp] theorem takeMsg_ranges (k : Nat) : (s.takeMsg k).ranges = s.ranges := rfl
@[simp] theorem takeMsg_rangeWait (k : Nat) : (s.takeMsg k).rangeWait = s.rangeWait := rfl
@[simp] theorem takeMsg_copies (k : Nat) : (s.takeMsg k).copies = s.copies := rfl
@[simp] theorem takeMsg_groups (k : Nat) : (s.takeMsg k).groups = s.groups := rfl
@[simp] theorem takeMsg_teams (k : Nat) : (s.takeMsg k).teams = s.teams := rfl
@[simp] theorem takeMsg_jobs (k : Nat) : (s.takeMsg k).jobs = s.jobs := rfl
@[simp] theorem takeMsg_sails (k : Nat) : (s.takeMsg k).sails = s.sails := rfl
@[simp] theorem takeMsg_reserved (k : Nat) : (s.takeMsg k).reserved = s.reserved := rfl
@[simp] theorem takeMsg_ibuf (k : Nat) : (s.takeMsg k).ibuf = s.ibuf := rfl
@[simp] theorem takeMsg_stale (k : Nat) : (s.takeMsg k).stale = s.stale := rfl
@[simp] theorem takeMsg_hints (k : Nat) : (s.takeMsg k).hints = s.hints := rfl
@[simp] theorem takeMsg_moves (k : Nat) : (s.takeMsg k).moves = s.moves := rfl
@[simp] theorem takeMsg_track (k : Nat) : (s.takeMsg k).track = s.track := rfl
@[simp] theorem takeMsg_frozen (k : Nat) : (s.takeMsg k).frozen = s.frozen := rfl
@[simp] theorem takeMsg_staged (k : Nat) : (s.takeMsg k).staged = s.staged := rfl
@[simp] theorem takeMsg_rings (k : Nat) : (s.takeMsg k).rings = s.rings := rfl
@[simp] theorem takeMsg_softErrs (k : Nat) : (s.takeMsg k).softErrs = s.softErrs := rfl
@[simp] theorem takeMsg_errcount (k : Nat) : (s.takeMsg k).errcount = s.errcount := rfl
@[simp] theorem takeMsg_errlog (k : Nat) : (s.takeMsg k).errlog = s.errlog := rfl
@[simp] theorem takeMsg_errTimes (k : Nat) : (s.takeMsg k).errTimes = s.errTimes := rfl
@[simp] theorem takeMsg_marked (k : Nat) : (s.takeMsg k).marked = s.marked := rfl
@[simp] theorem takeMsg_retired (k : Nat) : (s.takeMsg k).retired = s.retired := rfl
@[simp] theorem takeMsg_keys (k : Nat) : (s.takeMsg k).keys = s.keys := rfl
@[simp] theorem takeMsg_parts (k : Nat) : (s.takeMsg k).parts = s.parts := rfl
@[simp] theorem takeMsg_queues (k : Nat) : (s.takeMsg k).queues = s.queues := rfl
@[simp] theorem takeMsg_events (k : Nat) : (s.takeMsg k).events = s.events := rfl
@[simp] theorem takeMsg_threads (k : Nat) : (s.takeMsg k).threads = s.threads := rfl
@[simp] theorem takeMsg_imports (k : Nat) : (s.takeMsg k).imports = s.imports := rfl
@[simp] theorem takeMsg_decoders (k : Nat) : (s.takeMsg k).decoders = s.decoders := rfl
@[simp] theorem takeMsg_hdm (k : Nat) : (s.takeMsg k).hdm = s.hdm := rfl
@[simp] theorem takeMsg_boot (k : Nat) : (s.takeMsg k).boot = s.boot := rfl
@[simp] theorem takeMsg_timer (k : Nat) : (s.takeMsg k).timer = s.timer := rfl
@[simp] theorem takeMsg_free (k : Nat) : (s.takeMsg k).free = s.free := rfl
@[simp] theorem takeMsg_agenda (k : Nat) : (s.takeMsg k).agenda = s.agenda := rfl
@[simp] theorem takeMsg_turn (k : Nat) : (s.takeMsg k).turn = s.turn := rfl
@[simp] theorem takeMsg_lastSys (k : Nat) : (s.takeMsg k).lastSys = s.lastSys := rfl
@[simp] theorem takeMsg_lastCp (k : Nat) : (s.takeMsg k).lastCp = s.lastCp := rfl
@[simp] theorem takeMsg_cur (k : Nat) : (s.takeMsg k).cur = s.cur := rfl
@[simp] theorem takeMsg_holds (k : Nat) : (s.takeMsg k).holds = s.holds := rfl

/-! ## holdCur -/

@[simp] theorem holdCur_mem : (s.holdCur).mem = s.mem := rfl
@[simp] theorem holdCur_lineKid : (s.holdCur).lineKid = s.lineKid := rfl
@[simp] theorem holdCur_lineOld : (s.holdCur).lineOld = s.lineOld := rfl
@[simp] theorem holdCur_poison : (s.holdCur).poison = s.poison := rfl
@[simp] theorem holdCur_l2 : (s.holdCur).l2 = s.l2 := rfl
@[simp] theorem holdCur_home : (s.holdCur).home = s.home := rfl
@[simp] theorem holdCur_perm : (s.holdCur).perm = s.perm := rfl
@[simp] theorem holdCur_hostDirty : (s.holdCur).hostDirty = s.hostDirty := rfl
@[simp] theorem holdCur_wants : (s.holdCur).wants = s.wants := rfl
@[simp] theorem holdCur_hostOut : (s.holdCur).hostOut = s.hostOut := rfl
@[simp] theorem holdCur_remoteOut : (s.holdCur).remoteOut = s.remoteOut := rfl
@[simp] theorem holdCur_h0 : (s.holdCur).h0 = s.h0 := rfl
@[simp] theorem holdCur_msgs : (s.holdCur).msgs = s.msgs := rfl
@[simp] theorem holdCur_reqs : (s.holdCur).reqs = s.reqs := rfl
@[simp] theorem holdCur_ptab : (s.holdCur).ptab = s.ptab := rfl
@[simp] theorem holdCur_pseq : (s.holdCur).pseq = s.pseq := rfl
@[simp] theorem holdCur_acts : (s.holdCur).acts = s.acts := rfl
@[simp] theorem holdCur_pend : (s.holdCur).pend = s.pend := rfl
@[simp] theorem holdCur_hops : (s.holdCur).hops = s.hops := rfl
@[simp] theorem holdCur_homeq : (s.holdCur).homeq = s.homeq := rfl
@[simp] theorem holdCur_records : (s.holdCur).records = s.records := rfl
@[simp] theorem holdCur_appends : (s.holdCur).appends = s.appends := rfl
@[simp] theorem holdCur_seals : (s.holdCur).seals = s.seals := rfl
@[simp] theorem holdCur_replicas : (s.holdCur).replicas = s.replicas := rfl
@[simp] theorem holdCur_exports : (s.holdCur).exports = s.exports := rfl
@[simp] theorem holdCur_frees : (s.holdCur).frees = s.frees := rfl
@[simp] theorem holdCur_tlb : (s.holdCur).tlb = s.tlb := rfl
@[simp] theorem holdCur_wcache : (s.holdCur).wcache = s.wcache := rfl
@[simp] theorem holdCur_invals : (s.holdCur).invals = s.invals := rfl
@[simp] theorem holdCur_pins : (s.holdCur).pins = s.pins := rfl
@[simp] theorem holdCur_faults : (s.holdCur).faults = s.faults := rfl
@[simp] theorem holdCur_ranges : (s.holdCur).ranges = s.ranges := rfl
@[simp] theorem holdCur_rangeWait : (s.holdCur).rangeWait = s.rangeWait := rfl
@[simp] theorem holdCur_copies : (s.holdCur).copies = s.copies := rfl
@[simp] theorem holdCur_groups : (s.holdCur).groups = s.groups := rfl
@[simp] theorem holdCur_teams : (s.holdCur).teams = s.teams := rfl
@[simp] theorem holdCur_jobs : (s.holdCur).jobs = s.jobs := rfl
@[simp] theorem holdCur_sails : (s.holdCur).sails = s.sails := rfl
@[simp] theorem holdCur_reserved : (s.holdCur).reserved = s.reserved := rfl
@[simp] theorem holdCur_ibuf : (s.holdCur).ibuf = s.ibuf := rfl
@[simp] theorem holdCur_stale : (s.holdCur).stale = s.stale := rfl
@[simp] theorem holdCur_hints : (s.holdCur).hints = s.hints := rfl
@[simp] theorem holdCur_moves : (s.holdCur).moves = s.moves := rfl
@[simp] theorem holdCur_track : (s.holdCur).track = s.track := rfl
@[simp] theorem holdCur_frozen : (s.holdCur).frozen = s.frozen := rfl
@[simp] theorem holdCur_staged : (s.holdCur).staged = s.staged := rfl
@[simp] theorem holdCur_rings : (s.holdCur).rings = s.rings := rfl
@[simp] theorem holdCur_softErrs : (s.holdCur).softErrs = s.softErrs := rfl
@[simp] theorem holdCur_errcount : (s.holdCur).errcount = s.errcount := rfl
@[simp] theorem holdCur_errlog : (s.holdCur).errlog = s.errlog := rfl
@[simp] theorem holdCur_errTimes : (s.holdCur).errTimes = s.errTimes := rfl
@[simp] theorem holdCur_marked : (s.holdCur).marked = s.marked := rfl
@[simp] theorem holdCur_retired : (s.holdCur).retired = s.retired := rfl
@[simp] theorem holdCur_keys : (s.holdCur).keys = s.keys := rfl
@[simp] theorem holdCur_parts : (s.holdCur).parts = s.parts := rfl
@[simp] theorem holdCur_queues : (s.holdCur).queues = s.queues := rfl
@[simp] theorem holdCur_events : (s.holdCur).events = s.events := rfl
@[simp] theorem holdCur_threads : (s.holdCur).threads = s.threads := rfl
@[simp] theorem holdCur_imports : (s.holdCur).imports = s.imports := rfl
@[simp] theorem holdCur_decoders : (s.holdCur).decoders = s.decoders := rfl
@[simp] theorem holdCur_hdm : (s.holdCur).hdm = s.hdm := rfl
@[simp] theorem holdCur_boot : (s.holdCur).boot = s.boot := rfl
@[simp] theorem holdCur_timer : (s.holdCur).timer = s.timer := rfl
@[simp] theorem holdCur_free : (s.holdCur).free = s.free := rfl
@[simp] theorem holdCur_agenda : (s.holdCur).agenda = s.agenda := rfl
@[simp] theorem holdCur_turn : (s.holdCur).turn = s.turn := rfl
@[simp] theorem holdCur_lastSys : (s.holdCur).lastSys = s.lastSys := rfl
@[simp] theorem holdCur_lastCp : (s.holdCur).lastCp = s.lastCp := rfl
@[simp] theorem holdCur_cur : (s.holdCur).cur = s.cur := rfl
@[simp] theorem holdCur_holds : (s.holdCur).holds = (s.cur.grp, s.cur.lanes, s.cur.pc) :: s.holds := rfl

end Sys2Proof.Laws
end

