-- ==== Sys2Proof/Laws/Ops.lean ====
section
/-!
SUPPORT. What each shared operation can do, said once: which fields it leaves alone, and that it keeps memory's canonical form.
-/

namespace Sys2Proof.Laws

open Sys2Proof.Machine

/-! ## Traps and retirement -/

/-- Groups, jobs, event rings, the agenda and the free counter alone may differ. -/
def TrapFrame (s t : State) : Prop :=
  ∃ gs js es ag fr, t = { s with groups := gs, jobs := js, events := es, agenda := ag, free := fr }

theorem TrapFrame.trans {s t u : State} (h : TrapFrame s t) (k : TrapFrame t u) : TrapFrame s u := by
  obtain ⟨_, _, _, _, _, rfl⟩ := h
  obtain ⟨_, _, _, _, _, rfl⟩ := k
  exact ⟨_, _, _, _, _, rfl⟩

theorem setGroup_frame (s : State) (k : Nat) (g : Group) : TrapFrame s (s.setGroup k g) := ⟨_, _, _, _, _, rfl⟩
theorem setJob_frame (s : State) (k : Nat) (j : Job) : TrapFrame s (s.setJob k j) := ⟨_, _, _, _, _, rfl⟩
theorem spend_frame (s : State) : TrapFrame s s.spend := ⟨_, _, _, _, _, rfl⟩
theorem post_frame (s : State) (p r : Nat) (e : EvRec) : TrapFrame s (s.post p r e) := ⟨_, _, _, _, _, rfl⟩
theorem stopJob_frame (s : State) (j : Nat) (held : Bool) : TrapFrame s (s.stopJob j held) := ⟨_, _, _, _, _, rfl⟩
theorem postJob_frame (s : State) (j kind low team : Nat) (x y : DWord) : TrapFrame s (s.postJob j kind low team x y) := post_frame _ _ _ _
theorem trapStop_frame (s : State) (k n : Nat) : TrapFrame s (s.trapStop k n) := (stopJob_frame s _ _).trans (postJob_frame _ _ _ _ _ _ _)
theorem debugStop_frame (s : State) (k : Nat) : TrapFrame s (s.debugStop k) :=
  ((((stopJob_frame s _ _).trans (postJob_frame _ _ _ _ _ _ _)).trans (setGroup_frame _ _ _)).trans (spend_frame _)).trans (spend_frame _)

/-- A trap touches groups, jobs, event rings, the agenda and the free counter alone (R271 to R273, R291). -/
theorem takeTrap_frame (s : State) (k : Nat) (lanes : DWord) (pc : VAddr) (len : Nat) (t : Trap) :
    TrapFrame s (s.takeTrap k lanes pc len t) := by
  unfold State.takeTrap
  dsimp only
  split
  · exact (setGroup_frame _ _ _).trans (debugStop_frame _ _)
  · split
    · exact (setGroup_frame _ _ _).trans (trapStop_frame _ _ _)
    · split
      · exact (setGroup_frame _ _ _).trans (trapStop_frame _ _ _)
      · exact setGroup_frame _ _ _

@[simp] theorem takeTrap_mem (s : State) (k : Nat) (lanes : DWord) (pc : VAddr) (len : Nat) (t : Trap) :
    (s.takeTrap k lanes pc len t).mem = s.mem := by
  obtain ⟨_, _, _, _, _, h⟩ := takeTrap_frame s k lanes pc len t
  rw [h]

/-- An instruction that traps touches those alone. -/
theorem trapIssue_frame (s : State) (k : Nat) (lanes act : DWord) (pc : VAddr) (len : Nat) (t : Trap) :
    TrapFrame s (s.trapIssue k lanes act pc len t) := (takeTrap_frame s k lanes pc len t).trans (setGroup_frame _ _ _)

@[simp] theorem trapCur_mem (s : State) (t : Trap) : (s.trapCur t).mem = s.mem := by
  obtain ⟨_, _, _, _, _, h⟩ := trapIssue_frame s s.cur.grp s.cur.lanes s.cur.act s.cur.pc s.cur.len t
  rw [State.trapCur, h]

/-- Retiring an instruction changes its group alone. -/
theorem stateRetire_rest (s : State) (act : DWord) (t : State) : s.retire act t = { t with groups := (s.retire act t).groups } := rfl

@[simp] theorem stateRetire_mem (s : State) (act : DWord) (t : State) : (s.retire act t).mem = t.mem := rfl

@[simp] theorem advance_mem (s : State) : s.advance.mem = s.mem := rfl

/-- The outcome of a meaning leaves memory as the meaning's own state has it; a trap and a hold leave it as it was. -/
theorem run_mem (s t : State) (a : Act) (h : a.run s = .next t) :
    t.mem = match a with | .done _ u => u.mem | .trap _ => s.mem | .hold => s.mem | .wait u => u.mem := by
  cases a <;> (simp only [Act.run, Host.Outcome.next.injEq] at h; subst h; simp)

/-- A meaning that only acts on registers never changes memory. -/
theorem regAct_mem (s t : State) (act : DWord) (r : Except Trap Group) (h : (regAct s act r).run s = .next t) : t.mem = s.mem := by
  have := run_mem s t _ h
  cases r <;> simpa [regAct] using this

theorem finish_mem (s t : State) (act : DWord) (g : Group) (h : s.finish act g = .next t) : t.mem = s.mem := by
  have := run_mem s t _ h
  simpa using this

/-! ## Memory keeps its form -/

theorem memWf_of_mem {s t : State} (h : t.mem = s.mem) (hs : s.memWf) : t.memWf := by
  simpa [State.memWf, h] using hs

theorem memPut_wf (s : State) (kid : BitVec 6) (pa : Nat) (bs : List Byte) (h : s.memWf) : (s.memPut kid pa bs).memWf := by
  simp only [State.memWf, State.memPut] at *
  split
  · exact wf_writeN _ _ _ (wf_writeN _ _ _ h)
  · exact wf_writeN _ _ _ h

theorem memPutLine_wf (s : State) (kid : BitVec 6) (la : Nat) (d : BitVec 1024) (pz : Bool) (h : s.memWf) :
    (s.memPutLine kid la d pz).memWf := memPut_wf s kid (la * 128) (lineBytes d) h

@[simp] theorem homeWrite_mem (s : State) (la : Nat) : (s.homeWrite la).mem = s.mem := by
  unfold State.homeWrite
  dsimp only
  split
  · split
    · split <;> rfl
    · rfl
  · split <;> rfl

theorem homeStore_wf (s : State) (kid : BitVec 6) (la : Nat) (d : BitVec 1024) (pz : Bool) (h : s.memWf) :
    (s.homeStore kid la d pz).memWf := memPutLine_wf _ kid la d pz (memWf_of_mem (homeWrite_mem s la) h)

theorem homePut_wf (s : State) (kid : BitVec 6) (pa : Nat) (bs : List Byte) (h : s.memWf) : (s.homePut kid pa bs).memWf := by
  have := memPut_wf _ kid pa bs (memWf_of_mem (homeWrite_mem s (pa / 128)) h)
  unfold State.homePut
  dsimp only
  split <;> exact this

theorem foldl_wf {α : Type} (f : State → α → State) (hf : ∀ s a, s.memWf → (f s a).memWf) (l : List α) :
    ∀ s : State, s.memWf → (l.foldl f s).memWf := by
  induction l with
  | nil => exact fun s h => h
  | cons a l ih => exact fun s h => ih _ (hf s a h)

theorem storeOwner_wf (s : State) (la : Nat) (h : s.memWf) : (s.storeOwner la).memWf := by
  unfold State.storeOwner
  split
  · split
    · exact homeStore_wf _ _ _ _ _ h
    · exact h
  · exact h

theorem recall_wf (s : State) (la : Nat) (h : s.memWf) : (s.recall la).memWf := by
  unfold State.recall
  split
  · exact h
  · refine foldl_wf _ (fun v d hv => ?_) _ _ ?_
    · split
      · exact hv
      · exact memWf_of_mem (by rw [setL2_mem]) hv
    · exact memWf_of_mem (s := s.storeOwner la) rfl (storeOwner_wf s la h)

theorem poke_wf (s : State) (kid : BitVec 6) (pa : Nat) (bs : List Byte) (h : s.memWf) : (s.poke kid pa bs).memWf := by
  have := homePut_wf _ kid pa bs (recall_wf s (pa / 128) h)
  unfold State.poke
  dsimp only
  split <;> exact this

/-- A write of a range of lines keeps memory's form. -/
theorem storeRange_wf (s : State) (kid : BitVec 6) (a : Nat) (bs : List Byte) (h : s.memWf) : (s.storeRange kid a bs).memWf := by
  have ht : ∀ (l : List Nat), ((l.foldl (fun (t : State) i => (t.recall (a / 128 + i)).homeWrite (a / 128 + i)) s)).memWf :=
    fun l => foldl_wf _ (fun t i ht => memWf_of_mem (homeWrite_mem _ _) (recall_wf t _ ht)) l s h
  unfold State.storeRange
  dsimp only
  split
  · exact wf_put _ _ _ (ht _)
  · split
    · exact wf_put _ _ _ (ht _)
    · exact foldl_wf _ (fun t i h => homePut_wf t _ _ _ h) _ _ (ht _)

theorem performHop_wf (s : State) (m : Msg) (h : s.memWf) : (s.performHop m).memWf := by
  unfold State.performHop
  split
  · exact h
  · dsimp only
    split
    · exact memWf_of_mem (s := s) rfl h
    · exact memWf_of_mem rfl (homePut_wf s _ _ _ h)

theorem runHops_wf (s : State) (la : Nat) (h : s.memWf) : (s.runHops la).memWf := by
  unfold State.runHops
  split
  · exact foldl_wf _ (fun s m hs => performHop_wf s m hs) _ _ h
  · exact h

theorem loseKey_wf (s : State) (slot : BitVec 6) (h : s.memWf) : (s.loseKey slot).memWf := memWf_of_mem rfl h

/-- Memory at reset lists nothing. -/
theorem reset_memWf : State.reset.memWf := rfl

/-! ## Where a write of memory lands -/

/-- A write at the home of bytes under the key that a line has, or of a line under no key, changes no other byte. -/
theorem memPut_read_ne (s : State) (kid : BitVec 6) (pa a : Nat) (bs : List Byte)
    (hk : keyed pa = false ∨ (getD 0 s.lineKid (pa / 128) = kid ∧ lookup s.lineOld (pa / 128) = none)) (h : a < pa ∨ pa + bs.length ≤ a) :
    Memory.read (s.memPut kid pa bs).mem a = Memory.read s.mem a := by
  have hc : (keyed pa && (getD 0 s.lineKid (pa / 128) != kid || (lookup s.lineOld (pa / 128)).isSome)) = false := by
    rcases hk with hk | ⟨hk, ho⟩
    · simp [hk]
    · simp [← hk, ho]
  simp only [State.memPut, hc, Bool.false_eq_true, if_false]
  exact read_writeN_ne _ _ h

/-- The bytes written are read back. -/
theorem memPut_read_at (s : State) (kid : BitVec 6) (pa i : Nat) (bs : List Byte) (h : i < bs.length) :
    Memory.read (s.memPut kid pa bs).mem (pa + i) = bs.getD i 0 := by
  simp only [State.memPut]
  exact read_writeN_at _ _ _ _ h

/-! ## Ranges of bytes -/

theorem rangeBytes_length (s : State) (kid : BitVec 6) (a n : Nat) : (s.rangeBytes kid a n).length = n := by
  unfold State.rangeBytes
  split
  · exact slice_length _ _ _
  · simp

/-- A unit's entry has its head and the bytes of its sectors. -/
theorem unitEntry_length (s : State) (r : Record) (u n : Nat) : (unitEntry (n, s.unitBytes r u)).length = 65552 := by
  have h : (s.unitBytes r u).length = 65536 := by
    have e : ∀ (f : Nat → List Byte), (∀ i, (f i).length = 256) → ∀ l : List Nat, (l.flatMap f).length = 256 * l.length := fun f hf l => by
      induction l with
      | nil => rfl
      | cons x l ih => simp only [List.flatMap_cons, List.length_append, hf, ih, List.length_cons]; omega
    rw [State.unitBytes, e _ (fun i => by simp only; split <;> simp [rangeBytes_length]), List.length_range]
  simp [unitEntry, zeros, toBytes, h]

end Sys2Proof.Laws
end

