-- ==== Sys2Proof/Laws/PerInstr.lean ====
section
/-!
SUPPORT. A family of facts about every instruction: its encoding has no bit beyond the length that its first word tells (R164, R165).
-/

namespace Sys2Proof.Laws

open Sys2Proof

/-- No bit above the length that bits [1:0] give. -/
def Fits (w : IWord) : Prop := w.toNat < 2 ^ (8 * lenOf w)

theorem low2_append {n m : Nat} (x : BitVec n) (y : BitVec m) (h : 2 ≤ m) : (x ++ y).extractLsb' 0 2 = y.extractLsb' 0 2 := by
  ext i hi
  simp [BitVec.getElem_extractLsb', BitVec.getLsbD_append, show i < m by omega]

theorem zero_append_lt {n m : Nat} (y : BitVec m) : ((0 : BitVec n) ++ y).toNat < 2 ^ m := by
  simp
  exact y.isLt

theorem fits_short {w : IWord} (h : w.extractLsb' 0 2 = 0) (hw : w.toNat < 2 ^ 32) : Fits w := by simpa [Fits, lenOf, h] using hw
theorem fits_custom {w : IWord} (h : w.extractLsb' 0 2 = 3) (hw : w.toNat < 2 ^ 32) : Fits w := by simpa [Fits, lenOf, h] using hw
theorem fits_long {w : IWord} (h : w.extractLsb' 0 2 = 1) (hw : w.toNat < 2 ^ 64) : Fits w := by simpa [Fits, lenOf, h] using hw
theorem fits_wide {w : IWord} (h : w.extractLsb' 0 2 = 2) : Fits w := by
  simp only [Fits, lenOf, h]
  exact w.isLt

/-! ## The formats -/

@[simp] theorem fits_lq (op : BitVec 7) (r : LQ) : Fits (LQ.word op r) := by
  rcases r with ⟨lit, c, b, a, d, gn, gp, rm, ty⟩
  cases lit with
  | none => exact fits_long (by simp (disch := omega) only [LQ.word, low2_append]; rfl) (zero_append_lt _)
  | some x => exact fits_wide (by simp (disch := omega) only [LQ.word, low2_append]; rfl)
@[simp] theorem fits_lr (op : BitVec 7) (r : LR) : Fits (LR.word op r) := by
  rcases r with ⟨lit, md, fn, b, a, d, gn, gp, rm, ty⟩
  cases lit with
  | none => exact fits_long (by simp (disch := omega) only [LR.word, low2_append]; rfl) (zero_append_lt _)
  | some x => exact fits_wide (by simp (disch := omega) only [LR.word, low2_append]; rfl)
@[simp] theorem fits_li (op : BitVec 7) (r : LI) : Fits (LI.word op r) := by
  rcases r with ⟨lit, fn, imm, a, d, gn, gp, rm, ty⟩
  cases lit with
  | none => exact fits_long (by simp (disch := omega) only [LI.word, low2_append]; rfl) (zero_append_lt _)
  | some x => exact fits_wide (by simp (disch := omega) only [LI.word, low2_append]; rfl)
@[simp] theorem fits_lm (op : BitVec 7) (r : LM) : Fits (LM.word op r) := by
  rcases r with ⟨lit, off, fn4, am, x, base, d, gn, gp, ord, wd⟩
  cases lit with
  | none => exact fits_long (by simp (disch := omega) only [LM.word, low2_append]; rfl) (zero_append_lt _)
  | some x => exact fits_wide (by simp (disch := omega) only [LM.word, low2_append]; rfl)
@[simp] theorem fits_lb (op : BitVec 7) (r : LB) : Fits (LB.word op r) :=
  fits_long (by simp (disch := omega) only [LB.word, low2_append]; rfl) (zero_append_lt _)
@[simp] theorem fits_sr (op : BitVec 7) (r : SR) : Fits (SR.word op r) :=
  fits_short (by simp (disch := omega) only [SR.word, low2_append]; rfl) (zero_append_lt _)
@[simp] theorem fits_si (op : BitVec 7) (r : SI) : Fits (SI.word op r) :=
  fits_short (by simp (disch := omega) only [SI.word, low2_append]; rfl) (zero_append_lt _)
@[simp] theorem fits_sb (op : BitVec 7) (r : SB) : Fits (SB.word op r) :=
  fits_short (by simp (disch := omega) only [SB.word, low2_append]; rfl) (zero_append_lt _)
@[simp] theorem fits_cw (f : BitVec 3) (d a b : BitVec 5) : Fits (customWord f d a b) :=
  fits_custom (by simp (disch := omega) only [customWord, low2_append]; rfl) (zero_append_lt _)

/-! ## The operand shapes -/

@[simp] theorem fits_lr1 (op : BitVec 7) (fn : BitVec 6) (g : Guard) (ty : BitVec 3) (d a b : BitVec 11) : Fits (lr op fn g ty d a b) := fits_lr _ _
@[simp] theorem fits_lr0 (op : BitVec 7) (fn : BitVec 6) (d a b : BitVec 11) : Fits (lr0 op fn d a b) := fits_lr _ _
@[simp] theorem fits_li1 (op : BitVec 7) (fn : BitVec 6) (g : Guard) (ty : BitVec 3) (d a : BitVec 11) (i : Imm) : Fits (li op fn g ty d a i) := by
  cases i <;> exact fits_li _ _
@[simp] theorem fits_src (op : BitVec 7) (fn : BitVec 5) (g : Guard) (rm ty : BitVec 3) (d a : BitVec 11) (b : VSrc) :
    Fits (srcWord op fn g rm ty d a b) := by
  cases b <;> simp [srcWord]
@[simp] theorem fits_lq1 (op : BitVec 7) (g : Guard) (rm ty : BitVec 3) (d a : BitVec 11) (b : VLit) (c : BitVec 11) :
    Fits (lqWord op g rm ty d a b c) := by
  cases b <;> exact fits_lq _ _
@[simp] theorem fits_uni (op : BitVec 7) (fn : BitVec 6) (g : Guard) (ty : BitVec 3) (d a : BitVec 11) (b : USrc) :
    Fits (uniWord op fn g ty d a b) := by
  cases b <;> exact fits_lr _ _
@[simp] theorem fits_bc (g : Guard) (ty : BitVec 3) (d a : BitVec 11) (b : BcSrc) : Fits (bcWord g ty d a b) := by
  cases b <;> simp [bcWord]
@[simp] theorem fits_rand (fn : BitVec 6) (g : Guard) (d : BitVec 11) (a : RandSrc) : Fits (randWord fn g d a) := by
  cases a <;> exact fits_lr _ _

/-- Of an instruction: its encoding, if it has one, has no bit beyond its length. -/
def Words.Statement (i : Instr) : Prop := ∀ w, encode i = some w → Fits w

theorem fits_some {i : Instr} {w : IWord} (h : encode i = some w) (hw : Fits w) : Words.Statement i := by
  intro v hv
  rw [h] at hv
  exact Option.some.inj hv ▸ hw
theorem fits_none {i : Instr} (h : encode i = none) : Words.Statement i := by
  intro v hv
  rw [h] at hv
  cases hv

/-! ## Every instruction -/

theorem Words.nop : Words.Statement (.nop) := fits_some rfl (fits_sr _ _)
theorem Words.braSb (disp : BitVec 23) : Words.Statement (.braSb disp) := fits_some rfl (fits_sb _ _)
theorem Words.bra (disp : BitVec 33) : Words.Statement (.bra disp) := fits_some rfl (fits_lb _ _)
theorem Words.brc (a : BitVec 7) (disp : BitVec 33) : Words.Statement (.brc a disp) := fits_some rfl (fits_lb _ _)
theorem Words.brcZ (a : BitVec 7) (disp : BitVec 33) : Words.Statement (.brcZ a disp) := fits_some rfl (fits_lb _ _)
theorem Words.brcLt (a : BitVec 7) (disp : BitVec 33) : Words.Statement (.brcLt a disp) := fits_some rfl (fits_lb _ _)
theorem Words.brcGe (a : BitVec 7) (disp : BitVec 33) : Words.Statement (.brcGe a disp) := fits_some rfl (fits_lb _ _)
theorem Words.brx (g : Guard) (disp : BitVec 33) : Words.Statement (.brx g disp) := fits_some rfl (fits_lb _ _)
theorem Words.jset (g : Guard) (d : BitVec 3) : Words.Statement (.jset g d) := fits_some rfl (fits_lr1 _ _ _ _ _ _ _)
theorem Words.jsetSc (d : BitVec 3) (a : BitVec 7) : Words.Statement (.jsetSc d a) := fits_some rfl (fits_lr0 _ _ _ _ _)
theorem Words.join (a : BitVec 3) (disp : BitVec 33) : Words.Statement (.join a disp) := fits_some rfl (fits_lb _ _)
theorem Words.callSb (disp : BitVec 23) : Words.Statement (.callSb disp) := fits_some rfl (fits_sb _ _)
theorem Words.call (g : Guard) (a : BitVec 11) (disp : BitVec 33) : Words.Statement (.call g a disp) := fits_some rfl (fits_lb _ _)
theorem Words.callStub (g : Guard) (a : BitVec 11) (n : BitVec 33) : Words.Statement (.callStub g a n) := fits_some rfl (fits_lb _ _)
theorem Words.callx (g : Guard) (d a : BitVec 11) : Words.Statement (.callx g d a) := fits_some rfl (fits_lr1 _ _ _ _ _ _ _)
theorem Words.retSr (a : BitVec 7) : Words.Statement (.retSr a) := fits_some rfl (fits_sr _ _)
theorem Words.ret (g : Guard) (a : BitVec 11) : Words.Statement (.ret g a) := fits_some rfl (fits_lr1 _ _ _ _ _ _ _)
theorem Words.exitSr : Words.Statement (.exitSr) := fits_some rfl (fits_sr _ _)
theorem Words.exit (g : Guard) : Words.Statement (.exit g) := fits_some rfl (fits_lr1 _ _ _ _ _ _ _)
theorem Words.exitchain (g : Guard) (a : BitVec 7) (b : SLit) : Words.Statement (.exitchain g a b) := fits_some rfl (fits_src _ _ _ _ _ _ _ _)
theorem Words.yield : Words.Statement (.yield) := fits_some rfl (fits_sr _ _)
theorem Words.xmrd (d : BitVec 7) : Words.Statement (.xmrd d) := fits_some rfl (fits_lr0 _ _ _ _ _)
theorem Words.xmwr (a : BitVec 7) : Words.Statement (.xmwr a) := fits_some rfl (fits_lr0 _ _ _ _ _)
theorem Words.saddSr (sat : Bool) (r : SR3) : Words.Statement (.saddSr sat r) := fits_some rfl (fits_sr _ _)
theorem Words.saddSi (sat : Bool) (d : BitVec 7) (imm : BitVec 14) : Words.Statement (.saddSi sat d imm) := fits_some rfl (fits_si _ _)
theorem Words.sadd (sat : Bool) (x : SBin) : Words.Statement (.sadd sat x) := fits_some rfl (fits_src _ _ _ _ _ _ _ _)
theorem Words.ssubSr (sat : Bool) (r : SR3) : Words.Statement (.ssubSr sat r) := fits_some rfl (fits_sr _ _)
theorem Words.ssub (sat : Bool) (x : SBin) : Words.Statement (.ssub sat x) := fits_some rfl (fits_src _ _ _ _ _ _ _ _)
theorem Words.smulSr (sat : Bool) (r : SR3) : Words.Statement (.smulSr sat r) := fits_some rfl (fits_sr _ _)
theorem Words.smul (sat : Bool) (x : SBin) : Words.Statement (.smul sat x) := fits_some rfl (fits_src _ _ _ _ _ _ _ _)
theorem Words.sdiv (sat : Bool) (x : SBin) : Words.Statement (.sdiv sat x) := fits_some rfl (fits_src _ _ _ _ _ _ _ _)
theorem Words.sandSr (r : SR3) : Words.Statement (.sandSr r) := fits_some rfl (fits_sr _ _)
theorem Words.sorSr (r : SR3) : Words.Statement (.sorSr r) := fits_some rfl (fits_sr _ _)
theorem Words.sxorSr (r : SR3) : Words.Statement (.sxorSr r) := fits_some rfl (fits_sr _ _)
theorem Words.sandnSr (r : SR3) : Words.Statement (.sandnSr r) := fits_some rfl (fits_sr _ _)
theorem Words.sand (x : SBin) : Words.Statement (.sand x) := fits_some rfl (fits_src _ _ _ _ _ _ _ _)
theorem Words.sor (x : SBin) : Words.Statement (.sor x) := fits_some rfl (fits_src _ _ _ _ _ _ _ _)
theorem Words.sxor (x : SBin) : Words.Statement (.sxor x) := fits_some rfl (fits_src _ _ _ _ _ _ _ _)
theorem Words.sandn (x : SBin) : Words.Statement (.sandn x) := fits_some rfl (fits_src _ _ _ _ _ _ _ _)
theorem Words.sshlSr (r : SR3) : Words.Statement (.sshlSr r) := fits_some rfl (fits_sr _ _)
theorem Words.sshrSr (r : SR3) : Words.Statement (.sshrSr r) := fits_some rfl (fits_sr _ _)
theorem Words.ssraSr (r : SR3) : Words.Statement (.ssraSr r) := fits_some rfl (fits_sr _ _)
theorem Words.srotSr (r : SR3) : Words.Statement (.srotSr r) := fits_some rfl (fits_sr _ _)
theorem Words.sshl (x : SBin) : Words.Statement (.sshl x) := fits_some rfl (fits_src _ _ _ _ _ _ _ _)
theorem Words.sshr (x : SBin) : Words.Statement (.sshr x) := fits_some rfl (fits_src _ _ _ _ _ _ _ _)
theorem Words.ssra (x : SBin) : Words.Statement (.ssra x) := fits_some rfl (fits_src _ _ _ _ _ _ _ _)
theorem Words.srot (x : SBin) : Words.Statement (.srot x) := fits_some rfl (fits_src _ _ _ _ _ _ _ _)
theorem Words.smin (x : SBin) : Words.Statement (.smin x) := fits_some rfl (fits_src _ _ _ _ _ _ _ _)
theorem Words.smax (x : SBin) : Words.Statement (.smax x) := fits_some rfl (fits_src _ _ _ _ _ _ _ _)
theorem Words.scmp (x : SBin) : Words.Statement (.scmp x) := fits_some rfl (fits_src _ _ _ _ _ _ _ _)
theorem Words.scmpRel (r : Rel) (x : SBin) : Words.Statement (.scmpRel r x) := fits_some rfl (fits_src _ _ _ _ _ _ _ _)
theorem Words.ssel (d a : BitVec 7) (b : SLit) (c : BitVec 7) : Words.Statement (.ssel d a b c) := fits_some rfl (fits_lq1 _ _ _ _ _ _ _ _)
theorem Words.slea (d a : BitVec 7) (i : Imm) : Words.Statement (.slea d a i) := fits_some rfl (fits_li1 _ _ _ _ _ _ _)
theorem Words.sliSi (d : BitVec 7) (imm : BitVec 16) : Words.Statement (.sliSi d imm) := fits_some rfl (fits_si _ _)
theorem Words.sli (d a : BitVec 7) (i : Imm) : Words.Statement (.sli d a i) := fits_some rfl (fits_li1 _ _ _ _ _ _ _)
theorem Words.sliW (d a : BitVec 7) (i : Imm) : Words.Statement (.sliW d a i) := fits_some rfl (fits_li1 _ _ _ _ _ _ _)
theorem Words.smovSr (d a : BitVec 7) : Words.Statement (.smovSr d a) := fits_some rfl (fits_sr _ _)
theorem Words.smov (ty : STy) (d : BitVec 7) (x : SMov) : Words.Statement (.smov ty d x) := by
  cases x
  · exact fits_some rfl (fits_lr1 _ _ _ _ _ _ _)
  · exact fits_some rfl (fits_li1 _ _ _ _ _ _ _)
theorem Words.sbit (x : SUn) : Words.Statement (.sbit x) := fits_some rfl (fits_lr1 _ _ _ _ _ _ _)
theorem Words.sbitClz (x : SUn) : Words.Statement (.sbitClz x) := fits_some rfl (fits_lr1 _ _ _ _ _ _ _)
theorem Words.sbitCtz (x : SUn) : Words.Statement (.sbitCtz x) := fits_some rfl (fits_lr1 _ _ _ _ _ _ _)
theorem Words.sbitRev (x : SUn) : Words.Statement (.sbitRev x) := fits_some rfl (fits_lr1 _ _ _ _ _ _ _)
theorem Words.sbfx (x : SBin) : Words.Statement (.sbfx x) := fits_some rfl (fits_src _ _ _ _ _ _ _ _)
theorem Words.sbfxIns (x : SBin) : Words.Statement (.sbfxIns x) := fits_some rfl (fits_src _ _ _ _ _ _ _ _)
theorem Words.pand (x : P3) : Words.Statement (.pand x) := fits_some rfl (fits_lr1 _ _ _ _ _ _ _)
theorem Words.por (x : P3) : Words.Statement (.por x) := fits_some rfl (fits_lr1 _ _ _ _ _ _ _)
theorem Words.pxor (x : P3) : Words.Statement (.pxor x) := fits_some rfl (fits_lr1 _ _ _ _ _ _ _)
theorem Words.pnot (g : Guard) (d a : BitVec 4) : Words.Statement (.pnot g d a) := fits_some rfl (fits_lr1 _ _ _ _ _ _ _)
theorem Words.pmov (g : Guard) (d a : BitVec 4) : Words.Statement (.pmov g d a) := fits_some rfl (fits_lr1 _ _ _ _ _ _ _)
theorem Words.pmovS2p (g : Guard) (d : BitVec 4) (a : BitVec 7) : Words.Statement (.pmovS2p g d a) := fits_some rfl (fits_lr1 _ _ _ _ _ _ _)
theorem Words.pmovP2s (g : Guard) (d : BitVec 7) (a : BitVec 4) : Words.Statement (.pmovP2s g d a) := fits_some rfl (fits_lr1 _ _ _ _ _ _ _)
theorem Words.pmovImm (g : Guard) (d : BitVec 4) (i : Imm) : Words.Statement (.pmovImm g d i) := fits_some rfl (fits_li1 _ _ _ _ _ _ _)
theorem Words.vaddSr (sat : Bool) (r : SR3) : Words.Statement (.vaddSr sat r) := fits_some rfl (fits_sr _ _)
theorem Words.vadd (sat : Bool) (x : VBin) : Words.Statement (.vadd sat x) := fits_some rfl (fits_src _ _ _ _ _ _ _ _)
theorem Words.vsubSr (sat : Bool) (r : SR3) : Words.Statement (.vsubSr sat r) := fits_some rfl (fits_sr _ _)
theorem Words.vsub (sat : Bool) (x : VBin) : Words.Statement (.vsub sat x) := fits_some rfl (fits_src _ _ _ _ _ _ _ _)
theorem Words.vmulSr (fn : BitVec 2) (r : SR3) : Words.Statement (.vmulSr fn r) := fits_some rfl (fits_sr _ _)
theorem Words.vmul (sat : Bool) (x : VBin) : Words.Statement (.vmul sat x) := fits_some rfl (fits_src _ _ _ _ _ _ _ _)
theorem Words.vmulHi (x : VBin) : Words.Statement (.vmulHi x) := fits_some rfl (fits_src _ _ _ _ _ _ _ _)
theorem Words.vmad (x : VTri) : Words.Statement (.vmad x) := fits_some rfl (fits_lq1 _ _ _ _ _ _ _ _)
theorem Words.vdiv (x : VBin) : Words.Statement (.vdiv x) := fits_some rfl (fits_src _ _ _ _ _ _ _ _)
theorem Words.vdivRem (x : VBin) : Words.Statement (.vdivRem x) := fits_some rfl (fits_src _ _ _ _ _ _ _ _)
theorem Words.vmin (x : VBin) : Words.Statement (.vmin x) := fits_some rfl (fits_src _ _ _ _ _ _ _ _)
theorem Words.vmax (x : VBin) : Words.Statement (.vmax x) := fits_some rfl (fits_src _ _ _ _ _ _ _ _)
theorem Words.vabs (x : VUn) : Words.Statement (.vabs x) := fits_some rfl (fits_lr1 _ _ _ _ _ _ _)
theorem Words.vneg (x : VUn) : Words.Statement (.vneg x) := fits_some rfl (fits_lr1 _ _ _ _ _ _ _)
theorem Words.vandSr (r : SR3) : Words.Statement (.vandSr r) := fits_some rfl (fits_sr _ _)
theorem Words.vand (x : BBin) : Words.Statement (.vand x) := fits_some rfl (fits_src _ _ _ _ _ _ _ _)
theorem Words.vorSr (r : SR3) : Words.Statement (.vorSr r) := fits_some rfl (fits_sr _ _)
theorem Words.vor (x : BBin) : Words.Statement (.vor x) := fits_some rfl (fits_src _ _ _ _ _ _ _ _)
theorem Words.vxorSr (r : SR3) : Words.Statement (.vxorSr r) := fits_some rfl (fits_sr _ _)
theorem Words.vxor (x : BBin) : Words.Statement (.vxor x) := fits_some rfl (fits_src _ _ _ _ _ _ _ _)
theorem Words.vnot (x : BUn) : Words.Statement (.vnot x) := fits_some rfl (fits_lr1 _ _ _ _ _ _ _)
theorem Words.vandn (x : BBin) : Words.Statement (.vandn x) := fits_some rfl (fits_src _ _ _ _ _ _ _ _)
theorem Words.vshlSr (r : SR3) : Words.Statement (.vshlSr r) := fits_some rfl (fits_sr _ _)
theorem Words.vshl (x : VBin) : Words.Statement (.vshl x) := fits_some rfl (fits_src _ _ _ _ _ _ _ _)
theorem Words.vshrSr (r : SR3) : Words.Statement (.vshrSr r) := fits_some rfl (fits_sr _ _)
theorem Words.vshr (x : VBin) : Words.Statement (.vshr x) := fits_some rfl (fits_src _ _ _ _ _ _ _ _)
theorem Words.vrot (x : VBin) : Words.Statement (.vrot x) := fits_some rfl (fits_src _ _ _ _ _ _ _ _)
theorem Words.vbit (x : VUn) : Words.Statement (.vbit x) := fits_some rfl (fits_lr1 _ _ _ _ _ _ _)
theorem Words.vbitClz (x : VUn) : Words.Statement (.vbitClz x) := fits_some rfl (fits_lr1 _ _ _ _ _ _ _)
theorem Words.vbitCtz (x : VUn) : Words.Statement (.vbitCtz x) := fits_some rfl (fits_lr1 _ _ _ _ _ _ _)
theorem Words.vbitRev (x : VUn) : Words.Statement (.vbitRev x) := fits_some rfl (fits_lr1 _ _ _ _ _ _ _)
theorem Words.vbfx (x : VBin) : Words.Statement (.vbfx x) := fits_some rfl (fits_src _ _ _ _ _ _ _ _)
theorem Words.vbfxIns (x : VBin) : Words.Statement (.vbfxIns x) := fits_some rfl (fits_src _ _ _ _ _ _ _ _)
theorem Words.vsel (g : Guard) (ty : BTy) (d a : BitVec 11) (b : VLit) (c : BitVec 4) : Words.Statement (.vsel g ty d a b c) := fits_some rfl (fits_lq1 _ _ _ _ _ _ _ _)
theorem Words.vcmp (r : Rel) (x : VCmp) : Words.Statement (.vcmp r x) := fits_some rfl (fits_src _ _ _ _ _ _ _ _)
theorem Words.vmovSr (d a : BitVec 7) : Words.Statement (.vmovSr d a) := fits_some rfl (fits_sr _ _)
theorem Words.vmov (g : Guard) (ty : BTy) (d : BitVec 11) (x : VMov) : Words.Statement (.vmov g ty d x) := by
  cases x
  · exact fits_some rfl (fits_lr1 _ _ _ _ _ _ _)
  · exact fits_some rfl (fits_li1 _ _ _ _ _ _ _)
theorem Words.vmovS2v (g : Guard) (ty : BTy) (d : BitVec 11) (a : BitVec 7) : Words.Statement (.vmovS2v g ty d a) := fits_some rfl (fits_lr1 _ _ _ _ _ _ _)
theorem Words.vdot (x : VTri) : Words.Statement (.vdot x) := fits_some rfl (fits_lq1 _ _ _ _ _ _ _ _)
theorem Words.vfaddSr (r : SR3) : Words.Statement (.vfaddSr r) := fits_some rfl (fits_sr _ _)
theorem Words.vfadd (x : FBin) : Words.Statement (.vfadd x) := fits_some rfl (fits_src _ _ _ _ _ _ _ _)
theorem Words.vfsubSr (r : SR3) : Words.Statement (.vfsubSr r) := fits_some rfl (fits_sr _ _)
theorem Words.vfsub (x : FBin) : Words.Statement (.vfsub x) := fits_some rfl (fits_src _ _ _ _ _ _ _ _)
theorem Words.vfmulSr (r : SR3) : Words.Statement (.vfmulSr r) := fits_some rfl (fits_sr _ _)
theorem Words.vfmul (x : FBin) : Words.Statement (.vfmul x) := fits_some rfl (fits_src _ _ _ _ _ _ _ _)
theorem Words.vfma (x : FTri) : Words.Statement (.vfma x) := fits_some rfl (fits_lq1 _ _ _ _ _ _ _ _)
theorem Words.vfmin (x : FBin) : Words.Statement (.vfmin x) := fits_some rfl (fits_src _ _ _ _ _ _ _ _)
theorem Words.vfmax (x : FBin) : Words.Statement (.vfmax x) := fits_some rfl (fits_src _ _ _ _ _ _ _ _)
theorem Words.vfcmp (r : FRel) (x : FCmp) : Words.Statement (.vfcmp r x) := fits_some rfl (fits_src _ _ _ _ _ _ _ _)
theorem Words.vfclass (x : FUn) : Words.Statement (.vfclass x) := fits_some rfl (fits_src _ _ _ _ _ _ _ _)
theorem Words.vfdiv (x : FBin) : Words.Statement (.vfdiv x) := fits_some rfl (fits_src _ _ _ _ _ _ _ _)
theorem Words.vfsqrt (x : FUn) : Words.Statement (.vfsqrt x) := fits_some rfl (fits_src _ _ _ _ _ _ _ _)
theorem Words.vfabs (x : FUn) : Words.Statement (.vfabs x) := fits_some rfl (fits_src _ _ _ _ _ _ _ _)
theorem Words.vfneg (x : FUn) : Words.Statement (.vfneg x) := fits_some rfl (fits_src _ _ _ _ _ _ _ _)
theorem Words.vfsgn (g : Guard) (ty : FTy) (d a : BitVec 11) (b : VLit) : Words.Statement (.vfsgn g ty d a b) := fits_some rfl (fits_src _ _ _ _ _ _ _ _)
theorem Words.vrcp (x : FUn) : Words.Statement (.vrcp x) := fits_some rfl (fits_src _ _ _ _ _ _ _ _)
theorem Words.vrsqrt (x : FUn) : Words.Statement (.vrsqrt x) := fits_some rfl (fits_src _ _ _ _ _ _ _ _)
theorem Words.vexp2 (x : FUn) : Words.Statement (.vexp2 x) := fits_some rfl (fits_src _ _ _ _ _ _ _ _)
theorem Words.vlog2 (x : FUn) : Words.Statement (.vlog2 x) := fits_some rfl (fits_src _ _ _ _ _ _ _ _)
theorem Words.vsin (x : FUn) : Words.Statement (.vsin x) := fits_some rfl (fits_src _ _ _ _ _ _ _ _)
theorem Words.vcos (x : FUn) : Words.Statement (.vcos x) := fits_some rfl (fits_src _ _ _ _ _ _ _ _)
theorem Words.vtanh (x : FUn) : Words.Statement (.vtanh x) := fits_some rfl (fits_src _ _ _ _ _ _ _ _)
theorem Words.vsigm (x : FUn) : Words.Statement (.vsigm x) := fits_some rfl (fits_src _ _ _ _ _ _ _ _)
theorem Words.vcvt (g : Guard) (rm : Rm) (sat : Bool) (part : BitVec 2) (dst src : BitVec 6) (d a : BitVec 11) : Words.Statement (.vcvt g rm sat part dst src d a) := fits_some rfl (fits_lr _ _)
theorem Words.vrand (g : Guard) (d : BitVec 11) (a : RandSrc) : Words.Statement (.vrand g d a) := fits_some rfl (fits_rand _ _ _ _)
theorem Words.vrandUnif (g : Guard) (d : BitVec 11) (a : RandSrc) : Words.Statement (.vrandUnif g d a) := fits_some rfl (fits_rand _ _ _ _)
theorem Words.vrseed (x : SeedSrc) : Words.Statement (.vrseed x) := by
  cases x
  · exact fits_some rfl (fits_lr0 _ _ _ _ _)
  · exact fits_some rfl (fits_li1 _ _ _ _ _ _ _)
theorem Words.vshuf (x : Shuf) : Words.Statement (.vshuf x) := fits_some rfl (fits_uni _ _ _ _ _ _ _)
theorem Words.vshufUp (x : Shuf) : Words.Statement (.vshufUp x) := fits_some rfl (fits_uni _ _ _ _ _ _ _)
theorem Words.vshufDn (x : Shuf) : Words.Statement (.vshufDn x) := fits_some rfl (fits_uni _ _ _ _ _ _ _)
theorem Words.vshufRot (x : Shuf) : Words.Statement (.vshufRot x) := fits_some rfl (fits_uni _ _ _ _ _ _ _)
theorem Words.vperm (g : Guard) (ty : BTy) (d a : BitVec 11) (b : VLit) : Words.Statement (.vperm g ty d a b) := fits_some rfl (fits_src _ _ _ _ _ _ _ _)
theorem Words.vbcast (g : Guard) (ty : BTy) (d a : BitVec 11) (b : BcSrc) : Words.Statement (.vbcast g ty d a b) := fits_some rfl (fits_bc _ _ _ _ _)
theorem Words.vred (o : RedOp) (g : Guard) (rm : Rm) (d a : BitVec 11) : Words.Statement (.vred o g rm d a) := fits_some rfl (fits_lr _ _)
theorem Words.vscan (o : RedOp) (g : Guard) (rm : Rm) (d a : BitVec 11) : Words.Statement (.vscan o g rm d a) := fits_some rfl (fits_lr _ _)
theorem Words.vscanEx (o : RedOp) (g : Guard) (rm : Rm) (d a : BitVec 11) : Words.Statement (.vscanEx o g rm d a) := fits_some rfl (fits_lr _ _)
theorem Words.vballot (g : Guard) (d : BitVec 7) (a : BitVec 4) : Words.Statement (.vballot g d a) := fits_some rfl (fits_lr1 _ _ _ _ _ _ _)
theorem Words.vballotCnt (g : Guard) (d : BitVec 7) (a : BitVec 4) : Words.Statement (.vballotCnt g d a) := fits_some rfl (fits_lr1 _ _ _ _ _ _ _)
theorem Words.vlane (ty : BTy) (d : BitVec 7) (a : BitVec 11) (b : USrc) : Words.Statement (.vlane ty d a b) := fits_some rfl (fits_uni _ _ _ _ _ _ _)
theorem Words.vlaneId (g : Guard) (d : BitVec 11) : Words.Statement (.vlaneId g d) := fits_some rfl (fits_lr1 _ _ _ _ _ _ _)
theorem Words.ld (sx : Bool) (m : Mem) : Words.Statement (.ld sx m) := fits_some rfl (fits_lm _ _)
theorem Words.st (m : Mem) : Words.Statement (.st m) := fits_some rfl (fits_lm _ _)
theorem Words.lds (sx : Bool) (m : Mem) : Words.Statement (.lds sx m) := fits_some rfl (fits_lm _ _)
theorem Words.sts (m : Mem) : Words.Statement (.sts m) := fits_some rfl (fits_lm _ _)
theorem Words.ldk (sx : Bool) (m : Mem) : Words.Statement (.ldk sx m) := fits_some rfl (fits_lm _ _)
theorem Words.stk (m : Mem) : Words.Statement (.stk m) := fits_some rfl (fits_lm _ _)
theorem Words.ldnr (pf : BitVec 4) (m : Mem) : Words.Statement (.ldnr pf m) := fits_some rfl (fits_lm _ _)
theorem Words.pgreq (g : Guard) (ad : Addr) (off : Off) : Words.Statement (.pgreq g ad off) := fits_some rfl (fits_lm _ _)
theorem Words.pref (g : Guard) (ad : Addr) (off : Off) : Words.Statement (.pref g ad off) := fits_some rfl (fits_lm _ _)
theorem Words.prefL2 (g : Guard) (ad : Addr) (off : Off) : Words.Statement (.prefL2 g ad off) := fits_some rfl (fits_lm _ _)
theorem Words.memhint (h : Hint) (g : Guard) (ad : Addr) (off : Off) : Words.Statement (.memhint h g ad off) := fits_some rfl (fits_lm _ _)
theorem Words.atom (op : AtomOp) (m : Mem) : Words.Statement (.atom op m) := fits_some rfl (fits_lm _ _)
theorem Words.atomH (op : AtomOp) (m : Mem) : Words.Statement (.atomH op m) := fits_some rfl (fits_lm _ _)
theorem Words.fence : Words.Statement (.fence) := fits_some rfl (fits_lr0 _ _ _ _ _)
theorem Words.fenceA : Words.Statement (.fenceA) := fits_some rfl (fits_lr0 _ _ _ _ _)
theorem Words.fenceR : Words.Statement (.fenceR) := fits_some rfl (fits_lr0 _ _ _ _ _)
theorem Words.waitc (p : Path) (a : BitVec 7) : Words.Statement (.waitc p a) := fits_some rfl (fits_lr0 _ _ _ _ _)
theorem Words.apnd (x : ApndOp) : Words.Statement (.apnd x) := fits_some rfl (fits_lm _ _)
theorem Words.seal (x : PageOp) : Words.Statement (.seal x) := fits_some rfl (fits_lm _ _)
theorem Words.tailrd (x : PageOp) : Words.Statement (.tailrd x) := fits_some rfl (fits_lm _ _)
theorem Words.gangset (d : BitVec 2) (a : BitVec 7) : Words.Statement (.gangset d a) := fits_some rfl (fits_lr0 _ _ _ _ _)
theorem Words.mma (x : MmaOp) : Words.Statement (.mma x) := fits_some rfl (fits_lr _ _)
theorem Words.mmas (x : MmaOp) : Words.Statement (.mmas x) := fits_some rfl (fits_lr _ _)
theorem Words.mmag (x : MmaOp) : Words.Statement (.mmag x) := fits_some rfl (fits_lr _ _)
theorem Words.latchComplete (job team : Nat) (mask : DWord) : Words.Statement (.latchComplete job team mask) := fits_none rfl
theorem Words.slabCommit (job team i : Nat) : Words.Statement (.slabCommit job team i) := fits_none rfl
theorem Words.bload (a b : BitVec 7) : Words.Statement (.bload a b) := fits_some rfl (fits_lr0 _ _ _ _ _)
theorem Words.bloadg (a b : BitVec 7) : Words.Statement (.bloadg a b) := fits_some rfl (fits_lr0 _ _ _ _ _)
theorem Words.brel (a : BitVec 7) : Words.Statement (.brel a) := fits_some rfl (fits_lr0 _ _ _ _ _)
theorem Words.accz (d : BitVec 6) (n : BitVec 5) : Words.Statement (.accz d n) := fits_some rfl (fits_lr _ _)
theorem Words.accrd (g : Guard) (d : BitVec 11) (a : BitVec 6) (b : BitVec 7) : Words.Statement (.accrd g d a b) := fits_some rfl (fits_lr1 _ _ _ _ _ _ _)
theorem Words.accwr (g : Guard) (d : BitVec 6) (a : BitVec 11) (b : BitVec 7) : Words.Statement (.accwr g d a b) := fits_some rfl (fits_lr1 _ _ _ _ _ _ _)
theorem Words.qntz (rm : Rm) (sat : Bool) (a b : BitVec 7) : Words.Statement (.qntz rm sat a b) := fits_some rfl (fits_lr _ _)
theorem Words.dqnt (rm : Rm) (a b : BitVec 7) : Words.Statement (.dqnt rm a b) := fits_some rfl (fits_lr _ _)
theorem Words.bcopy (d : BitVec 4) (a : BitVec 7) : Words.Statement (.bcopy d a) := fits_some rfl (fits_lr0 _ _ _ _ _)
theorem Words.bcopy2d (d : BitVec 4) (a b : BitVec 7) : Words.Statement (.bcopy2d d a b) := fits_some rfl (fits_lr0 _ _ _ _ _)
theorem Words.bapnd (d : BitVec 4) (a b : BitVec 7) : Words.Statement (.bapnd d a b) := fits_some rfl (fits_lr0 _ _ _ _ _)
theorem Words.bchk (d : BitVec 4) (a b : BitVec 7) : Words.Statement (.bchk d a b) := fits_some rfl (fits_lr0 _ _ _ _ _)
theorem Words.bchkin (d : BitVec 4) (b : BitVec 7) : Words.Statement (.bchkin d b) := fits_some rfl (fits_lr0 _ _ _ _ _)
theorem Words.copyLinePerformed (i : Nat) : Words.Statement (.copyLinePerformed i) := fits_none rfl
theorem Words.barinit (d : BitVec 4) (a : BitVec 7) : Words.Statement (.barinit d a) := fits_some rfl (fits_lr0 _ _ _ _ _)
theorem Words.barexp (d : BitVec 4) (a : BitVec 7) : Words.Statement (.barexp d a) := fits_some rfl (fits_lr0 _ _ _ _ _)
theorem Words.bararr (d : BitVec 7) (a : BitVec 4) : Words.Statement (.bararr d a) := fits_some rfl (fits_lr0 _ _ _ _ _)
theorem Words.barwait (a : BitVec 4) (b : BitVec 7) : Words.Statement (.barwait a b) := fits_some rfl (fits_lr0 _ _ _ _ _)
theorem Words.bartry (d : BitVec 7) (a : BitVec 4) (b : BitVec 7) : Words.Statement (.bartry d a b) := fits_some rfl (fits_lr0 _ _ _ _ _)
theorem Words.tbar : Words.Statement (.tbar) := fits_some rfl (fits_lr0 _ _ _ _ _)
theorem Words.cbar : Words.Statement (.cbar) := fits_some rfl (fits_lr0 _ _ _ _ _)
theorem Words.tileget (d : BitVec 7) : Words.Statement (.tileget d) := fits_some rfl (fits_lr0 _ _ _ _ _)
theorem Words.tilestat (d : BitVec 7) : Words.Statement (.tilestat d) := fits_some rfl (fits_lr0 _ _ _ _ _)
theorem Words.trap (code : BitVec 16) : Words.Statement (.trap code) := fits_some rfl (fits_li1 _ _ _ _ _ _ _)
theorem Words.tret : Words.Statement (.tret) := fits_some rfl (fits_lr0 _ _ _ _ _)
theorem Words.csrrd (d : BitVec 7) (n : BitVec 16) : Words.Statement (.csrrd d n) := fits_some rfl (fits_li1 _ _ _ _ _ _ _)
theorem Words.csrwr (n : BitVec 16) (a : BitVec 7) : Words.Statement (.csrwr n a) := fits_some rfl (fits_li1 _ _ _ _ _ _ _)
theorem Words.clock (d : BitVec 7) : Words.Statement (.clock d) := fits_some rfl (fits_lr0 _ _ _ _ _)
theorem Words.clockC (d : BitVec 7) : Words.Statement (.clockC d) := fits_some rfl (fits_lr0 _ _ _ _ _)
theorem Words.sleep (a : BitVec 7) : Words.Statement (.sleep a) := fits_some rfl (fits_lr0 _ _ _ _ _)
theorem Words.sleepImm (i : Imm) : Words.Statement (.sleepImm i) := fits_some rfl (fits_li1 _ _ _ _ _ _ _)
theorem Words.sleepWake (grp : Nat) : Words.Statement (.sleepWake grp) := fits_none rfl
theorem Words.evsig (a b : BitVec 7) : Words.Statement (.evsig a b) := fits_some rfl (fits_lr0 _ _ _ _ _)
theorem Words.ckopen (d : BitVec 7) : Words.Statement (.ckopen d) := fits_some rfl (fits_lr0 _ _ _ _ _)
theorem Words.ckclose (d a : BitVec 7) : Words.Statement (.ckclose d a) := fits_some rfl (fits_lr0 _ _ _ _ _)
theorem Words.ckcost (d : BitVec 7) : Words.Statement (.ckcost d) := fits_some rfl (fits_lr0 _ _ _ _ _)
theorem Words.dbgbrk : Words.Statement (.dbgbrk) := fits_some rfl (fits_lr0 _ _ _ _ _)
theorem Words.dbgstep (a : BitVec 7) : Words.Statement (.dbgstep a) := fits_some rfl (fits_lr0 _ _ _ _ _)
theorem Words.perfrd (d a : BitVec 7) : Words.Statement (.perfrd d a) := fits_some rfl (fits_lr0 _ _ _ _ _)
theorem Words.accessComplete (grp : Nat) (p : Path) : Words.Statement (.accessComplete grp p) := fits_none rfl
theorem Words.waitpkt (rd rs1 : BitVec 5) : Words.Statement (.waitpkt rd rs1) := fits_some rfl (fits_cw _ _ _ _)
theorem Words.evwake (rs1 : BitVec 5) : Words.Statement (.evwake rs1) := fits_some rfl (fits_cw _ _ _ _)
theorem Words.crc32c (rd rs1 rs2 : BitVec 5) : Words.Statement (.crc32c rd rs1 rs2) := fits_some rfl (fits_cw _ _ _ _)
theorem Words.illegalOpcode (w : IWord) : Words.Statement (.illegalOpcode w) := fits_none rfl
theorem Words.jsbUpdate (job : Nat) : Words.Statement (.jsbUpdate job) := fits_none rfl
theorem Words.coreFree (die core : Nat) : Words.Statement (.coreFree die core) := fits_none rfl
theorem Words.hostSnpdata (la : Nat) : Words.Statement (.hostSnpdata la) := fits_none rfl
theorem Words.hostSnpinv (la : Nat) : Words.Statement (.hostSnpinv la) := fits_none rfl
theorem Words.hostCxlMemRead (addr : Nat) (cache : Bool) : Words.Statement (.hostCxlMemRead addr cache) := fits_none rfl
theorem Words.hostCxlMemWrite (addr : Nat) (data : BitVec 1024) : Words.Statement (.hostCxlMemWrite addr data) := fits_none rfl
theorem Words.remoteAccessIn (dev part : Nat) (addr : BitVec 39) (w : Nat) (op : RemoteOp) : Words.Statement (.remoteAccessIn dev part addr w op) := fits_none rfl
theorem Words.nwdogWrite (thread : Nat) (v : DWord) : Words.Statement (.nwdogWrite thread v) := fits_none rfl
theorem Words.nevpendWrite (thread : Nat) (v : DWord) : Words.Statement (.nevpendWrite thread v) := fits_none rfl
theorem Words.watchdogExpiry (thread : Nat) : Words.Statement (.watchdogExpiry thread) := fits_none rfl
theorem Words.registerWrite (r : CtlReg) (unit : Nat) (v : DWord) : Words.Statement (.registerWrite r unit v) := fits_none rfl
theorem Words.gets (k : Nat) : Words.Statement (.gets k) := fits_none rfl
theorem Words.getx (k : Nat) : Words.Statement (.getx k) := fits_none rfl
theorem Words.tok (k : Nat) : Words.Statement (.tok k) := fits_none rfl
theorem Words.preq (k : Nat) : Words.Statement (.preq k) := fits_none rfl
theorem Words.act (k : Nat) : Words.Statement (.act k) := fits_none rfl
theorem Words.actack (k : Nat) : Words.Statement (.actack k) := fits_none rfl
theorem Words.done (k : Nat) : Words.Statement (.done k) := fits_none rfl
theorem Words.deact (k : Nat) : Words.Statement (.deact k) := fits_none rfl
theorem Words.deactack (k : Nat) : Words.Statement (.deactack k) := fits_none rfl
theorem Words.hrsp (k : Nat) : Words.Statement (.hrsp k) := fits_none rfl
theorem Words.srd (k : Nat) : Words.Statement (.srd k) := fits_none rfl
theorem Words.srsp (k : Nat) : Words.Statement (.srsp k) := fits_none rfl
theorem Words.wb (k : Nat) : Words.Statement (.wb k) := fits_none rfl
theorem Words.wback (k : Nat) : Words.Statement (.wback k) := fits_none rfl
theorem Words.invalidMessageType (k : Nat) : Words.Statement (.invalidMessageType k) := fits_none rfl
theorem Words.transientReissue (r : Nat) : Words.Statement (.transientReissue r) := fits_none rfl
theorem Words.transientEscalation (r : Nat) : Words.Statement (.transientEscalation r) := fits_none rfl
theorem Words.heldEscalationSend (die home : Nat) : Words.Statement (.heldEscalationSend die home) := fits_none rfl
theorem Words.lineEviction (die la : Nat) : Words.Statement (.lineEviction die la) := fits_none rfl
theorem Words.hopAtomic (k : Nat) : Words.Statement (.hopAtomic k) := fits_none rfl
theorem Words.arsv (k : Nat) : Words.Statement (.arsv k) := fits_none rfl
theorem Words.arsvRetry (h : Nat) : Words.Statement (.arsvRetry h) := fits_none rfl
theorem Words.adat (k : Nat) : Words.Statement (.adat k) := fits_none rfl
theorem Words.hopSeal (k : Nat) : Words.Statement (.hopSeal k) := fits_none rfl
theorem Words.hopTailrd (k : Nat) : Words.Statement (.hopTailrd k) := fits_none rfl
theorem Words.ard (k : Nat) : Words.Statement (.ard k) := fits_none rfl
theorem Words.freeRequest (home rec : Nat) : Words.Statement (.freeRequest home rec) := fits_none rfl
theorem Words.freeService (home rec : Nat) : Words.Statement (.freeService home rec) := fits_none rfl
theorem Words.replicaCreate (die home rec : Nat) : Words.Statement (.replicaCreate die home rec) := fits_none rfl
theorem Words.checkoutRegister (i : Nat) : Words.Statement (.checkoutRegister i) := fits_none rfl
theorem Words.checkoutWaitExpiry (i : Nat) : Words.Statement (.checkoutWaitExpiry i) := fits_none rfl
theorem Words.segmentFillDone (i : Nat) : Words.Statement (.segmentFillDone i) := fits_none rfl
theorem Words.segmentWritebackDone (i : Nat) : Words.Statement (.segmentWritebackDone i) := fits_none rfl
theorem Words.rangeTableWrite (home idx : Nat) (w : RangeWrite) : Words.Statement (.rangeTableWrite home idx w) := fits_none rfl
theorem Words.walkComplete (die : Nat) (rtag : Nat) (va : VAddr) (write : Bool) : Words.Statement (.walkComplete die rtag va write) := fits_none rfl
theorem Words.tlbInvalidate (rtag : Nat) (page : Option VAddr) : Words.Statement (.tlbInvalidate rtag page) := fits_none rfl
theorem Words.tlbInvalidateComplete (i : Nat) : Words.Statement (.tlbInvalidateComplete i) := fits_none rfl
theorem Words.faultServiceResolve (die i : Nat) (how : Resolve) : Words.Statement (.faultServiceResolve die i how) := fits_none rfl
theorem Words.hostFaultAnswer (die i : Nat) (ans : FaultAnswer) : Words.Statement (.hostFaultAnswer die i ans) := fits_none rfl
theorem Words.pageMove (rtag : Nat) (va : VAddr) (step : MoveStep) : Words.Statement (.pageMove rtag va step) := fits_none rfl
theorem Words.scrubPass (die : Nat) (corrected : List Nat) (bad : List Nat) : Words.Statement (.scrubPass die corrected bad) := fits_none rfl
theorem Words.fatalError (kind die : Nat) : Words.Statement (.fatalError kind die) := fits_none rfl
theorem Words.keySlotLoad (slot : BitVec 6) (part : BitVec 4) (key : BitVec 512) : Words.Statement (.keySlotLoad slot part key) := fits_none rfl
theorem Words.keySlotClear (slot : BitVec 6) : Words.Statement (.keySlotClear slot) := fits_none rfl
theorem Words.codeObjectLoad (job : Nat) (base : VAddr) (image : List Byte) (frame : BitVec 40) (kid : BitVec 6) : Words.Statement (.codeObjectLoad job base image frame kid) := fits_none rfl
theorem Words.textRewrite (job : Nat) (va : VAddr) (words : List Word) (stubs : List (Nat × VAddr)) : Words.Statement (.textRewrite job va words stubs) := fits_none rfl
theorem Words.debugPrivateBreakpoint (job : Nat) (va : VAddr) (frame : BitVec 40) : Words.Statement (.debugPrivateBreakpoint job va frame) := fits_none rfl
theorem Words.stopRequest (job cl : Nat) : Words.Statement (.stopRequest job cl) := fits_none rfl
theorem Words.stopComplete (job cl : Nat) : Words.Statement (.stopComplete job cl) := fits_none rfl
theorem Words.saveComplete (job cl : Nat) : Words.Statement (.saveComplete job cl) := fits_none rfl
theorem Words.resume (job : Nat) (die half : Nat) (mask : DWord) : Words.Statement (.resume job die half mask) := fits_none rfl
theorem Words.checkpointTimer (job : Nat) : Words.Statement (.checkpointTimer job) := fits_none rfl
theorem Words.closeStop (job : Nat) : Words.Statement (.closeStop job) := fits_none rfl
theorem Words.unitStreamed (job : Nat) : Words.Statement (.unitStreamed job) := fits_none rfl
theorem Words.recordComplete (job : Nat) : Words.Statement (.recordComplete job) := fits_none rfl
theorem Words.recordFailed (job : Nat) : Words.Statement (.recordFailed job) := fits_none rfl
theorem Words.move (job : Nat) : Words.Statement (.move job) := fits_none rfl
theorem Words.deadlineAccept (job : Nat) : Words.Statement (.deadlineAccept job) := fits_none rfl
theorem Words.distributorTimeUnit (die : Nat) : Words.Statement (.distributorTimeUnit die) := fits_none rfl
theorem Words.deadlineOverrun (job : Nat) : Words.Statement (.deadlineOverrun job) := fits_none rfl
theorem Words.teamEnd (job team : Nat) : Words.Statement (.teamEnd job team) := fits_none rfl
theorem Words.packetNop (q : Nat) : Words.Statement (.packetNop q) := fits_none rfl
theorem Words.packetJob (q : Nat) : Words.Statement (.packetJob q) := fits_none rfl
theorem Words.packetCall (q : Nat) : Words.Statement (.packetCall q) := fits_none rfl
theorem Words.packetRet (q : Nat) : Words.Statement (.packetRet q) := fits_none rfl
theorem Words.packetJoin (q : Nat) : Words.Statement (.packetJoin q) := fits_none rfl
theorem Words.packetWaitv (q : Nat) : Words.Statement (.packetWaitv q) := fits_none rfl
theorem Words.waitvTimeout (q : Nat) : Words.Statement (.waitvTimeout q) := fits_none rfl
theorem Words.packetSigv (q : Nat) : Words.Statement (.packetSigv q) := fits_none rfl
theorem Words.packetCkpt (q : Nat) : Words.Statement (.packetCkpt q) := fits_none rfl
theorem Words.packetPreempt (q : Nat) : Words.Statement (.packetPreempt q) := fits_none rfl
theorem Words.packetHalt (q : Nat) : Words.Statement (.packetHalt q) := fits_none rfl
theorem Words.qcbRewrite (q : Nat) (words : List DWord) : Words.Statement (.qcbRewrite q words) := fits_none rfl
theorem Words.doorbellWrite (fn slot : Nat) (v : Word) : Words.Statement (.doorbellWrite fn slot v) := fits_none rfl
theorem Words.eventRecordPost (part ring : Nat) : Words.Statement (.eventRecordPost part ring) := fits_none rfl
theorem Words.hostPermissionGrant (la : Nat) (excl : Bool) : Words.Statement (.hostPermissionGrant la excl) := fits_none rfl
theorem Words.birsp (la : Nat) (data : Option (BitVec 1024)) : Words.Statement (.birsp la data) := fits_none rfl
theorem Words.poolCompletion (i : Nat) (data : Option (BitVec 1024)) : Words.Statement (.poolCompletion i data) := fits_none rfl
theorem Words.lockInterfaceRequest (part : Nat) : Words.Statement (.lockInterfaceRequest part) := fits_none rfl
theorem Words.startInterfaceRequest (part : Nat) (nonce : BitVec 256) : Words.Statement (.startInterfaceRequest part nonce) := fits_none rfl
theorem Words.stopInterfaceRequest (part : Nat) : Words.Statement (.stopInterfaceRequest part) := fits_none rfl
theorem Words.getDeviceInterfaceReport (part : Nat) : Words.Statement (.getDeviceInterfaceReport part) := fits_none rfl
theorem Words.frozenItemWrite (part : Nat) (item : FrozenItem) (v : DWord) : Words.Statement (.frozenItemWrite part item v) := fits_none rfl
theorem Words.getMeasurements : Words.Statement (.getMeasurements) := fits_none rfl
theorem Words.partitionSetup (part : Nat) (r : PartRec) : Words.Statement (.partitionSetup part r) := fits_none rfl
theorem Words.fcCommit : Words.Statement (.fcCommit) := fits_none rfl
theorem Words.reset : Words.Statement (.reset) := fits_none rfl
theorem Words.recoveryGo (svn : Nat) (image : List Byte) : Words.Statement (.recoveryGo svn image) := fits_none rfl
theorem Words.hbmTraining (die : Nat) (ok : Bool) : Words.Statement (.hbmTraining die ok) := fits_none rfl
theorem Words.linkTraining (port : Nat) (ok : Bool) (ddn : Option Nat) : Words.Statement (.linkTraining port ok ddn) := fits_none rfl
theorem Words.d3hotRequest : Words.Statement (.d3hotRequest) := fits_none rfl
theorem Words.dieIdle (die : Nat) : Words.Statement (.dieIdle die) := fits_none rfl
theorem Words.mailboxReset : Words.Statement (.mailboxReset) := fits_none rfl
theorem Words.deviceIoAnswer (i : Nat) (data : BitVec 128) : Words.Statement (.deviceIoAnswer i data) := fits_none rfl
theorem Words.remoteAccessAnswer (i : Nat) (data : Option (BitVec 128)) (line : Option (BitVec 1024)) : Words.Statement (.remoteAccessAnswer i data line) := fits_none rfl
theorem Words.sealedLineInvalidate (base : BitVec 40) (frames : Nat) : Words.Statement (.sealedLineInvalidate base frames) := fits_none rfl
theorem Words.debugServiceRequest (job : Nat) (op : DebugOp) : Words.Statement (.debugServiceRequest job op) := fits_none rfl
theorem Words.spdmSecureSession : Words.Statement (.spdmSecureSession) := fits_none rfl
theorem Words.ideKeyProgramming (stream : Nat) : Words.Statement (.ideKeyProgramming stream) := fits_none rfl
theorem Words.nolelavinLoadStore (thread : Nat) (kind : NKind) (addr : DWord) (w : Nat) (reg : BitVec 5) : Words.Statement (.nolelavinLoadStore thread kind addr w reg) := fits_none rfl
theorem Words.nolelavinIllegalInstruction (thread : Nat) : Words.Statement (.nolelavinIllegalInstruction thread) := fits_none rfl
theorem Words.pageRecordCreate (home rec : Nat) (frame : BitVec 40) (ps : BitVec 2) (part : BitVec 4) (kid : BitVec 6) : Words.Statement (.pageRecordCreate home rec frame ps part kid) := fits_none rfl

end Sys2Proof.Laws
end

