-- ==== Sys2Proof/Tests/Slice0.lean ====
section
/-!
SUPPORT. Tests: ill-formed terms refused, words decoded, single steps on small states, and for every statement with hypotheses a
state and operands that meet them.
-/

namespace Sys2Proof.Tests

set_option Elab.async false

open Sys2Proof Sys2Proof.Machine Sys2Proof.Says

/-! ## Small states -/

/-- One group of 16 lanes at 0x1000, with its team and job, under a page of 1 GiB at address 0. -/
def base : State :=
  let s := placeWords State.reset []
  { s with cur := { grp := 0, lanes := 0xFFFF, act := 0xFFFF, pc := 0x1000, len := 8 } }
/-- The group changed, and the lanes of the issue state. -/
def withGroup (s : State) (f : Group → Group) (lanes : DWord) : State :=
  { s.setGroup 0 (f (s.group 0)) with cur := { s.cur with lanes := lanes } }
def withTeam (s : State) (f : Team → Team) : State := s.setTeam 0 (f (s.team 0))
def withJob (s : State) (f : Job → Job) : State := s.setJob 0 (f (s.job 0))
/-- Scalars from s1. -/
def regs (l : List DWord) (g : Group) : Group :=
  ((List.range l.length).zip l).foldl (fun h e => h.sset (e.1 + 1) e.2) g
def scalars (l : List DWord) : State := withGroup base (regs l) 0xFFFF
def go : Guard := { gp := 0, gn := false }
def never : Guard := { gp := 0, gn := true }
/-- It completes with a property. -/
def gives (i : Instr) (s : State) (p : State → Bool) : Bool :=
  match exec i s with | .next t => p t | .fault _ => false | .refused _ => false
theorem gives_ex {i : Instr} {s : State} {p : State → Bool} (h : gives i s p = true) : ∃ t, exec i s = .next t ∧ p t = true := by
  unfold gives at h
  split at h
  · exact ⟨_, ‹_›, h⟩
  all_goals simp at h
/-- It traps with a cause. -/
def traps (i : Instr) (s : State) (c : Nat) : Bool := gives i s (fun t => t.curGroup.tm && t.curGroup.fi.cause == BitVec.ofNat 64 c)

def okB {ε α : Type} (f : α → Bool) : Except ε α → Bool
  | .ok a => f a
  | .error _ => false
def errorB {ε α : Type} (f : ε → Bool) : Except ε α → Bool
  | .ok _ => false
  | .error e => f e
theorem ok_ex {ε α : Type} {x : Except ε α} {p : α → Prop} (f : α → Bool) (hf : ∀ a, f a = true → p a)
    (h : okB f x = true) : ∃ a, x = .ok a ∧ p a := by
  cases x with
  | ok a => exact ⟨a, rfl, hf a h⟩
  | error e => simp [okB] at h
theorem error_ex {ε α : Type} {x : Except ε α} {p : ε → Prop} (f : ε → Bool) (hf : ∀ a, f a = true → p a)
    (h : errorB f x = true) : ∃ a, x = .error a ∧ p a := by
  cases x with
  | error a => exact ⟨a, rfl, hf a h⟩
  | ok e => simp [errorB] at h
theorem some_ex {α : Type} {x : Option α} {p : α → Prop} (f : α → Bool) (hf : ∀ a, f a = true → p a)
    (h : x.any f = true) : ∃ a, x = some a ∧ p a := by
  cases x with
  | some a => exact ⟨a, rfl, hf a (by simpa using h)⟩
  | none => simp at h

/-! ## Witnesses: scalar, vector, floating and cross-lane -/

theorem witness_ScalarMovesAndFields :
    base.curJob.objOf base.cur.pc = some (0, { base := 0, size := 0x100000 }) ∧
    (withJob base (fun j => { j with cot := [{ base := 0, size := 0x1000 }] })).curJob.objOf 0x1000 = none := by decide +kernel

theorem witness_VectorMovesAndFields : ITy.n64.plain = true ∧ ITy.n8x4.plain = false := by decide

theorem witness_FloatComparesAndRoundings : 0x7C00 < 2 ^ Fmt.f16.bits ∧ (Fmt.f16.value 0x7C00).isNan = false := by decide +kernel

theorem witness_SpecialsAndConversions :
    Fmt.ofCode (36 : BitVec 6).toNat = Fmt.ofCode 36 ∧ (Fmt.ofCode 36).isSome = true ∧ (Fmt.ofCode 2).isSome = true ∧ Fmt.ofCode (63 : BitVec 6).toNat ≠ none ∧
    Fmt.ofCode (0 : BitVec 6).toNat = none := by decide +kernel

/-- v5 holds 7 in every lane, v6 the lane's number. -/
def lanesState : State := withGroup base (fun g => (g.setLanes 1 5 (List.range 16) (fun _ => 7)).setLanes 1 6 (List.range 16) (fun l => l)) 0xFFFF

theorem witness_RandomDraws :
    lanesState.active go ≠ 0 ∧ (∀ l ∈ lanesOf (lanesState.active go), lanesState.curGroup.v32 5 l = 7) ∧ (7 : Word).toNat % 2 ^ 16 < 0xFF00 ∧
    (lanesState.active go).getLsbD 0 = true ∧ (lanesState.active go).getLsbD 15 = true ∧
    lanesState.curGroup.v32 6 0 ≠ lanesState.curGroup.v32 6 15 := by decide +kernel

theorem witness_CrossLane :
    Uniform lanesState (lanesState.active go) 7 (.vu 5) ∧ Uniform lanesState lanesState.cur.lanes 3 (.lit 3) ∧ lanesState.cur.lanes ≠ 0 ∧
    Differs lanesState (lanesState.active go) 6 := by
  refine ⟨?_, rfl, ?_, ?_⟩
  · unfold Uniform; decide +kernel
  · decide +kernel
  · unfold Differs; decide +kernel


/-! ## Witnesses: control -/

/-- Lane 3 stands at the greatest call depth, the others at depth 1; v8:9 hold a link to offset 0x10 of object 0. -/
def callState : State :=
  withGroup base (fun g => { g.setLanes 2 8 (List.range 16) (fun _ => 0x10) with
    lanes := (List.range 16).map (fun l => { g.lane l with depth := if l = 3 then 255 else 1 }) }) 0xFFFF
/-- v8:9 hold 0x2000 in lane 0, a misaligned address in lane 1, one outside the address space in lane 2. -/
def callxState : State :=
  withGroup base (fun g => g.setLanes 2 8 (List.range 16) (fun l => if l = 1 then 0x2002 else if l = 2 then 2 ^ 57 else 0x2000)) 0xFFFF
def only (s : State) (lanes : DWord) : State := { s with cur := { s.cur with lanes := lanes } }
/-- Object 0 has one stub, to 0x3000. -/
def stubState : State := place (place base 8 (toBytes 4 1)) 0x80 (toBytes 8 0x3000)
def noObject (s : State) : State := withJob s (fun j => { j with cot := [] })

theorem witness_Branches :
    (scalars [0, 5, 0x8000000000000000]).curGroup.sget 1 = 0 ∧ (scalars [0, 5, 0x8000000000000000]).curGroup.sget 2 ≠ 0 ∧
    ((scalars [0, 5, 0x8000000000000000]).curGroup.sget 3).toInt < 0 ∧ 0 ≤ ((scalars [0, 5, 0x8000000000000000]).curGroup.sget 1).toInt := by
  decide +kernel

theorem witness_CallsAndReturns_call :
    base.active never = 0 ∧ DepthFull callState 0xFFFF ∧ base.active go ≠ 0 ∧ ¬DepthFull base (base.active go) ∧
    (noObject base).curJob.objOf (noObject base).cur.pc = none ∧ base.curJob.objOf base.cur.pc = some (0, { base := 0, size := 0x100000 }) := by
  refine ⟨by decide +kernel, ?_, by decide +kernel, ?_, by decide +kernel, by decide +kernel⟩
  · unfold DepthFull; decide +kernel
  · unfold DepthFull; decide +kernel

theorem witness_CallsAndReturns_callx :
    (∀ l ∈ lanesOf ((only callxState 1).active go), callxCause (only callxState 1) 8 l = none) ∧ callxCause callxState 8 1 = some (8, 0) ∧
    (∀ k ∈ lanesOf (callxState.active go), k < 1 → callxCause callxState 8 k = none) ∧ callxCause callxState 8 2 = some (0x11, 4) ∧
    callxCause callState 8 3 = some (2, 0) ∧ (only callxState 1).active go ≠ 0 := by decide +kernel

theorem witness_CallsAndReturns_ret :
    (∀ l ∈ lanesOf callState.cur.lanes, retCause callState 8 l = none) ∧ retCause base 8 0 = some (2, 0) ∧
    retCause (noObject callState) 8 0 = some (0x11, 7) := by decide +kernel

/-- The stub of object 0 is poisoned. -/
def darkStub : State := { stubState with poison := [(0, true)] }
/-- Every lane stands at the greatest depth. -/
def deepStub : State := withGroup stubState (fun g => { g with lanes := g.lanes.map (fun x => { x with depth := 255 }) }) 0xFFFF
/-- The number of stubs read at object 0, and slot 0 after it. -/
def stubRead (s : State) := s.objRead 4 ((0 : VAddr).setWidth 64 + 8)
def slotB (poison : Option Nat) (r : State × Nat × Option Nat) : Bool :=
  r.2.1 == 1 && okB (fun q : State × Nat × Option Nat => q.2 == (0x3000, poison)) (r.1.objRead 8 ((0 : VAddr).setWidth 64 + 0x80 + BitVec.ofNat 64 (16 * (0 : BitVec 33).toNat)))

theorem witness_CallsAndReturns_stub :
    (∃ r, stubRead stubState = .ok r ∧ r.2 = (1, none)) ∧ (∃ r, stubRead darkStub = .ok r ∧ r.2.2 = some 8) ∧ darkStub.curGroup.quiet = true ∧
    (∃ r, stubRead stubState = .ok r ∧ slotB none r = true) ∧ (∃ r, stubRead deepStub = .ok r ∧ slotB none r = true) ∧
    stubState.active go ≠ 0 ∧ ¬DepthFull stubState (stubState.active go) ∧ DepthFull deepStub (deepStub.active go) := by
  unfold DepthFull
  and_intros
  · exact ok_ex (fun r => decide (r.2 = (1, none))) (fun _ h => by simpa using h) (by decide +kernel)
  · exact ok_ex (fun r => decide (r.2.2 = some 8)) (fun _ h => by simpa using h) (by decide +kernel)
  · decide +kernel
  · exact ok_ex (slotB none) (fun _ h => h) (by decide +kernel)
  · exact ok_ex (slotB none) (fun _ h => h) (by decide +kernel)
  all_goals decide +kernel

theorem witness_JoinsAndEnds :
    base.active never = 0 ∧ base.active go ≠ 0 ∧ ((scalars [0x1002, 2 ^ 57, 0x3000]).curGroup.sget 1).toNat % 4 ≠ 0 ∧
    2 ^ 57 ≤ ((scalars [0x1002, 2 ^ 57, 0x3000]).curGroup.sget 2).toNat ∧ ((scalars [0x1002, 2 ^ 57, 0x3000]).curGroup.sget 3).toNat < 2 ^ 57 ∧
    ((scalars [0x1002, 2 ^ 57, 0x3000]).curGroup.sget 3).toNat % 4 = 0 ∧ (scalars [0x1002, 2 ^ 57, 0x3000]).curTeam.chain.v = false := by decide +kernel

/-! ## Witnesses: memory -/

/-- s8 = 0x8000, s9 beyond the mapped page, s10 misaligned; lane l's v2 = 4 l; the L2 of die 0 holds every token of the line of 0x8000. -/
def memState : State :=
  ((withGroup base (fun g => ((regs [0, 0, 0, 0, 0, 0, 0, 0x8000, 0x40000000, 0x8002] g).setLanes 1 2 (List.range 16) (fun l => 4 * l)).setLanes
    2 4 (List.range 16) (fun l => l)) 3).setL2 0 256
    { Line.none with tc := 16, ow := true, dv := true, kid := 1, data := 0x123456789 })
def mem32 (b : BitVec 7) : Mem := { g := go, ord := .plain, w := .w32, d := 4, ad := .zx b 2, off := .o8 0 }
def mem1 (s : State) (k : AKind) (b : BitVec 7) := s.plan k (mem32 b).ad (mem32 b).off (mem32 b).w.bytes (lanesOf (s.active go))

theorem witness_AccessFaultsAndMarks :
    memState.curGroup.quiet = true ∧ memState.faultFull (myDie memState) = false ∧ atomUninit memState.curGroup (memState.active go) .add (mem32 9) = none ∧
    ∀ k ∈ [AKind.load, .store, .atomic], ∀ b : BitVec 7 × Nat, b ∈ [((9 : BitVec 7), 0x10), (10, 8)] →
      errorB (fun e => e.x.cause == b.2) (mem1 memState k b.1) = true := by
  and_intros <;> decide +kernel

/-- The first entry of the page of 0x8000, and the entries of its walk, lie in lines that their homes hold. -/
def marked (s : State) (x : Xlate) : Bool :=
  x.page.first == 0x40002000 && decide (s.holding (x.page.first / 128) = Holding.all) && (s.liveCopy (x.page.first / 128)).isNone &&
    (s.walkPath 0 0 0x8000).1.all (fun e => (s.holding (e.2.1 / 128)).ow)

theorem witness_AccessFaultsAndMarks_marks :
    (∃ x, memState.xlate 0 0 .load 4 0x8000 = .ok x ∧ marked memState x = true) ∧ lookup memState.lineOld (0x40002000 / 128) = none ∧
    getD 0 memState.lineKid (0x40002000 / 128) = (memState.part (memState.job 0).part).skid :=
  ⟨ok_ex (marked memState) (fun _ h => h) (by decide +kernel), by decide +kernel, by decide +kernel⟩

def freshB (s : State) : Bool := s.curGroup.kept.all (fun x => x.pc != s.cur.pc) && !s.flightBusy s.cur.grp s.curGroup.nextId
theorem fresh_of {s : State} (h : freshB s = true) : Fresh s := by
  simpa [freshB, Fresh] using h
/-- The conditions of `Ready`, as one test. -/
def readyB (s : State) (o : GOp) (ps : List (Piece × Xlate)) : Bool :=
  !s.mustHold o ps && s.pend.isEmpty && freshB s && ps.all (fun e => e.2.cl == 0 && decide (e.2.pa < 2 ^ 52) &&
    ((s.usePlan o.kind ps).l2line (myDie s) (e.2.pa / 128)).dv &&
    (o.kind == .store || (!s.poisonNow (e.2.pa / 128) && !((s.usePlan o.kind ps).l2line (myDie s) (e.2.pa / 128)).pz)) &&
    (if o.kind.writes then ((s.usePlan o.kind ps).l2line (myDie s) (e.2.pa / 128)).tc == 16
     else decide (1 ≤ ((s.usePlan o.kind ps).l2line (myDie s) (e.2.pa / 128)).tc)))
theorem ready_of {s : State} {o : GOp} {ps : List (Piece × Xlate)} (h : readyB s o ps = true) : Ready s o ps := by
  simp only [readyB, Bool.and_eq_true, Bool.not_eq_true', List.all_eq_true, List.isEmpty_iff, beq_iff_eq, decide_eq_true_eq, Bool.or_eq_true] at h
  refine ⟨h.1.1.1, h.1.1.2, fresh_of h.1.2, fun e he => ?_⟩
  obtain ⟨⟨⟨⟨a, b⟩, c⟩, d⟩, f⟩ := h.2 e he
  refine ⟨a, b, c, d, ?_⟩
  split
  · rename_i hw; simpa [hw] using f
  · rename_i hw; simpa [hw] using f

theorem witness_LoadsAndStores :
    (∃ ps, mem1 memState .load 8 = .ok ps ∧ Ready memState (ldOp (mem32 8) false) ps) ∧
    (∃ ps, mem1 memState .store 8 = .ok ps ∧ (Ready memState (stOp memState (mem32 8)) ps ∧ ps.Pairwise Apart ∧
      ∀ e ∈ ps, e.2.pa % 128 + e.1.w ≤ 128)) ∧
    ∃ r, memState.planNr (mem32 8).ad (mem32 8).off 4 (lanesOf (memState.active go)) = .ok r ∧
      Ready memState { ldOp (mem32 8) false with kind := .ldnr, dep := some 2, dst := Reg.p 2 :: dstRegs 4 1 } r.2 := by
  refine ⟨ok_ex (readyB memState (ldOp (mem32 8) false)) (fun _ h => ready_of h) (by decide +kernel), ?_, ?_⟩
  · refine ok_ex (fun ps => readyB memState (stOp memState (mem32 8)) ps && (ps.map (fun e => (e.2.pa, e.1.w)) == [(0x8000, 4), (0x8004, 4)])) ?_ (by decide +kernel)
    intro ps h
    simp only [Bool.and_eq_true, beq_iff_eq] at h
    refine ⟨ready_of h.1, ?_, ?_⟩
    · have : (ps.map (fun e => (e.2.pa, e.1.w))).Pairwise (fun a b : Nat × Nat => a.1 + a.2 ≤ b.1 ∨ b.1 + b.2 ≤ a.1) := by rw [h.2]; decide
      rw [List.pairwise_map] at this; exact this
    · intro e he
      have : (e.2.pa, e.1.w) ∈ [(0x8000, 4), (0x8004, 4)] := h.2 ▸ List.mem_map_of_mem he
      simp only [List.mem_cons, Prod.mk.injEq, List.not_mem_nil, or_false] at this
      omega
  · exact ok_ex (fun r => readyB memState { ldOp (mem32 8) false with kind := .ldnr, dep := some 2, dst := Reg.p 2 :: dstRegs 4 1 } r.2)
      (fun _ h => ready_of h) (by decide +kernel)

/-- An atomic that may leave for its home. -/
def leaves (s : State) (o : GOp) (ps : List (Piece × Xlate)) : Bool :=
  !s.mustHold { o with home := true } ps && freshB s && ps.all (fun e => e.2.cl == 0 && !s.poisonNow (e.2.pa / 128))

theorem witness_Atomics :
    (∃ ps, mem1 memState .atomic 8 = .ok ps ∧ Ready memState (atomOp memState .cas (mem32 8)) ps) ∧
    (∃ ps, mem1 memState .atomic 8 = .ok ps ∧ (memState.mustHold { atomOp memState .add (mem32 8) with home := true } ps = false ∧ Fresh memState ∧
      ∀ e ∈ ps, e.2.cl = 0 ∧ memState.poisonNow (e.2.pa / 128) = false)) ∧
    atomUninit memState.curGroup (memState.active go) .cas (mem32 8) = none := by
  refine ⟨ok_ex (readyB memState (atomOp memState .cas (mem32 8))) (fun _ h => ready_of h) (by decide +kernel), ?_, by decide +kernel⟩
  refine ok_ex (leaves memState (atomOp memState .add (mem32 8))) (fun ps h => ?_) (by decide +kernel)
  simp only [leaves, Bool.and_eq_true, Bool.not_eq_true', List.all_eq_true, beq_iff_eq] at h
  exact ⟨h.1.1, fresh_of h.1.2, h.2⟩

/-- Team memory and 16 comb segments, of which segment 1 is in S. -/
def padState : State :=
  withJob (withGroup base (fun g => (regs [0, 0, 0, 0, 0, 0, 0, 0x100, 0x1000] g).setLanes 1 2 (List.range 16) (fun l => 4 * l)) 3)
    (fun j => { j with jd := { j.jd with nw := 16 }, tags := [(1, { SegTag.idle with st := 1 })] })

theorem witness_ScratchpadsHintsFences :
    PadReady padState (mem32 8) .t .team (teamCheck padState.curJob.jd 4) false ∧ PadReady padState (mem32 8) .t .team (teamCheck padState.curJob.jd 4) true ∧
    PadReady padState (mem32 8) .k .comb (combCheck padState.curJob.jd 4) false ∧ PadReady padState (mem32 8) .k .comb (combCheck padState.curJob.jd 4) true ∧
    PadReady padState (mem32 9) .k .comb (combCheck padState.curJob.jd 4) true ∧
    (∀ u ∈ padState.padUnits (padState.active go) (mem32 8), wordsPoisoned padState.curTeam.poison u.va.toNat u.w = false ∧
      wordsPoisoned padState.curJob.combPoison u.va.toNat u.w = false) ∧
    (∀ l ∈ lanesOf (padState.active go), padState.curJob.inT (memAddr (mem32 8) padState l) = false ∧
      (padState.curJob.tag_ ((memAddr (mem32 8) padState l).toNat / 4096)).st ≠ 1) ∧
    (∀ l ∈ lanesOf (padState.active go), padState.curJob.inT (memAddr (mem32 9) padState l) = false) ∧ 1 ∈ lanesOf (padState.active go) ∧
    (padState.curJob.tag_ ((memAddr (mem32 9) padState 1).toNat / 4096)).st = 1 ∧ padState.curGroup.quiet = true := by
  unfold PadReady
  decide +kernel

def lastWordB (a : Access) (s : State) : Bool :=
  decide (s.pend = [a]) && decide (0 < a.w) && s.padReady a && !s.padPoisoned a && s.hops.all (fun h => h.grp != a.grp) && (s.group a.grp).outs.isEmpty &&
    ((s.group a.grp).flightOf a.flight).any (fun f => f.vals.isEmpty)
theorem lastWord_of {s : State} {a : Access} (h : lastWordB a s = true) : LastWord s a := by
  simp only [lastWordB, Bool.and_eq_true, Bool.not_eq_true', decide_eq_true_eq, List.all_eq_true, bne_iff_ne, List.isEmpty_iff] at h
  obtain ⟨⟨⟨⟨⟨⟨h1, h2⟩, h3⟩, h4⟩, h5⟩, h6⟩, h7⟩ := h
  exact ⟨h1, h2, h3, h4, h5, h6, some_ex (fun f => f.vals.isEmpty) (fun f hf => by simpa using hf) h7⟩
/-- Lane 0 of `padState` alone. -/
def padLane : State := only padState 1
/-- The one access that an instruction leaves to be served. -/
def served (op : AccOp → Bool) (s : State) : Bool := s.pend.any (fun a => lastWordB a s && op a.op)
theorem served_of {s : State} {op : AccOp → Bool} (h : served op s = true) : ∃ a, LastWord s a ∧ op a.op = true := by
  obtain ⟨a, -, h⟩ := List.any_eq_true.1 h
  exact ⟨a, lastWord_of (Bool.and_eq_true_iff.1 h).1, (Bool.and_eq_true_iff.1 h).2⟩

theorem witness_ScratchpadsHintsFences_words :
    (∃ t, exec (.lds false (mem32 8)) padLane = .next t ∧ served (fun o => o == .load false 4) t = true) ∧
    ∃ t, exec (.stk (mem32 8)) padLane = .next t ∧ served (fun o => match o with | .store _ => true | _ => false) t = true :=
  ⟨gives_ex (by decide +kernel), gives_ex (by decide +kernel)⟩

theorem witness_fences :
    base.curGroup.quiet = true ∧ base.curGroup.loadsDone = true ∧
    (withGroup base (fun g => { g with cnt := { g.cnt with g := 1 } }) 1).curGroup.cnt.get .g = 1 ∧ (scalars [1]).curGroup.sget 1 = 1 := by decide +kernel


/-! ## Witnesses: append-seal pages, the mill, copies, barriers -/

def aRec (sl sp fr : Bool) (rt ct : Nat) : PageRec :=
  { v := true, sl := sl, sp := sp, fr := fr, ps := 2, rt := rt, ct := ct, kid := 1, na := 0, bfn := 0x200, pt := 1, rm := 0, xb := false, retire := false }
def aHome : Nat := homeOf 0x200000
/-- Address 0x40000000 is an append-seal page of 2 MiB at frame 0x200 with record 3 of its home. -/
def withPage (s : State) (r : PageRec) : State :=
  place { place s 0x40002008 (toBytes 8 0x4000300001) with records := [(recKey aHome 3, r)] } 0x40003000 (toBytes 8 0x2001C05B)
/-- s8 names the append-seal page; v0 to v3 of lane l hold l. -/
def pageState : State := withPage (withGroup base (fun g => (regs [0, 0, 0, 0, 0, 0, 0, 0x40000000] g).setLanes 4 0 (List.range 16) (fun l => l)) 3) (aRec false false false 0 0)

theorem is_ok {ε α : Type} {x : Except ε α} (h : okB (fun _ => true) x = true) : ∃ a, x = .ok a := by
  obtain ⟨a, h, -⟩ := ok_ex (p := fun _ => True) (fun _ => true) (fun _ _ => trivial) h
  exact ⟨a, h⟩

theorem witness_Appends :
    pageState.active never = 0 ∧ pageState.active go ≠ 0 ∧ (∃ y, pageState.xlateAs .apnd (pageState.curGroup.sget 8 + offVal 4 (.o8 0)) = .ok y) ∧
    (∃ y, pageState.xlateAs .seal (pageState.curGroup.sget 8 + offVal 1 (.o8 0)) = .ok y) ∧
    (∃ y, pageState.xlateAs .tailrd (pageState.curGroup.sget 8 + offVal 1 (.o8 0)) = .ok y) ∧
    pageState.curGroup.pathFull .g = false ∧ pageState.curGroup.quiet = true ∧ pageState.ridRoom (myDie pageState) 1 = true := by
  and_intros <;> first | decide +kernel | exact is_ok (by decide +kernel)

/-- Two groups of a team; g1 holds their mask; s8:9 a format block at 0x4000 and the shape of one stone; s10 an address of team memory. -/
def fblock (str : Nat) : Nat := 0x24 * 2 ^ 58 + 0x24 * 2 ^ 52 + 2 * 2 ^ 46 + (str + 2 ^ 52 * 0) * 2 ^ 64 + str * 2 ^ 320
def millState : State :=
  let s := withJob (withGroup base (fun g => (regs [0, 0, 0, 0, 0, 3, 1, 0x4000, 0, 0x400] g).gset 1 3) 0xFFFF)
    (fun j => { j with jd := { j.jd with gpt := 2 } })
  place (s.setGroup 1 { s.group 0 with q := 1 }) 0x4000 (toBytes 64 (fblock 128))
def mmaX : MmaOp := { z := true, d := 4, gang := 1, a := 10, b := 8 }

theorem witness_Gangs :
    gangOk millState.curJob.jd millState.curGroup.q (millState.curGroup.sget 6) = true ∧ millState.curGroup.sget 0 = 0 ∧ millState.curGroup.sget 7 ≠ 0 ∧
    gangOk millState.curJob.jd millState.curGroup.q (millState.curGroup.sget 7) = false ∧
    MmaReady millState 0x71 mmaX ∧ MmaReady millState 0x72 mmaX ∧ MmaReady millState 0x73 mmaX ∧
    (∀ y ∈ (millState.curTeam.latch 3).arr, (arrival millState 0x71 mmaX).agrees y = true ∧ (arrival millState 0x71 mmaX).meets y = false) ∧
    millState.curGroup.gget 0 = 0 := by
  unfold MmaReady
  decide +kernel

/-- Both members have arrived; stone 0 holds a load; operation 0 of the mill is theirs. -/
def arr (q : Nat) : Arrival :=
  { q := q, opc := 0x71, z := true, hb := 0x4000, hs := 0, a := 0x400, tile := q, pc := 0x1000, len := 8, lanes := 0xFFFF, id := 0 }
def latchState : State :=
  withTeam millState (fun t => (t.setLatch { mask := 3, arr := [arr 1, arr 0] }).setStone 0
    { Stone.zero with rcd := { StoneRec.zero with vl := true, fcb := 0x24 } })
def slabOp : MillOp :=
  { kind := .mma, opc := 0x71, z := true, mask := 3, mem := [arr 0, arr 1], fb := BitVec.ofNat 512 (fblock 128), gt := [], shape := 0, kb := 1,
    slab := 0, side := [], pin := 0, buf := [], fl := 0, mode := 0, sat := false, free := 0 }
def slabState : State := withTeam latchState (fun t => { t with mill := [slabOp] })
/-- A latch that may complete: its block read, no copy of a member still to write what the operation reads. -/
def latchOk (s : State) (r : Xlate × BitVec 512) : Bool :=
  !s.poisonNow (r.1.pa / 128) && (latchFault s 0 (s.job 0).jd 0x71 r.2 [arr 0, arr 1] 0 (groupTable (s.team 0).mem 0x71 0 2)).isNone &&
    !s.latchCopies 0 [arr 0, arr 1] (latchRuns (s.team 0).mem 0x71 r.2 [arr 0, arr 1] 0) r.1.pa
/-- The operation at the head of team 0's mill may make its next part. -/
def partB (kinds : MillKind → Bool) (p : State → MillOp → Bool) (s : State) : Bool :=
  (s.team 0).mill[0]?.any (fun o => kinds o.kind && (s.team 0).millFirst 0 o && p s o) && s.teamRuns 0 0

theorem witness_MillSteps :
    ((latchState.team 0).latch 3).members = [arr 0, arr 1] ∧ latchState.latchReady 0 ((latchState.team 0).latch 3) = true ∧
    latchState.teamPlaced 0 0 = true ∧
    (∃ r, latchState.readBlock 0 0x4000 = .ok r ∧ latchOk latchState r = true) ∧
    partB (· == .mma) (fun s o => ((s.team 0).badRun o).isNone && o.slab + 1 == o.kb) slabState = true ∧
    gives (.latchComplete 0 0 3) latchState (fun t => (t.team 0).mill.length == 1) = true ∧
    gives (.slabCommit 0 0 0) slabState (fun t => (t.team 0).mill.isEmpty) = true := by
  and_intros <;> first | decide +kernel | exact ok_ex (latchOk latchState) (fun _ h => h) (by decide +kernel)

/-- The lines of the page tables that walks of the sealed page read, held by the L2 of die 0. -/
def tableLines (s : State) : State :=
  [(0x40000000, 0x4000100001), (0x40001000, 0x4000200001), (0x40002000, 0x4000300001 * 2 ^ 64 + 0x1C04F), (0x40003000, 0x2001C05B)].foldl (fun (s : State) e =>
    s.setL2 0 (e.1 / 128) { Line.none with tc := 16, ow := true, dv := true, kid := 1, data := BitVec.ofNat 1024 e.2 }) s
/-- The format block and the source stand in a sealed page, at 0x40000000 and 0x40001000. -/
def sealedState : State :=
  tableLines <| place (withPage (withGroup base (regs [0, 0, 0, 0, 0, 0, 0, 0x40000000, 0, 0x40001000]) 3) (aRec true false false 0x8000 0x8000)) 0x200000
    (toBytes 64 (fblock 128))
/-- Plain memory: the block at 0x4000, the source at 0x8000; a scale vector for QNTZ. -/
def plainState : State :=
  place (withGroup base (regs [0, 0, 0, 0, 0, 0, 0, 0x4000, 0, 0x8000, 0x100, 0x4400, 0x2000]) 3) 0x4000 (toBytes 64 (fblock 128))
def quantState : State := place plainState 0x4400 (toBytes 64 (fblock 128 + 63 * 2 ^ 36 + 2 ^ 191 + 0x3000 * 2 ^ 128))

/-- The checks of a load. -/
def loadReadyB (s : State) (ldg : Bool) (a b : BitVec 7) : Bool :=
  let hs := s.curGroup.sget (b.toNat + 1)
  shapeOk false hs && stonesFit s.curJob.jd hs 1 && (s.curGroup.sget b.toNat).toNat % 64 == 0 && (s.curGroup.sget a.toNat).toNat % 16 == 0 &&
  !s.curGroup.pathFull .m && s.curGroup.quiet && s.copies.isEmpty &&
  okB (fun r : Xlate × BitVec 512 × Cover => s.pinRoom s.curGroup.place.die r.2.2.pins.length) (s.loadCheck s.cur.grp ldg (s.curGroup.sget a.toNat) (s.curGroup.sget b.toNat) hs)
theorem loadReady_of {s : State} {ldg : Bool} {a b : BitVec 7} (h : loadReadyB s ldg a b = true) : ∃ x fb c, LoadReady s ldg a b x fb c := by
  simp only [loadReadyB, Bool.and_eq_true, beq_iff_eq, Bool.not_eq_true', List.isEmpty_iff] at h
  obtain ⟨⟨⟨⟨⟨⟨⟨h1, h2⟩, h3⟩, h4⟩, h5⟩, h6⟩, h7⟩, h8⟩ := h
  obtain ⟨r, hr, hp⟩ := ok_ex (p := fun r : Xlate × BitVec 512 × Cover => s.pinRoom s.curGroup.place.die r.2.2.pins.length = true) _ (fun _ h => h) h8
  exact ⟨r.1, r.2.1, r.2.2, h1, h2, h3, h4, h5, h6, hr, hp, by simp [h7]⟩

theorem witness_StonesAndTiles_loads (ldg : Bool) : ∃ x fb c, LoadReady sealedState ldg 10 8 x fb c :=
  loadReady_of (by cases ldg <;> decide +kernel)
/-- What the head of the mill reads for its next stone is pinned and sound. -/
def stoneB (s : State) (o : MillOp) : Bool :=
  match o.mem with
  | [a] => (runWords (stoneRuns o.fb a.a a.hs o.slab)).all (fun w => (s.pinned o.pin (8 * w)).isSome) && (s.opPoison o (stoneRuns o.fb a.a a.hs o.slab)).isNone
  | _ => false
/-- The rows of the head of the mill lie inside team memory. -/
def rowB (s : State) (o : MillOp) : Bool :=
  match o.mem with
  | [a] => ((s.team 0).badRun o).isNone &&
    (quantRow (o.mem_ (s.team 0).mem) o.fb (o.kind == .qntz) o.sat o.mode a.a.toNat o.shape o.slab).1.all (fun r =>
      (padBounds (s.job 0).jd .team r.1 r.2.length 0 1).isNone)
  | _ => false
/-- A load of one stone, of rows that all stand at one place of a pinned page. -/
def loadingState : State :=
  { withTeam plainState (fun t => { t with mill := [{ slabOp with
      kind := .load true, mask := 1, mem := [{ arr 0 with hb := 0x4000, a := 0x8000 }], fb := BitVec.ofNat 512 (fblock 0), pin := 7 }] }) with
    pins := [{ copy := 7, die := 0, rtag := 0, va := 0x8000, size := 4096, leaf := 0x1000000804F }] }
theorem witness_StonesAndTiles_parts :
    partB (· == .load true) stoneB loadingState = true ∧
    (∃ t, exec (.qntz .dyn false 11 12) quantState = .next t ∧ partB (· == .qntz) rowB t = true) ∧
    ∃ t, exec (.dqnt .dyn 11 12) quantState = .next t ∧ partB (· == .dqnt) rowB t = true := by
  and_intros <;> first | decide +kernel | exact gives_ex (by decide +kernel)

theorem witness_StonesAndTiles :
    shapeOk false (plainState.curGroup.sget 9) = true ∧ stonesFit plainState.curJob.jd (plainState.curGroup.sget 9) 1 = true ∧ plainState.curTeam.mill = [] ∧
    63 + 0 + 1 ≤ plainState.curJob.jd.atl ∧ plainState.tilesBusy 63 1 = false ∧ accCol plainState.curGroup 11 = some 0 ∧
    (∀ l ∈ lanesOf (plainState.active go), l < plainState.curGroup.width) :=
  by decide +kernel

/-- The checks of QNTZ or DQNT on the block that it reads. -/
def quantB (s : State) (qz : Bool) (r : Xlate × BitVec 512) : Bool :=
  let g := s.curGroup
  !s.poisonNow (r.1.pa / 128) && fbQuantOk r.2 qz (qwLen (g.sget 13)) &&
    (quantReads s.curTeam.mem r.2 qz (g.sget 11).toNat (g.sget 13)).all (fun q =>
      (padBounds s.curJob.jd .team q.1 q.2 0 1).isNone && !wordsPoisoned s.curTeam.poison q.1 q.2) &&
    (quantRows s.curTeam.mem r.2 qz false (rmode g.fmode false .rne) (g.sget 11).toNat (g.sget 13)).all (fun q =>
      (padBounds s.curJob.jd .team q.1 q.2.length 0 1).isNone)
theorem witness_StonesAndTiles_quant (qz : Bool) :
    let s := quantState
    let g := s.curGroup
    (g.sget 13).toNat < 2 ^ 34 ∧ (g.sget 12).toNat % 64 = 0 ∧ g.pathFull .m = false ∧ g.quiet = true ∧ s.copies = [] ∧
    ∃ r, s.readBlock s.cur.grp (g.sget 12) = .ok r ∧ quantB s qz r = true := by
  and_intros <;> first | decide +kernel | exact ok_ex (quantB quantState qz) (fun _ h => h) (by cases qz <;> decide +kernel)

def putBar (n : Nat) (b : Barrier) (t : Team) : Team := { t with bars := setD Barrier.zero t.bars n b }
/-- Descriptors of a copy from 0x8000 to team memory with PD, of none of its bytes, and of an append of team memory; barrier 1 expects one
arrival and 512 bytes, barrier 2 is in phase 1, barrier 3 is not initialised. -/
def copyState : State :=
  withTeam (withPage (withGroup base (regs [0, 0, 1, 0x100000001, 0, 0, 0, 0x8000, 0x200, 256, 20, 1, 0, 0, 0, 0x200, 0x40000000, 256, 1,
    0x8000, 0x200, 0, 4, 0x400000, 3, 2 ^ 32]) 3) (aRec false false false 0 0))
    (fun t => putBar 2 { Barrier.zero with ec := 2, ph := true } (putBar 1 { Barrier.zero with ec := 1, rv := 512 } t))
def copyC : Copy := descCopy copyState.curGroup .bcopy 1 8
def emptyC : Copy := descCopy copyState.curGroup .bcopy 1 20
def apndC : Copy := descCopy copyState.curGroup .bapnd 1 16

theorem witness_CopiesBegin :
    ctlOk (copyState.curGroup.sget 11) = true ∧ Descriptor copyState.curGroup 8 copyC ∧ copyC.rows * copyC.len ≠ 0 ∧ descPd copyState.curGroup 8 = true ∧
    CopyOk copyState copyC true ∧ CopyFree copyState copyC true ∧ copyState.combBlocked (engineCopy copyState copyC true) = none ∧
    ctlOk (copyState.curGroup.sget 23) = true ∧ emptyC.rows * emptyC.len = 0 ∧ copyAlign (engineCopy copyState emptyC false) = none ∧
    copyState.curGroup.pathFull .c = false ∧ ctlOk (copyState.curGroup.sget 8) = false ∧ (copyState.curGroup.sget 26).toNat = 2 ^ 32 ∧
    ctlOk (copyState.curGroup.sget 19) = true ∧ apndC.ds = .global ∧ apndC.len < 2 ^ 22 ∧ CopyOk copyState apndC false ∧ CopyFree copyState apndC false ∧
    (((copyState.copyCover (engineCopy copyState apndC false)).pins.find? (fun p => p.2.2.2.1 == .bapnd)).map (fun p => p.2.2.2.2)).any
      (fun x => (copyState.recordAt x.pa).isSome) = true ∧ copyState.ridRoom (myDie copyState) 1 = true := by
  unfold Descriptor CopyOk CopyFree
  and_intros <;> decide +kernel

/-- The copy is in the engine, and the L2 of die 0 holds every token of its first line. -/
def movingState : State :=
  match exec (.bcopy 1 8) copyState with
  | .next t => t.setL2 0 256 { Line.none with tc := 16, ow := true, dv := true, kid := 1, data := 0x123456789 }
  | _ => copyState
/-- A copy that can take bytes of its source, or write those it has taken. -/
def fillB (s : State) (c : Copy) : Bool :=
  let n := s.copyNext c
  let m := min (n.2.2 - c.buf.length) (s.unitRoom c c.ss (n.1 + c.buf.length))
  !c.stopped && c.kind == .bcopy && decide (c.buf.length < n.2.2) && !s.copyWaits c c.ss (n.1 + c.buf.length) m &&
    (s.copyRead c c.ss (n.1 + c.buf.length) m).isSome
def writeB (s : State) (c : Copy) : Bool :=
  let n := s.copyNext c
  !c.stopped && c.kind == .bcopy && decide (n.2.2 ≤ c.buf.length) && !s.copyWaits c c.ds n.2.1 n.2.2 && (s.copyWrite c c.ds n.2.1 c.buf c.bufPz).isSome
/-- The first word has been read. -/
def filledState : State := match exec (.copyLinePerformed 0) movingState with | .next t => t | _ => movingState

theorem witness_CopyMoves :
    movingState.copies[0]?.any (fillB movingState) = true ∧ filledState.copies[0]?.any (writeB filledState) = true ∧
    gives (.copyLinePerformed 0) filledState (fun t => Memory.num t.curTeam.mem 0x200 8 == 0x123456789) = true := by
  and_intros <;> decide +kernel

/-- The first runs out of range or uninitialised; segments 2 and 3 are free; segment 1 is in O, segment 0 in S. -/
def segState : State :=
  withJob (withGroup copyState (regs [2 ^ 23, 0x8000, 2 + 0x4000, 0, 0, 0x4000, 0x400000]) 3) (fun j => { j with
    jd := { j.jd with nw := 4 }, tags := [(0, { SegTag.idle with st := 1 }), (1, { SegTag.idle with st := 2, gva := 0x10 })] })

theorem witness_CombChecks_out :
    let x := segState.curGroup.sget 3
    let cov := segState.coverRange segState.curGroup.job segState.curGroup.place.die .bchk 4098 0x8000 (0x8000 + 4096 * segCnt x) Cover.start
    2 ^ 23 ≤ (segState.curGroup.sget 1).toNat ∧ (segState.curTeam.bar 3).ec = 0 ∧ x.toNat < 2 ^ 23 ∧ segMx x = false ∧ (segState.curTeam.bar 1).ec ≠ 0 ∧
    (segState.curGroup.sget 2).toNat = 0x8000 ∧ segWs x + segCnt x = segState.curJob.jd.nw ∧ (∀ i, i < segCnt x → (segState.curJob.tag_ (segWs x + i)).st = 0) ∧
    cov.fault = none ∧ segState.copyReady = true ∧ segState.pinRoom segState.curGroup.place.die cov.pins.length = true ∧
    segMx (segState.curGroup.sget 7) = true := by decide +kernel

theorem witness_CombChecks_in :
    let x := segState.curGroup.sget 6
    let out := ((List.range (segCnt x)).map (fun i => segWs x + i)).filter (fun i => (segState.curJob.tag_ i).st == 2)
    let cov := out.foldl (fun c i => segState.coverRange segState.curGroup.job segState.curGroup.place.die .copyDst 2
      ((segState.curJob.tag_ i).gva.toNat * 4096) ((segState.curJob.tag_ i).gva.toNat * 4096 + 4096) c) Cover.start
    x.toNat < 2 ^ 23 ∧ segMx x = false ∧ segWs x + segCnt x ≤ segState.curJob.jd.nw ∧ (∀ i, i < segCnt x → (segState.curJob.tag_ (segWs x + i)).st ≠ 3) ∧
    out = [1] ∧ cov.fault = none ∧ segState.pinRoom segState.curGroup.place.die cov.pins.length = true ∧ segState.rangeWait = [] ∧
    (segState.curJob.tag_ 0).st = 1 ∧ gives (.bchkin 1 6) segState (fun t => (t.curJob.tag_ 1).st == 3 && (t.curJob.tag_ 0).st == 0) = true := by
  decide +kernel

theorem witness_Barriers :
    (copyState.curGroup.sget 3).toNat % 2 ^ 16 ≠ 0 ∧ copyState.barWaited copyState.curGroup.tk 1 = false ∧ copyState.barCounted copyState.curGroup.tk 1 = false ∧
    (copyState.curTeam.bar 1).ec ≠ 0 ∧ (copyState.curTeam.bar 1).rv.toNat + (copyState.curGroup.sget 4).toNat < 2 ^ 64 ∧ copyState.curGroup.quiet = true ∧
    (copyState.curTeam.bar 1).ac ≠ (copyState.curTeam.bar 1).ec ∧ (copyState.curTeam.bar 2).ph = (copyState.curGroup.sget 3).getLsbD 0 ∧
    (copyState.curTeam.bar 1).ph ≠ (copyState.curGroup.sget 3).getLsbD 0 ∧ (copyState.curTeam.bar 3).ec = 0 ∧
    (copyState.curGroup.sget 26).toNat % 2 ^ 16 = 0 := by decide +kernel

/-- The sluice has one tile, taken or not. -/
def sluice (n : Nat) : State := withJob base (fun j => { j with next := n })
theorem witness_Sluice :
    (sluice 0).curJob.next < ((sluice 0).curJob.jd.xe.toNat + 1) * ((sluice 0).curJob.jd.ye.toNat + 1) * ((sluice 0).curJob.jd.ze.toNat + 1) ∧
    (sluice 1).curJob.jd.nTiles ≤ (sluice 1).curJob.next := by decide +kernel

/-! ## Witnesses: traps, system registers, time, firmware -/

def inTrap (s : State) : State :=
  withGroup s (fun g => { g with tm := true, fi := { g.fi with pc := 0x1008, lm := 3, cc := 0x0500000002 } }) 0xFFFF
def noHandler (s : State) : State := withJob s (fun j => { j with jd := { j.jd with trapv := 0 } })
def debugged (s : State) : State := withJob s (fun j => { j with dbgctl := 1 })
/-- Lane 0 of FILM sleeps. -/
def asleep : State :=
  withGroup (inTrap base) (fun g => { g with lanes := (g.lanes.take 1).map (fun l => { l with st := .sl, nxt := 0x1010, wake := 0 }) ++ g.lanes.drop 1 }) 0xFFFF

theorem witness_TrapEntryAndReturn :
    ((debugged base).job (base.group 0).job).da = true ∧ (base.job (base.group 0).job).da = false ∧ (base.group 0).tm = false ∧
    (base.job (base.group 0).job).jd.trapv ≠ 0 ∧ ((noHandler base).job (base.group 0).job).jd.trapv = 0 ∧ ((inTrap base).group 0).tm = true ∧
    (inTrap base).curGroup.tretBlocked = false ∧ base.curGroup.tm = false ∧ asleep.curGroup.tretBlocked = true ∧
    gives .tret (inTrap base) (fun t => (t.curGroup.lane 1).pc == 0x1008 && (t.curGroup.lane 1).depth == 5 && (t.curGroup.lane 1).cc == 2 &&
      (t.curGroup.lane 2).depth == 0 && !t.curGroup.tm && t.curGroup.sk) = true := by
  decide +kernel

theorem witness_SpecialRegisters : (0x01F : BitVec 16) ∉ ([0x000, 0x001, 0x011, 0x030] : List (BitVec 16)) ∧ (inTrap base).curGroup.tm = true ∧
    base.curGroup.tm = false := by decide +kernel

/-- A checkpointing job with an open interval, and a full event buffer. -/
def ckState (opn : Bool) : State := withJob (scalars [1, 2, 11, 12]) (fun j => { j with jd := { j.jd with ckp := 1 }, opn := opn })
def fullState : State := withJob base (fun j => { j with evbuf := List.replicate 64 (0, 0, 0, 0) })
/-- One counted access that is complete. -/
def countedState : State :=
  withGroup base (fun g => { g with cnt := { g.cnt with g := 1 }, flights := [{ path := .g, id := 1, done := true, isLoad := true, dst := [], pc := 0x1000, lanes := 1, len := 8, cc := 0, depth := 0, vals := [] }] }) 1

theorem witness_TimeSleepEvents :
    (base.curGroup.sget 0) = 0 ∧ (scalars [5]).curGroup.sget 1 ≠ 0 ∧ (asleep.group 0).firstWake = some 0 ∧ asleep.resident 0 = true ∧
    base.curGroup.quiet = true ∧ base.curJob.evbuf.length < 64 ∧ 64 ≤ fullState.curJob.evbuf.length ∧ countedState.curGroup.quiet = true ∧
    base.curJob.jd.ckp = 0 ∧ (ckState false).curJob.jd.ckp ≠ 0 ∧ (ckState false).curJob.close = none ∧ 2 ≤ ((ckState true).curGroup.sget 2).toNat ∧
    ((ckState true).curGroup.sget 1).toNat < 2 ∧ (ckState true).curJob.opn = true ∧ (ckState false).curJob.opn = false ∧
    11 < ((ckState true).curGroup.sget 4).toNat ∧ ((ckState true).curGroup.sget 3).toNat ∈ [0, 1, 7, 8, 10, 11] ∧
    ((ckState true).curGroup.sget 2).toNat ∈ [2, 3, 4, 5, 6, 9] ∧ (ckState true).perfReady 11 = true ∧ movingState.perfReady 10 = false ∧
    ((countedState.group 0).oldest .g).any (fun f => f.done) = true := by
  and_intros <;> decide +kernel

/-- Thread 0 has its turn; `th` stands for it. -/
def threadState (th : Thread) : State := { base.setThread 0 th with turn := some 0 }
/-- A thread with queue 5 mapped. -/
def queueThread (ev : Bool) : Thread := { Thread.reset with nqmap := 2 ^ 63 + 5, nevpend := ev, nwdog := 9 }

theorem witness_Firmware :
    ((threadState Thread.reset).thread (threadState Thread.reset).turnThread).queue? = none ∧
    ((threadState (queueThread true)).thread (threadState (queueThread true)).turnThread).queue?.isSome = true ∧
    BitVec.ofNat 64 ((threadState (queueThread false)).queue 5).db = ((threadState (queueThread false)).thread 0).xget 0 ∧
    (queueThread false).nevpend = false ∧ (queueThread true).nevpend = true ∧ ((threadState (queueThread true)).thread 0).nwdog ≠ 0 ∧
    ThreadAccess 0x0010000000008008 8 ∧ ThreadAccess 0xFFF 1 ∧ 2 ^ 58 ≤ (0x0400000000000000 : DWord).toNat ∧
    (base.recall 0x100).liveCopy 0x100 = none ∧ (({ memState with home := [(0x100, { tc := 0, ow := false })] } : State).recall 0x100).liveCopy 0x100 = none := by
  unfold ThreadAccess
  and_intros <;> decide +kernel

/-- Thread 3 executes code. -/
def onState : State := base.setThread 3 { Thread.reset with on := true }
theorem witness_NolelavinCsrs :
    (queueThread true).queue?.isSome = true ∧ (0x7FF : Nat) ∉ [0x7C0, 0x7C1, 0x7C2, 0xFC0, 0xFC1, 0xFC2, 0xFC3] ∧ 0xFC0 ≤ (0xFC4 : Nat) ∧
    onState.nextThread 0 0 = some 3 ∧ onState.nextThread 0 3 = some 3 ∧ onState.nextThread 1 32 = none ∧
    (0xC00 : Nat) ≤ 0xFC1 ∧ csrWord 0xFC0 10 2 0 = 0xFC002573 := by decide +kernel
/-- Compressed words and the words that they stand for, as an assembler of the base set lists them. -/
theorem test_rv_compressed :
    [0x0405, 0x8082, 0x4502, 0x1101, 0xA001, 0xEC06, 0x60E2, 0x6785, 0xC501, 0x8D0D, 0x0028, 0x9002, 0x0000].map rvExpand =
    [some 0x00140413, some 0x00008067, some 0x00012503, some 0xFE010113, some 0x0000006F, some 0x00113C23, some 0x01813083,
     some 0x000017B7, some 0x00050463, some 0x40B50533, some 0x00810513, some 0x00100073, none] := by decide +kernel
/-- Division by zero and its overflow, high products, a word operation. -/
theorem test_rv_muldiv :
    rvMul 4 7 0 = ~~~ 0 ∧ rvMul 6 7 0 = 7 ∧ rvMul 4 0x8000000000000000 (~~~ 0) = 0x8000000000000000 ∧ rvMul 6 0x8000000000000000 (~~~ 0) = 0 ∧
    rvMul 1 (~~~ 0) (~~~ 0) = 0 ∧ rvMul 2 (~~~ 0) (~~~ 0) = ~~~ 0 ∧ rvMul 3 (~~~ 0) (~~~ 0) = 0xFFFFFFFFFFFFFFFE ∧
    rvMul 6 (-7) 2 = -1 ∧ rvOp32 0 0 0x7FFFFFFF 1 = some 0xFFFFFFFF80000000 := by decide +kernel

/-! ## Witnesses: coherence -/

/-- Line 0x100 of HBM stands at agent 0 (`a`) and at its home; `m` is the only message. -/
def hbmLine : Nat := 0x100
def lineHome : Nat := homeOf (hbmLine * 128)
def l2With (tc : Nat) (ow : Bool) (s : State) : State :=
  s.setL2 0 hbmLine { Line.none with tc := tc, ow := ow, dv := decide (tc ≠ 0), kid := 1, data := 7 }
def msgState (s : State) (m : Msg) : State := { s with msgs := [m] }
def getsTo (dst : Nat) : Msg := mkMsg 1 2 dst hbmLine
def actAt (dst : Nat) : State := { msgState base (getsTo dst) with acts := [{ agent := dst, home := lineHome, idx := 0, la := hbmLine, kd := true, rq := 1 }] }

theorem witness_TokensMove :
    let none_ := msgState base (getsTo 0)
    let two := msgState (l2With 2 true base) (getsTo 0)
    let one := msgState (l2With 1 true base) (getsTo 0)
    let all := msgState (l2With 16 true base) (mkMsg 2 2 0 hbmLine)
    let atHome := msgState base (mkMsg 2 2 lineHome hbmLine)
    let tok := msgState base { mkMsg 3 1 0 hbmLine with tc := 3, ow := true, d := true, data := 9 }
    Sent none_ 0 (getsTo 0) 1 ∧ none_.frozenAt 0 hbmLine = false ∧ none_.actFor 0 hbmLine = none ∧ (none_.holds_ 0 hbmLine).ow = false ∧
    (two.holds_ 0 hbmLine).ow = true ∧ (two.holds_ 0 hbmLine).tc = 2 ∧ two.frozenAt 0 hbmLine = false ∧ two.actFor 0 hbmLine = none ∧
    (one.holds_ 0 hbmLine).ow = true ∧ (one.holds_ 0 hbmLine).tc = 1 ∧ base.mayShare hbmLine = true ∧ base.mayOwn hbmLine = true ∧
    Sent all 0 (mkMsg 2 2 0 hbmLine) 2 ∧ (all.holds_ 0 hbmLine).tc = 16 ∧ 0 ≠ homeOf (hbmLine * 128) ∧ atHome.mayOwn hbmLine = true ∧
    (msgState base (mkMsg 2 2 0 hbmLine)).holds_ 0 hbmLine = { tc := 0, ow := false } ∧ ((actAt 0).actFor 0 hbmLine).isSome = true ∧
    (actAt 0).frozenAt 0 hbmLine = false ∧ tok.stagingFull (dieOf (hbmLine * 128)) = false ∧ NoneWait tok ∧ Sent tok 0 (tok.msgs.headD (mkMsg 0 0 0 0)) 3 ∧
    (tok.freeWay 0 hbmLine 1).isSome = true ∧ (tok.l2line 0 hbmLine).tc = 0 ∧ (tok.l2line 0 hbmLine).isSealed = false ∧
    ({ tok with keys := [(1, { part := 5, key := 0 })] } : State).freeWay 0 hbmLine 1 = none := by
  unfold Sent NoneWait
  and_intros <;> decide +kernel

/-- The host may hold the line, which H0 has frozen. -/
def frozenHost (ty : Nat) : State := (msgState base (mkMsg ty 1 8 hbmLine)).setH0 hbmLine { Line.none with wb := true }
theorem witness_TokensMove_home :
    let s := msgState base (mkMsg 1 2 lineHome hbmLine)
    MayGive s lineHome hbmLine false ∧ MayGive s lineHome hbmLine true ∧ (s.holds_ lineHome hbmLine).ow = true ∧ (s.holds_ lineHome hbmLine).tc = 16 ∧
    Sent s 0 (mkMsg 1 2 lineHome hbmLine) 1 ∧ (mkMsg 1 1 8 hbmLine).dst = 8 ∧ (frozenHost 1).frozenAt 8 hbmLine = true ∧
    (frozenHost 1).hostOut = [] ∧ ∀ ty ∈ [1, 2, 5], Sent (frozenHost ty) 0 (mkMsg ty 1 8 hbmLine) ty := by
  unfold MayGive Sent
  and_intros <;> decide +kernel

def req (attempt : Nat) (held : Bool) : Req := { agent := 0, la := hbmLine, write := true, attempt := attempt, rid := 5, kid := 1, esc := false, heldEsc := held }
def held (l : List Req) : State := { base with reqs := l }
def escd (r : Req) : Req := { r with esc := true }

theorem witness_Requests_persistent :
    let pr := msgState base (mkMsg 4 0 lineHome hbmLine)
    let e : PEntry := { home := lineHome, idx := 0, st := .deactivating, kd := true, rq := 0, ld := 0,
                        ak := (agentsOf hbmLine).filter (fun b => b != 1), seq := 0, hm := false, la := hbmLine, rid := 5, kid := 1, done := true }
    let da := { msgState base { mkMsg 9 1 lineHome hbmLine with pe := 0 } with ptab := [e] }
    Sent pr 0 (mkMsg 4 0 lineHome hbmLine) 4 ∧ pr.freeEntry lineHome 0 48 = some 0 ∧ pr.freeEntry lineHome 48 16 = some 48 ∧
    Sent (msgState base (mkMsg 5 lineHome 0 hbmLine)) 0 (mkMsg 5 lineHome 0 hbmLine) 5 ∧
    (msgState base (mkMsg 5 lineHome 0 hbmLine)).frozenAt 0 hbmLine = false ∧ Sent (msgState base (mkMsg 6 0 lineHome hbmLine)) 0 (mkMsg 6 0 lineHome hbmLine) 6 ∧
    Sent (msgState base (mkMsg 7 0 lineHome hbmLine)) 0 (mkMsg 7 0 lineHome hbmLine) 7 ∧
    Sent (msgState base (mkMsg 8 lineHome 0 hbmLine)) 0 (mkMsg 8 lineHome 0 hbmLine) 8 ∧ Sent da 0 { mkMsg 9 1 lineHome hbmLine with pe := 0 } 9 ∧
    da.ptab.find? (fun x => x.home == lineHome && x.idx == 0) = some e ∧ (∀ b, b ∈ agentsOf e.la → b ≠ e.home → b = 1 ∨ b ∈ e.ak) := by
  unfold Sent
  decide +kernel

/-- Twelve requests of agent 0 to the home are persistent. -/
def twelve : State := { held [req 3 false] with msgs := List.replicate 12 (mkMsg 4 0 lineHome hbmLine) }
theorem witness_Requests_transient :
    (held [req 0 false]).reqs[0]? = some (req 0 false) ∧ (held [req 3 true]).actFor 0 hbmLine = none ∧ (held [req 3 false]).escalated 0 lineHome = 0 ∧
    12 ≤ twelve.escalated 0 lineHome ∧ twelve.actFor 0 hbmLine = none ∧ (held [req 3 true]).escalated 0 lineHome < 12 ∧
    (held [{ req 3 false with agent := lineHome }]).freeEntry lineHome 48 16 = some 48 ∧
    (held [{ req 3 false with agent := lineHome }]).actFor lineHome hbmLine = none ∧
    (base.l2line 0 hbmLine).wb = false ∧ base.pend = [] ∧
    ((l2With 16 true base).l2line 0 hbmLine).isSealed = false ∧ ((l2With 16 true base).l2line 0 hbmLine).tc ≠ 0 ∧
    ((base.setL2 0 hbmLine { Line.none with isSealed := true, dv := true }).l2line 0 hbmLine).isSealed = true := by
  and_intros <;> decide +kernel

theorem witness_HomeMessages :
    let hop : Msg := { mkMsg 10 1 lineHome hbmLine with op := 0, d := true, data := 0x7C * 2 ^ 128 + 5, kid := 1 }
    let away := { msgState base hop with home := [(hbmLine, { tc := 3, ow := false })] }
    Sent (msgState base (mkMsg 14 0 lineHome hbmLine)) 0 (mkMsg 14 0 lineHome hbmLine) 14 ∧
    Sent (msgState base (mkMsg 15 lineHome 0 hbmLine)) 0 (mkMsg 15 lineHome 0 hbmLine) 15 ∧ Sent (msgState base hop) 0 hop 10 ∧
    opAtom hop.op.toNat = some (.add, 4) ∧ getD false (msgState base hop).poison hbmLine = false ∧ (msgState base hop).poolDark hbmLine = false ∧
    getD false ({ msgState base hop with poison := [(hbmLine, true)] } : State).poison hbmLine = true ∧ ((msgState base hop).holding hbmLine).tc = 16 ∧ (msgState base hop).mayOwn hbmLine = true ∧ base.homeq = [] ∧
    field hop.data.toNat 128 7 + 4 = 128 ∧ (away.holding hbmLine).tc ≠ 16 ∧ Sent (msgState base (mkMsg 0 0 0 0)) 0 (mkMsg 0 0 0 0) 0 ∧
    Sent (msgState base (mkMsg 16 0 0 0)) 0 (mkMsg 16 0 0 0) 16 := by
  unfold Sent
  decide +kernel

/-! ## Witnesses: append-seal pages -/

def asMsg (op : BitVec 6) (len : Nat) : Msg := { mkMsg 10 1 aHome 0x4000 with op := op, d := true, data := BitVec.ofNat 1024 len, rid := 7 }
def asState (r : PageRec) (m : Msg) : State := msgState (withPage base r) m
def openRec : PageRec := aRec false false false 64 64
abbrev asks (r : PageRec) (m : Msg) (op : Nat) : Prop := AsksPage (asState r m) 0 op m (recKey aHome 3) r


theorem witness_ReservationsAppendsSeals :
    asks (aRec true false false 64 64) (asMsg 0x20 4) 0x20 ∧ asks (aRec false true false 64 64) (asMsg 0x20 4) 0x20 ∧ asks openRec (asMsg 0x20 4) 0x20 ∧
    ((asMsg 0x20 (2 ^ 21)).data.extractLsb' 0 22).toNat ≠ 0 ∧ asSize openRec.ps < openRec.rt + upTo16 ((asMsg 0x20 (2 ^ 21)).data.extractLsb' 0 22).toNat ∧
    asks openRec (asMsg 0x20 (2 ^ 21)) 0x20 ∧ openRec.rt + upTo16 ((asMsg 0x20 (2 ^ 21 - 64)).data.extractLsb' 0 22).toNat = asSize openRec.ps ∧
    asks { openRec with na := 255 } (asMsg 0x20 4) 0x20 ∧ (asState openRec (asMsg 0x20 4)).openAppends (recKey aHome 3 / 65536) < 1024 ∧
    (asMsg 0x20 0).data.extractLsb' 0 22 = 0 ∧ asks openRec (asMsg 0x20 0) 0x20 ∧
    asks (aRec true false false 64 64) (asMsg 0x22 0) 0x22 ∧ asks (aRec false false true 64 64) (asMsg 0x22 0) 0x22 ∧
    asks (aRec false false false 64 32) (asMsg 0x22 0) 0x22 ∧ asks openRec (asMsg 0x22 0) 0x22 ∧ (asState openRec (asMsg 0x22 0)).seals = [] ∧
    asks openRec (asMsg 0x23 0) 0x23 := by
  unfold asks AsksPage Sent
  and_intros <;> decide +kernel

/-- The first 16 bytes of the page, reserved by an append that is still open. -/
def anAppend : Append := { home := aHome, rcd := 3, ce := false, src := 1, rid := 7, st := 0, ln := 16, rb := 0, job := 0 }
def adatM : Msg := { asMsg 0x21 0x55 with mask := 0xFFFF }
theorem witness_ReservationsAppendsSeals_data :
    asks openRec adatM 0x21 ∧ anAppend.takes (recKey aHome 3) (openRec.bfn.toNat * 4096) adatM = true ∧
    (asState openRec adatM).stagingFull (dieOf (adatM.la * 128)) = false ∧ (asState openRec adatM).appends = [] ∧
    gives (.adat 0) { asState openRec adatM with appends := [anAppend], lineKid := [(0x4000, 1)] } (fun t => t.memByte 1 0x200000 == 0x55) = true := by
  unfold asks AsksPage Sent
  and_intros <;> decide +kernel

/-- A reserver whose append was refused for want of room, and one that waits for a TAILRD. -/
def hop (id : Nat) (op : BitVec 6) (retry : Bool) : Hop :=
  { id := id, grp := 0, die := 0, flight := 0, home := aHome, la := 0x4000, op := op, pa := 0x200000, kid := 1, len := 16, data := [], st := 5, pf := 0, lanes := 1,
    start := none, copy := none, retry := retry, va := 0x40000000 }
def reserving (retry : Bool) : State := { base with hops := [hop 7 0x20 retry] }
theorem witness_reservers :
    (reserving true).hops[0]? = some (hop 7 0x20 true) ∧ (reserving true).running 0 = true ∧ (reserving true).stopAsked 0 = false ∧
    gives (.arsvRetry 0) (reserving true) (fun t => t.msgs.length == 1) = true := by
  and_intros <;> decide +kernel

def sealedRec : PageRec := aRec true false false 64 64
def withRep (s : State) : State := { s with replicas := [{ die := 1, ps := 2, pt := 1, sfn := 0x200, rfn := 0x400 }] }
/-- Home operations' answers to agent 0 for the operation of rid 7. -/
def answer (op : BitVec 6) (data : Nat) : Msg := { mkMsg 11 aHome 0 0x4000 with op := op, rid := 7, data := BitVec.ofNat 1024 data }

theorem witness_PagesReadAndFreed_reads :
    asks openRec (asMsg 0x24 0) 0x24 ∧ asks sealedRec (asMsg 0x24 0) 0x24 ∧ Sent (withRep (asState sealedRec (mkMsg 12 0 5 0x4000))) 0 (mkMsg 12 0 5 0x4000) 12 ∧
    ((withRep (asState sealedRec (mkMsg 12 0 5 0x4000))).replicaOf (5 - 4) (0x4000 * 128)).isSome = true ∧
    (asState sealedRec (mkMsg 12 0 aHome 0x4000)).replicaOf (aHome - 4) (0x4000 * 128) = none ∧
    (asState sealedRec (mkMsg 12 0 aHome 0x4000)).recordAt (0x4000 * 128) = some (recKey aHome 3, sealedRec) ∧
    Sent (msgState base (mkMsg 13 5 0 0x4000)) 0 (mkMsg 13 5 0 0x4000) 13 ∧ HasRoom (msgState base (mkMsg 13 5 0 0x4000)) 0 0x4000 0 ∧
    ¬HasRoom ((msgState base (mkMsg 13 5 0 0x4000)).setL2 0 0x4000 { Line.none with tc := 1 }) 0 0x4000 0 ∧
    (msgState base (mkMsg 13 5 0 0x4000)).askedBy (mkMsg 13 5 0 0x4000) = none := by
  unfold asks AsksPage Sent HasRoom
  and_intros <;> decide +kernel

theorem witness_PagesReadAndFreed_answers :
    (∀ op ∈ [(0x22 : BitVec 6), 0x23], ({ base with hops := [hop 7 op false] } : State).hopBy 0 7 = some (hop 7 op false)) ∧
    Sent (msgState base (answer 0x23 5)) 0 (answer 0x23 5) 11 ∧ (base.group 0).flights = [] ∧ (reserving false).hopBy 0 7 = some (hop 7 0x20 false) ∧
    (answer 0x20 (2 ^ 58)).data.getLsbD 59 = false ∧ (answer 0x20 (2 ^ 58)).data.getLsbD 58 = true ∧ base.hopBy 0 7 = none ∧
    (msgState base (answer 0x24 0)).askedBy (answer 0x24 0) = none := by
  unfold Sent
  and_intros <;> decide +kernel

/-- A free of the page at one of its steps. -/
def freeing (step : Nat) (acks : List Nat) : State :=
  { withPage base openRec with frees := [{ home := aHome, rcd := 3, step := step, frames := [], acks := acks }] }
/-- Partition 1 has a replica pool of one frame on die 1, free or held by a replica of another page. -/
def poolState (free : Bool) : State :=
  let s := { withPage base sealedRec with replicas := if free then [] else [{ die := 1, ps := 0, pt := 1, sfn := 0x900, rfn := 0x400 }] }
  s.setPart 1 { s.part 1 with rcd := { (s.part 1).rcd with pool := [0, 1] }, pool := [(1, if free then [0x400] else [])] }

theorem witness_PagesReadAndFreed_lives :
    (lookup base.records (recKey aHome 3)).all (fun r => !r.v) = true ∧ homeOf ((0x200 : BitVec 40).toNat * 4096) = aHome ∧
    (0x200 : BitVec 40).toNat * 4096 % asSize 2 = 0 ∧ keyed ((0x200 : BitVec 40).toNat * 4096) = true ∧
    base.frameTaken 0x200000 (0x200000 + asSize 2) = false ∧ base.recordIn aHome 0x200000 (0x200000 + asSize 2) = false ∧
    lookup (withPage base openRec).records (recKey aHome 3) = some openRec ∧
    ({ withPage base openRec with jobs := [] } : State).mapped 0x200000 (0x200000 + asSize 2) = false ∧
    (∀ n ∈ [3, 4, 5, 6], ((freeing n []).frees.find? (fun f => f.home == aHome && f.rcd == 3)).any (fun f => f.step == n && f.acks.isEmpty) = true) ∧
    ((freeing 5 [9]).frees.find? (fun f => f.home == aHome && f.rcd == 3)).any (fun f => f.step == 5 && f.acks == [9]) = true ∧
    (freeing 4 []).readsUnderWay openRec = false ∧ (msgState (freeing 4 []) (mkMsg 12 0 aHome 0x4000)).readsUnderWay openRec = true := by
  and_intros <;> decide +kernel

theorem witness_PagesReadAndFreed_replicas :
    ((poolState true).part sealedRec.pt.toNat).rcd.pool[1]?.getD 0 ≠ 0 ∧ (poolState true).replicas = [] ∧
    ((poolState true).part sealedRec.pt.toNat).pool.find? (fun e => e.1 == 1) = some (1, [0x400]) ∧
    ((poolState false).part sealedRec.pt.toNat).rcd.pool[1]?.getD 0 ≠ 0 ∧ (∀ p ∈ (poolState false).replicas, p.sfn ≠ sealedRec.bfn) ∧
    ((poolState false).part sealedRec.pt.toNat).pool.find? (fun e => e.1 == 1) = some (1, []) ∧
    ((poolState false).replicas.find? (fun p => p.die == 1 && p.pt == sealedRec.pt)).isSome = true ∧
    lookup (poolState false).records (recKey aHome 3) = some sealedRec := by
  and_intros <;> decide +kernel

/-! ## Witnesses: check-outs, translation, faults -/

/-- A check-out of two segments at 0x8000 for segments 2 and 3, its run asked for or not, granted, filling. -/
def chk (kind : CopyKind) (asked : Bool) (filling : Bool) : Copy :=
  { Copy.zero with
    id := 4, kind := kind, grp := 0, flight := 9, bar := 1, src := 0x8000, ws := 2, cnt := 2, off := if filling then 4096 else 0, row := if filling then 1 else 0,
    runs := [{ home := aHome, bfn := 8, len := 2, seg := 2, granted := if filling then some 0 else none, asked := asked }], filling := filling, pc := 0x1000 }
def chkState (c : Copy) (ckw : Nat) (ranges : List RangeEnt) : State :=
  { withJob (withGroup base (fun g => { g with
      cnt := { g.cnt with c := 1 },
      flights := [{ path := .c, id := 9, done := false, isLoad := false, dst := [], pc := 0x1000, lanes := 1, len := 8, cc := 0, depth := 0, vals := [] }] }) 1)
      (fun j => { j with jd := { j.jd with nw := 4, ckw := ckw }, tags := [(3, { SegTag.idle with st := 3, td := c.kind == .bchkin })] })
    with copies := [c], ranges := ranges }
/-- An exclusive entry that conflicts. -/
def conflict : RangeEnt := { home := aHome, idx := 0, md := true, hd := 1, bfn := 8, len := 1, pt := 2, js := 0, seg := 0, hc := 1 }

theorem witness_CheckOuts :
    let a := chkState (chk .bchk false false) 0 []
    let b := chkState (chk .bchk false false) 0 [conflict]
    let w := chkState (chk .bchk false false) 2 [conflict]
    let x := chkState (chk .bchk true false) 2 []
    let f := chkState (chk .bchk true true) 0 []
    let i := chkState { chk .bchkin true true with filling := false } 0 []
    let r := (chk .bchk false false).runs.headD { home := 0, bfn := 0, len := 0, seg := 0, granted := none, asked := false }
    a.copies[0]? = some (chk .bchk false false) ∧ (chk .bchk false false).runs[0]? = some r ∧ r.asked = false ∧
    okB (fun _ => true) (a.grantIdx r.home false r) = true ∧ okB (fun _ => true) (b.grantIdx r.home false r) = false ∧
    (b.job 0).jd.ckw = 0 ∧ (w.job 0).jd.ckw ≠ 0 ∧ a.passesOver a.rangeWait false r = false ∧ (∀ n, n < 0 → (chk .bchk false false).runs[n]? = none) ∧ ((i.job 0).tag_ 3).st = 3 ∧ i.rangeWait = [] ∧
    b.ranges.find? (fun e => e.home == aHome && e.idx == 0) = some conflict ∧
    gives (.checkoutRegister 0) a (fun t => t.ranges.length == 1 && (t.ranges.headD conflict).hc == 2) = true ∧
    gives (.checkoutRegister 0) w (fun t => t.rangeWait == [(aHome, 4, 0)] && t.ranges.length == 1) = true ∧
    gives (.checkoutRegister 0) b (fun t => t.copies.isEmpty && (t.group 0).fi.cause == 0x14) = true ∧
    gives (.checkoutWaitExpiry 0) x (fun t => t.copies.isEmpty && (t.group 0).fi.cause == 0x14 && (t.group 0).tm) = true ∧
    gives (.segmentFillDone 0) f (fun t => ((t.job 0).tag_ 3).st == 1) = true ∧
    gives (.segmentWritebackDone 0) i (fun t => (t.job 0).tag_ 3 == SegTag.idle) = true ∧
    gives (.rangeTableWrite aHome 0 (.move 2 9)) (withJob b (fun j => { j with st := .stopped })) (fun t => t.ranges == [{ conflict with hd := 2, seg := 9 }]) = true ∧
    gives (.rangeTableWrite aHome 0 .release) (withJob b (fun j => { j with st := .stopped })) (fun t => t.ranges.isEmpty) = true := by
  intro a b w x f i r
  and_intros <;> decide +kernel

/-- A check-out all of whose runs are granted, and its segments, in I or one of them not. -/
def grantedC : Copy :=
  { chk .bchk true false with runs := [{ home := aHome, bfn := 8, len := 2, seg := 2, granted := some 0, asked := true }] }
theorem witness_CheckOuts_granted :
    let s := withJob (chkState grantedC 0 []) (fun j => { j with tags := [] })
    let u := withJob s (fun j => { j with tags := [(3, { SegTag.idle with st := 1 })] })
    s.copies[0]? = some grantedC ∧ (∀ r ∈ grantedC.runs, r.asked = true ∧ r.granted.isSome = true) ∧
    (∀ n, n < grantedC.cnt → ((s.job 0).tag_ (grantedC.ws + n)).st = 0) ∧ (∀ n, n < grantedC.cnt → ((u.job 0).tag_ (grantedC.ws + n)).st ≠ 3) ∧
    ((u.job 0).tag_ 3).st ≠ 0 ∧ gives (.checkoutRegister 0) s (fun t => ((t.job 0).tag_ 2).st == 3 && ((t.job 0).tag_ 3).st == 3) = true ∧
    gives (.checkoutRegister 0) u (fun t => t.copies.isEmpty) = true := by
  and_intros <;> decide +kernel

/-- The page at address 0 and its entry: 1 GiB; address 0x40000000 has none; a page of 4 KiB at 0x80000000, resident, cleared or promoted. -/
def smallLeaf (rs : Bool) : Nat := if rs then 0x80001C04F else 0x80000C04F
def smallState (leaf : Nat) : State :=
  place (place (place base 0x40002010 (toBytes 8 0x4000400001)) 0x40004000 (toBytes 8 0x4000500001)) 0x40005000 (toBytes 8 leaf)
/-- Lane 1's address lies in a page that is not resident. -/
def farState : State :=
  withGroup { smallState (smallLeaf false) with l2 := memState.l2 } (fun g =>
    ((regs [0, 0, 0, 0, 0, 0, 0, 0x8000] g).setLanes 1 2 (List.range 16) (fun l => if l = 0 then 0 else 0x7FFF8000)).setLanes 2 4 (List.range 16) (fun l => l)) 3

theorem witness_LoadsAndStores_absent :
    ∃ r, farState.planNr (mem32 8).ad (mem32 8).off 4 (lanesOf (farState.active go)) = .ok r ∧ r.1 = [1] ∧
      Ready farState { ldOp (mem32 8) false with kind := .ldnr, dep := some 2, dst := Reg.p 2 :: dstRegs 4 1 } r.2 :=
  ok_ex (fun r => r.1 == [1] && readyB farState { ldOp (mem32 8) false with kind := .ldnr, dep := some 2, dst := Reg.p 2 :: dstRegs 4 1 } r.2)
    (fun r h => by
      simp only [Bool.and_eq_true, beq_iff_eq] at h
      exact ⟨h.1, ready_of h.2⟩) (by decide +kernel)

def record_ (fwd : Bool) : FaultRec :=
  { id := 3, cause := 0x10, va := 0x80000000, base := 0x80000000, size := 4096, rsn := 3, acc := 0, die := 0, core := 0, sail := 0, gs := 0, js := 0, pt := 1,
    rtag := 1, wait := 0, joined := [{ grp := 0, lanes := 1, act := 1, pc := 0x1000, len := 8, lane := 0, at_ := 0, addr := 0x80000000 }], engines := [],
    forwarded := fwd }
def faultState (leaf : Nat) (fwd : Bool) (f : FaultRec) : State :=
  let s : State := { (withGroup (smallState leaf) (fun g => { g with wait := .fault 0 3 }) 1) with faults := [f] }
  s.setPart 1 { s.part 1 with rcd := { (s.part 1).rcd with fwd := fwd } }
/-- The move of the small page: its entry cleared, the frame not yet copied, or copied to frame 0x9000. -/
def aMove (copied : Option (BitVec 40)) : Move := { rtag := 1, va := 0x80000000, base := 0x80000000, size := 4096, old := 0x80001C04F, copied := copied }
def movingPage (copied : Option (BitVec 40)) : State := { smallState (smallLeaf false) with moves := [aMove copied] }
/-- A leaf of the small page that a TLB of die 0 holds. -/
def smallTlb : TlbEntry := { die := 0, rtag := 1, va := 0x80000000, size := 4096, leaf := 0x80001C04F, first := 0x40005000, seen := 0x80001C04F }
def smallPage : Page := { leaf := 0x80001C04F, size := 4096, first := 0x40005000, seen := 0x80001C04F }

theorem witness_WalksFaultsMoves_walks :
    let s := smallState (smallLeaf true)
    s.rootJob 1 = some 0 ∧ s.walkOn 0 0 0x80000000 = .page smallPage ∧ pteRs smallPage.leaf = true ∧ s.held 0 1 0x80000008 = [] ∧
    base.walkOn 0 0 0x40000000 = .absent ∧ ({ s with tlb := [smallTlb] } : State).held 0 1 0x80000008 = [smallTlb] ∧ smallTlb.page.same smallPage = true ∧
    ({ s with tlb := [smallTlb] } : State).walkOn 0 0 0x80000000 = .page smallPage ∧
    gives (.walkComplete 0 1 0x80000008 false) s (fun t => t.tlb.map (fun e => (e.va, e.size)) == [((0x80000000 : VAddr), 4096)]) = true ∧
    gives (.walkComplete 0 1 0x80000008 false) { s with tlb := [smallTlb] } (fun t => t.tlb == [smallTlb]) = true ∧
    gives (.walkComplete 0 1 0x40000000 true) base (fun t => t.tlb.isEmpty) = true ∧
    gives (.tlbInvalidate 1 (some 0x80000000)) s (fun t => t.invals.length == 1) = true ∧ base.pins = [] ∧
    gives (.tlbInvalidateComplete 0) { s with invals := [{ rtag := 1, page := none }], tlb := [smallTlb] } (fun t => t.tlb.isEmpty && t.invals.isEmpty) = true := by
  intro s
  and_intros <;> decide +kernel

theorem witness_WalksFaultsMoves_moves :
    let s := smallState (smallLeaf true)
    let m := movingPage none
    MovesPage s 1 0x80000000 0 0x80001C04F ∧ pageSize (s.walkEnd 0 0x80000000).1 0x80001C04F = 4096 ∧ s.moving 1 0x80000000 4096 = false ∧
    s.mayMove (pteFn 0x80001C04F * 4096) 4096 = true ∧
    (m.rootJob 1).isSome = true ∧ m.moveOf 1 0x80000000 = some (aMove none) ∧ NotHeld m (aMove none) ∧ m.mayMove (pteFn (aMove none).old * 4096) 4096 = true ∧
    m.frameFree (0x9000 * 4096) 4096 = true ∧ (movingPage (some 0x9000)).moveOf 1 0x80000000 = some (aMove (some 0x9000)) ∧
    (aMove (some 0x9000)).copied = some (BitVec.ofNat 40 (pteFn 0x90001C04F)) ∧ ¬NotHeld { m with tlb := [smallTlb] } (aMove none) ∧
    [pteW, pteX, pteV, pteLf].all (fun f => f 0x90001C04F == f 0x80001C04F) = true ∧ [pteCl, pteSz].all (fun f => f 0x90001C04F == f 0x80001C04F) = true ∧
    pteKid 0x90001C04F = pteKid 0x80001C04F ∧ pteV 0x90001C04F = true ∧ pteLf 0x90001C04F = true ∧
    gives (.pageMove 1 0x80000000 (.clear false)) s (fun t => t.moves == [aMove none]) = true := by
  intro s m
  unfold MovesPage NotHeld
  and_intros <;> decide +kernel

theorem witness_WalksFaultsMoves_faults :
    let s := faultState (smallLeaf false) false (record_ false)
    let w := faultState (smallLeaf false) true (record_ false)
    let u := faultState (smallLeaf false) true (record_ true)
    s.faultAt 0 0 = some (record_ false) ∧ u.faultAt 0 0 = some (record_ true) ∧ (w.part 1).rcd.fwd = true ∧ (s.part 1).rcd.fwd = false ∧
    s.moving 1 0x80000000 4096 = false ∧ u.moving 1 0x80000000 4096 = false ∧
    ({ s with moves := [aMove none] } : State).moving 1 0x80000000 4096 = true ∧
    s.entry (s.part 1).skid (s.walkEnd 0 0x80000000).2 = 0x80000C04F ∧ leafOk s.boot.ddn (s.walkEnd 0 0x80000000).1 0x80001C04F = true ∧
    s.frameFree (pteFn 0x80001C04F * 4096) (pageSize (s.walkEnd 0 0x80000000).1 0x80001C04F) = true ∧
    gives (.faultServiceResolve 0 0 .replay) s (fun t => t.faults.isEmpty && (t.group 0).wait == .none) = true ∧
    gives (.faultServiceResolve 0 0 .forward) w (fun t => t.faults == [record_ true]) = true ∧
    gives (.faultServiceResolve 0 0 .deliver) s (fun t => t.faults.isEmpty && (t.group 0).tm && (t.group 0).fi.cause == 0x10) = true ∧
    gives (.hostFaultAnswer 0 0 (.entry 0x80001C04F)) u (fun t => t.faults.isEmpty && (t.group 0).wait == .none) = true ∧
    gives (.hostFaultAnswer 0 0 .refusal) u (fun t => t.faults.isEmpty && (t.group 0).tm) = true := by
  intro s w u
  and_intros <;> decide +kernel

/-! ## Witnesses: services -/

/-- Lane 0 waits for a device and for another device. -/
def outAcc (k : AccKind) : Access :=
  { id := 1, grp := 0, flight := 1, die := 0, core := 0, lane := 0, pa := 0x8000, w := 4, kid := 0, kind := k, op := .load false 4, off := 0, va := 0x9000,
    order := false, dep := none }
def outState (k : AccKind) : State :=
  { withGroup base (fun g => { g with
      wait := .access 1,
      flights := [{ path := .g, id := 1, done := false, isLoad := true, dst := [Reg.v 4], pc := 0x1000, lanes := 1, len := 8, cc := 0, depth := 0, vals := [] }] }) 1
    with pend := [outAcc k] }
def inSession (s : State) : State := { s with boot := { s.boot with session := true } }
def poolLine : Nat := 2 ^ 50 / 128
/-- Nothing but the access at index 0 is under way. -/
def aloneB (s : State) (a : Access) : Bool :=
  decide (s.pend = [a]) && s.hops.isEmpty && (s.group a.grp).outs.isEmpty && ((s.group a.grp).flightOf a.flight).any (fun f => f.vals.isEmpty)
theorem alone_of {s : State} {a : Access} (h : aloneB s a = true) : Alone s 0 a := by
  simp only [aloneB, Bool.and_eq_true, decide_eq_true_eq, List.isEmpty_iff] at h
  obtain ⟨⟨⟨h1, h2⟩, h3⟩, h4⟩ := h
  refine ⟨fun k b hk hb => ?_, by simp [h2], by simp [h3], some_ex (fun f => f.vals.isEmpty) (fun f hf => by simpa using hf) h4⟩
  rw [h1] at hb
  match k, hk with
  | k + 1, _ => simp at hb

theorem witness_ErrorsKeysAnswers_alone (k : AccKind) (h : k = .deviceIo ∨ k = .remote) :
    Alone (outState k) 0 (outAcc k) ∧ (outState k).blockedAt 0 (outAcc k) = false := by
  rcases h with rfl | rfl <;> exact ⟨alone_of (by decide +kernel), by decide +kernel⟩

theorem witness_ErrorsKeysAnswers :
    (inSession base).boot.session = true ∧ (∀ e, e ∈ base.parts → e.1 ≠ 1 → e.2.setUp = true → e.2.rcd.slots.getLsbD 3 = false) ∧
    (inSession base).slotBusy 3 = false ∧ (outState .remote).precise (outAcc .remote) = true ∧
    (((outState .remote).group 0).flightOf 1).isSome = true ∧ ((outState .remote).group 0).tm = false ∧
    regionOf (poolLine * 128) = .pool ∧ ({ base with decoders := [{ port := 0, target := 0, en := true, lo := 2 ^ 50, hi := 2 ^ 50 + 2 ^ 30 }] } : State).poolDark poolLine = false ∧ OfDie 0 hbmLine ∧
    gives (.scrubPass 0 [] [hbmLine]) base (fun t => getD false t.poison hbmLine) = true ∧
    gives (.fatalError 4 0) base (fun t => t.boot.fatal && (t.job 0).st == .failed) = true ∧
    gives (.keySlotClear 1) base (fun t => (lookup t.keys 1).isNone) = true ∧
    gives (.deviceIoAnswer 0 0x11223344) (outState .deviceIo) (fun t => (t.group 0).v32 4 0 == 0x11223344 && t.pend.isEmpty) = true ∧
    gives (.remoteAccessAnswer 0 (some 0x11223344) none) (outState .remote) (fun t => (t.group 0).v32 4 0 == 0x11223344 && t.pend.isEmpty) = true ∧
    gives (.remoteAccessAnswer 0 none none) (outState .remote) (fun t => (t.group 0).tm && (t.group 0).fi.cause == 0x11 && (t.group 0).fi.addr == 0x9000) = true ∧
    gives (.poolCompletion poolLine none) base (fun t => getD false t.poison poolLine) = true := by
  unfold OfDie
  and_intros <;> decide +kernel

theorem toBytes_length (n x : Nat) : (toBytes n x).length = n := by simp [toBytes]
theorem toBytes_succ (n x : Nat) : toBytes (n + 1) x = BitVec.ofNat 8 x :: toBytes n (x / 256) := by
  simp only [toBytes, List.range_succ_eq_map, List.map_cons, List.map_map, Nat.mul_zero, Nat.shiftRight_zero]
  congr 1
  apply List.map_congr_left
  intro i _
  simp only [Function.comp_apply, Nat.shiftRight_eq_div_pow, Nat.div_div_eq_div_mul]
  rw [show 256 * 2 ^ (8 * i) = 2 ^ (8 * i.succ) by rw [Nat.mul_succ, Nat.pow_add]; omega]
theorem ofBytes_toBytes (n : Nat) : ∀ x, x < 256 ^ n → ofBytes (toBytes n x) = x := by
  induction n with
  | zero => intro x h; simp at h; subst h; rfl
  | succ n ih =>
    intro x h
    rw [toBytes_succ]
    simp only [ofBytes, List.foldr_cons]
    have := ih (x / 256) (by rw [Nat.div_lt_iff_lt_mul (by decide)]; rwa [Nat.pow_succ] at h)
    simp only [ofBytes] at this
    rw [this]
    simp only [BitVec.toNat_ofNat]
    omega

/-- A stored object of no text with a digest field. -/
def objectHead : List Byte := toBytes 4 0x57454331 ++ toBytes 4 1 ++ List.replicate 56 0
def object (d : BitVec 256) : List Byte := objectHead ++ (toBytes 32 d.toNat ++ List.replicate 4000 0)
theorem object_head (d : BitVec 256) {o n : Nat} (h : o + n ≤ 64) : imgNum (object d) o n = imgNum objectHead o n := by
  have l : objectHead.length = 64 := by decide
  rw [imgNum, object, List.drop_append_of_le_length (by omega), List.take_append_of_le_length (by rw [List.length_drop]; omega), imgNum]
theorem object_tail (d : BitVec 256) : (object d).drop 0x60 = List.replicate 4000 0 := by
  have l : objectHead.length = 64 := by decide
  have m := toBytes_length 32 d.toNat
  rw [object, List.drop_append, List.drop_append, l, m, List.drop_of_length_le (by omega), List.drop_of_length_le (by omega)]
  rfl
theorem object_digest (d : BitVec 256) : imgNum (object d) 0x40 32 = d.toNat := by
  have l : objectHead.length = 64 := by decide
  have m := toBytes_length 32 d.toNat
  rw [imgNum, object, List.drop_append, l, List.drop_of_length_le (by omega), List.nil_append, Nat.sub_self, List.drop_zero,
    List.take_append_of_le_length (by omega), List.take_of_length_le (by omega), ofBytes_toBytes 32 _ (by have := d.isLt; omega)]
theorem object_size (d : BitVec 256) : objSize (object d) = 4096 := by
  simp only [objSize, objHsz]
  rw [object_head d (by decide), object_head d (by decide), object_head d (by decide), object_head d (by decide)]
  decide
theorem object_length (d : BitVec 256) : (object d).length = 4096 := by
  rw [object, List.length_append, List.length_append, toBytes_length, List.length_replicate]
  decide
theorem object_zeroed (d : BitVec 256) : (object d).take 0x40 ++ List.replicate 32 (0 : Byte) ++ (object d).drop 0x60 = object 0 := by
  have l : objectHead.length = 64 := by decide
  rw [object_tail, object, List.take_append_of_le_length (by omega), List.take_of_length_le (by omega), List.append_assoc]
  rfl
theorem object_ok : objOk (object (shake256 (object 0))) = true := by
  have t : imgNum (object (shake256 (object 0))) 0x60 32 = 0 := by rw [imgNum, object_tail]; decide
  unfold objOk
  rw [t, object_zeroed, object_digest, object_size, object_length, object_head _ (by decide), object_head _ (by decide), object_head _ (by decide),
    object_head _ (by decide), object_head _ (by decide), object_head _ (by decide), object_head _ (by decide), object_head _ (by decide), object_head _ (by decide)]
  simp only [beq_self_eq_true, Bool.and_true]
  decide

theorem witness_CodeObjectsAndDebug_load :
    Loadable base 0 0x3000 (object (shake256 (object 0))) 1 ∧ ¬Loadable base 0 0x3001 (object (shake256 (object 0))) 1 := by
  unfold Loadable
  rw [object_ok, object_size]
  decide +kernel

def stopped (s : State) : State := withJob s (fun j => { j with st := .stopped, held := true })

theorem witness_CodeObjectsAndDebug_debug :
    ((stopped base).job 0).live = true ∧ ((stopped base).job 0).st = .stopped ∧ ((stopped base).group (gkey 0 0 0)).live = true ∧
    15 < ((stopped base).group (gkey 0 0 0)).lanes.length ∧ ((stopped base).job 0).held = true ∧
    (0x40000 : BitVec 40).toNat * 4096 % 2 ^ 30 = 0 ∧ (stopped (smallState (smallLeaf true))).walk 0 0x80000000 = .page smallPage ∧
    (0x9000 : BitVec 40).toNat * 4096 % smallPage.size = 0 ∧
    gives (.debugServiceRequest 0 (.bpm 7 0xFFFFFFFFFFFFFFFF)) base (fun t => getD 0 (t.job 0).bpm 7 == 0x81FFFFFFFFFFFFFC) = true ∧
    gives (.debugServiceRequest 0 (.ctl 3)) base (fun t => (t.job 0).dbgctl == 1) = true ∧
    gives (.debugServiceRequest 0 (.writeS 0 0 0 9)) (stopped base) (fun t => (t.group 0).sget 0 == 0) = true ∧
    gives (.debugServiceRequest 0 (.writeS 0 0 5 9)) (stopped base) (fun t => (t.group 0).sget 5 == 9) = true ∧
    gives (.debugServiceRequest 0 (.writeV 0 0 15 5 9)) (stopped base) (fun t => (t.group 0).v32 5 15 == 9) = true ∧
    gives (.debugServiceRequest 0 (.writePc 0 0 15 0x1013)) (stopped base) (fun t => ((t.group 0).lane 15).pc == 0x1010) = true ∧
    gives (.debugServiceRequest 0 .resume) (stopped base) (fun t => !(t.job 0).held) = true ∧
    gives (.textRewrite 0 0x1000 [0] []) { base with ibuf := [(0x1000, 5), (0x2000, 6)] } (fun t => t.ibuf == [(0x2000, 6)]) = true := by
  and_intros <;> decide +kernel

/-! ## Witnesses: jobs, packets, interfaces -/

def cl (st : ClState) : Cluster := { st := st, entry := 0, placedAt := 0 }
/-- The placed job with one cluster in a state; partition 1 owns every core. -/
def jobState (st : ClState) (js : JState) : State :=
  let s := withJob base (fun j => { j with clusters := [cl st], st := js })
  s.setPart 1 { s.part 1 with rcd := { (s.part 1).rcd with cores := List.replicate 8 (BitVec.allOnes 64), frames := [(0x300, 0x400)], queues := [0] } }
/-- The image of one empty section of the job, at 0x10000000 in memory, and cluster 0 saved in it. -/
def anImage : List Byte := sectionHead 1 0 0
def savedState (stored : List Byte) : State :=
  place (withJob (jobState .saved .stopped) (fun j => { j with held := false, saved := [(0, (0x10000000, anImage))], image := some (base.imageOf 0) }))
    0x10000000 stored
/-- The memory of the image was written under the partition's system key. -/
def wholeState : State := let s := savedState anImage; { s with lineKid := if s.skidOf 0 = 0 then [] else [(0x10000000 / 128, s.skidOf 0)] }
def noKeys (s : State) : State := { s with keys := [] }
/-- A halted cluster with a save region. -/
def haltedState : State := withJob (jobState .halted .stopping) (fun j => { j with saveAt := some 0x20000000 })

theorem witness_StopsAndResumes_stops :
    (base.job 0).live = true ∧ (base.job 0).clusters[0]? = some (cl .placed) ∧ ((jobState .stopping .stopping).job 0).closing = false ∧
    (jobState .stopping .stopping).teamsRest ((jobState .stopping .stopping).teamsIn 0 0) = true ∧ haltedState.inError 0 = false ∧
    haltedState.saveReady (haltedState.groupsIn (haltedState.teamsIn 0 0)) = true ∧ ((haltedState.job 0).saveBase 0).any (fun b => b % 128 == 0) = true ∧
    gives (.stopRequest 0 0) base (fun t => (t.job 0).clusters.map (fun c => c.st) == [.stopping]) = true ∧ pteRs 0x1C04F = true ∧
    (match base.walk 0 0 with | .page p => pteRs p.leaf | _ => false) = true := by
  and_intros <;> decide +kernel

/-- The premises of a resume on core 0 of die 0. -/
def mayResume (s : State) : Bool :=
  let j := s.job 0
  j.live && !j.held && (List.range j.clusters.length).any (fun c => j.waits c .saved) && (1 : DWord) &&& ~~~ (s.part j.part).coreMask 0 0 == 0 &&
    (!j.jd.pr || !oddPair 1) && j.jd.rdie == 0 && j.offCores
theorem witness_StopsAndResumes_resumes :
    mayResume wholeState = true ∧ mayResume (savedState []) = true ∧ wholeState.keysOk 0 [] = true ∧ (noKeys wholeState).keysOk 0 [] = false ∧
    ((wholeState.moveRegion 0 0 0 1).bind (fun t => t.seatSaved 0)).isSome = true ∧ wholeState.imageGood 0 0 = true ∧
    (savedState []).keysOk 0 [] = true ∧ (((savedState []).moveRegion 0 0 0 1).bind (fun t => t.seatSaved 0)).isSome = true ∧
    (savedState []).imageGood 0 0 = false ∧
    gives (.resume 0 0 0 1) (noKeys wholeState) (fun t => (t.job 0).st == .stopped) = true := by
  and_intros <;> decide +kernel

def ck2 (f : Job → Job) : State := withJob base (fun j => f { j with jd := { j.jd with ckp := 2 }, opn := true, iv := 5 })
def close (asked halted : Bool) : Close := { n := 5, stop := false, isMove := false, asked := asked, halted := halted, joined := [] }
def closing (asked halted : Bool) : State := ck2 (fun j => { j with close := some (close asked halted) })
/-- A record that streams one unit into the log page of record 3. -/
def aRecord : Record :=
  { iv := 5, kind := 1, pred := 0, dig := 0, img := base.imageOf 0, ctx := [], pages := [], units := [], bad := [], keys := [recKey aHome 3], complete := false }
def streamState (todo : List Nat) : State := { ck2 (fun j => { j with iv := 6, stream := some aRecord, todo := todo }) with frozen := [(3, 0)] }

theorem witness_Closes :
    ((ck2 id).job 0).live = true ∧ ((ck2 id).job 0).jd.ckp = 2 ∧ ClosesNow (closing false false) 0 (close false false) ∧
    ClosesNow (closing true false) 0 (close true false) ∧ (closing true false).teamsRest ((closing true false).closeTeams 0) = true ∧
    CloseReady (closing true true) 0 (close true true) ∧
    gives (.closeStop 0) (closing false false) (fun t => (t.job 0).close == some (close true false)) = true ∧
    gives (.recordFailed 0) (streamState [3]) (fun t => (t.job 0).ckf && (t.job 0).full && t.frozen.isEmpty) = true ∧
    gives (.checkpointTimer 0) (ck2 id) (fun t => (t.job 0).close.isSome) = true ∧ gives (.move 0) base (fun t => (t.job 0).close.any (fun c => c.isMove)) = true := by
  unfold CloseReady ClosesNow
  and_intros <;> decide +kernel

/-- A record has room in an open log page, and none where the page is gone and the pool is empty. -/
theorem witness_Closes_room (n : Nat) (h : n ≤ 2 ^ 21) : LogRoom (withPage (streamState [3]) (aRec false false false 0 0)) aRecord n (recKey aHome 3) (aRec false false false 0 0) :=
  ⟨rfl, rfl, rfl, rfl, by simpa [aRec, asSize] using h⟩
theorem witness_Closes_streams :
    ((withPage (streamState [3]) (aRec false false false 0 0)).job 0).stream = some aRecord ∧
    (withPage (streamState [3]) (aRec false false false 0 0)).nextUnit [3] = some 3 ∧ ((streamState []).job 0).todo = [] ∧ aRecord.kind ≠ 2 ∧
    (unitEntry (3, (streamState [3]).unitBytes aRecord 3)).length ≤ 2 ^ 21 :=
  ⟨rfl, by decide +kernel, rfl, by decide, by rw [Sys2Proof.Laws.unitEntry_length]; decide⟩
theorem witness_Closes_full (todo : List Nat) (n : Nat) : LogFull (streamState todo) aRecord n := by
  refine ⟨by simp [aRecord], fun k p ⟨_, h, _⟩ => ?_, rfl⟩
  have e : (streamState todo).records = [] := rfl
  rw [e] at h
  simp [lookup] at h

def accepted (a : Bool) (n : Nat) (s : State) : State := withJob s (fun j => { j with jd := { j.jd with dc := 1, brt := n }, accepted := a, standing := a })
/-- Queue 0 holds the job, whose cluster waits. -/
def headState : State :=
  let s := jobState .waiting .queued
  { s with groups := [], teams := [], queues := [(0, { Queue.none with part := 1, jobs := [0] })] }
def chained (v : Bool) : State :=
  { withTeam base (fun t => { t with chain := { v := v, e := 0x4000, a := 77 } }) with groups := [] }

theorem no_classes {s : State} (h : s.parts.all (fun p => p.2.rcd.classes.isEmpty) = true) :
    ∀ p, p ∈ s.parts → ∀ c, c ∈ p.2.rcd.classes → c.getLsbD 63 = false := by
  intro p hp c hc
  have e := List.all_eq_true.mp h p hp
  rw [List.isEmpty_iff.mp e] at hc
  cases hc
theorem witness_NothingWaits : NothingWaits base := ⟨by decide +kernel, no_classes (by decide +kernel)⟩
theorem witness_OneHead : OneHead headState 0 0 0 :=
  ⟨no_classes (by decide +kernel), ⟨0, _, rfl, by decide +kernel⟩, by decide +kernel, by decide +kernel, by decide +kernel⟩
theorem witness_Scheduling :
    gives (.coreFree 0 0) headState (fun t => (t.job 0).clusters.any (fun c => c.holds)) = true ∧
    ((accepted false 1 base).job 0).jd.dc ≠ 0 ∧ (accepted false 1 headState).headJob ((accepted false 1 headState).job 0).queue = some 0 ∧ ((accepted false 1 base).job 0).accepted = false ∧
    (∀ e, e ∈ (accepted false 1 base).jobs → e.2.accepted = true → False) ∧ ((accepted true 1 base).job 0).standing = true ∧
    ((accepted true 1 base).job 0).clusters.find? (fun c => c.holds) = some (cl .placed) ∧ 0 + (1 * 1024 + 6) / 7 < 2 ^ 64 ∧
    (∀ e, e ∈ base.heldCores → e.1.1 ≠ 1) ∧ 1 ∉ base.boot.idle ∧ (chained true).teamRuns 0 0 = true ∧ (chained true).teamOver (tkey 0 0) = true ∧
    ((chained true).team (tkey 0 0)).chain.v = true ∧ ((chained true).job 0).jd.gpt ≤ 64 ∧ ((chained false).team (tkey 0 0)).chain.v = false ∧
    (chained false).teamOver (tkey 0 0) = true ∧
    gives (.teamEnd 0 0) (chained true) (fun t => ((t.group 0).lane 15).pc == 0x4000 && (t.group 0).sget 1 == 77) = true ∧
    gives (.teamEnd 0 0) (chained false) (fun t => t.team 0 == Team.dead) = true := by
  decide +kernel

/-- Queue 0 of partition 1: a ring of 64 words at frame 0x300 with these words at its pointer; or the words in a buffer at 0x301000. -/
def aQueue (dep : Nat) (buf : List (Nat × Nat)) : Queue :=
  { Queue.none.commit (setFld (setFld (setFld (setFld (setFld (0 : BitVec 512) 12 40 0x300) 0 5 6) 64 32 8) 320 3 1) 182 2 dep) with part := 1, buf := buf }
def packets (s : State) (dep : Nat) (inBuf : Bool) (ws : List Nat) : State :=
  let buf := if inBuf then [(0x301000, ws.length)] else []
  place { s with queues := [(0, aQueue dep buf)] } (if inBuf then 0x301000 else 0x300000) (ws.flatMap (toBytes 8))
def pk (ws : List Nat) : State := packets (jobState .placed .running) 0 false ws
def head_ (ty nw : Nat) : Nat := ty * 2 ^ 56 + nw * 2 ^ 48 + 77
def at_ (s : State) (ty nw : Nat) : Prop := AtPacket s 0 ty nw (BitVec.ofNat 64 (head_ ty nw))

theorem witness_Packets_ring :
    at_ (pk [head_ 0 3]) 0 3 ∧ at_ (pk [head_ 4 0]) 4 0 ∧ at_ (pk [head_ 9 0]) 9 0 ∧ at_ (pk [head_ 9 1]) 9 1 ∧ at_ (pk [head_ 10 0]) 10 0 ∧
    at_ (pk [head_ 2 2, 0x301000, 3]) 2 2 ∧ (pk [head_ 2 2, 0x301000, 3]).addrOk 0 0x301000 = true ∧
    (pk [head_ 2 2, 0x301000, 3]).assigned 1 (0x301000 + 8 * 3 - 1) = true ∧ ((pk [head_ 2 2, 0x301000, 3]).queue 0).dep < 2 ∧
    (pk [head_ 2 2, 0x500000, 3]).addrOk 0 (addrWord (pk [head_ 2 2, 0x500000, 3]) 0 1) = false ∧ at_ (pk [head_ 2 2, 0x500000, 3]) 2 2 ∧
    at_ (packets base 1 true [head_ 3 0, 0, 0]) 3 0 ∧ ((packets base 1 true [head_ 3 0, 0, 0]).queue 0).dep = 1 ∧
    ((packets base 1 true [head_ 3 0, 0, 0]).queue 0).buf = [(0x301000, 3)] ∧ at_ (pk [head_ 3 0]) 3 0 ∧ ((pk [head_ 3 0]).queue 0).dep = 0 := by
  unfold at_ AtPacket
  and_intros <;> decide +kernel

/-- WAITV of the word at 0x301000, which reads 0, for equality; with a time-out; SIGV there, adding. -/
def waitv (v : Nat) : State := pk [head_ 5 3, 0x301000, v, 2 ^ 32]
theorem witness_Packets_waits :
    at_ (waitv 0) 5 3 ∧ (waitv 0).addrOk 0 (addrWord (waitv 0) 0 1) = true ∧ wordNow (place (waitv 0) 0x301000 []) 0 1 = 0 ∧
    WaitHolds (place (waitv 0) 0x301000 []) 0 ∧ ¬WaitHolds (place (waitv 7) 0x301000 []) 0 ∧ at_ (place (waitv 7) 0x301000 []) 5 3 ∧
    ((waitv 7).qword 0 3).extractLsb' 32 32 ≠ 0 ∧ at_ (pk [head_ 5 3, 0x500000, 0, 0]) 5 3 ∧
    (pk [head_ 5 3, 0x500000, 0, 0]).addrOk 0 (addrWord (pk [head_ 5 3, 0x500000, 0, 0]) 0 1) = false ∧ at_ (pk [head_ 6 3, 0x301000, 5, 1]) 6 3 ∧
    ((pk [head_ 6 3, 0x301000, 5, 1]).recall (0x301000 / 128)).liveCopy (0x301000 / 128) = none ∧ ((pk [head_ 6 3, 0x301000, 5, 1]).queue 0).jobs = [] ∧
    gives (.packetSigv 0) (place (pk [head_ 6 3, 0x301000, 5, 1]) 0x301000 []) (fun t => t.numNow 1 0x301000 8 == 5 && (t.queue 0).ip == 4) = true := by
  unfold at_ AtPacket WaitHolds
  and_intros <;> decide +kernel

def tdisp (x : Tdisp) (s : State) : State := s.setPart 1 { s.part 1 with tdisp := x }
/-- A descriptor at 0x301000: one group of 16 registers on core 0. -/
def jobPacket (vr : Nat) : State :=
  place (pk [head_ 1 2, 0x301000, 0x302000]) 0x301000 (([0x1000, 0, 0, 0, 0, vr * 2 ^ 56 + 2 ^ 49 + 2 ^ 43 + 2 ^ 15, 0, 0, 0, 1, 0, 0, 0, 0, 0, 0] : List Nat).flatMap (toBytes 8))
def ckJob (n : Nat) (ws : List Nat) : State := withJob (pk ws) (fun j => { j with jd := { j.jd with ckp := BitVec.ofNat 2 n } })

theorem witness_PacketJobsAndQueues_jobs :
    at_ (jobPacket 16) 1 2 ∧ addrWord (jobPacket 16) 0 1 % 128 = 0 ∧ (jobPacket 16).addrOk 0 (addrWord (jobPacket 16) 0 1) = true ∧
    (jobPacket 16).assigned 1 ((jobRoot (jobPacket 16) 0).toNat * 4096) = true ∧
    ((jobPacket 16).admitJob 0 77 (jobWords (jobPacket 16) 0) (jobRoot (jobPacket 16) 0)).isSome = true ∧ jdOk (jobWords (jobPacket 49) 0) = false ∧
    (tdisp .locked (jobPacket 16)).jobOk 1 (JobDesc.ofWords (jobWords (jobPacket 16) 0)) (jobRoot (jobPacket 16) 0) = false ∧
    at_ (tdisp .locked (jobPacket 16)) 1 2 ∧ at_ (ckJob 1 [head_ 7 1, 0]) 7 1 ∧ (ckJob 1 [head_ 7 1, 0]).ownJob 0 0 = true ∧ ((ckJob 1 [head_ 7 1, 0]).job 0).jd.ckp = 1 ∧
    ((ckJob 0 [head_ 7 1, 0]).job 0).jd.ckp ≠ 1 ∧ (pk [head_ 7 1, 1]).ownJob 0 1 = false ∧ at_ (pk [head_ 8 1, 0]) 8 1 ∧ (pk [head_ 8 1, 0]).ownJob 0 0 = true ∧
    ((pk [head_ 8 1, 0]).qword 0 1).getLsbD 32 = false ∧ at_ (pk [head_ 8 1, 2 ^ 32]) 8 1 ∧ ((pk [head_ 8 1, 2 ^ 32]).qword 0 1).getLsbD 32 = true ∧
    (pk [head_ 8 1, 2 ^ 32]).copies = [] := by
  unfold at_ AtPacket
  and_intros <;> decide +kernel

def ring1 (latched : Nat) : State := base.setRing 1 0 { EvRing.none with part := 1, ebf := 0x320, latched := latched, wait := [77, 78] }
theorem witness_PacketJobsAndQueues_queues :
    (lookup (pk [head_ 4 0]).queues 0).isSome = true ∧ ((pk [head_ 4 0]).part ((pk [head_ 4 0]).queue 0).part).tdisp ≠ .error ∧
    ((tdisp .error (pk [head_ 4 0])).part 1).tdisp = .error ∧ ((tdisp .locked base).part (2 - 1)).tdisp ≠ .run ∧ (base.part (2 - 1)).tdisp = .run ∧
    0 ∉ (base.part 1).rcd.queues ∧ 0 ∈ ((pk [head_ 4 0]).part 1).rcd.queues ∧ ((ring1 3).ring 1 0).latched ≠ 0 ∧ ((ring1 0).ring 1 0).latched = 0 ∧
    ((ring1 0).ring 1 0).wait = [77, 78] ∧ ((ring1 0).part 1).tdisp ≠ .error ∧
    ((ring1 0).recall (0x320000 / 128)).liveCopy (0x320000 / 128) = none := by decide +kernel

def hostLine : Nat := 2 ^ 48 / 128
def homeHas (tc : Nat) (ow : Bool) : State := { base with home := [(hostLine, { tc := tc, ow := ow })] }
/-- The host decodes 0x10000 to the line of `hbmLine` under slot 1, or 3 which is not loaded; H0 holds tokens of it. -/
def hdmState (kid : BitVec 6) (tc : Nat) (wb : Bool) : State :=
  { base with hdm := [{ lo := 0x10000, hi := 0x20000, dev := hbmLine * 128, kid := kid, part := 1 }],
              h0 := [(hbmLine, { Line.none with tc := tc, ow := decide (tc = 16), dv := decide (tc ≠ 0), kid := 1, data := 5, wb := wb })] }

/-- H0 has asked the host for permission of its line, which the host has shared; for its copy of the line of `hbmLine`. -/
def asked : State := { base with hostOut := [.rdShared hostLine, .rdOwn hostLine], perm := [(hostLine, .shared)] }
def asking (s : State) : State := { s with hostOut := [.bisnp hbmLine] }

theorem witness_HostLines :
    regionOf (hostLine * 128) = .host ∧ (base.holding hostLine).ow = true ∧ (base.holding hostLine).tc = 16 ∧ ((homeHas 3 false).holding hostLine).ow = false ∧
    ((homeHas 3 false).holding hostLine).tc ≠ 16 ∧ ((homeHas 3 false).freeEntry 8 48 16).isSome = true ∧ base.homeq = [] ∧ base.reqs = [] ∧
    HostMsg.rdOwn hostLine ∈ asked.hostOut ∧ HostMsg.rdShared hostLine ∈ asked.hostOut ∧ HostMsg.rdOwn hostLine ∉ base.hostOut ∧ asked.hostPerm hostLine ≠ .none ∧
    (hdmState 1 16 false).hdmOf 0x10000 = some (hbmLine * 128, 1) ∧ (hdmState 1 16 false).hdmOf 0x20000 = none ∧
    (hdmState 1 16 false).hdmLocked 0x10000 1 = false ∧ (hdmState 3 16 false).hdmLocked 0x10000 3 = true ∧ (hdmState 3 16 false).hdmOf 0x10000 = some (hbmLine * 128, 3) ∧
    (hdmState 1 16 false).h0Has hbmLine true = true ∧ (hdmState 1 1 false).h0Has hbmLine false = true ∧ ((hdmState 1 1 false).h0line hbmLine).wb = false ∧
    (hdmState 1 0 false).h0Has hbmLine false = false ∧ (hdmState 1 1 false).h0Has hbmLine true = false ∧ AllAtH0 (hdmState 1 16 false) hbmLine ∧
    ((hdmState 1 16 true).h0line hbmLine).wb = true ∧ (hdmState 1 16 false).reqs = [] ∧ HostMsg.bisnp hbmLine ∉ base.hostOut ∧
    HostMsg.bisnp hbmLine ∈ (asking (hdmState 1 16 true)).hostOut := by
  unfold AllAtH0
  and_intros <;> decide +kernel

/-- Device 9's partition 2 may reach partition 1's frames 0 to 0x3FF, to write where `w`. -/
def importState (w : Bool) (tc : Nat) (s : State) : State :=
  { (s.setPart 1 { s.part 1 with rcd := { (s.part 1).rcd with frames := [(0, 0x400)] } }) with
    imports := [{ dev := 9, spart := 2, tpart := 1, lo := 0, hi := 0x400000, kid := 1, w := w }],
    h0 := (hdmState 1 tc false).h0 }

theorem witness_RemoteAccesses :
    let s := importState true 16 base
    (importState false 16 base).importFor 9 2 (hbmLine * 128) 4 true = none ∧ s.importFor 9 2 0x3FFFFF 4 false = none ∧
    (s.importFor 9 2 (hbmLine * 128) 4 true).isSome = true ∧ (importState true 0 (withPage base openRec)).recordAt 0x200000 = some (recKey aHome 3, openRec) ∧
    (importState true 0 (withPage base sealedRec)).recordAt 0x200000 = some (recKey aHome 3, sealedRec) ∧
    ((importState true 0 (withPage base sealedRec)).importFor 9 2 0x200000 4 false).isSome = true ∧ s.recordAt (hbmLine * 128) = none ∧
    hbmLine = (hbmLine * 128 + 128 - 1) / 128 ∧ s.keyOk 1 1 = true ∧ (importState true 0 base).h0Has hbmLine false = false ∧ AllAtH0 s hbmLine := by
  unfold AllAtH0
  and_intros <;> decide +kernel
/-- The device's import entry, and its three accesses of `hbmLine`. -/
def imp : Import := { dev := 9, spart := 2, tpart := 1, lo := 0, hi := 0x400000, kid := 1, w := true }
theorem witness_RemoteAccesses_performed :
    let s := importState true 16 base
    (∀ op, op ∈ [RemoteOp.read, .write [1, 2, 3, 4], .atom .add false 1 0] →
      ImportOf s 9 2 (hbmLine * 128) 4 op imp ∧ ImportOf (importState true 0 base) 9 2 (hbmLine * 128) 4 op imp) ∧
    (s.h0line hbmLine).wb = false ∧ (s.h0line hbmLine).pz = false ∧ ((importState true 0 base).h0line hbmLine).wb = false ∧
    s.h0Has hbmLine false = true ∧ remoteShape 0x200000 4 .read = true ∧ remoteShape 0x3FFFFC 4 .read = true ∧
    (let b := { s with h0 := (hdmState 1 16 true).h0 }
     (b.h0line hbmLine).wb = true ∧ .bisnp hbmLine ∉ b.hostOut ∧ ImportOf b 9 2 (hbmLine * 128) 4 .read imp) := by
  unfold ImportOf
  and_intros <;> decide +kernel

def ideState (x : Tdisp) : State :=
  { (inSession base).setPart 1 { base.part 1 with tdisp := x, bar0 := 0x4000, bar2 := 0x100000, ide := 6 } with
    boot := { base.boot with session := true, streams := [6] } }

theorem witness_InterfaceStates :
    (ideState .unlocked).boot.session = true ∧ ((ideState .unlocked).part 1).tdisp = .unlocked ∧ ((ideState .unlocked).part 1).ide.toNat ∈ (ideState .unlocked).boot.streams ∧
    ((ideState .unlocked).part 1).bar0 ≠ 0 ∧ ((ideState .unlocked).part 1).bar2 ≠ 0 ∧ base.boot.session = false ∧ ((ideState .locked).part 1).tdisp = .locked ∧
    ((ideState .run).part 1).tdisp = .run ∧ ((ideState .error).part 1).tdisp = .error ∧ (1 : BitVec 256) ≠ ((ideState .locked).part 1).nonce ∧
    (∀ e, e ∈ (ideState .unlocked).parts → e.1 ≠ 1 → e.2.setUp = true → False) ∧ (∃ e, e ∈ (ideState .unlocked).parts ∧ e.1 ≠ 2 ∧ e.2.setUp = true ∧
      sharesWith { Sys2Proof.Machine.Part.none.rcd with queues := [5] } { e.2.rcd with queues := [5] } = true) ∧
    PartRec.skidOk ((ideState .unlocked).part 1).rcd = true ∧ PartRec.skidOk Sys2Proof.Machine.Part.none.rcd = false := by
  and_intros <;> decide +kernel

theorem witness_BootAndPower :
    let r := { base with boot := { base.boot with recovery := true, status := 2 } }
    r.boot.recovery = true ∧ r.boot.status ≠ 0 ∧ (inSession base).boot.session = true ∧ base.boot.session = false ∧
    (∀ e, e ∈ (tdisp .unlocked base).parts → e.2.tdisp = .unlocked) ∧ (1, base.part 1) ∈ base.parts ∧ (base.part 1).tdisp ≠ .unlocked := by decide +kernel

/-! ## Witnesses: words and steps -/

theorem witness_IllegalWords :
    (0xFFFFFFFF : IWord).extractLsb' 0 32 = 0xFFFFFFFF ∧ (debugged base).curJob.da = true ∧ base.curJob.da = false ∧
    decode 0x00800C0100A1F0ED = .error .operand ∧ decode 3 ≠ .error .operand := by
  refine ⟨by decide, by decide +kernel, by decide +kernel, rfl, ?_⟩
  intro h
  have e : decode 3 = .error .opcode := rfl
  rw [e] at h
  cases h

theorem witness_EncodeDecode : (Instr.sadd false { ty := .s64, d := 6, a := 5, b := .imm 100 }).wf = true ∧
    encode (.sadd false { ty := .s64, d := 6, a := 5, b := .imm 100 }) = some 0x8001900280600041 ∧ encode (.waitpkt 10 11) = some 0x5850B ∧
    decode 0x40000000 = .ok .nop := ⟨by decide, by decide +kernel, by decide +kernel, rfl⟩

def stepState (nbits w : Nat) : State := State.withFetchWord State.reset nbits w
def anIssue (s : State) (key : Nat) (w : IWord) : Bool := (s.sailIssue key).any (fun i => (match i.c.w with | .word x => x == w | _ => false) && i.s.stopTrap.isNone && decide (i.s.curGroup.vr = 1536))
theorem witness_StepRuns_issue :
    let s := stepState 64 0x8001900280600041
    s.boot.fatal = false ∧ s.boot.rom = false ∧ s.turn = none ∧ s.eventMoves.length = 0 ∧ s.agenda = [] ∧ s.threadMoves.length = 0 ∧
    s.sailKeys.filter (fun k => (s.sailIssue k).isSome) = [0] ∧ anIssue s 0 0x8001900280600041 = true ∧
    (Instr.sadd false { ty := .s64, d := 6, a := 5, b := .imm 100 }).fits 1536 = true ∧
    (Instr.vadd false { g := go, ty := .s32, d := 1536, a := 1, b := .reg 2 }).fits 1536 = false := by decide +kernel

theorem witness_StepRuns_thread :
    let s := stepState 32 0x5850B
    s.boot.fatal = false ∧ s.boot.rom = false ∧ s.turn = some 0 ∧ (s.thread 0).blocked = none ∧ (s.thread 0).pc.toNat < 2 ^ 58 ∧
    regionOf ((s.thread 0).pc.toNat % 2 ^ 52) = .hbm ∧ decodeCustom (s.threadWord (s.thread 0).pc) = some (.waitpkt 10 11) ∧
    decodeCustom 0x0000700B = none ∧ (0x0000700B : Word).extractLsb' 0 7 = 0x0B ∧
    decodeCustom 0xFFF58513 = none ∧ (0xFFF58513 : Word).extractLsb' 0 7 ∉ [0x0B, 0x2B, 0x5B, 0x7B] := by decide +kernel
/-- `addi x10, x11, -1` as the first instruction that thread 0 executes. -/
theorem test_rv_addi : (match step (stepState 32 0xFFF58513) with
    | .next t => (t.thread 0).xget 10 == ~~~ 0 && (t.thread 0).pc == 0x0010000000001004 && (t.thread 0).minstret == 1 && t.turn.isNone
    | _ => false) = true := by decide +kernel

/-- Nothing but an input waits. -/
def inputState : State := { placeWords State.reset [] with groups := [], teams := [], jobs := [], agenda := [.fcCommit] }
theorem witness_StepRuns_agenda :
    inputState.boot.fatal = false ∧ inputState.boot.rom = false ∧ inputState.turn = none ∧ inputState.eventMoves.length = 0 ∧ inputState.issueMoves.length = 0 ∧ inputState.threadMoves.length = 0 ∧
    inputState.agenda = [.fcCommit] ∧ encode .fcCommit = none ∧ gives .fcCommit { inputState with agenda := [] } (fun t => t.agenda.isEmpty) = true ∧
    inputState.nextMoves.length = 1 := by decide +kernel

theorem witness_StepRuns_fetch : ∃ x, (stepState 32 0x40000000).xlate 0 0 .fetch 4 0x1000 = .ok x ∧
    ((stepState 32 0x40000000).poisonNow (x.pa / 128) = false ∧ BitVec.ofNat 32 ((stepState 32 0x40000000).numNow x.kid x.pa 4) = 0x40000000) := by
  exact ok_ex (fun x => !(stepState 32 0x40000000).poisonNow (x.pa / 128) && (BitVec.ofNat 32 ((stepState 32 0x40000000).numNow x.kid x.pa 4) == (0x40000000 : Word)))
    (fun x h => by simpa using h) (by decide +kernel)

theorem witness_ResetAndFatal :
    State.reset.boot.fatal = false ∧ State.reset.boot.rom = true ∧ ({ State.reset with boot := { Boot.reset with fatal := true } } : State).boot.fatal = true ∧
    State.reset.agenda = [] ∧ Instr.fcCommit ≠ .reset ∧ Instr.fcCommit ≠ .mailboxReset := by decide +kernel

theorem witness_MemoryForm : State.reset.memWf ∧ base.memWf ∧ (withPage base openRec).memWf := by
  unfold State.memWf
  decide +kernel

/-! ## Ill-formed terms, one for each check of WellFormed -/

def b32 (d a : BitVec 11) : VBin := { g := go, ty := .s64, d := d, a := a, b := .reg 2 }
def fb (ty : FTy) (rm : Rm) (d : BitVec 11) : FUn := { g := go, rm := rm, ty := ty, d := d, a := 2 }
def mm (w : Width) (d : BitVec 11) (ad : Addr) (ord : Ord) : Mem := { g := go, ord := ord, w := w, d := d, ad := ad, off := .o8 0 }

theorem test_wf_registers :
    (Instr.vadd false (b32 3 2)).wf = false ∧ (Instr.vadd false (b32 1536 2)).wf = false ∧ (Instr.vadd false (b32 1534 2)).wf = true ∧
    (Instr.retSr 3).wf = false ∧ (Instr.ret go 3).wf = false ∧ (Instr.call go 3 0).wf = false ∧ (Instr.vrand go 2 (.reg 1)).wf = false ∧
    (Instr.accrd go 1521 0 0).wf = false ∧ (Instr.accrd go 1520 0 0).wf = true ∧ (Instr.vlane .b32 1 0 (.vu 1536)).wf = false ∧
    (Instr.vbcast go .b32 0 0 (.vu 1536)).wf = false := by decide

theorem test_wf_types_and_modes :
    (Instr.vmad { g := go, ty := .s8x4, d := 0, a := 0, b := .reg 0, c := 0 }).wf = false ∧ (Instr.vdot { g := go, ty := .s32, d := 0, a := 0, b := .reg 0, c := 0 }).wf = false ∧
    (Instr.vmulSr 3 { d := 0, a := 0, b := 0 }).wf = false ∧ (Instr.vcmp .eq { g := go, ty := .n8x4, d := 1, a := 0, b := .imm 0 }).wf = false ∧
    (Instr.vfcmp .eq { g := go, ty := .f16x2, d := 1, a := 0, b := .imm 0 }).wf = false ∧ (Instr.vrcp (fb .f64 .dyn 0)).wf = false ∧
    (Instr.vrcp (fb .f32 .sr 0)).wf = false ∧ (Instr.vrcp (fb .f32 .rna 0)).wf = true ∧ (Instr.vfabs (fb .f32 .rne 0)).wf = false ∧
    (Instr.vfclass (fb .bf16x2 .dyn 0)).wf = false ∧ (Instr.vcvt go .dyn false 0 5 2 0 0).wf = false ∧ (Instr.vcvt go .dyn false 0 0x20 2 0 0).wf = false ∧
    (Instr.vcvt go .dyn false 0 0x3F 2 0 0).wf = true ∧ (Instr.vred (.flt .fadd .f32) go .sr 0 0).wf = false ∧
    (Instr.vred (.flt .fmin .f32) go .rne 0 0).wf = false ∧ (Instr.vred (.int .add .s32) go .rne 0 0).wf = false ∧ (Instr.qntz .sr false 8 10).wf = false ∧
    (Instr.sbfx { ty := .s64, d := 1, a := 1, b := .imm 4096 }).wf = false ∧ (Instr.sbfx { ty := .s64, d := 1, a := 1, b := .rlit 4096 }).wf = false ∧
    (Instr.vbfx { g := go, ty := .s32, d := 1, a := 1, b := .ilit 4096 }).wf = false := by decide

theorem test_wf_memory :
    (Instr.ld false (mm .w64 3 (.base 8) .plain)).wf = false ∧ (Instr.ld false (mm .w128 2 (.base 8) .plain)).wf = false ∧
    (Instr.ld false (mm .w32 3 (.vec 3) .plain)).wf = false ∧ (Instr.ld false (mm .w32 3 (.base 8) .rel)).wf = false ∧
    (Instr.ld true (mm .w32 3 (.base 8) .plain)).wf = false ∧ (Instr.ld true (mm .w16 3 (.base 8) .plain)).wf = true ∧
    (Instr.st (mm .w32 3 (.base 8) .acq)).wf = false ∧ (Instr.lds false (mm .w32 3 (.vec 4) .plain)).wf = false ∧
    (Instr.stk (mm .w32 3 .spill .plain)).wf = false ∧ (Instr.ldnr 1 (mm .w32 3 (.base 8) .acq)).wf = false ∧ (Instr.pref go .spill (.o8 0)).wf = false ∧
    (Instr.atom .add (mm .w16 3 (.base 8) .plain)).wf = false ∧ (Instr.atom .cas (mm .w32 3 (.base 8) .plain)).wf = false ∧
    (Instr.atom .cas (mm .w64 2 (.base 8) .plain)).wf = false ∧ (Instr.atomH .add (mm .w32 3 .spill .plain)).wf = false ∧
    (Instr.apnd { g := go, w := .w16, d := 0, base := 8, st := 1, pf := 0, cnt := 0, off := .o8 0 }).wf = false ∧
    (Instr.apnd { g := go, w := .w128, d := 1532, base := 8, st := 1, pf := 0, cnt := 1, off := .o8 0 }).wf = false := by decide

theorem test_wf_handles :
    (Instr.mma { z := true, d := 0, gang := 0, a := 1, b := 3 }).wf = false ∧ (Instr.mma { z := true, d := 0, gang := 0, a := 1, b := 0 }).wf = false ∧
    (Instr.bload 1 5).wf = false ∧ (Instr.bcopy 1 6).wf = false ∧ (Instr.bcopy 1 0).wf = false ∧ (Instr.bcopy2d 1 4 5).wf = false ∧ (Instr.bapnd 1 6 0).wf = false ∧
    (Instr.tileget 2).wf = false ∧ (Instr.tilestat 3).wf = false ∧ (Instr.ckcost 0).wf = false ∧ (Instr.bcopy 1 4).wf = true := by decide

/-! ## Words written out from the spec -/

/-- Two words of an instruction, the first lowest (R164). -/
def two (w0 w1 : Nat) : IWord := BitVec.ofNat 96 (w1 * 2 ^ 32 + w0)
/-- The long formats by their fields (R165). -/
def lr (md fn b a d gn gp rm ty op : Nat) : IWord :=
  BitVec.ofNat 96 (md * 2 ^ 59 + fn * 2 ^ 53 + b * 2 ^ 42 + a * 2 ^ 31 + d * 2 ^ 20 + gn * 2 ^ 19 + gp * 2 ^ 15 + rm * 2 ^ 12 + ty * 2 ^ 9 + op * 4 + 1)

-- the listings of R360 to R379 and the examples of R206, R234, R268 and R269
theorem test_decode_control :
    decode (two 0x00000011 0x00000000) = .ok (.jset noGuard 0) ∧ decode (two 0x80008019 0x00000003) = .ok (.call { gp := 1, gn := false } 0 7) ∧
    decode (two 0x00000015 0x00000001) = .ok (.join 0 2) ∧ decode (two 0x8008800D 0x0000000B) = .ok (.brx { gp := 1, gn := true } 23) ∧
    decode (two 0x01400009 0xFFFFFFFD) = .ok (.brc 20 (-6)) ∧ decode 0xFFFFEC04 = .ok (.braSb (-10)) ∧ decode 0x00000024 = .ok .exitSr :=
  ⟨rfl, rfl, rfl, rfl, rfl, rfl, rfl⟩

theorem test_decode_scalar_and_predicate :
    decode 0x80012A40 = .ok (.saddSi false 21 1) ∧ decode (two 0x01500275 0x8001F00A) = .ok (.sbfx { ty := .n64, d := 21, a := 20, b := .imm 0x7C }) ∧
    decode (two 0x0050006D 0x80000000) = .ok (.smov .s64 5 (.imm (.i16 0))) ∧ decode (two 0x00100145 0x803C3C00) = .ok (.pmovImm noGuard 1 (.i16 0x0F0F)) :=
  ⟨rfl, rfl, rfl, rfl⟩

theorem test_decode_vector :
    decode (two 0x805000A1 0x80000C12) = .ok (.vand { g := noGuard, ty := .b32, d := 5, a := 37, b := .imm 3 }) ∧
    decode (two 0x803000C9 0x94001812) = .ok (.vcmp .ge { g := noGuard, ty := .s32, d := 3, a := 37, b := .imm 6 }) ∧
    decode (two 0x00A180CD 0x80000400) = .ok (.vmov { gp := 3, gn := false } .b32 10 (.imm (.i16 1))) ∧
    decode (two 0x03C002CD 0x00200014) = .ok (.vmovS2v noGuard .b64 60 40) := ⟨rfl, rfl, rfl, rfl⟩

theorem test_decode_float_and_cross_lane :
    decode (two 0x82A00129 0x00000014) = .ok (.vsigm { g := noGuard, rm := .dyn, ty := .f32, d := 42, a := 41 }) ∧
    decode (two 0x02B0112D 0x0C800815) = .ok (.vcvt noGuard .rne true 0 0x24 2 43 42) ∧
    decode (two 0x01401151 0x00C00002) = .ok (.vred (.flt .fadd .f32) noGuard .rne 20 4) ∧
    decode (two 0x01400159 0x00000002) = .ok (.vballot noGuard 20 4) ∧ decode (two 0x0140015D 0x00000001) = .ok (.vlane .b32 20 2 (.reg 0)) ∧
    decode (two 0x0250015D 0x00200000) = .ok (.vlaneId noGuard 37) := ⟨rfl, rfl, rfl, rfl, rfl, rfl⟩

theorem test_decode_memory :
    decode (two 0x03228581 0x00020CC4) = .ok (.ld false { g := { gp := 5, gn := false }, ord := .plain, w := .w32, d := 50, ad := .zx 8 51, off := .o8 0 }) ∧
    decode (two 0x0050A585 0x00000004) = .ok (.st { g := { gp := 1, gn := false }, ord := .rel, w := .w32, d := 5, ad := .base 8, off := .o8 0 }) ∧
    decode (two 0x002095A1 0x00700004) = .ok (.atom .cas { g := { gp := 1, gn := false }, ord := .acq, w := .w32, d := 2, ad := .base 8, off := .o8 0 }) ∧
    decode (two 0x803085A5 0x10000004) = .ok (.atomH .add { g := { gp := 1, gn := false }, ord := .plain, w := .w32, d := 3, ad := .base 9, off := .o8 16 }) ∧
    decode (two 0x0040098D 0x01020911) = .ok (.sts { g := noGuard, ord := .plain, w := .w128, d := 4, ad := .zx 34 36, off := .o8 1 }) ∧
    decode (two 0x82900589 0x10020911) = .ok (.lds false { g := noGuard, ord := .plain, w := .w32, d := 41, ad := .zx 35 36, off := .o8 16 }) ∧
    decode (two 0x020009AD 0x00105084) = .ok (.apnd { g := noGuard, w := .w128, d := 32, base := 8, st := 20, pf := 2, cnt := 1, off := .o8 0 }) ∧
    decode (two 0x017001B1 0x00000004) = .ok (.seal { d := 23, base := 8, off := .o8 0 }) ∧
    decode (two 0x000001A9 0x00600000) = .ok (.waitc .g 0) ∧ decode (two 0x0000019D 0x00700004) = .ok (.memhint .repl noGuard (.base 8) (.o8 0)) :=
  ⟨rfl, rfl, rfl, rfl, rfl, rfl, rfl, rfl, rfl, rfl⟩

theorem test_decode_mill_and_engines :
    decode (two 0x801001C1 0x00000002) = .ok (.gangset 1 5) ∧ decode (two 0x005001C5 0x08203005) = .ok (.mma { z := true, d := 5, gang := 1, a := 10, b := 12 }) ∧
    decode (two 0x010001D5 0x00203801) = .ok (.accrd noGuard 16 2 14) ∧ decode (lr 0 0 10 8 0 0 0 0 0 0x74) = .ok (.bload 8 10) ∧
    decode (lr 0 0 0 8 1 0 0 0 0 0x78) = .ok (.bcopy 1 8) ∧ decode (lr 0 3 5 1 0 0 0 0 0 0x7A) = .ok (.barwait 1 5) ∧
    decode (lr 0 5 0 0 0 0 0 0 0 0x7A) = .ok .tbar ∧ decode (two 0x00C001ED 0x00000000) = .ok (.tileget 12) := ⟨rfl, rfl, rfl, rfl, rfl, rfl, rfl, rfl⟩

theorem test_decode_system :
    decode (two 0x028001F1 0x88004000) = .ok (.csrrd 40 0x010) ∧ decode (two 0x800001F1 0x8C004414) = .ok (.csrwr 0x011 41) ∧
    decode (two 0x000001F1 0x00200000) = .ok .tret ∧ decode (two 0x806001F5 0x00200003) = .ok (.ckclose 6 7) ∧ decode (two 0x01E001F5 0) = .ok (.ckopen 30) ∧
    decodeCustom 0x0005850B = some (.waitpkt 10 11) := ⟨rfl, rfl, rfl, rfl, rfl, rfl⟩

theorem test_decode_refuses :
    decode (lr 0 7 0 0 0 0 0 0 0 0x7A) = .error .opcode ∧ decode (lr 0 0 0 0 0 0 0 0 0 0x7F) = .error .opcode ∧
    decode (lr 0 0 0 0 0 0 1 0 0 0x7A) = .error .operand := ⟨rfl, rfl, rfl⟩

/-! ## Single steps -/

-- R191: smov s4, 0x12345678 and sli.w s4, s4, 0x9ABCDEF0
theorem test_smov_sli :
    gives (.smov .s64 4 (.imm (.i32 0x12345678))) base (fun t => t.curGroup.sget 4 == 0x12345678) = true ∧
    gives (.sliW 4 4 (.i32 0x9ABCDEF0)) (scalars [0, 0, 0, 0x12345678]) (fun t => t.curGroup.sget 4 == 0x123456789ABCDEF0) = true := by decide +kernel

-- a wrap, a clamp, and a source that is also the destination
theorem test_sadd :
    gives (.sadd false { ty := .s32, d := 1, a := 1, b := .imm 1 }) (scalars [0x7FFFFFFF]) (fun t => t.curGroup.sget 1 == 0xFFFFFFFF80000000) = true ∧
    gives (.sadd true { ty := .s32, d := 1, a := 1, b := .imm 1 }) (scalars [0x7FFFFFFF]) (fun t => t.curGroup.sget 1 == 0x7FFFFFFF) = true ∧
    gives (.sadd false { ty := .s64, d := 0, a := 1, b := .imm 1 }) (scalars [5]) (fun t => t.curGroup.sget 0 == 0) = true := by decide +kernel

-- 1.0 + 2^-24 is inexact and ties to even; 1.0 / 0 raises DZ
theorem test_vfadd :
    gives (.vfadd { g := go, rm := .rne, ty := .f32, d := 5, a := 6, b := .rlit 0x33800000 })
      (withGroup base (fun g => g.setLanes 1 6 (List.range 16) (fun _ => 0x3F800000)) 0xFFFF)
      (fun t => t.curGroup.v32 5 15 == 0x3F800000 && t.curGroup.fmode == 0x08) = true := by decide +kernel

-- R332: CRC-32C (Castagnoli): its check value, the CRC of the digits 1 to 9
theorem test_crc32c : crcBytes 0 (List.replicate 8 0) = 0 ∧ ~~~ (crcBytes 0xFFFFFFFF [0x31, 0x32, 0x33, 0x34, 0x35, 0x36, 0x37, 0x38, 0x39]) = 0xE3069283 := by
  decide +kernel

-- a load of two lanes at neighbouring words of the L2's line, and the CAS that takes the first
theorem test_load : gives (.ld false (mem32 8)) memState (fun t => t.curGroup.v32 4 0 == 0x23456789 && t.curGroup.v32 4 1 == 1) = true := by decide +kernel

-- the trap's registers: CAUSE 0x22, CODE in FIINFO, PC at the handler
theorem test_trap : gives (.trap 0x42) base (fun t => t.curGroup.tm && t.curGroup.fi.cause == 0x22 && t.curGroup.fi.pc == 0x1000 &&
    t.curGroup.fi.info.extractLsb' 48 16 == 0x42 && (t.curGroup.lane 3).pc == 0x2000) = true := by decide +kernel

-- step runs the placed word as its first instruction, of a group and of a thread
theorem test_first_step :
    (match step (State.withFetchWord State.reset 64 0x8001900280600041) with | .next t => (t.group 0).sget 6 == 100 && ((t.group 0).lane 0).pc == 0x1008 | _ => false) = true ∧
    (match step (State.withFetchWord State.reset 32 0x5850B) with | .next t => (t.thread 0).pc == 0x0010000000001004 | _ => false) = true := by decide +kernel

end Sys2Proof.Tests
end

section
namespace Sys2Proof.Proofs
open Sys2Proof.Machine Sys2Proof.Says Sys2Proof.Laws

/-! ## Bytes of a number (R5) -/

theorem toBytes_length (n x : Nat) : (toBytes n x).length = n := by simp [toBytes]

theorem getD_toBytes {n i : Nat} (x : Nat) (h : i < n) : (toBytes n x).getD i 0 = BitVec.ofNat 8 (x / 2 ^ (8 * i)) := by
  simp [toBytes, h, Nat.shiftRight_eq_div_pow]

/-- The bytes of a number but the lowest are those of its quotient by 256. -/
theorem toBytes_succ (n x : Nat) : toBytes (n + 1) x = BitVec.ofNat 8 x :: toBytes n (x / 256) := by
  have shift (i : Nat) : x >>> (8 * (i + 1)) = (x / 256) >>> (8 * i) := by
    rw [Nat.shiftRight_eq_div_pow, Nat.shiftRight_eq_div_pow, Nat.div_div_eq_div_mul, Nat.mul_succ, Nat.pow_add, Nat.mul_comm]
  simp [toBytes, List.range_succ_eq_map, Function.comp_def, shift]

theorem ofBytes_toBytes (n x : Nat) (h : x < 2 ^ (8 * n)) : ofBytes (toBytes n x) = x := by
  induction n generalizing x with
  | zero => exact (Nat.lt_one_iff.mp h).symm
  | succ n ih =>
    have hq : x / 256 < 2 ^ (8 * n) := Nat.div_lt_of_lt_mul (by rwa [Nat.mul_succ, Nat.pow_add, Nat.mul_comm] at h)
    have hr : ofBytes (toBytes (n + 1) x) = x % 256 + 256 * ofBytes (toBytes n (x / 256)) := by
      rw [toBytes_succ]; simp [ofBytes]
    rw [hr, ih _ hq]
    exact Nat.mod_add_div x 256

/-- A bit vector is read back from its bytes. -/
theorem ofNat_ofBytes {n : Nat} (d : BitVec (8 * n)) : BitVec.ofNat (8 * n) (ofBytes (toBytes n d.toNat)) = d := by
  rw [ofBytes_toBytes n _ d.isLt, BitVec.ofNat_toNat, BitVec.setWidth_eq]

/-! ## What the memory side of the machine leaves alone -/

/-- A state with the memory side of another: memory with its keys, poison and staging, the copies and tokens of lines, their messages and requests,
what TLBs and walk caches hold, the hint queue, and the free counter. -/
def withMemorySide (s t : State) : State :=
  { s with
    mem := t.mem, lineKid := t.lineKid, lineOld := t.lineOld, poison := t.poison, l2 := t.l2, home := t.home, perm := t.perm,
    hostDirty := t.hostDirty, hostOut := t.hostOut, h0 := t.h0, msgs := t.msgs, reqs := t.reqs, tlb := t.tlb, wcache := t.wcache,
    hints := t.hints, track := t.track, staged := t.staged, free := t.free }
/-- The memory side alone may differ. -/
def MemorySide (s t : State) : Prop := t = withMemorySide s t

namespace MemorySide
variable {s t u : State}

theorem of_fields (s : State) (mem lineKid lineOld poison l2 home perm hostDirty hostOut h0 msgs reqs tlb wcache hints track staged free) :
    MemorySide s { s with
      mem := mem, lineKid := lineKid, lineOld := lineOld, poison := poison, l2 := l2, home := home, perm := perm, hostDirty := hostDirty,
      hostOut := hostOut, h0 := h0, msgs := msgs, reqs := reqs, tlb := tlb, wcache := wcache, hints := hints, track := track, staged := staged,
      free := free } := rfl
theorem eq (h : MemorySide s t) : t = withMemorySide s t := h
theorem refl (s : State) : MemorySide s s := rfl
theorem trans (h : MemorySide s t) (k : MemorySide t u) : MemorySide s u :=
  k.eq.trans ((congrArg (withMemorySide · u) h.eq).trans rfl)
theorem foldl {α : Type} {f : State → α → State} (hf : ∀ s a, MemorySide s (f s a)) (l : List α) (s : State) : MemorySide s (l.foldl f s) :=
  List.foldlRecOn l f (refl s) (fun t ht a _ => ht.trans (hf t a))

/-- What does not read the memory side is as it was. -/
theorem congr {α : Type} (h : MemorySide s t) (f : State → α) (hf : f (withMemorySide s t) = f s) : f t = f s := (congrArg f h.eq).trans hf
theorem groups (h : MemorySide s t) : t.groups = s.groups := h.congr _ rfl
theorem jobs (h : MemorySide s t) : t.jobs = s.jobs := h.congr _ rfl
theorem cur (h : MemorySide s t) : t.cur = s.cur := h.congr _ rfl
theorem faults (h : MemorySide s t) : t.faults = s.faults := h.congr _ rfl
theorem boot (h : MemorySide s t) : t.boot = s.boot := h.congr _ rfl
theorem curGroup (h : MemorySide s t) : t.curGroup = s.curGroup := h.congr _ rfl

end MemorySide

theorem homeWrite_side (s : State) (la : Nat) : MemorySide s (s.homeWrite la) := by
  unfold State.homeWrite
  dsimp only
  split
  · split
    · split <;> exact .of_fields ..
    · exact .of_fields ..
  · split <;> exact .of_fields ..

theorem homeStore_side (s : State) (kid : BitVec 6) (la : Nat) (d : BitVec 1024) (pz : Bool) : MemorySide s (s.homeStore kid la d pz) :=
  (homeWrite_side s la).trans (.of_fields ..)

theorem homePut_side (s : State) (kid : BitVec 6) (pa : Nat) (bs : List Byte) : MemorySide s (s.homePut kid pa bs) := by
  refine (homeWrite_side s (pa / 128)).trans ?_
  unfold State.homePut
  dsimp only
  split <;> exact .of_fields ..

theorem storeOwner_side (s : State) (la : Nat) : MemorySide s (s.storeOwner la) := by
  unfold State.storeOwner
  split
  · split
    · exact homeStore_side _ _ _ _ _
    · exact .refl _
  · exact .refl _

theorem recall_side (s : State) (la : Nat) : MemorySide s (s.recall la) := by
  unfold State.recall
  split
  · exact .refl _
  · refine ((storeOwner_side s la).trans (.of_fields ..)).trans (.foldl (fun v d => ?_) _ _)
    split <;> exact .of_fields ..

theorem readHome_side (s : State) (la : Nat) : MemorySide s (s.readHome la) := by
  unfold State.readHome
  split
  · exact .refl _
  · exact recall_side s la

theorem poke_side (s : State) (kid : BitVec 6) (pa : Nat) (bs : List Byte) : MemorySide s (s.poke kid pa bs) := by
  refine ((recall_side s (pa / 128)).trans (homePut_side _ kid pa bs)).trans ?_
  unfold State.poke
  dsimp only
  split <;> exact .of_fields ..

theorem setAD_side (s : State) (job : Nat) (p : Page) (a d : Bool) : MemorySide s (s.setAD job p a d) := by
  rw [State.setAD]
  generalize s.entry _ _ ||| _ ||| _ = n
  split
  · exact .refl _
  · exact poke_side _ _ _ _

theorem fillWalk_side (s : State) (job die va : Nat) : MemorySide s (s.fillWalk job die va) := by
  refine .foldl (fun t e => ?_) _ s
  dsimp only
  split
  · exact readHome_side t _
  · exact (readHome_side t _).trans (.of_fields ..)

theorem fillTlb_side (s : State) (job die va : Nat) (p : Page) (d : Bool) : MemorySide s (s.fillTlb job die va p d) := by
  unfold State.fillTlb
  dsimp only
  split
  · split
    · exact (setAD_side s job p false true).trans (.of_fields ..)
    · exact .refl _
  · exact (((fillWalk_side s job die va).trans (readHome_side _ _)).trans (setAD_side _ job p true d)).trans (.of_fields ..)

theorem useXlate_side (s : State) (job die va : Nat) (k : AKind) (x : Xlate) : MemorySide s (s.useXlate job die va k x) :=
  fillTlb_side s job die va x.page k.writes

theorem request_side (s : State) (a la : Nat) (write : Bool) (kid : BitVec 6) : MemorySide s (s.request a la write kid) := by
  unfold State.request
  split
  · exact .refl _
  · dsimp only
    split
    · exact .of_fields ..
    · unfold State.attempt
      dsimp only
      split <;> exact .of_fields ..

end Sys2Proof.Proofs
end

section
namespace Sys2Proof.Proofs
open Sys2Proof.Machine Sys2Proof.Says Sys2Proof.Laws

/-! ## Pages that walks find (R19, R20) -/

theorem leafSize_pos {level sz n run : Nat} (h : leafSize level sz = some (n, run)) : 0 < n := by
  unfold leafSize at h
  split_ifs at h <;> cases h <;> decide

theorem leafPage_size_pos {s : State} {kid : BitVec 6} {level va frame : Nat} {e : DWord} {p : Page}
    (h : s.leafPage kid level va frame e = .page p) : 0 < p.size := by
  unfold State.leafPage at h
  split at h
  · cases h
  · next n run hn =>
    dsimp only at h
    split at h
    · cases h; exact leafSize_pos hn
    · cases h

theorem walkFrom_size_pos {s : State} {die rtag : Nat} {kid : BitVec 6} {va : Nat} {p : Page} (level frame : Nat)
    (h : (s.walkFrom die rtag kid va level frame).2 = .page p) : 0 < p.size := by
  induction level generalizing frame with
  | zero =>
    unfold State.walkFrom at h
    dsimp only at h
    split_ifs at h
    exact leafPage_size_pos h
  | succ level ih =>
    unfold State.walkFrom at h
    dsimp only at h
    split_ifs at h
    · exact leafPage_size_pos h
    · exact ih _ h

/-- The page of a fault holds the faulting address (R115). -/
theorem mem_faultPage (s : State) (job die va : Nat) :
    (s.faultPage job die va).1 ≤ va ∧ va < (s.faultPage job die va).1 + (s.faultPage job die va).2 := by
  unfold State.faultPage
  split
  · next p hp => exact ⟨Nat.div_mul_le_self _ _, Nat.lt_div_mul_add (walkFrom_size_pos _ _ hp)⟩
  · exact ⟨Nat.div_mul_le_self _ _, Nat.lt_div_mul_add (by decide)⟩

/-! ## Fault records (R115, R116) -/

/-- A record of a die's queue, with its number, for the page of an address. -/
def RecordFor (t : State) (die id va : Nat) : Prop :=
  ∃ f ∈ t.faults, f.id = id ∧ f.die = die ∧ f.base ≤ va ∧ va < f.base + f.size

theorem faultFor_some {s : State} {die rtag va : Nat} {f : FaultRec} (h : s.faultFor die rtag va = some f) :
    f ∈ s.faults ∧ f.die = die ∧ f.base ≤ va ∧ va < f.base + f.size := by
  have hp := List.find?_some h
  simp only [Bool.and_eq_true, beq_iff_eq, decide_eq_true_eq] at hp
  obtain ⟨⟨⟨hd, -⟩, hb⟩, hs⟩ := hp
  exact ⟨List.mem_of_find?_eq_some h, hd, hb, hs⟩

/-- A fault joins the record of its page or makes one, and only the queue changes; only a full queue refuses it. -/
theorem faultRecord_spec (s : State) (k va : Nat) (x : XFault) (at_ : Nat) (grp : Option FaultJoin) (eng : Option Nat) :
    match s.faultRecord k va x at_ grp eng with
    | some (t, id) => t = { s with faults := t.faults } ∧ RecordFor t (s.group k).place.die id va
    | none => s.faultFull (s.group k).place.die = true := by
  unfold State.faultRecord
  dsimp only
  split <;> rename_i heq
  · split at heq
    · next f hf =>
      cases heq
      obtain ⟨hm, hd, hb, hs⟩ := faultFor_some hf
      exact ⟨rfl, _, List.mem_map_of_mem hm, by simp, by simpa using hd, by simpa using hb, by simpa using hs⟩
    · split at heq
      · cases heq
      · cases heq
        obtain ⟨hb, hs⟩ := mem_faultPage s (s.group k).job (s.group k).place.die va
        exact ⟨rfl, _, List.mem_append_right _ (List.mem_singleton_self _), rfl, rfl, hb, hs⟩
  · split at heq
    · cases heq
    · split at heq
      · assumption
      · cases heq

/-! ## Faults of accesses (R104, R109) -/

section

variable {s : State} {x : XFault} {at_ lane : Nat} {va : DWord}

/-- The trap of an access that faults (R271). -/
def faultTrap (x : XFault) (at_ lane : Nat) (va : DWord) : Trap :=
  { Trap.of x.cause with rsn := x.rsn, at_ := at_, lane := lane, addr := va }

/-- A fault that is no PAGE_FAULT traps once the group's older accesses have performed. -/
theorem accFault_trap (hq : s.curGroup.quiet = true) (hx : x.cause ≠ 0x10) :
    s.accFault x at_ lane va = .trap (faultTrap x at_ lane va) := by
  simp [State.accFault, faultTrap, hq, hx]

/-- A PAGE_FAULT leaves its group waiting on a record of its page; its registers and memory stay. -/
theorem accFault_record (hq : s.curGroup.quiet = true) (hx : x.cause = 0x10) (hf : s.faultFull (myDie s) = false) :
    ∃ t id, s.accFault x at_ lane va = .wait t ∧ AllRegs s t ∧ t.mem = s.mem ∧ t.curGroup.wait = .fault (myDie s) id ∧
      RecordFor t (myDie s) id va.toNat := by
  rw [State.accFault]
  simp only [hq, hx]
  have hr := faultRecord_spec s s.cur.grp va.toNat x at_
    (some { grp := s.cur.grp, lanes := s.cur.lanes, act := s.cur.act, pc := s.cur.pc, len := s.cur.len, lane := lane, at_ := at_, addr := va }) none
  simp only [Bool.not_true, Bool.false_eq_true, if_false, if_true]
  split <;> rename_i heq <;> rw [heq] at hr
  · next t id =>
    obtain ⟨ht, hrec⟩ := hr
    have hg : t.curGroup = s.curGroup := by rw [ht]; rfl
    have hc : t.cur = s.cur := by rw [ht]
    refine ⟨_, id, rfl, ?_, ?_, ?_, hrec⟩
    · simp [AllRegs, OtherRegs, hg, Group.count]
    · show t.mem = s.mem
      rw [ht]
    · simp [myDie]
  · exact absurd hr (Bool.eq_false_iff.mp hf)

/-- The outcome of a faulting access: a trap with its cause, reason, lane and address, or a record of the die's fault queue. -/
theorem accFault_outcome {i : Instr} (hq : s.curGroup.quiet = true) (hi : exec i s = (s.accFault x at_ lane va).run s) :
    (x.cause ≠ 0x10 → Traps i s (fun t => t.cause = x.cause ∧ t.rsn = x.rsn ∧ t.at_ = at_ ∧ t.lane = lane ∧ t.addr = va)) ∧
    (x.cause = 0x10 → s.faultFull (myDie s) = false → ∃ t id, exec i s = .next t ∧ AllRegs s t ∧ t.mem = s.mem ∧
      t.curGroup.wait = .fault (myDie s) id ∧ RecordFor t (myDie s) id va.toNat) := by
  refine ⟨fun hx => ⟨faultTrap x at_ lane va, ⟨rfl, rfl, rfl, rfl, rfl⟩, hi.trans ?_⟩, fun hx hf => ?_⟩
  · rw [accFault_trap hq hx]; rfl
  · obtain ⟨t, id, ht, h⟩ := accFault_record (at_ := at_) (lane := lane) (va := va) hq hx hf
    exact ⟨t, id, hi.trans (by rw [ht]; rfl), h⟩

/-- A plan that faults decides a global memory instruction. -/
theorem globalAct_error {m : DWord} {o : GOp} {e : LaneFault} : globalAct s m o (.error e) = s.accFault e.x o.kind.at_ e.lane e.va := rfl

end

end Sys2Proof.Proofs
end

section
namespace Sys2Proof.Proofs
open Sys2Proof.Machine Sys2Proof.Says Sys2Proof.Laws

/-! ## Writes at the home of a line (R45, R54, R59) -/

/-- The bytes of a line lie in one region. -/
theorem regionOf_line {a b : Nat} (h : a / 128 = b / 128) : regionOf a = regionOf b := by
  have hr : a / 2 ^ 48 = b / 2 ^ 48 := by omega
  have hh : a < 2 ^ 39 ↔ b < 2 ^ 39 := by omega
  simp only [regionOf, hr, hh]
theorem keyed_line {a b : Nat} (h : a / 128 = b / 128) : keyed a = keyed b := by
  rw [keyed, keyed, regionOf_line h]

/-- A byte of memory reads the same where memory, and under a key the line's key, are the same. -/
theorem memByte_congr {s t : State} {kid : BitVec 6} {a : Nat} (hm : Memory.read t.mem a = Memory.read s.mem a)
    (hk : keyed a = true → getD 0 t.lineKid (a / 128) = getD 0 s.lineKid (a / 128) ∧ lookup t.lineOld (a / 128) = lookup s.lineOld (a / 128))
    (hs : t.keyOf kid = s.keyOf kid) : t.memByte kid a = s.memByte kid a := by
  unfold State.memByte
  by_cases h : keyed a = true
  · simp only [h, if_true, hm, (hk h).1, (hk h).2, hs]
  · simp only [h, hm, Bool.false_eq_true, if_false]

section

variable {s : State} {kid k : BitVec 6} {pa a : Nat} {bs : List Byte}

/-- A write within one line changes no byte of another. -/
theorem memByte_memPut_line (hw : pa % 128 + bs.length ≤ 128) (h : a / 128 ≠ pa / 128) :
    (s.memPut kid pa bs).memByte k a = s.memByte k a := by
  refine memByte_congr ?_ (fun _ => ⟨?_, lookup_remove_ne _ h⟩) rfl
  · simp only [State.memPut]
    rw [read_writeN_ne _ _ (by omega)]
    split
    · exact read_writeN_ne _ _ (by simp only [List.length_map, List.length_range]; omega)
    · rfl
  · simp only [State.memPut]
    split
    · exact getD_setD_ne _ _ _ h
    · rfl

/-- A write under the key that its line has changes no other byte of the line. -/
theorem memByte_memPut_ne (ha : a < pa ∨ pa + bs.length ≤ a) (hl : a / 128 = pa / 128) (ho : lookup s.lineOld (pa / 128) = none)
    (hk : keyed pa = false ∨ getD 0 s.lineKid (pa / 128) = kid) : (s.memPut kid pa bs).memByte k a = s.memByte k a := by
  refine memByte_congr (memPut_read_ne s kid pa a bs (hk.imp_right (⟨·, ho⟩)) ha) (fun hy => ?_) rfl
  rw [keyed_line hl] at hy
  simp only [State.memPut, hy, if_true, hl, getD_setD_self, lookup_remove_self, ho, and_true]
  exact (hk.resolve_left (by simp [hy])).symm

/-- The bytes written are what their key reads. -/
theorem memByte_memPut_at {i : Nat} (hi : i < bs.length) (hl : (pa + i) / 128 = pa / 128) :
    (s.memPut kid pa bs).memByte kid (pa + i) = bs.getD i 0 := by
  have hr := memPut_read_at s kid pa i bs hi
  by_cases hy : keyed pa = true
  · simp [State.memByte, keyed_line hl, hl, hy, hr, show (s.memPut kid pa bs).lineKid = setD 0 s.lineKid (pa / 128) kid by simp [State.memPut, hy],
      show (s.memPut kid pa bs).lineOld = remove s.lineOld (pa / 128) from rfl]
  · simp [State.memByte, keyed_line hl, hy, hr]

theorem homeWrite_rest (s : State) (la : Nat) :
    ∃ track staged hostDirty, s.homeWrite la = { s with track := track, staged := staged, hostDirty := hostDirty } := by
  unfold State.homeWrite
  dsimp only
  split
  · split
    · split <;> exact ⟨_, _, _, rfl⟩
    · exact ⟨_, _, _, rfl⟩
  · split <;> exact ⟨_, _, _, rfl⟩

/-- Where the home holds every token, a write by an agent there is a write of memory, with the line's marks. -/
theorem poke_home (h : s.holding (pa / 128) = Holding.all) :
    ∃ poison perm track staged hostDirty, s.poke kid pa bs =
      { s.memPut kid pa bs with poison := poison, perm := perm, track := track, staged := staged, hostDirty := hostDirty } := by
  obtain ⟨track, staged, hostDirty, hw⟩ := homeWrite_rest s (pa / 128)
  simp only [State.poke, State.recall, h, if_true, State.homePut, hw]
  split <;> split <;> exact ⟨_, _, _, _, _, rfl⟩

theorem poke_byteNow (h : s.holding (pa / 128) = Holding.all) : (s.poke kid pa bs).byteNow k a = (s.memPut kid pa bs).byteNow k a := by
  obtain ⟨_, _, _, _, _, hp⟩ := poke_home (kid := kid) (bs := bs) h
  rw [hp]; rfl
theorem poke_numNow {n : Nat} (h : s.holding (pa / 128) = Holding.all) : (s.poke kid pa bs).numNow k a n = (s.memPut kid pa bs).numNow k a n := by
  obtain ⟨_, _, _, _, _, hp⟩ := poke_home (kid := kid) (bs := bs) h
  rw [hp]; rfl

/-- A byte's value now is kept by a write at the home that keeps it in memory. -/
theorem memPut_byteNow (h : (s.memPut kid pa bs).memByte k a = s.memByte k a) : (s.memPut kid pa bs).byteNow k a = s.byteNow k a := by
  have hc : (s.memPut kid pa bs).liveCopy (a / 128) = s.liveCopy (a / 128) := rfl
  rw [State.byteNow, State.byteNow, hc, h]

/-! ## Accessed and dirty bits (R26) -/

/-- A byte outside an entry, of another line or of a line under the key that the entry is written with. -/
def OffEntry (s : State) (kid : BitVec 6) (first a : Nat) : Prop :=
  a / 128 ≠ first / 128 ∨ ((a < first ∨ first + 8 ≤ a) ∧ lookup s.lineOld (first / 128) = none ∧
    (keyed first = false ∨ getD 0 s.lineKid (first / 128) = kid))

/-- Setting A and D keeps every other byte. -/
theorem setAD_byteNow {job : Nat} {p : Page} {acc d : Bool} (h8 : p.first % 8 = 0) (hh : s.holding (p.first / 128) = Holding.all)
    (ho : OffEntry s (s.part (s.job job).part).skid p.first a) : (s.setAD job p acc d).byteNow k a = s.byteNow k a := by
  rw [State.setAD]
  generalize s.entry _ _ ||| _ ||| _ = n
  split
  · rfl
  · rw [poke_byteNow hh, memPut_byteNow]
    by_cases hl : a / 128 = p.first / 128
    · obtain ⟨ha, hold, hkid⟩ := ho.resolve_left (not_not_intro hl)
      exact memByte_memPut_ne (by simpa [toBytes_length] using ha) hl hold hkid
    · exact memByte_memPut_line (by rw [toBytes_length]; omega) hl

/-- The entry holds A and D after. -/
theorem setAD_entry {job : Nat} {p : Page} {acc d : Bool} (h8 : p.first % 8 = 0) (hh : s.holding (p.first / 128) = Holding.all)
    (hc : s.liveCopy (p.first / 128) = none) :
    (s.setAD job p acc d).entry (s.part (s.job job).part).skid p.first =
      s.entry (s.part (s.job job).part).skid p.first ||| (if acc then 0x4000 else 0) ||| (if d then 0x8000 else 0) := by
  rw [State.setAD]
  generalize hn : s.entry _ _ ||| _ ||| _ = n
  split
  · next he => exact he.symm
  · have hline (i : Nat) (hi : i < 8) : (p.first + i) / 128 = p.first / 128 := by omega
    have hnone : (s.memPut (s.part (s.job job).part).skid p.first (toBytes 8 n.toNat)).liveCopy (p.first / 128) = none := hc
    have hbytes : (List.range 8).map (fun i => (s.memPut (s.part (s.job job).part).skid p.first (toBytes 8 n.toNat)).memByte
        (s.part (s.job job).part).skid (p.first + i)) = toBytes 8 n.toNat :=
      List.map_congr_left (fun i hi => by
        have hi : i < 8 := List.mem_range.mp hi
        rw [memByte_memPut_at (by rwa [toBytes_length]) (hline i hi), getD_toBytes _ hi, Nat.shiftRight_eq_div_pow])
    rw [State.entry, poke_numNow hh, State.numNow, hnone]
    dsimp only
    rw [hbytes]
    exact ofNat_ofBytes (n := 8) n

/-! ## Using a translation (R26, R111) -/

/-- A walk whose entries' homes may read them fills the walk cache and changes nothing else. -/
theorem fillWalk_home {job die va : Nat} (h : ∀ e ∈ (s.walkPath job die va).1, (s.holding (e.2.1 / 128)).ow = true) :
    ∃ wcache, s.fillWalk job die va = { s with wcache := wcache } := by
  unfold State.fillWalk
  refine List.foldlRecOn (motive := fun (t : State) => ∃ wcache, t = { s with wcache := wcache }) _ _ ⟨s.wcache, rfl⟩ ?_
  rintro t ⟨w, rfl⟩ e he
  have hr : State.readHome { s with wcache := w } (e.2.1 / 128) = { s with wcache := w } := if_pos (h e he)
  dsimp only
  rw [hr]
  split <;> exact ⟨_, rfl⟩

/-- Using a translation keeps every byte but those of the first entry of its run. -/
theorem useXlate_byteNow {job die va : Nat} {ak : AKind} {x : Xlate} (h8 : x.page.first % 8 = 0)
    (hh : s.holding (x.page.first / 128) = Holding.all) (hw : ∀ e ∈ (s.walkPath job die va).1, (s.holding (e.2.1 / 128)).ow = true)
    (ho : OffEntry s (s.part (s.job job).part).skid x.page.first a) : (s.useXlate job die va ak x).byteNow k a = s.byteNow k a := by
  unfold State.useXlate State.fillTlb
  dsimp only
  split
  · split
    · exact setAD_byteNow h8 hh ho
    · rfl
  · obtain ⟨w, hf⟩ := fillWalk_home hw
    have hr : State.readHome { s with wcache := w } (x.page.first / 128) = { s with wcache := w } :=
      if_pos (show (s.holding (x.page.first / 128)).ow = true by rw [hh]; rfl)
    rw [hf, hr]
    exact setAD_byteNow (s := { s with wcache := w }) h8 hh ho

end

/-- Settles O18, access by access through `accFault_outcome`, and through what a write of one entry at its home keeps. -/
theorem accessFaultsAndMarks : Obligations.AccessFaultsAndMarks := by
  refine ⟨⟨fun s sx m e hq hp => ?_, fun s m e hq hp => ?_, fun s op m e hq hu hp => ?_⟩, ?_, ?_⟩
  · exact accFault_outcome hq (i := .ld sx m) (by show execLd sx m s = _; rw [execLd, hp]; rfl)
  · exact accFault_outcome hq (i := .st m) (by show execSt m s = _; rw [execSt, hp]; rfl)
  · exact accFault_outcome hq (i := .atom op m) (by show execAtom op m s = _; rw [execAtom, hu, hp]; rfl)
  · exact fun s job die va k x kid a _ _ h8 hh hw ho => useXlate_byteNow h8 hh hw ho
  · exact fun s job p a d _ h8 hh hc => setAD_entry h8 hh hc

end Sys2Proof.Proofs
end

section
namespace Sys2Proof.Proofs
open Sys2Proof.Machine Sys2Proof.Says Sys2Proof.Laws

/-! ## Requests that end (R60, R63) -/

/-- Requests, persistent entries, activations and waiting operations may differ, and messages have been added. -/
def RequestsEnd (s t : State) : Prop :=
  ∃ wants reqs ptab acts added, t = { s with wants := wants, reqs := reqs, ptab := ptab, acts := acts, msgs := s.msgs ++ added }

theorem RequestsEnd.refl (s : State) : RequestsEnd s s := ⟨s.wants, s.reqs, s.ptab, s.acts, [], by rw [List.append_nil]⟩
theorem RequestsEnd.trans {s t u : State} (h : RequestsEnd s t) (k : RequestsEnd t u) : RequestsEnd s u := by
  obtain ⟨_, _, _, _, l, rfl⟩ := h
  obtain ⟨wants, reqs, ptab, acts, m, rfl⟩ := k
  exact ⟨wants, reqs, ptab, acts, l ++ m, by simp only [List.append_assoc]⟩
/-- An update that adds no message. -/
theorem RequestsEnd.quiet (s : State) (wants reqs ptab acts) :
    RequestsEnd s { s with wants := wants, reqs := reqs, ptab := ptab, acts := acts } := ⟨_, _, _, _, [], by rw [List.append_nil]⟩

theorem maybeDeact_ends (s : State) (home idx : Nat) : RequestsEnd s (s.maybeDeact home idx) := by
  unfold State.maybeDeact
  split
  · dsimp only
    split
    · exact ⟨_, _, _, _, _, rfl⟩
    · exact .refl s
  · exact .refl s

theorem closeReqs_ends (s : State) (a la : Nat) : RequestsEnd s (s.closeReqs a la) := by
  unfold State.closeReqs
  dsimp only
  refine List.foldlRecOn (motive := RequestsEnd s) _ _ (.quiet s s.wants _ s.ptab s.acts) (fun t ht r _ => ht.trans ?_)
  split
  · split
    · split
      · split
        · exact (RequestsEnd.quiet t t.wants _ _ t.acts).trans (maybeDeact_ends _ _ _)
        · exact .refl t
      · split
        · exact ⟨_, _, _, _, _, rfl⟩
        · exact .refl t
    · exact .refl t
  · exact .refl t

theorem wantDone_ends (s : State) (a la : Nat) (write : Bool) : RequestsEnd s (s.wantDone a la write) :=
  (RequestsEnd.quiet s _ s.reqs s.ptab s.acts).trans (closeReqs_ends _ a la)

/-! ## Events that wait for tokens -/

/-- A request for a line stands after an agent has asked for it. -/
theorem reqOf_request (s : State) (a la : Nat) (write : Bool) (kid : BitVec 6) : ((s.request a la write kid).reqOf a la write).isSome = true := by
  unfold State.request
  split
  · next h => rw [h]; rfl
  · have found {t : State} (hr : t.reqs = s.reqs ++ [{
        agent := a, la := la, write := write, attempt := 0, rid := s.newRid a, kid := kid, esc := false, heldEsc := false }]) :
        (t.reqOf a la write).isSome = true := by
      rw [State.reqOf, hr, List.find?_isSome]
      exact ⟨_, List.mem_append_right _ (List.mem_singleton_self _), by simp⟩
    dsimp only
    split
    · exact found rfl
    · refine found ?_
      unfold State.attempt
      dsimp only
      split <;> rfl

theorem request_mem (s : State) (a la : Nat) (write : Bool) (kid : BitVec 6) : (s.request a la write kid).mem = s.mem := by
  unfold State.request State.attempt
  dsimp only
  split
  · rfl
  · split
    · rfl
    · split <;> rfl

/-- An event that asks H0 for a line comes again. -/
theorem again_waits (s : State) (la : Nat) (write : Bool) (kid : BitVec 6) (i : Instr) : Waits s (s.again la write kid i) i 8 la write := by
  have hw : (s.want 8 la write).agenda = s.agenda ∧ (s.want 8 la write).mem = s.mem := by
    unfold State.want
    dsimp only
    split <;> exact ⟨rfl, rfl⟩
  refine ⟨?_, reqOf_request (s.want 8 la write) 8 la write kid, (request_mem _ _ _ _ _).trans hw.2⟩
  have hr := (request_side (s.want 8 la write) 8 la write kid).congr State.agenda rfl
  show (State.request _ _ _ _ _).agenda ++ [i] = _
  rw [hr, hw.1]

/-! ## H0 gives a line home (R68) -/

theorem giveUp_keeps (s : State) (a la n : Nat) (ow : Bool) :
    (s.giveUp a la n ow).mem = s.mem ∧ (s.giveUp a la n ow).remoteOut = s.remoteOut ∧ (s.giveUp a la n ow).msgs = s.msgs := by
  unfold State.giveUp
  split
  · exact ⟨rfl, rfl, rfl⟩
  · split <;> exact ⟨rfl, rfl, rfl⟩

theorem h0Return_keeps (s : State) (la : Nat) (kid : BitVec 6) :
    (s.h0Return la kid).mem = s.mem ∧ (s.h0Return la kid).remoteOut = s.remoteOut := by
  unfold State.h0Return State.sendHeld
  dsimp only
  split
  · exact ⟨rfl, rfl⟩
  · obtain ⟨hm, hr, -⟩ := giveUp_keeps s 8 la (s.holds_ 8 la).tc (s.holds_ 8 la).ow
    exact ⟨hm, hr⟩

/-- The home of an HBM line is an agent of the dies. -/
theorem homeOf_hbm {pa : Nat} (h : regionOf pa = .hbm) : homeOf pa < 8 := by
  rw [homeOf, if_pos h, dieOf]
  omega

/-- With every token of a line and dirty data, H0 sends that data to the line's home. -/
theorem h0Return_sendsHome {s : State} {la : Nat} {kid : BitVec 6} (h : AllAtH0 s la) (hd : (s.h0line la).dt = true) :
    SendsHome (s.h0Return la kid) la (s.h0line la).kid (s.h0line la).data := by
  obtain ⟨hr, htc, -, how⟩ := h
  have hh := homeOf_hbm hr
  have hne : ¬ 8 = homeOf (la * 128) := by omega
  have hheld : s.holds_ 8 la = { tc := 16, ow := true } := by simp [State.holds_, hne, htc, how]
  refine ⟨{ mkMsg 3 8 (homeOf (la * 128)) la with
    tc := 16, ow := true, d := true, dt := true, pz := (s.h0line la).pz, kid := (s.h0line la).kid, data := (s.h0line la).data },
    ?_, rfl, ?_, rfl, rfl, rfl, rfl, rfl, rfl⟩
  · simp [State.h0Return, State.sendHeld, hheld, State.sendTok, State.dataOf, hne, hd]
  · show (BitVec.ofNat 4 (homeOf (la * 128))).toNat = _
    rw [BitVec.toNat_ofNat]
    omega

theorem sendsHome_mono {s t : State} {la : Nat} {kid : BitVec 6} {d : BitVec 1024} (h : SendsHome s la kid d) (hst : RequestsEnd s t) :
    SendsHome t la kid d := by
  obtain ⟨m, hm, h⟩ := h
  obtain ⟨_, _, _, _, _, rfl⟩ := hst
  exact ⟨m, List.mem_append_left _ hm, h⟩

/-! ## Lines of append-seal pages (R78) -/

/-- Bytes that are zero from an offset on make a number below it. -/
theorem ofBytes_lt {l : List Byte} {k : Nat} (h : ∀ i, k ≤ i → l.getD i 0 = 0) : ofBytes l < 2 ^ (8 * k) := by
  induction l generalizing k with
  | nil => exact Nat.two_pow_pos _
  | cons b l ih =>
    have step : ofBytes (b :: l) = b.toNat + 256 * ofBytes l := rfl
    cases k with
    | zero =>
      have hb : b = 0 := h 0 (Nat.le_refl 0)
      have hl : ofBytes l < 2 ^ (8 * 0) := ih (fun i _ => h (i + 1) (Nat.zero_le _))
      have hz : ofBytes l = 0 := Nat.lt_one_iff.mp hl
      rw [step, hb, hz]
      decide
    | succ k =>
      have hl : ofBytes l < 2 ^ (8 * k) := ih (fun i hi => h (i + 1) (by omega))
      have hb := b.isLt
      rw [step, Nat.mul_succ, Nat.pow_add]
      omega

/-- An unsealed page reads zero above its commit tail. -/
theorem asLine_above {s : State} {r : PageRec} {a w : Nat} (h : r.bfn.toNat * 4096 + r.ct ≤ a) :
    lineNum (s.asLine r (a / 128)) (a % 128) w = 0 := by
  have hlt : ofBytes ((List.range 128).map (fun i =>
      if a / 128 * 128 + i < r.bfn.toNat * 4096 + r.ct then s.memByte r.kid (a / 128 * 128 + i) else 0)) < 2 ^ (8 * (a % 128)) := by
    refine ofBytes_lt (fun i hi => ?_)
    by_cases hi' : i < 128
    · have : ¬ a / 128 * 128 + i < r.bfn.toNat * 4096 + r.ct := by omega
      simp [hi', this]
    · simp [hi']
  rw [lineNum, field, State.asLine, BitVec.toNat_ofNat, Nat.shiftRight_eq_div_pow,
    Nat.div_eq_of_lt (Nat.lt_of_le_of_lt (Nat.mod_le _ _) hlt), Nat.zero_mod]

/-! ## Accesses of other devices (R24, R89, R348) -/

section

variable {s : State} {dev part : Nat} {a : BitVec 39} {w : Nat} {op : RemoteOp} {e : Import}

theorem remoteAccessIn_noImport (hs : remoteShape a w op = true) (hi : s.importFor dev part a.toNat w (decide (op ≠ .read)) = none) :
    exec (.remoteAccessIn dev part a w op) s = .next (Answered s dev a w none false none) := by
  show execRemoteAccessIn dev part a w op s = _
  cases op <;> simp_all [execRemoteAccessIn, ev, State.respond, Answered]

/-- An admitted access of an append-seal page: a write is refused, a read is served at the page's home. -/
theorem remoteAccessIn_record {k : Nat} {r : PageRec} (hs : remoteShape a w op = true)
    (hi : s.importFor dev part a.toNat w (decide (op ≠ .read)) = some e) (hr : s.recordAt a.toNat = some (k, r))
    (hk : s.keyOk e.kid.toNat e.tpart = true) :
    exec (.remoteAccessIn dev part a w op) s =
      .next (if op = .read then s.remoteSealRead dev e.kid a w k r else Answered s dev a w none false none) := by
  show execRemoteAccessIn dev part a w op s = _
  cases op <;> simp_all [execRemoteAccessIn, ev, State.respond, Answered]

/-- An admitted access of a line that the host may hold: H0 asks for the host's copy, and the access comes again. -/
theorem remoteAccessIn_hostMay (h : ImportOf s dev part a w op e) (hw : (s.h0line (a.toNat / 128)).wb = true) :
    exec (.remoteAccessIn dev part a w op) s = .next { s.tellHost (.bisnp (a.toNat / 128)) with
      agenda := (s.tellHost (.bisnp (a.toNat / 128))).agenda ++ [.remoteAccessIn dev part a w op] } := by
  obtain ⟨hs, hi, hr, hk⟩ := h
  show execRemoteAccessIn dev part a w op s = _
  cases op <;> simp_all [execRemoteAccessIn, ev]

/-- An admitted access of a line for which H0 has the tokens is performed. -/
theorem remoteAccessIn_performs {write : Bool} (hop : decide (op ≠ .read) = write) (h : ImportOf s dev part a w op e)
    (hw : (s.h0line (a.toNat / 128)).wb = false) (hh : s.h0Has (a.toNat / 128) write = true) :
    exec (.remoteAccessIn dev part a w op) s = .next ((s.remoteAtH0 dev e.kid a w op).wantDone 8 (a.toNat / 128) write) := by
  obtain ⟨hs, hi, hr, hk⟩ := h
  show execRemoteAccessIn dev part a w op s = _
  subst hop
  cases op <;> simp_all [execRemoteAccessIn, ev]

/-- An admitted access of a line for which H0 lacks tokens asks for them, and comes again. -/
theorem remoteAccessIn_asks (h : ImportOf s dev part a w op e) (hw : (s.h0line (a.toNat / 128)).wb = false)
    (hh : s.h0Has (a.toNat / 128) (decide (op ≠ .read)) = false) :
    exec (.remoteAccessIn dev part a w op) s =
      .next (s.again (a.toNat / 128) (decide (op ≠ .read)) e.kid (.remoteAccessIn dev part a w op)) := by
  obtain ⟨hs, hi, hr, hk⟩ := h
  show execRemoteAccessIn dev part a w op s = _
  cases op <;> simp_all [execRemoteAccessIn, ev]

end

end Sys2Proof.Proofs
end

section
namespace Sys2Proof.Proofs
open Sys2Proof.Machine Sys2Proof.Says Sys2Proof.Laws

/-! ## What H0 answers another device with (R89, R348) -/

theorem RequestsEnd.mem {s t : State} (h : RequestsEnd s t) : t.mem = s.mem := by
  obtain ⟨_, _, _, _, _, rfl⟩ := h; rfl
theorem RequestsEnd.remoteOut {s t : State} (h : RequestsEnd s t) : t.remoteOut = s.remoteOut := by
  obtain ⟨_, _, _, _, _, rfl⟩ := h; rfl

theorem h0line_setH0 (s : State) (la : Nat) (x : Line) : (s.setH0 la x).h0line la = x := by simp [State.h0line]

/-- H0 answers a read with what its copy holds. -/
theorem remoteAtH0_read (s : State) (dev : Nat) (kid : BitVec 6) (a : BitVec 39) (w : Nat) :
    let la := a.toNat / 128
    let t := (s.remoteAtH0 dev kid a w .read).wantDone 8 la false
    t.mem = s.mem ∧ t.remoteOut =
      (Answered s dev a w (some (lineNum (s.h0line la).data (a.toNat % 128) w)) (s.h0line la).pz none).remoteOut := by
  intro la t
  have hw : RequestsEnd (s.remoteAtH0 dev kid a w .read) t := wantDone_ends _ 8 la false
  obtain ⟨hm, hr⟩ := h0Return_keeps
    (s.respond dev a w (some (lineNum (s.h0line la).data (a.toNat % 128) w)) (s.h0line la).pz none) la kid
  exact ⟨hw.mem.trans hm, hw.remoteOut.trans hr⟩

/-- H0 writes dirty data to a line whose tokens it has, answers, and sends the line home. -/
theorem h0Write_sendsHome {s : State} {la : Nat} (h : AllAtH0 s la) (kid : BitVec 6) (d : BitVec 1024) (z : Bool)
    (dev : Nat) (a : BitVec 39) (w : Nat) (data : Option Nat) (pz : Bool) :
    let t := (((s.setH0 la { s.h0line la with data := d, dt := true, pz := z, kid := kid }).respond dev a w data pz none).h0Return la kid).wantDone
      8 la true
    t.mem = s.mem ∧ t.remoteOut = (Answered s dev a w data pz none).remoteOut ∧ SendsHome t la kid d := by
  generalize hx : ({ s.h0line la with data := d, dt := true, pz := z, kid := kid } : Line) = x
  generalize hu : (s.setH0 la x).respond dev a w data pz none = u
  intro t
  have hline : u.h0line la = x := by rw [← hu]; exact h0line_setH0 s la x
  have hw : RequestsEnd (u.h0Return la kid) t := wantDone_ends _ 8 la true
  obtain ⟨hm, hr⟩ := h0Return_keeps u la kid
  have hsend := h0Return_sendsHome (s := u) (la := la) (kid := kid) ⟨h.1, by rw [hline, ← hx]; exact h.2⟩ (by rw [hline, ← hx])
  rw [hline, ← hx] at hsend
  refine ⟨hw.mem.trans (hm.trans ?_), hw.remoteOut.trans (hr.trans ?_), sendsHome_mono hsend hw⟩ <;> rw [← hu] <;> rfl

theorem h0Has_all {s : State} {la : Nat} (h : AllAtH0 s la) : s.h0Has la true = true := by
  obtain ⟨-, htc, hdv, -⟩ := h
  simp [State.h0Has, htc, hdv]

/-- A read of a sealed page is entered in the home's table of exports, or the page is marked as exported. -/
theorem recordExport_spec (s : State) (k : Nat) (r : PageRec) (dev : Nat) :
    (s.recordExport k r dev).mem = s.mem ∧ (s.recordExport k r dev).remoteOut = s.remoteOut ∧
    ((k / 65536, k % 65536, dev) ∈ (s.recordExport k r dev).exports ∨
      lookup (s.recordExport k r dev).records k = some { r with xb := true }) := by
  unfold State.recordExport
  dsimp only
  split
  · next h => exact ⟨rfl, rfl, .inl (List.contains_iff_mem.mp h)⟩
  · split
    · exact ⟨rfl, rfl, .inr (lookup_insert_self _ _ _)⟩
    · exact ⟨rfl, rfl, .inl (List.mem_append_right _ (List.mem_singleton_self _))⟩

/-- A read of a sealed page is answered with the page's line and recorded among the exports. -/
theorem remoteSealRead_sealed {s : State} {dev : Nat} {kid : BitVec 6} {a : BitVec 39} {w k : Nat} {r : PageRec} (h : r.sl = true) :
    let t := s.remoteSealRead dev kid a w k r
    t.mem = s.mem ∧ (∃ n z, t.remoteOut = (Answered s dev a w (some n) z (some (s.memLine kid (a.toNat / 128)))).remoteOut) ∧
      ((k / 65536, k % 65536, dev) ∈ t.exports ∨ lookup t.records k = some { r with xb := true }) := by
  obtain ⟨hm, ho, hx⟩ := recordExport_spec s k r dev
  have hread : s.remoteSealRead dev kid a w k r =
      (s.recordExport k r dev).respond dev a w (some (lineNum (s.memLine kid (a.toNat / 128)) (a.toNat % 128) w))
        (getD false s.poison (a.toNat / 128)) (some (s.memLine kid (a.toNat / 128))) := by
    simp only [State.remoteSealRead, h, if_true]
  rw [hread]
  exact ⟨hm, ⟨lineNum (s.memLine kid (a.toNat / 128)) (a.toNat % 128) w, getD false s.poison (a.toNat / 128), congrArg (· ++ [_]) ho⟩, hx⟩

/-- Settles O52: refusals and reads of append-seal pages by their own lemmas, the others by what H0 does with the line. -/
theorem remoteAccesses : Obligations.RemoteAccesses := by
  refine ⟨fun s dev part a w op hs hi => remoteAccessIn_noImport hs hi, fun s dev part a w op e k r hs hi hr hk hop => ?_,
    fun s dev part a w e k r hs hi hr hk hsl => ?_, fun s dev part a w e k r hs hi hr hk hsl => ?_, fun s dev part a w op e h hw hb => ?_,
    fun s dev part a w op e h hw hh => ?_, fun s dev part a w e h hw hh => ?_, fun s dev part a w bs e h hw hall => ?_,
    fun s dev part a w o wide x y e h hw hall hpz => ?_⟩
  · rw [remoteAccessIn_record hs (by simpa [hop] using hi) hr hk, if_neg hop]
  · refine ⟨lineNum (s.asLine { r with kid := e.kid } (a.toNat / 128)) (a.toNat % 128) w, ?_, fun hct => asLine_above hct⟩
    rw [remoteAccessIn_record hs hi hr hk, if_pos rfl, State.remoteSealRead, hsl]
    rfl
  · have hexec := remoteAccessIn_record hs hi hr hk
    rw [if_pos rfl] at hexec
    exact ⟨_, hexec, remoteSealRead_sealed hsl⟩
  · rw [remoteAccessIn_hostMay h hw, State.tellHost, if_neg (by simpa using hb)]
  · exact ⟨_, remoteAccessIn_asks h hw hh, again_waits _ _ _ _ _⟩
  · exact ⟨_, remoteAccessIn_performs rfl h hw hh, remoteAtH0_read s dev e.kid a w⟩
  · exact ⟨_, remoteAccessIn_performs rfl h hw (h0Has_all hall),
      h0Write_sendsHome hall e.kid _ _ dev a w (some 0) false⟩
  · refine ⟨_, remoteAccessIn_performs rfl h hw (h0Has_all hall), ?_⟩
    rw [State.remoteAtH0]
    dsimp only
    rw [hpz, if_neg (by decide)]
    exact h0Write_sendsHome hall e.kid _ _ dev a w _ false

end Sys2Proof.Proofs
end

section
namespace Sys2Proof.Proofs
open Sys2Proof.Machine Sys2Proof.Says Sys2Proof.Laws

/-! ## Scrubs and fatal errors (R48 to R50, R343) -/

theorem corrected_keeps (s : State) (la : Nat) : (s.corrected la).mem = s.mem ∧ (s.corrected la).poison = s.poison := by
  unfold State.corrected
  dsimp only
  split <;> exact ⟨rfl, rfl⟩

/-- Uncorrectable errors change no byte, and poison their lines. -/
theorem uncorrected_all (bad : List Nat) (s : State) :
    (bad.foldl State.uncorrected s).mem = s.mem ∧
    ∀ la, (getD false s.poison la = true ∨ la ∈ bad) → getD false (bad.foldl State.uncorrected s).poison la = true := by
  induction bad generalizing s with
  | nil => exact ⟨rfl, fun la h => h.resolve_right (List.not_mem_nil)⟩
  | cons b bad ih =>
    obtain ⟨hm, hp⟩ := ih (s.uncorrected b)
    refine ⟨hm, fun la h => hp la ?_⟩
    have poisoned : (s.uncorrected b).poison = setD false s.poison b true := rfl
    rw [poisoned]
    by_cases hl : la = b
    · exact .inl (by rw [hl, getD_setD_self])
    · rw [getD_setD_ne _ _ _ hl]
      exact h.imp_right (fun hm => (List.mem_cons.mp hm).resolve_left hl)

theorem scrubPass_happens (s : State) (die : Nat) (good bad : List Nat) :
    Happens (.scrubPass die good bad) s (fun t => t.mem = s.mem ∧ ∀ la, la ∈ bad → OfDie die la → getD false t.poison la = true) := by
  refine ⟨_, rfl, ?_⟩
  generalize hmine : (fun la : Nat => regionOf (la * 128) == .hbm && dieOf (la * 128) == die) = mine
  generalize hs1 : (good.filter mine).foldl State.corrected s = s1
  generalize hs2 : (bad.filter mine).foldl State.uncorrected s1 = s2
  have h1 : s1.mem = s.mem := by
    rw [← hs1]
    exact List.foldlRecOn (motive := fun t : State => t.mem = s.mem) _ _ rfl (fun t ht la _ => (corrected_keeps t la).1.trans ht)
  obtain ⟨h2, hp⟩ := uncorrected_all (bad.filter mine) s1
  rw [hs2] at h2 hp
  have hreport : ∀ (ps : List (Nat × Part)), let t := ps.foldl (fun (t : State) e =>
      (t.post e.1 e.2.rcd.ring (evRecord 0x08 0 e.1 0 0 0 (Config.free64 t.free) (Config.free64 (t.free + 1)))).spend.spend) s2
      t.mem = s2.mem ∧ t.poison = s2.poison := fun ps =>
    List.foldlRecOn (motive := fun t : State => t.mem = s2.mem ∧ t.poison = s2.poison) _ _ ⟨rfl, rfl⟩ (fun t ht e _ => ht)
  obtain ⟨h3, h4⟩ := hreport _
  refine ⟨h3.trans (h2.trans h1), fun la hla hdie => ?_⟩
  rw [h4]
  refine hp la (.inr (List.mem_filter.mpr ⟨hla, ?_⟩))
  rw [← hmine]
  obtain ⟨hr, hd⟩ := hdie
  simp [hr, hd]

theorem putJsb_side (s : State) (j off : Nat) (bs : List Byte) : MemorySide s (s.putJsb j off bs) := by
  unfold State.putJsb
  dsimp only
  split
  · split
    · exact poke_side _ _ _ _
    · exact .refl _
  · exact .refl _

theorem writeDump_side (s : State) (l : List Byte) : MemorySide s (s.writeDump l) := by
  unfold State.writeDump
  dsimp only
  split
  · exact .of_fields ..
  · exact .refl _

/-- A change of the values of a map, read at a key. -/
theorem lookup_map {α β : Type} (f : Nat × α → β) (m : List (Nat × α)) (k : Nat) :
    lookup (m.map (fun e => (e.1, f e))) k = (lookup m k).map (fun x => f (k, x)) := by
  induction m with
  | nil => rfl
  | cons e m ih =>
    obtain ⟨a, x⟩ := e
    simp only [List.map_cons, lookup, ih]
    split
    · next h => rw [h]; rfl
    · rfl

/-- A fatal error fails every live job. -/
theorem fatal_jobs (s : State) (kind die j : Nat) (h : (s.job j).live = true) : ((s.fatal kind die).job j).st = .failed := by
  unfold State.fatal
  dsimp only
  generalize hfail : s.jobs.map (fun e => if e.2.live then (e.1, { e.2 with st := JState.failed }) else e) = failed
  generalize hu : List.foldl (fun (t : State) (j : Nat) => t.putJsb j 0 (toBytes 8 (t.job j).jst)) { s with jobs := failed } _ = u
  have hside : MemorySide { s with jobs := failed } (u.writeDump (s.dumpOf kind die)) := by
    rw [← hu]
    exact (MemorySide.foldl (fun t j => putJsb_side t j 0 _) _ _).trans (writeDump_side _ _)
  show (getD Job.dead (u.writeDump (s.dumpOf kind die)).jobs j).st = .failed
  rw [hside.jobs]
  show (getD Job.dead failed j).st = .failed
  have hmap : failed = s.jobs.map (fun e => (e.1, if e.2.live then { e.2 with st := JState.failed } else e.2)) := by
    rw [← hfail]
    exact List.map_congr_left (fun e _ => by split <;> rfl)
  rw [hmap, getD, lookup_map]
  cases hj : lookup s.jobs j with
  | none => simp [State.job, getD, hj, Job.dead] at h
  | some jb =>
    have hl : jb.live = true := by simpa [State.job, getD, hj] using h
    simp [hl]

end Sys2Proof.Proofs
end

section
namespace Sys2Proof.Proofs
open Sys2Proof.Machine Sys2Proof.Says Sys2Proof.Laws

/-! ## Key slots: flushes leave the boot registers alone (R46, R350) -/

theorem flushL2_side (s : State) (slot : BitVec 6) : MemorySide s (s.flushL2 slot) := by
  refine .foldl (fun t e => ?_) _ s
  have hstore : MemorySide t (if e.2.ow && e.2.dt then t.homeStore e.2.kid (e.1 % 2 ^ 45) e.2.data e.2.pz else t) := by
    split
    · exact homeStore_side _ _ _ _ _
    · exact .refl t
  dsimp only
  generalize (if e.2.ow && e.2.dt then t.homeStore e.2.kid (e.1 % 2 ^ 45) e.2.data e.2.pz else t) = u at hstore ⊢
  split <;> exact hstore.trans (.of_fields ..)

theorem barCheck_boot (s : State) (tk b : Nat) : (s.barCheck tk b).boot = s.boot := by
  unfold State.barCheck State.wakeAll
  dsimp only
  split
  · exact List.foldlRecOn (motive := fun t : State => t.boot = s.boot) _ _ rfl (fun _ ht _ _ => ht)
  · rfl

theorem releaseFlight_boot (s : State) (k id : Nat) : (s.releaseFlight k id).boot = s.boot := by
  unfold State.releaseFlight
  split <;> rfl

theorem registered_boot (s : State) (c : Copy) : (s.registered c).boot = s.boot := by
  unfold State.registered
  dsimp only
  split
  · exact (releaseFlight_boot _ _ _).trans (barCheck_boot _ _ _)
  · rfl

theorem reexamine_boot (s : State) (home n : Nat) : (s.reexamine home n).boot = s.boot := by
  induction n generalizing s with
  | zero => rfl
  | succ n ih =>
    unfold State.reexamine
    dsimp only
    split
    · rfl
    · rw [ih]
      split
      · exact registered_boot _ _
      · rfl

theorem releaseSeg_boot (s : State) (home idx : Nat) : (s.releaseSeg home idx).boot = s.boot := by
  unfold State.releaseSeg
  dsimp only
  split
  · exact reexamine_boot _ _ _
  · rfl

theorem flushSeg_boot (s : State) (j seg : Nat) (slot : BitVec 6) : (s.flushSeg j seg slot).boot = s.boot := by
  unfold State.flushSeg
  dsimp only
  split
  · rw [releaseSeg_boot, setJob_boot]
    split
    · exact List.foldlRecOn (motive := fun t : State => t.boot = s.boot) _ _ rfl (fun t ht _ _ => (poke_side t _ _ _).boot.trans ht)
    · rfl
  · rfl

theorem flushSlot_boot (s : State) (slot : BitVec 6) : (s.flushSlot slot).boot = s.boot :=
  List.foldlRecOn (motive := fun t : State => t.boot = s.boot) _ _ (flushL2_side s slot).boot (fun _ ht j _ =>
    List.foldlRecOn (motive := fun t : State => t.boot = s.boot) _ _ ht (fun u hu seg _ => (flushSeg_boot u j seg slot).trans hu))

/-- A slot loaded in a session, of no other partition and with no segment under it in T, holds its key, and MEAS5 is extended. -/
theorem keySlotLoad_happens {s : State} {slot : BitVec 6} {part : BitVec 4} (key : BitVec 512) (hses : s.boot.session = true) (h0 : slot ≠ 0)
    (hb : s.slotBusy slot = false)
    (hp : ∀ e, e ∈ s.parts → e.1 ≠ part.toNat → e.2.setUp = true → e.2.rcd.slots.getLsbD slot.toNat = false) :
    Happens (.keySlotLoad slot part key) s (fun t => lookup t.keys slot.toNat = some { part := part, key := key } ∧
      Extended s t 5 [slot.setWidth 8, part.setWidth 8]) := by
  have hown : s.parts.any (fun e => e.1 != part.toNat && e.2.setUp && e.2.rcd.slots.getLsbD slot.toNat) = false := by
    rw [List.any_eq_false]
    intro e he
    simp only [Bool.and_eq_true, bne_iff_ne, not_and, Bool.not_eq_true, and_imp]
    exact hp e he
  have hexec : exec (.keySlotLoad slot part key) s = execKeySlotLoad slot part key s := rfl
  simp only [execKeySlotLoad, hses, h0, hb, hown, Bool.not_true, decide_false, Bool.or_self, Bool.false_eq_true, if_false, ev] at hexec
  refine ⟨_, hexec, lookup_insert_self _ _ _, ?_⟩
  have hboot : (if (lookup s.keys slot.toNat).isSome = true then (s.flushSlot slot).loseKey slot else s).boot = s.boot := by
    split
    · exact flushSlot_boot s slot
    · rfl
  simp only [Extended, State.extend, hboot, getD_setD_self]

theorem keySlotClear_happens {s : State} {slot : BitVec 6} (h0 : slot ≠ 0) (hb : s.slotBusy slot = false) :
    Happens (.keySlotClear slot) s (fun t => lookup t.keys slot.toNat = none ∧ t.boot = s.boot) := by
  have hexec : exec (.keySlotClear slot) s = execKeySlotClear slot s := rfl
  simp only [execKeySlotClear, h0, hb, decide_false, Bool.or_self, Bool.false_eq_true, if_false, ev] at hexec
  exact ⟨_, hexec, lookup_remove_self _ _, flushSlot_boot s slot⟩

/-! ## Pool completions (R346) -/

theorem lineBytes_length (d : BitVec 1024) : (lineBytes d).length = 128 := toBytes_length 128 _

/-- A line written to memory is what its key reads. -/
theorem memLine_memPutLine (s : State) (kid : BitVec 6) (la : Nat) (d : BitVec 1024) (pz : Bool) :
    (s.memPutLine kid la d pz).memLine kid la = d := by
  have hbytes : (List.range 128).map (fun i => (s.memPutLine kid la d pz).memByte kid (la * 128 + i)) = toBytes 128 d.toNat :=
    List.map_congr_left (fun i hi => by
      have hi : i < 128 := List.mem_range.mp hi
      have hat : (s.memPut kid (la * 128) (lineBytes d)).memByte kid (la * 128 + i) = (lineBytes d).getD i 0 :=
        memByte_memPut_at (by rwa [lineBytes_length]) (by omega)
      refine Eq.trans hat ?_
      rw [lineBytes, getD_toBytes _ hi, Nat.shiftRight_eq_div_pow])
  rw [State.memLine, hbytes]
  exact ofNat_ofBytes (n := 128) d

theorem poolCompletion_data {s : State} {la : Nat} {d : BitVec 1024} (hr : regionOf (la * 128) = .pool) (hd : s.poolDark la = false) :
    Happens (.poolCompletion la (some d)) s (fun t => t.memLine (getD 0 s.lineKid la) la = d ∧ getD false t.poison la = false) := by
  have hexec : exec (.poolCompletion la (some d)) s = execPoolCompletion la (some d) s := rfl
  simp only [execPoolCompletion, hr, hd, bne_self_eq_false, Bool.false_eq_true, if_false, ev] at hexec
  exact ⟨_, hexec, memLine_memPutLine s _ la d false, getD_setD_self false s.poison la false⟩

theorem poolCompletion_poison {s : State} {la : Nat} (hr : regionOf (la * 128) = .pool) :
    Happens (.poolCompletion la none) s (fun t => t.mem = s.mem ∧ getD false t.poison la = true) := by
  have hexec : exec (.poolCompletion la none) s = execPoolCompletion la none s := rfl
  simp only [execPoolCompletion, hr, bne_self_eq_false, Bool.false_eq_true, if_false, ev] at hexec
  exact ⟨_, hexec, rfl, getD_setD_self false s.poison la true⟩

end Sys2Proof.Proofs
end

section
namespace Sys2Proof.Proofs
open Sys2Proof.Machine Sys2Proof.Says Sys2Proof.Laws

/-! ## Loaded registers (R226) -/

theorem v32_congr {g h : Group} (e : g.v = h.v) (n l : Nat) : g.v32 n l = h.v32 n l := by rw [Group.v32, Group.v32, e]

/-- The integer of the low bits of a number, as a bit vector has it. -/
theorem toSigned_eq_toInt (n x : Nat) : toSigned n x = (BitVec.ofNat n x).toInt := by
  rw [BitVec.toInt_eq_toNat_cond, BitVec.toNat_ofNat]
  rfl

theorem loaded_putLoad (g : Group) (sx : Bool) (d : Nat) {l : Nat} (off : Nat) (w x : Nat) (hl : l < 64) :
    Loaded (putLoad g sx d l off w x) sx d l off w x := by
  unfold Loaded putLoad
  by_cases h : w < 4
  · simp only [h, if_true, v32_setV32 _ _ _ _ _ _ hl hl, and_self, toSigned_eq_toInt]
  · simp only [h, if_false]
    intro j hj
    rw [v32_setVN _ _ _ _ _ _ _ hl hl, if_pos ⟨rfl, by omega, by omega⟩, Nat.add_sub_cancel_left]

theorem loaded_congr {g h : Group} {sx : Bool} {d l off w x : Nat} (e : g.v = h.v) (hl : Loaded h sx d l off w x) : Loaded g sx d l off w x := by
  unfold Loaded at *
  simpa only [v32_congr e] using hl

/-- What a load leaves for its lane is what its registers then hold. -/
theorem put_load_v {g : Group} {a : Access} {sx : Bool} {d : BitVec 11} (v : Nat) (flag : Bool) (ho : a.op = .load sx d) (hw : 0 < a.w) :
    (LaneVal.put g (a.laneVal v flag)).v = (putLoad g sx d.toNat a.lane.toNat a.off a.w v).v := by
  have hw' : a.w ≠ 0 := by omega
  unfold LaneVal.put Access.laneVal
  rw [ho]
  cases a.dep with
  | none => simp [hw']
  | some p => simp only [hw', if_false, Option.map_some]; rw [psetMask_rest]

/-- A store leaves nothing for its lane. -/
theorem put_store {g : Group} {a : Access} {d : BitVec 128} (v : Nat) (flag : Bool) (ho : a.op = .store d) :
    LaneVal.put g (a.laneVal v flag) = g := by
  unfold LaneVal.put Access.laneVal
  rw [ho]
  rfl

/-! ## The end of an instruction in flight (R93, R104) -/

/-- Ending an instruction in flight changes its group alone. -/
theorem finishFlight_rest (s : State) (k id : Nat) : s.finishFlight k id = { s with groups := (s.finishFlight k id).groups } := by
  unfold State.finishFlight
  split <;> rfl

theorem finishFlight_pend (s : State) (k id : Nat) : (s.finishFlight k id).pend = s.pend := by unfold State.finishFlight; split <;> rfl
theorem finishFlight_mem (s : State) (k id : Nat) : (s.finishFlight k id).mem = s.mem := by unfold State.finishFlight; split <;> rfl
theorem finishFlight_l2 (s : State) (k id : Nat) : (s.finishFlight k id).l2 = s.l2 := by unfold State.finishFlight; split <;> rfl

theorem group_finishFlight_ne (s : State) {k j : Nat} (id : Nat) (h : j ≠ k) : (s.finishFlight k id).group j = s.group j := by
  unfold State.finishFlight
  split
  · rfl
  · exact group_setGroup_ne _ _ h

/-- The group of an instruction that ends holds what its accesses left, and its registers are not changed otherwise. -/
theorem group_finishFlight {s : State} {k id : Nat} (h : s.flightBusy k id = false) :
    let g := ((((s.group k).flightOf id).map (fun f => f.vals)).getD []).foldl LaneVal.put (s.group k)
    let t := (s.finishFlight k id).group k
    t = { g with flights := t.flights, wait := t.wait } := by
  intro g t
  have ht : t = (if (g.flightDone id).wait = .access id then { g.flightDone id with wait := .none } else g.flightDone id) := by
    show (State.finishFlight s k id).group k = _
    rw [State.finishFlight, if_neg (by rw [h]; decide), group_setGroup_self]
  rw [ht]
  split <;> rfl

theorem outst_result_flight (a : Access) (v : Nat) (o : Outst) : (Outst.result a v o).flight = o.flight := by
  unfold Outst.result
  split
  · rfl
  · split <;> rfl

section
variable (s : State) (a : Access) (v : Nat) (flag : Bool)

theorem group_gave_self : (s.gave a v flag).group a.grp =
    { s.group a.grp with
      flights := (s.group a.grp).flights.map (fun f => if f.id == a.flight then { f with vals := f.vals ++ [a.laneVal v flag] } else f),
      outs := (s.group a.grp).outs.map (Outst.result a v) } := by
  rw [State.gave, group_setGroup_self]; rfl

theorem group_gave_ne {j : Nat} (h : j ≠ a.grp) : (s.gave a v flag).group j = s.group j := group_setGroup_ne _ _ h

theorem flightBusy_gave (id : Nat) : (s.gave a v flag).flightBusy a.grp id = s.flightBusy a.grp id := by
  have houts : ((s.gave a v flag).group a.grp).outs.any (fun o => o.flight == id) = (s.group a.grp).outs.any (fun o => o.flight == id) := by
    rw [group_gave_self, List.any_map]
    simp only [Function.comp_def, outst_result_flight]
  rw [State.flightBusy, State.flightBusy, houts]
  rfl

theorem flightOf_gave {f : Flight} (h : (s.group a.grp).flightOf a.flight = some f) :
    ((s.gave a v flag).group a.grp).flightOf a.flight = some { f with vals := f.vals ++ [a.laneVal v flag] } := by
  have hid : f.id = a.flight := by simpa using List.find?_some h
  have hp : ((fun f : Flight => f.id == a.flight) ∘ fun f => if f.id == a.flight then { f with vals := f.vals ++ [a.laneVal v flag] } else f) =
      fun f => f.id == a.flight := by
    funext x
    simp only [Function.comp_apply]
    split <;> rfl
  rw [group_gave_self, Group.flightOf, List.find?_map, hp]
  rw [Group.flightOf] at h
  simp [h, hid]

end

/-- The last access of an instruction performs: its lane's registers hold what it left. -/
theorem group_lastGave {s : State} {a : Access} {f : Flight} (v : Nat) (flag : Bool) (hb : s.flightBusy a.grp a.flight = false)
    (hf : (s.group a.grp).flightOf a.flight = some f) (hv : f.vals = []) :
    let g0 := (s.gave a v flag).group a.grp
    let t := ((s.gave a v flag).finishFlight a.grp a.flight).group a.grp
    t = { LaneVal.put g0 (a.laneVal v flag) with flights := t.flights, wait := t.wait } := by
  have h := group_finishFlight (s := s.gave a v flag) (k := a.grp) (id := a.flight) (by rw [flightBusy_gave, hb])
  rw [flightOf_gave s a v flag hf, hv] at h
  exact h

/-! ## Answers of devices (R17, R94) -/

theorem mem_dropAt {α : Type} {l : List α} {i : Nat} {x : α} : x ∈ dropAt l i ↔ ∃ k, k ≠ i ∧ l[k]? = some x := by
  rw [dropAt, ← List.eraseIdx_eq_take_drop_succ, List.mem_eraseIdx_iff_getElem?]

/-- The last access of an instruction is answered: its instruction is then under way no more. -/
theorem flightBusy_alone {s b : State} {i : Nat} {a : Access} (h : Alone s i a) (hp : b.pend = dropAt s.pend i) (hh : b.hops = s.hops)
    (hg : b.groups = s.groups) : b.flightBusy a.grp a.flight = false := by
  obtain ⟨hpend, hhops, houts, -⟩ := h
  have hgrp : b.group a.grp = s.group a.grp := by rw [State.group, State.group, hg]
  rw [State.flightBusy, hp, hh, hgrp]
  simp only [Bool.or_eq_false_iff, List.any_eq_false, Bool.and_eq_true, beq_iff_eq, not_and]
  refine ⟨⟨fun b hb hk => ?_, fun h hh hk hf => hhops h hh ⟨hk, hf⟩⟩, fun o ho => houts o ho⟩
  obtain ⟨k, hk', hget⟩ := mem_dropAt.mp hb
  exact fun hf => hpend k b hk' hget ⟨hk, hf⟩

/-- An access takes its answer: it waits no more, memory stays, and a load that was its instruction's last access shows the answer. -/
theorem answer_spec {s b : State} {i : Nat} {a : Access} (data : BitVec 128) (hb : ∃ l2, b = { s with l2 := l2 }) :
    let t := (({ b with pend := dropAt b.pend i } : State).gave a (data.toNat % 2 ^ (8 * a.w)) false).finishFlight a.grp a.flight
    t.pend = dropAt s.pend i ∧ t.mem = s.mem ∧ t.l2 = b.l2 ∧
      ∀ d, Alone s i a → a.op = .load false d → a.w = 4 → a.off = 0 → (t.group a.grp).v32 d.toNat a.lane.toNat = data.extractLsb' 0 32 := by
  obtain ⟨l2, rfl⟩ := hb
  intro t
  refine ⟨finishFlight_pend _ _ _, finishFlight_mem _ _ _, finishFlight_l2 _ _ _, fun d hal hop hw hoff => ?_⟩
  obtain ⟨-, -, -, f, hf, hv⟩ := id hal
  have hg := group_lastGave (s := { s with l2 := l2, pend := dropAt s.pend i }) (data.toNat % 2 ^ (8 * a.w)) false
    (flightBusy_alone hal rfl rfl rfl) hf hv
  have hl : Loaded (t.group a.grp) false d.toNat a.lane.toNat a.off a.w (data.toNat % 2 ^ (8 * a.w)) :=
    loaded_congr ((congrArg Group.v hg).trans (put_load_v _ _ hop (by omega))) (loaded_putLoad _ _ _ _ _ _ a.lane.isLt)
  rw [Loaded, hw, hoff, if_neg (by decide)] at hl
  have hl0 := hl 0 (by decide)
  simp only [Nat.zero_div, Nat.add_zero, Nat.mul_zero, Nat.pow_zero, Nat.div_one] at hl0
  rw [hl0]
  apply BitVec.eq_of_toNat_eq
  simp

theorem keepSealed_rest (s : State) (die : Nat) (m : Msg) : ∃ l2, s.keepSealed die m = { s with l2 := l2 } := by
  unfold State.keepSealed
  dsimp only
  split
  · exact ⟨s.l2, rfl⟩
  · split
    · exact ⟨_, rfl⟩
    · exact ⟨s.l2, rfl⟩

theorem deviceIoAnswer_happens {s : State} {i : Nat} {a : Access} (data : BitVec 128) (hi : s.pend[i]? = some a) (hk : a.kind = .deviceIo)
    (hb : s.blockedAt i a = false) :
    Happens (.deviceIoAnswer i data) s (fun t => t.pend = dropAt s.pend i ∧ t.mem = s.mem ∧
      ∀ d, Alone s i a → a.op = .load false d → a.w = 4 → a.off = 0 → (t.group a.grp).v32 d.toNat a.lane.toNat = data.extractLsb' 0 32) := by
  have hexec : exec (.deviceIoAnswer i data) s = execDeviceIoAnswer i data s := rfl
  simp only [execDeviceIoAnswer, hi, hk, hb, bne_self_eq_false, Bool.or_self, Bool.false_eq_true, if_false, ev] at hexec
  obtain ⟨hp, hm, -, hd⟩ := answer_spec (s := s) (b := s) (i := i) (a := a) data ⟨s.l2, rfl⟩
  exact ⟨_, hexec, hp, hm, hd⟩

theorem remoteAccessAnswer_data {s : State} {i : Nat} {a : Access} (data : BitVec 128) (x : Option (BitVec 1024)) (hi : s.pend[i]? = some a)
    (hk : a.kind = .remote) (hb : s.blockedAt i a = false) :
    Happens (.remoteAccessAnswer i (some data) x) s (fun t => t.pend = dropAt s.pend i ∧ t.mem = s.mem ∧ (x = none → t.l2 = s.l2) ∧
      ∀ d, Alone s i a → a.op = .load false d → a.w = 4 → a.off = 0 → (t.group a.grp).v32 d.toNat a.lane.toNat = data.extractLsb' 0 32) := by
  have hexec : exec (.remoteAccessAnswer i (some data) x) s = execRemoteAccessAnswer i (some data) x s := rfl
  simp only [execRemoteAccessAnswer, hi, hk, hb, bne_self_eq_false, Bool.or_self, Bool.false_eq_true, if_false, ev] at hexec
  cases x with
  | none =>
    obtain ⟨hp, hm, hl, hd⟩ := answer_spec (s := s) (b := s) (i := i) (a := a) data ⟨s.l2, rfl⟩
    exact ⟨_, hexec, hp, hm, fun _ => hl, hd⟩
  | some line =>
    obtain ⟨hp, hm, -, hd⟩ := answer_spec (i := i) (a := a) data (keepSealed_rest s a.die { Msg.zero with la := a.pa / 128, data := line, d := true })
    exact ⟨_, hexec, hp, hm, fun h => absurd h (by simp), hd⟩

/-! ## Late traps (R104, R271, R272) -/

/-- Bits 39 to 42 of a number. -/
theorem toNat_bits39 (x : Nat) : ((BitVec.ofNat 64 x).extractLsb' 39 4).toNat = x / 2 ^ 39 % 2 ^ 4 := by
  rw [BitVec.extractLsb'_toNat, BitVec.toNat_ofNat, Nat.shiftRight_eq_div_pow, show 2 ^ 64 = 2 ^ 39 * 2 ^ 25 from rfl,
    Nat.mod_mul_right_div_self, Nat.mod_mod_of_dvd _ (by decide)]

/-- The quotient by 2^39 of a sum whose last parts are below it. -/
theorem div_fields (c f r a l n b : Nat) (ha : a < 8) (hl : l < 16) (hn : n < 64) (hb : b ≤ 2 ^ 25) :
    (c * 2 ^ 48 + f * 2 ^ 43 + r * 2 ^ 39 + a * 2 ^ 36 + l * 2 ^ 32 + n * 2 ^ 26 + b) / 2 ^ 39 = (c * 32 + f) * 2 ^ 4 + r := by
  have hlo : a * 2 ^ 36 + l * 2 ^ 32 + n * 2 ^ 26 + b < 2 ^ 39 := by omega
  have hsum : c * 2 ^ 48 + f * 2 ^ 43 + r * 2 ^ 39 + a * 2 ^ 36 + l * 2 ^ 32 + n * 2 ^ 26 + b =
      2 ^ 39 * ((c * 32 + f) * 2 ^ 4 + r) + (a * 2 ^ 36 + l * 2 ^ 32 + n * 2 ^ 26 + b) := by ring
  rw [hsum, Nat.mul_add_div (by decide), Nat.div_eq_of_lt hlo, Nat.add_zero]

/-- FIINFO carries the reason of a trap. -/
theorem info_rsn (t : Trap) (len : Nat) : (t.info len).extractLsb' 39 4 = BitVec.ofNat 4 t.rsn := by
  have hap : (if t.ap then 2 ^ 25 else 0) ≤ 2 ^ 25 := by split <;> omega
  apply BitVec.eq_of_toNat_eq
  rw [Trap.info, toNat_bits39, div_fields _ _ _ _ _ _ _ (Nat.mod_lt _ (by decide)) (Nat.mod_lt _ (by decide)) (Nat.mod_lt _ (by decide)) hap,
    Nat.mul_add_mod', BitVec.toNat_ofNat, show 2 ^ 4 = 16 from rfl, Nat.mod_mod]

/-- A group outside its handler that has one enters it: its trap registers tell of the trap. -/
theorem takeTrap_enters {s : State} {k : Nat} (lanes : DWord) (pc : VAddr) (len : Nat) {t : Trap} (htm : (s.group k).tm = false)
    (hv : (s.job (s.group k).job).jd.trapv ≠ 0) (h20 : t.cause ≠ 0x20) (h21 : t.cause ≠ 0x21) :
    let g := (s.takeTrap k lanes pc len t).group k
    g.tm = true ∧ g.fi.cause = BitVec.ofNat 64 t.cause ∧ g.fi.info = t.info len ∧ g.fi.addr = t.addr := by
  have hj : (s.job ((s.group k).mapLanes lanes (fun x => { x with pc := pc })).job).jd.trapv ≠ 0 := hv
  have ht : ((s.group k).mapLanes lanes (fun x => { x with pc := pc })).tm = false := htm
  simp only [State.takeTrap, h20, h21, beq_iff_eq, or_self, Bool.or_eq_true, Bool.and_eq_true, and_false, if_false, ht, Bool.false_eq_true, hj,
    group_setGroup_self]
  exact ⟨rfl, rfl, rfl, rfl⟩

theorem discard_keeps (g : Group) (id : Nat) : (g.discard id).tm = g.tm ∧ (g.discard id).job = g.job := by
  unfold Group.discard
  split <;> exact ⟨rfl, rfl⟩

/-- A late trap of an access takes its instruction's accesses away, and its group enters its handler. -/
theorem lateTrap_enters {s : State} {a : Access} {t : Trap} (hf : ((s.group a.grp).flightOf a.flight).isSome = true)
    (htm : (s.group a.grp).tm = false) (hv : (s.job (s.group a.grp).job).jd.trapv ≠ 0) (h20 : t.cause ≠ 0x20) (h21 : t.cause ≠ 0x21) :
    let u := s.lateTrap a t
    u.mem = s.mem ∧ (∀ b, b ∈ u.pend → ¬(b.grp = a.grp ∧ b.flight = a.flight)) ∧ (u.group a.grp).tm = true ∧
      (u.group a.grp).fi.cause = BitVec.ofNat 64 t.cause ∧ (u.group a.grp).fi.info.extractLsb' 39 4 = BitVec.ofNat 4 t.rsn ∧
      (u.group a.grp).fi.addr = t.addr := by
  obtain ⟨f, hf⟩ := Option.isSome_iff_exists.mp hf
  have hid : f.id = a.flight := by simpa using List.find?_some hf
  unfold State.lateTrap State.lateTrapOf
  simp only [hf]
  generalize hids : f.id :: _ = ids
  have hin : ids.contains a.flight = true := by rw [← hids, hid]; simp
  have hkeep : (ids.foldl (fun h i => h.discard i) ((s.group a.grp).rewind f)).tm = (s.group a.grp).tm ∧
      (ids.foldl (fun h i => h.discard i) ((s.group a.grp).rewind f)).job = (s.group a.grp).job :=
    List.foldlRecOn (motive := fun h : Group => h.tm = (s.group a.grp).tm ∧ h.job = (s.group a.grp).job) _ _ ⟨rfl, rfl⟩
      (fun h hh i _ => ⟨(discard_keeps h i).1.trans hh.1, (discard_keeps h i).2.trans hh.2⟩)
  generalize ids.foldl (fun h i => h.discard i) ((s.group a.grp).rewind f) = h at hkeep
  generalize hw : ({ s with pend := s.pend.filter (fun b => !(b.grp == a.grp && ids.contains b.flight)) } : State).setGroup a.grp
    { h with wait := .none, kept := h.kept ++ f.keep a.op.isWrite } = w
  have hgrp : w.group a.grp = { h with wait := .none, kept := h.kept ++ f.keep a.op.isWrite } := by rw [← hw, group_setGroup_self]
  have hjob : w.job h.job = s.job h.job := by rw [← hw]; rfl
  obtain ⟨_, _, _, _, _, hframe⟩ := takeTrap_frame w a.grp f.lanes f.pc f.len t
  have hent := takeTrap_enters (s := w) (k := a.grp) f.lanes f.pc f.len (t := t) (by rw [hgrp]; exact hkeep.1.trans htm)
    (by rw [hgrp]; show (w.job h.job).jd.trapv ≠ 0; rw [hjob, hkeep.2]; exact hv) h20 h21
  obtain ⟨h1, h2, h3, h4⟩ := hent
  refine ⟨?_, fun b hb hba => ?_, h1, h2, by rw [h3]; exact info_rsn t _, h4⟩
  · rw [takeTrap_mem, ← hw]; rfl
  · rw [hframe] at hb
    have hb' : b ∈ s.pend.filter (fun b => !(b.grp == a.grp && ids.contains b.flight)) := by rw [← hw] at hb; exact hb
    have hno := (List.mem_filter.mp hb').2
    rw [hba.1, hba.2, hin, beq_self_eq_true] at hno
    exact absurd hno (by decide)

theorem remoteAccessAnswer_refused {s : State} {i : Nat} {a : Access} (x : Option (BitVec 1024)) (hi : s.pend[i]? = some a) (hk : a.kind = .remote)
    (hb : s.blockedAt i a = false) (hp : s.precise a = true) (hf : ((s.group a.grp).flightOf a.flight).isSome = true)
    (htm : (s.group a.grp).tm = false) (hv : (s.job (s.group a.grp).job).jd.trapv ≠ 0) :
    Happens (.remoteAccessAnswer i none x) s (fun t => t.mem = s.mem ∧ (∀ b, b ∈ t.pend → ¬(b.grp = a.grp ∧ b.flight = a.flight)) ∧
      (t.group a.grp).tm = true ∧ (t.group a.grp).fi.cause = 0x11 ∧ (t.group a.grp).fi.info.extractLsb' 39 4 = 9 ∧
      (t.group a.grp).fi.addr = a.va.setWidth 64) := by
  have hexec : exec (.remoteAccessAnswer i none x) s = execRemoteAccessAnswer i none x s := rfl
  simp only [execRemoteAccessAnswer, hi, hk, hb, hp, bne_self_eq_false, Bool.or_self, Bool.false_eq_true, if_false, if_true, ev] at hexec
  exact ⟨_, hexec, lateTrap_enters (t := a.refusal) hf htm hv (show (0x11 : Nat) ≠ 0x20 by decide) (show (0x11 : Nat) ≠ 0x21 by decide)⟩

/-- Settles O44, clause by clause: scrubs and fatal errors, key slots, and the answers that come from outside. -/
theorem errorsKeysAnswers : Obligations.ErrorsKeysAnswers := by
  refine ⟨⟨scrubPass_happens, fun s k die h1 h4 => ?_, fun s slot part key hses h0 hb hp => keySlotLoad_happens key hses h0 hb hp,
    fun s slot h0 hb => keySlotClear_happens h0 hb⟩, fun s i a data hi hk hb => deviceIoAnswer_happens data hi hk hb,
    fun s i a data x hi hk hb => remoteAccessAnswer_data data x hi hk hb,
    fun s i a x hi hk hb hp hf htm hv => remoteAccessAnswer_refused x hi hk hb hp hf htm hv, fun s la d hr hd => poolCompletion_data hr hd,
    fun s la hr => poolCompletion_poison hr⟩
  have hexec : exec (.fatalError k die) s = execFatalError k die s := rfl
  simp only [execFatalError, h1, h4, and_self, if_true, ev] at hexec
  exact ⟨_, hexec, rfl, fatal_jobs s k die⟩

end Sys2Proof.Proofs
end

section
namespace Sys2Proof.Proofs
open Sys2Proof.Machine Sys2Proof.Says Sys2Proof.Laws

/-! ## Retiring an instruction whose effect gave a state -/

/-- What the end of an issue reads of its group is as it was. -/
def IssueKept (g h : Group) : Prop :=
  h.lanes = g.lanes ∧ h.perf = g.perf ∧ h.sk = g.sk ∧ h.skip = g.skip ∧ h.sc = g.sc ∧ h.stepPend = g.stepPend

theorem IssueKept.refl (g : Group) : IssueKept g g := ⟨rfl, rfl, rfl, rfl, rfl, rfl⟩

/-- The instruction's effect gave `u`; `t` is `u` with the issue ended in its group. -/
structure Retired (s u t : State) (act : DWord) : Prop where
  rest : t = { u with groups := t.groups }
  others : ∀ k, k ≠ s.cur.grp → t.group k = u.group k
  continues : Continues s t
  accounted : Accounted s t act
  own : t.curGroup = { u.curGroup with
    lanes := t.curGroup.lanes, perf := t.curGroup.perf, sk := t.curGroup.sk, sc := t.curGroup.sc, skip := t.curGroup.skip,
    stepPend := t.curGroup.stepPend }

theorem retire_retired {s u : State} {act : DWord} (hc : u.cur = s.cur) (hk : IssueKept s.curGroup u.curGroup) :
    Retired s u (s.retire act u.advance) act := by
  obtain ⟨hl, hp, hsk, hskip, hsc, hst⟩ := hk
  obtain ⟨t, ht, ⟨-, hcont, hacc⟩, hown⟩ := finish_done s act u.curGroup hl hp hsk hskip hsc hst
  have ht' : t = s.retire act (s.setCurGroup u.curGroup).advance := by
    rw [State.finish, Act.run] at ht
    exact (Host.Outcome.next.inj ht).symm
  have hcur : (s.retire act u.advance).curGroup = t.curGroup := by
    rw [ht']
    simp only [State.curGroup, State.retire, State.advance, State.setCurGroup, State.nextPc, cur_setGroup, group_setGroup_self, hc]
  refine ⟨rfl, fun k hne => ?_, ?_, ?_, by rw [hcur]; exact hown⟩
  · simp only [State.retire, State.advance, State.setCurGroup, hc, group_setGroup_ne _ _ hne]
  · intro l; rw [hcur]; exact hcont l
  · rw [Accounted, hcur]; exact hacc

theorem Retired.allRegs {s u t : State} {act : DWord} (h : Retired s u t act) (hu : AllRegs s u) : AllRegs s t := by
  unfold AllRegs OtherRegs
  rw [h.own]
  exact hu

theorem Retired.allRegs_self {s t : State} {act : DWord} (h : Retired s s t act) : AllRegs s t :=
  h.allRegs ⟨⟨rfl, rfl, rfl, rfl, rfl, rfl, rfl, rfl⟩, rfl⟩

/-! ## Fences and waits (R99, R231) -/

/-- An instruction that goes on where a condition holds, changing nothing, and holds otherwise. -/
theorem goesWhen_of_exec {i : Instr} {s : State} {c : Prop} {b : Bool} (hb : b = true ↔ c)
    (hi : exec i s = (if b then Act.done s.cur.lanes s.advance else .hold).run s) : GoesWhen i s c := by
  refine ⟨fun hc => ?_, fun hc => ?_⟩
  · rw [if_pos (hb.mpr hc)] at hi
    have h := retire_retired (act := s.cur.lanes) rfl (IssueKept.refl s.curGroup)
    refine ⟨_, hi, ⟨h.rest, h.others, fun _ => rfl⟩, h.accounted, h.own, fun l hl => ?_⟩
    simp [h.continues l, branched, hl]
  · rw [if_neg (fun h => hc (hb.mp h))] at hi
    exact hi

/-- A counter of 8 bits is never above 255: the threshold's limit excludes nothing. -/
theorem waitcOk_iff (g : Group) (p : Path) (x : DWord) : waitcOk g p x = true ↔ (g.cnt.get p).toNat ≤ x.toNat := by
  have h := (g.cnt.get p).isLt
  rw [waitcOk, decide_eq_true_iff]
  omega

/-! ## Hints (R119, R228) -/

/-- A hint whose effect leaves its group as it was completes. -/
theorem hintRun_of_exec {i : Instr} {s u : State} {gd : Guard} {p : State → Prop} (hi : exec i s = (Act.done (s.active gd) u.advance).run s)
    (hc : u.cur = s.cur) (hg : u.curGroup = s.curGroup) (hp : ∀ gs, p { u with groups := gs }) : HintRun i s gd p := by
  have h := retire_retired (s := s) (u := u) (act := s.active gd) hc (by rw [hg]; exact IssueKept.refl _)
  have hu : AllRegs s u := by simp [AllRegs, OtherRegs, hg]
  exact ⟨_, hi, h.continues, h.accounted, h.allRegs hu, by rw [h.rest]; exact hp _⟩

/-- PGREQ touches the fault queue alone. -/
theorem pgreq_faults (s : State) (a : DWord) : ∃ q, s.pgreq a = { s with faults := q } := by
  have hr := faultRecord_spec s s.cur.grp a.toNat { cause := 0x10, rsn := 3 } 7 none none
  unfold State.pgreq
  dsimp only
  split_ifs
  · exact ⟨s.faults, rfl⟩
  split
  · split_ifs
    · exact ⟨s.faults, rfl⟩
    split
    · exact ⟨s.faults, rfl⟩
    split
    · next r heq =>
      rw [heq] at hr
      exact ⟨_, hr.1⟩
    · exact ⟨s.faults, rfl⟩
  · exact ⟨s.faults, rfl⟩

theorem pgreqs_faults (l : List DWord) (s : State) : ∃ q, l.foldl (fun t a => t.pgreq a) s = { s with faults := q } := by
  induction l generalizing s with
  | nil => exact ⟨s.faults, rfl⟩
  | cons a l ih =>
    obtain ⟨q, hq⟩ := pgreq_faults s a
    rw [List.foldl_cons, hq]
    exact ih _

theorem send_side (s : State) (m : Msg) : MemorySide s (s.send m) := .of_fields ..

/-- A prefetch touches the side of the memory system alone. -/
theorem prefetch_side (s : State) (a : DWord) : MemorySide s (s.prefetch a) := by
  unfold State.prefetch
  dsimp only
  split
  · exact .refl s
  · next x _ =>
    have hx := useXlate_side s s.curGroup.job s.curGroup.place.die a.toNat .pref x
    split_ifs
    · exact hx
    · exact hx.trans (request_side _ _ _ _ _)
    · split
      · split_ifs
        · exact hx.trans (send_side _ _)
        · exact hx
      · exact hx
    · exact hx

/-- MEMHINT touches the side of the memory system and the hint queues alone. -/
theorem postHint_side (h : Nat) (t : State × List Nat) (a : DWord) : MemorySide t.1 (t.1.postHint h t.2 a).1 := by
  unfold State.postHint
  dsimp only
  split
  · exact .refl _
  · next x _ =>
    have hx := useXlate_side t.1 t.1.curGroup.job t.1.curGroup.place.die a.toNat .load x
    split_ifs
    · exact hx
    · exact hx.trans (.of_fields ..)

theorem postHints_side (h : Nat) (l : List DWord) (t : State × List Nat) :
    MemorySide t.1 (l.foldl (fun (t : State × List Nat) a => t.1.postHint h t.2 a) t).1 := by
  induction l generalizing t with
  | nil => exact .refl _
  | cons a l ih => exact (postHint_side h t a).trans (ih _)

theorem hintRun_of_side {i : Instr} {s u : State} {gd : Guard} (hi : exec i s = (Act.done (s.active gd) u.advance).run s)
    (hu : MemorySide s u) : HintRun i s gd (fun t => t.faults = s.faults) :=
  hintRun_of_exec hi hu.cur hu.curGroup (fun _ => hu.faults)

theorem pgreq_run (s : State) (gd : Guard) (ad : Addr) (off : Off) :
    HintRun (.pgreq gd ad off) s gd (fun t => t.mem = s.mem ∧ t.l2 = s.l2) := by
  obtain ⟨q, hq⟩ := pgreqs_faults (hintAddrs s gd ad off) s
  have hi : exec (.pgreq gd ad off) s = execPgreq gd ad off s := rfl
  rw [execPgreq, hq] at hi
  exact hintRun_of_exec hi rfl rfl (fun _ => ⟨rfl, rfl⟩)

theorem pref_run (s : State) (gd : Guard) (ad : Addr) (off : Off) : HintRun (.pref gd ad off) s gd (fun t => t.faults = s.faults) :=
  hintRun_of_side rfl (MemorySide.foldl prefetch_side (hintAddrs s gd ad off) s)

theorem prefL2_run (s : State) (gd : Guard) (ad : Addr) (off : Off) : HintRun (.prefL2 gd ad off) s gd (fun t => t.faults = s.faults) :=
  hintRun_of_side rfl (MemorySide.foldl prefetch_side (hintAddrs s gd ad off) s)

theorem memhint_run (s : State) (h : Hint) (gd : Guard) (ad : Addr) (off : Off) :
    HintRun (.memhint h gd ad off) s gd (fun t => t.faults = s.faults) :=
  hintRun_of_side rfl (postHints_side (Machine.Hint.code h) (hintAddrs s gd ad off) (s, []))

end Sys2Proof.Proofs
end

section
namespace Sys2Proof.Proofs
open Sys2Proof.Machine Sys2Proof.Says Sys2Proof.Laws

/-! ## The number of an instruction in flight (R93) -/

theorem nextId_fold (l : List Flight) (n : Nat) :
    n ≤ l.foldl (fun m f => if m ≤ f.id then f.id + 1 else m) n ∧
      ∀ f ∈ l, f.id < l.foldl (fun m f => if m ≤ f.id then f.id + 1 else m) n := by
  induction l generalizing n with
  | nil => simp
  | cons x l ih =>
    obtain ⟨hn, hl⟩ := ih (if n ≤ x.id then x.id + 1 else n)
    rw [List.foldl_cons]
    have hx : n ≤ (if n ≤ x.id then x.id + 1 else n) ∧ x.id < (if n ≤ x.id then x.id + 1 else n) := by split <;> omega
    refine ⟨hx.1.trans hn, fun f hf => ?_⟩
    rcases List.mem_cons.mp hf with rfl | hf
    · exact hx.2.trans_le hn
    · exact hl f hf

/-- The next number is above those of the instructions in flight. -/
theorem lt_nextId {g : Group} {f : Flight} (h : f ∈ g.flights) : f.id < g.nextId := (nextId_fold g.flights 1).2 f h

/-- A raised instruction is found under its number. -/
theorem flightOf_raise {g : Group} {f : Flight} (h : f.id = g.nextId) : (g.raise f).flightOf g.nextId = some f := by
  have hnone : g.flights.find? (fun x => x.id == g.nextId) = none := by
    simp only [List.find?_eq_none, beq_iff_eq]
    exact fun x hx he => absurd (lt_nextId hx) (by omega)
  rw [Group.flightOf, Group.raise, List.find?_append, hnone]
  simp [h]

theorem finishFlight_cur (s : State) (k id : Nat) : (s.finishFlight k id).cur = s.cur := by unfold State.finishFlight; split <;> rfl

/-- The end of an instruction that no access has given anything leaves registers and lanes as they were. -/
theorem group_finishFlight_noVals {w : State} {k id : Nat} {f : Flight} (hf : (w.group k).flightOf id = some f) (hv : f.vals = []) :
    let t := (w.finishFlight k id).group k
    t = { w.group k with flights := t.flights, wait := t.wait } := by
  cases hb : w.flightBusy k id with
  | true =>
    rw [State.finishFlight, if_pos hb]
  | false =>
    have h := group_finishFlight hb
    rw [hf, Option.map_some, Option.getD_some, hv, List.foldl_nil] at h
    exact h

/-! ## Lanes whose address is refused (R12, R14, R104) -/

section

variable {m : DWord} {ad : Nat → DWord} {chk : DWord → Option XFault}

theorem laneFault_none (h : ∀ l ∈ lanesOf m, chk (ad l) = none) : laneFault m ad chk = none := by
  rw [laneFault, List.findSome?_eq_none_iff]
  exact fun l hl => by rw [h l hl]; rfl

/-- A lane is refused, and the check gives one kind of fault alone: the first lane refused has it. -/
theorem laneFault_some {l : Nat} {x : XFault} (hl : l ∈ lanesOf m) (hx : chk (ad l) = some x) (hall : ∀ a y, chk a = some y → y = x) :
    ∃ e, laneFault m ad chk = some e ∧ e.x = x := by
  have hs : (laneFault m ad chk).isSome = true := by
    rw [laneFault, List.findSome?_isSome_iff]
    exact ⟨l, hl, by rw [hx]; rfl⟩
  obtain ⟨e, he⟩ := Option.isSome_iff_exists.mp hs
  obtain ⟨k, -, hk⟩ := List.exists_of_findSome?_eq_some he
  obtain ⟨y, hy, rfl⟩ := Option.map_eq_some_iff.mp hk
  exact ⟨_, he, hall _ _ hy⟩

end

/-! ## Scratchpad accesses at issue (R32, R94, R226) -/

theorem lt_of_mem_lanesOf {m : DWord} {l : Nat} (h : l ∈ lanesOf m) : l < 64 := List.mem_range.mp (List.mem_filter.mp h).1

theorem padPieces_lane {w l : Nat} {a : DWord} {p : Piece} (h : p ∈ padPieces w l a) : p.lane = l := by
  unfold padPieces at h
  split at h <;> simp only [List.mem_cons, List.not_mem_nil, or_false] at h
  · rcases h with rfl | rfl <;> rfl
  · rw [h]

theorem padUnits_lane {s : State} {act : DWord} {m : Mem} {p : Piece} (h : p ∈ s.padUnits act m) : p.lane < 64 := by
  obtain ⟨l, hl, hp⟩ := List.mem_flatMap.mp h
  rw [padPieces_lane hp]
  exact lt_of_mem_lanesOf hl

/-- The accesses of a scratchpad instruction wait, in their order; of its group only what is in flight changes. -/
theorem issuePad_spec (s : State) (p : Path) (kd : AccKind) (acq isLoad : Bool) (dst : List Reg) (op : Piece → AccOp) {ps : List Piece}
    (hps : ∀ e ∈ ps, e.lane < 64) :
    let u := s.issuePad p kd acq isLoad dst op ps
    ∃ as_, u = { s with groups := u.groups, pend := s.pend ++ as_ } ∧ (∀ k, k ≠ s.cur.grp → u.group k = s.group k) ∧
      IssueKept s.curGroup u.curGroup ∧ AllRegs s u ∧
      as_.map (fun (a : Access) => (a.grp, a.kind, a.lane.toNat, a.pa, a.w, a.off, a.op)) =
        ps.map (fun e => (s.cur.grp, kd, e.lane, e.va.toNat, e.w, e.off, op e)) := by
  intro u
  have hu : u = s.issuePad p kd acq isLoad dst op ps := rfl
  clear_value u
  unfold State.issuePad at hu
  extract_lets g id mk h t at hu
  generalize hw : ({ t with pend := t.pend ++ ps.mapIdx mk } : State) = w at hu
  subst hu
  have hgw : w.group s.cur.grp = if acq && !ps.isEmpty then { h with wait := .access id } else h := by
    rw [← hw]
    exact group_setGroup_self ..
  have hf : (w.group s.cur.grp).flightOf id = some (s.flight p id isLoad dst) := by
    rw [hgw]
    split <;> exact flightOf_raise rfl
  have hown := group_finishFlight_noVals hf rfl
  have hcur : (w.finishFlight s.cur.grp id).curGroup = (w.finishFlight s.cur.grp id).group s.cur.grp := by
    rw [State.curGroup, finishFlight_cur, ← hw]
    rfl
  refine ⟨ps.mapIdx mk, ?_, fun k hk => ?_, ?_, ?_, ?_⟩
  · rw [finishFlight_rest w s.cur.grp id, ← hw]; rfl
  · rw [group_finishFlight_ne w id hk, ← hw]
    exact group_setGroup_ne _ _ hk
  · rw [hcur, hown, hgw]
    split <;> exact ⟨rfl, rfl, rfl, rfl, rfl, rfl⟩
  · unfold AllRegs OtherRegs
    rw [hcur, hown, hgw]
    split <;> exact ⟨⟨rfl, rfl, rfl, rfl, rfl, rfl, rfl, rfl⟩, rfl⟩
  · refine List.ext_getElem (by simp) fun i h1 h2 => ?_
    have hlane : (ps[i]'(by simpa using h2)).lane < 64 := hps _ (List.getElem_mem _)
    simp [mk, Nat.mod_eq_of_lt hlane]

/-- A scratchpad instruction that no lane's address refuses, that nothing holds and that takes no poison completes. -/
theorem padRun_of_exec {i : Instr} {s : State} {m : Mem} {p : Path} {kd : AccKind} {isLoad hold : Bool} {op : Piece → AccOp}
    {fault : Option LaneFault} {poisoned : Nat → Nat → Bool} (hi : exec i s = (padAct s p kd m isLoad op fault hold poisoned).run s)
    (hf : fault = none) (hh : hold = false) (hp : isLoad = true → ∀ u ∈ s.padUnits (s.active m.g) m, poisoned u.va.toNat u.w = false) :
    PadRun i s m kd op := by
  have hfind : (if isLoad then (s.padUnits (s.active m.g) m).find? (fun u => poisoned u.va.toNat u.w) else none) = none := by
    split
    · next hl => simpa [List.find?_eq_none] using hp hl
    · rfl
  unfold padAct at hi
  simp only [hf, hh, hfind, Bool.false_eq_true, if_false] at hi
  obtain ⟨as_, hu, hother, hkept, hregs, hmap⟩ := issuePad_spec s p kd (isAcq m) isLoad (if isLoad then dstRegs m.d.toNat m.w.regs else []) op
    (ps := s.padUnits (s.active m.g) m) (fun e he => padUnits_lane he)
  generalize s.issuePad p kd (isAcq m) isLoad (if isLoad then dstRegs m.d.toNat m.w.regs else []) op (s.padUnits (s.active m.g) m) = u at *
  have h := retire_retired (s := s) (u := u) (act := s.active m.g) (by rw [hu]) hkept
  refine ⟨_, as_, hi, ⟨?_, fun k hk => ?_, fun a => ?_⟩, h.continues, h.accounted, h.allRegs hregs, ?_, hmap⟩
  · rw [h.rest, hu]
  · exact (h.others k hk).trans (hother k hk)
  · rw [h.rest, hu]
  · rw [h.rest, hu]

section

variable {s : State} {m : Mem}

theorem lds_run (sx : Bool) (h : PadReady s m .t .team (teamCheck s.curJob.jd m.w.bytes) false)
    (hp : ∀ u ∈ s.padUnits (s.active m.g) m, wordsPoisoned s.curTeam.poison u.va.toNat u.w = false) :
    PadRun (.lds sx m) s m .team (fun _ => .load sx m.d) :=
  padRun_of_exec (show exec (.lds sx m) s = execLds sx m s from rfl) (laneFault_none h.1) h.2 (fun _ => hp)

theorem sts_run (h : PadReady s m .t .team (teamCheck s.curJob.jd m.w.bytes) true) :
    PadRun (.sts m) s m .team (fun p => .store (storeData s.curGroup m.d m.w p)) :=
  padRun_of_exec (show exec (.sts m) s = execSts m s from rfl) (laneFault_none h.1) h.2 (fun _ _ _ => rfl)

/-- No lane's segment is in T. -/
theorem any_inT (h : ∀ l ∈ lanesOf (s.active m.g), s.curJob.inT (memAddr m s l) = false) :
    (lanesOf (s.active m.g)).any (fun l => s.curJob.inT (memAddr m s l)) = false := by
  simpa [List.any_eq_false] using h

theorem ldk_run (sx : Bool) (h : PadReady s m .k .comb (combCheck s.curJob.jd m.w.bytes) false)
    (ht : ∀ l ∈ lanesOf (s.active m.g), s.curJob.inT (memAddr m s l) = false)
    (hp : ∀ u ∈ s.padUnits (s.active m.g) m, wordsPoisoned s.curJob.combPoison u.va.toNat u.w = false) :
    PadRun (.ldk sx m) s m .comb (fun _ => .load sx m.d) :=
  padRun_of_exec (show exec (.ldk sx m) s = execLdk sx m s from rfl) (laneFault_none h.1) (by rw [h.2, any_inT ht]; rfl) (fun _ => hp)

/-- STK that no lane's address refuses and nothing holds: the lanes whose segment is in S alone may refuse it. -/
theorem exec_stk (h : PadReady s m .k .comb (combCheck s.curJob.jd m.w.bytes) true)
    (ht : ∀ l ∈ lanesOf (s.active m.g), s.curJob.inT (memAddr m s l) = false) :
    exec (.stk m) s = (padAct s .k .comb m false (fun p => .store (storeData s.curGroup m.d m.w p))
      (laneFault (s.active m.g) (memAddr m s) s.curJob.sharedSeg) false (fun _ _ => false)).run s := by
  have hi : exec (.stk m) s = execStk m s := rfl
  rw [hi, execStk]
  simp only [laneFault_none h.1, h.2, any_inT ht, Bool.or_self, Bool.false_eq_true, if_false]

theorem stk_run (h : PadReady s m .k .comb (combCheck s.curJob.jd m.w.bytes) true)
    (ht : ∀ l ∈ lanesOf (s.active m.g), s.curJob.inT (memAddr m s l) = false ∧ (s.curJob.tag_ ((memAddr m s l).toNat / 4096)).st ≠ 1) :
    PadRun (.stk m) s m .comb (fun p => .store (storeData s.curGroup m.d m.w p)) :=
  padRun_of_exec (exec_stk h fun l hl => (ht l hl).1) (laneFault_none fun l hl => if_neg (ht l hl).2) rfl (fun _ _ _ => rfl)

/-- A store to a segment in S is refused (R34, R114). -/
theorem stk_shared {l : Nat} (h : PadReady s m .k .comb (combCheck s.curJob.jd m.w.bytes) true) (hq : s.curGroup.quiet = true)
    (ht : ∀ k ∈ lanesOf (s.active m.g), s.curJob.inT (memAddr m s k) = false) (hl : l ∈ lanesOf (s.active m.g))
    (hs : (s.curJob.tag_ ((memAddr m s l).toNat / 4096)).st = 1) : Traps (.stk m) s (fun e => e.cause = 0x11 ∧ e.rsn = 0xA) := by
  have honly : ∀ a y, s.curJob.sharedSeg a = some y → y = { cause := 0x11, rsn := 0xA } := by
    intro a y hy
    unfold Job.sharedSeg at hy
    split at hy
    · exact (Option.some.inj hy).symm
    · cases hy
  obtain ⟨e, he, hx⟩ := laneFault_some (ad := memAddr m s) hl (if_pos hs) honly
  have hi := exec_stk h ht
  rw [he, padAct] at hi
  have htrap := accFault_trap (x := e.x) (at_ := 1) (lane := e.lane) (va := e.va) hq (by rw [hx]; decide)
  refine ⟨_, ?_, hi.trans (congrArg (Act.run s) htrap)⟩
  rw [hx]
  exact ⟨rfl, rfl⟩

end

end Sys2Proof.Proofs
end

section
namespace Sys2Proof.Proofs
open Sys2Proof.Machine Sys2Proof.Says Sys2Proof.Laws

/-! ## A word of a scratchpad is served (R32, R94) -/

theorem team_setTeam (s : State) (k : Nat) (t : Team) : (s.setTeam k t).team k = t := by
  simp [State.team, State.setTeam]
theorem job_setJob (s : State) (k : Nat) (j : Job) : (s.setJob k j).job k = j := by
  simp [State.job, State.setJob]

theorem finishFlight_teams (s : State) (k id : Nat) : (s.finishFlight k id).teams = s.teams := by unfold State.finishFlight; split <;> rfl
theorem finishFlight_jobs (s : State) (k id : Nat) : (s.finishFlight k id).jobs = s.jobs := by unfold State.finishFlight; split <;> rfl

/-- The bytes of a number written to memory, and every other byte as it was. -/
theorem read_writeN_toBytes (m : List Host.Cell) (a w n x : Nat) :
    Memory.read (Memory.writeN m a (toBytes w n)) x =
      if a ≤ x ∧ x < a + w then BitVec.ofNat 8 (n / 2 ^ (8 * (x - a))) else Memory.read m x := by
  split
  · next h =>
    obtain ⟨hax, hxw⟩ := h
    obtain ⟨i, rfl⟩ := Nat.exists_eq_add_of_le hax
    rw [read_writeN_at _ _ _ _ (by rw [toBytes_length]; omega), getD_toBytes _ (by omega), Nat.add_sub_cancel_left]
  · next h => exact read_writeN_ne _ _ (by rw [toBytes_length]; omega)

section

variable {s : State} {a : Access}

/-- The last word waiting in the machine is served: it waits no more, and its instruction ends. -/
theorem padServe_last (h : LastWord s a) : s.padServe a = (({ s with pend := [] } : State).padPerform a).finishFlight a.grp a.flight := by
  obtain ⟨hp, -, hr, hz, -⟩ := h
  simp [State.padServe, hp, hr, hz]

/-- Its instruction is then under way no more. -/
theorem flightBusy_last {b : State} (h : LastWord s a) (hp : b.pend = []) (hh : b.hops = s.hops) (hg : b.groups = s.groups) :
    b.flightBusy a.grp a.flight = false := by
  obtain ⟨-, -, -, -, hhops, houts, -⟩ := h
  have hgrp : b.group a.grp = s.group a.grp := by rw [State.group, State.group, hg]
  rw [State.flightBusy, hp, hh, hgrp, houts]
  simpa using fun x hx he _ => hhops x hx he

/-- What the last word leaves in its group, once the scratchpad has been read or written. -/
theorem group_served {b : State} (v : Nat) (h : LastWord s a) (hp : b.pend = []) (hh : b.hops = s.hops) (hg : b.groups = s.groups) :
    let g0 := (b.gave a v false).group a.grp
    let t := ((b.gave a v false).finishFlight a.grp a.flight).group a.grp
    t = { LaneVal.put g0 (a.laneVal v false) with flights := t.flights, wait := t.wait } := by
  obtain ⟨-, -, -, -, -, -, f, hf, hv⟩ := id h
  have hgrp : b.group a.grp = s.group a.grp := by rw [State.group, State.group, hg]
  exact group_lastGave v false (flightBusy_last h hp hh hg) (by rw [hgrp]; exact hf) hv

/-- Every other group is as it was. -/
theorem group_served_ne {b : State} (v : Nat) (hg : b.groups = s.groups) {k : Nat} (hk : k ≠ a.grp) :
    ((b.gave a v false).finishFlight a.grp a.flight).group k = s.group k := by
  rw [group_finishFlight_ne _ _ hk, group_gave_ne _ _ _ _ hk, State.group, State.group, hg]

/-- A served load shows the scratchpad's bytes in its lane. -/
theorem padServe_load {sx : Bool} {d : BitVec 11} (h : LastWord s a) (ho : a.op = .load sx d) :
    let t := s.padServe a
    t.pend = [] ∧ t.mem = s.mem ∧ t.teams = s.teams ∧ t.jobs = s.jobs ∧ (∀ k, k ≠ a.grp → t.group k = s.group k) ∧
      Loaded (t.group a.grp) sx d.toNat a.lane.toNat a.off a.w (Memory.num (padMem s a) a.pa a.w) := by
  have hperf : ({ s with pend := [] } : State).padPerform a = ({ s with pend := [] } : State).gave a (Memory.num (padMem s a) a.pa a.w) false := by
    unfold State.padPerform padMem
    simp only [ho, beq_iff_eq]
    by_cases hk : a.kind = .team <;> simp only [hk, if_true, if_false] <;> rfl
  obtain ⟨-, hw, -⟩ := id h
  rw [padServe_last h, hperf]
  have hg := group_served (b := { s with pend := [] }) (Memory.num (padMem s a) a.pa a.w) h rfl rfl rfl
  exact ⟨finishFlight_pend _ _ _, finishFlight_mem _ _ _, finishFlight_teams _ _ _, finishFlight_jobs _ _ _,
    fun k hk => group_served_ne (b := { s with pend := [] }) _ rfl hk,
    loaded_congr ((congrArg Group.v hg).trans (put_load_v _ _ ho hw)) (loaded_putLoad _ _ _ _ _ _ a.lane.isLt)⟩

/-- The machine with a store's bytes in the scratchpad that the access names. -/
def padStored (s : State) (a : Access) (d : BitVec 128) : State :=
  if a.kind = .team then s.setTeam (s.group a.grp).tk ((s.team (s.group a.grp).tk).put a.pa (toBytes a.w d.toNat) false)
  else s.setJob (s.group a.grp).job ((s.job (s.group a.grp).job).putComb a.pa (toBytes a.w d.toNat) false)

theorem padPerform_store {d : BitVec 128} (ho : a.op = .store d) : s.padPerform a = (padStored s a d).gave a 0 false := by
  unfold State.padPerform padStored
  simp only [ho, beq_iff_eq]

/-- A store's bytes change the team memories and the comb windows alone. -/
theorem padStored_rest (s : State) (a : Access) (d : BitVec 128) :
    padStored s a d = { s with teams := (padStored s a d).teams, jobs := (padStored s a d).jobs } := by
  unfold padStored
  split <;> rfl

/-- What the scratchpad of an access holds, in a state whose group is of the same team and job. -/
theorem padMem_congr {t u : State} (hteams : t.teams = u.teams) (hjobs : t.jobs = u.jobs) (htk : (t.group a.grp).tk = (u.group a.grp).tk)
    (hj : (t.group a.grp).job = (u.group a.grp).job) : padMem t a = padMem u a := by
  unfold padMem State.team State.job
  rw [hteams, hjobs, htk, hj]

/-- The store's bytes stand where it names them. -/
theorem padMem_padStored (s : State) (a : Access) (d : BitVec 128) :
    padMem (padStored s a d) a = Memory.writeN (padMem s a) a.pa (toBytes a.w d.toNat) := by
  have hg : (padStored s a d).group a.grp = s.group a.grp := by rw [padStored_rest]; rfl
  unfold padMem
  rw [hg]
  unfold padStored
  by_cases hk : a.kind = .team
  · simp only [hk, if_true, team_setTeam]; rfl
  · simp only [hk, if_false, job_setJob]; rfl

/-- What a served store leaves of its group: what is in flight, what it waits for and what stands outstanding apart, it is as it was. -/
theorem group_served_store {b : State} {d : BitVec 128} (h : LastWord s a) (ho : a.op = .store d) (hp : b.pend = []) (hh : b.hops = s.hops)
    (hg : b.groups = s.groups) :
    let t := ((b.gave a 0 false).finishFlight a.grp a.flight).group a.grp
    t = { s.group a.grp with flights := t.flights, wait := t.wait, outs := (s.group a.grp).outs.map (Outst.result a 0) } := by
  have hgrp : b.group a.grp = s.group a.grp := by rw [State.group, State.group, hg]
  have ht := group_served 0 h hp hh hg
  dsimp only at ht
  rw [put_store _ _ ho, group_gave_self, hgrp] at ht
  exact ht

/-- A served store puts its bytes in its scratchpad; every other byte there and every register stay. -/
theorem padServe_store {d : BitVec 128} (h : LastWord s a) (ho : a.op = .store d) :
    let t := s.padServe a
    t.pend = [] ∧ t.mem = s.mem ∧ t.l2 = s.l2 ∧ (∀ k, (t.group k).v = (s.group k).v ∧ (t.group k).s = (s.group k).s ∧ (t.group k).p = (s.group k).p) ∧
      ∀ x, Memory.read (padMem t a) x =
        if a.pa ≤ x ∧ x < a.pa + a.w then BitVec.ofNat 8 (d.toNat / 2 ^ (8 * (x - a.pa))) else Memory.read (padMem s a) x := by
  rw [padServe_last h, padPerform_store ho]
  generalize hb : padStored ({ s with pend := [] } : State) a d = b
  have hrest : b = { s with pend := [], teams := b.teams, jobs := b.jobs } := by rw [← hb]; exact padStored_rest _ _ _
  have hgroups : b.groups = s.groups := by rw [hrest]
  have hown := group_served_store h ho (by rw [hrest]) (by rw [hrest]) hgroups
  have hgrp : b.group a.grp = s.group a.grp := by rw [State.group, State.group, hgroups]
  intro t
  refine ⟨(finishFlight_pend _ _ _).trans (by rw [State.gave, hrest]; rfl), (finishFlight_mem _ _ _).trans (by rw [State.gave, hrest]; rfl),
    (finishFlight_l2 _ _ _).trans (by rw [State.gave, hrest]; rfl), fun k => ?_, fun x => ?_⟩
  · by_cases hk : k = a.grp
    · rw [hk, hown]
      exact ⟨rfl, rfl, rfl⟩
    · rw [group_served_ne 0 hgroups hk]
      exact ⟨rfl, rfl, rfl⟩
  · have hmem : padMem t a = padMem b a :=
      padMem_congr ((finishFlight_teams _ _ _).trans rfl) ((finishFlight_jobs _ _ _).trans rfl) (by rw [hown, hgrp]; rfl) (by rw [hown, hgrp])
    rw [hmem, ← hb, padMem_padStored, read_writeN_toBytes]
    rfl

end

/-- Settles O21, clause by clause: scratchpad accesses at issue and as their words are served, a store to a shared segment, hints, fences
and waits. -/
theorem scratchpadsHintsFences : Obligations.ScratchpadsHintsFences :=
  ⟨⟨fun _ sx _ h hp => lds_run sx h hp, fun _ _ h => sts_run h, fun _ sx _ h ht hp => ldk_run sx h ht hp, fun _ _ h ht => stk_run h ht,
      fun _ _ _ _ h ho => padServe_load h ho, fun _ _ _ h ho => padServe_store h ho, fun _ _ _ h hq ht hl hs => stk_shared h hq ht hl hs⟩,
    pgreq_run, pref_run, prefL2_run, memhint_run, fun _ => goesWhen_of_exec Iff.rfl rfl, fun _ => goesWhen_of_exec Iff.rfl rfl,
    fun _ => goesWhen_of_exec Iff.rfl rfl, fun s p a => goesWhen_of_exec (waitcOk_iff s.curGroup p (s.curGroup.sget a.toNat)) rfl⟩

end Sys2Proof.Proofs
end

section
namespace Sys2Proof.Proofs
open Sys2Proof.Machine Sys2Proof.Says Sys2Proof.Laws

/-! ## An issue that moves lanes of its group (R176, R196) -/

/-- The instruction's effect gave `u`, its lanes already moved; the end of the issue changes its group's counts alone. -/
theorem retire_accounted {s u : State} {act : DWord} (hc : u.cur = s.cur) (hp : u.curGroup.perf = s.curGroup.perf)
    (hsk : u.curGroup.sk = s.curGroup.sk) (hskip : u.curGroup.skip = s.curGroup.skip) (hsc : u.curGroup.sc = s.curGroup.sc)
    (hst : u.curGroup.stepPend = s.curGroup.stepPend) :
    let t := s.retire act u
    Accounted s t act ∧ (∀ k, k ≠ s.cur.grp → t.group k = u.group k) ∧
      t.curGroup = { u.curGroup with
        perf := t.curGroup.perf, sk := t.curGroup.sk, sc := t.curGroup.sc, skip := t.curGroup.skip, stepPend := t.curGroup.stepPend } := by
  intro t
  have hg : t.curGroup = s.curGroup.retire s.curJob.da act u.curGroup := by
    simp only [t, State.curGroup, State.retire, cur_setGroup, hc, group_setGroup_self]
  refine ⟨⟨fun k => ?_, ?_, ?_, ?_, ?_⟩, fun k hk => group_setGroup_ne _ _ hk, ?_⟩
  · rw [hg, perf_retire, hp]
  · simp [hg, Group.retire, Group.count, hsk]
  · simp [hg, Group.retire, Group.count, hskip]
  · cases htm : s.curGroup.tm <;> cases hda : s.curJob.da <;> simp [hg, Group.retire, Group.count, hsc, htm, hda]
  · simp [hg, Group.retire, Group.count, hst]
  · rw [hg]
    exact retire_rest ..

theorem branchTo_eq_goTo (s : State) (t : VAddr) (x : Lane) : x.branchTo s.cur.pc t = goTo s t x := by
  unfold Lane.branchTo goTo
  simp only [BitVec.le_def]
  split_ifs <;> simp_all

/-- Lanes of a mask are changed and branch; the others of the issue state stand at the next instruction. -/
theorem lane_mapLanes_branch {s w : State} {g : Group} (m : DWord) (f : Lane → Lane) (t : Nat → VAddr) {l : Nat} (hc : w.cur = s.cur)
    (hg : g.lanes = s.curGroup.lanes) (h : l < s.curGroup.lanes.length) :
    ((w.setCurGroup (g.mapLanes m f)).branch m t).curGroup.lane l = branched s m (fun k x => goTo s (t k) (f x)) l := by
  rw [State.branch, curGroup_setCurGroup, curGroup_setCurGroup, branched, ← branchTo_eq_goTo]
  simp only [State.nextPc, cur_setCurGroup, hc, Group.lane, Group.mapLanes, hg]
  cases hm : m.getLsbD l <;> simp [h, hm]

theorem target_eq_dest (s : State) (disp : BitVec 33) : s.target disp = dest s disp.toInt := by
  rw [State.target, dest, BitVec.ofInt_add, BitVec.ofInt_mul, BitVec.ofInt_natCast, BitVec.ofNat_toNat, BitVec.setWidth_eq,
    BitVec.shiftLeft_eq_mul_twoPow, BitVec.mul_comm]
  rfl

theorem target_eq_dest_short (s : State) (disp : BitVec 23) : s.target (disp.signExtend 33) = dest s disp.toInt := by
  rw [target_eq_dest, BitVec.toInt_signExtend_of_le (by decide)]

/-- An instruction that moves lanes of its group alone completes. -/
theorem lanesRun_of_exec {i : Instr} {s u : State} {act : DWord} {f : Nat → Lane} (hi : exec i s = (Act.done act u).run s)
    (hrest : u = { s with groups := u.groups }) (hother : ∀ k, k ≠ s.cur.grp → u.group k = s.group k)
    (hown : u.curGroup = { s.curGroup with lanes := u.curGroup.lanes })
    (hl : ∀ l, l < s.curGroup.lanes.length → u.curGroup.lane l = f l) : LanesRun i s act f := by
  obtain ⟨hacc, hother', hown'⟩ := retire_accounted (s := s) (u := u) (act := act)
    (by rw [hrest]) (by rw [hown]) (by rw [hown]) (by rw [hown]) (by rw [hown]) (by rw [hown])
  refine ⟨_, hi, ⟨?_, fun k hk => (hother' k hk).trans (hother k hk), fun a => ?_⟩, hacc, ?_, fun l hlt => ?_⟩
  · rw [stateRetire_rest, hrest]
  · rw [stateRetire_mem, hrest]
  · rw [hown', hown]
  · rw [hown', ← hl l hlt]
    rfl

/-- With no active lane the issue state continues. -/
theorem lanesRun_none {i : Instr} {s : State} (hi : exec i s = (Act.done 0 s.advance).run s) : LanesRun i s 0 (branched s 0 (fun _ x => x)) := by
  refine lanesRun_of_exec hi rfl (fun k hk => group_setGroup_ne _ _ hk) (by rw [State.advance, curGroup_setCurGroup]; rfl) fun l hl => ?_
  rw [State.advance, curGroup_setCurGroup, lane_mapLanes]
  simp [branched, hl]

/-! ## The lowest lane that fails a check (R104) -/

theorem firstLane_isSome {m : DWord} {f : Nat → Option Trap} {l : Nat} (hl : l ∈ lanesOf m) (hf : (f l).isSome = true) :
    ∃ k e, k ∈ lanesOf m ∧ f k = some e ∧ firstLane m f = some e := by
  obtain ⟨e, he⟩ := Option.isSome_iff_exists.mp (List.findSome?_isSome_iff.mpr ⟨l, hl, hf⟩)
  obtain ⟨k, hk, hke⟩ := List.exists_of_findSome?_eq_some he
  exact ⟨k, e, hk, hke, he⟩

theorem firstLane_none {m : DWord} {f : Nat → Option Trap} (h : ∀ l ∈ lanesOf m, f l = none) : firstLane m f = none :=
  List.findSome?_eq_none_iff.mpr h

theorem firstLane_lowest {m : DWord} {f : Nat → Option Trap} {l : Nat} {e : Trap} (hl : l ∈ lanesOf m) (hf : f l = some e)
    (hlow : ∀ k ∈ lanesOf m, k < l → f k = none) : firstLane m f = some e := by
  have hsorted : (lanesOf m).Pairwise (· < ·) := List.pairwise_lt_range.filter _
  obtain ⟨a, b, hab⟩ := List.append_of_mem hl
  rw [hab, List.pairwise_append] at hsorted
  have hnone : a.findSome? f = none :=
    List.findSome?_eq_none_iff.mpr fun k hk => hlow k (by simp [hab, hk]) (hsorted.2.2 k hk l (by simp))
  rw [firstLane, hab, List.findSome?_append, hnone, List.findSome?_cons, hf]
  rfl

/-- An instruction that traps with the first trap of its lanes. -/
theorem firstTraps_of_exec {i : Instr} {s : State} {m : DWord} {f : Nat → Option Trap} {c : Nat → Option (Nat × Nat)}
    (hi : ∀ e, firstLane m f = some e → exec i s = (Act.trap e).run s)
    (hc : ∀ l, (f l).map (fun e => (e.cause, e.rsn, e.lane)) = (c l).map (fun x => (x.1, x.2, l))) : FirstTraps i s m c := by
  intro l hl hlow x hx
  have hfl := hc l
  rw [hx, Option.map_some, Option.map_eq_some_iff] at hfl
  obtain ⟨e, he, hp⟩ := hfl
  obtain ⟨hcause, hrsn, hlane⟩ : e.cause = x.1 ∧ e.rsn = x.2 ∧ e.lane = l := by simpa using hp
  refine ⟨e, ⟨hcause, hrsn, hlane⟩, hi e (firstLane_lowest hl he fun k hk hkl => ?_)⟩
  have hfk := hc k
  rwa [hlow k hk hkl, Option.map_none, Option.map_eq_none_iff] at hfk

/-! ## Calls (R199 to R201) -/

theorem linkWord_eq_link (s : State) (o : Nat × CodeObj) : linkWord o s.nextPc = link s o := by
  rw [linkWord, link, Int.sub_eq_add_neg, BitVec.ofInt_add, BitVec.ofInt_neg, BitVec.ofInt_natCast, BitVec.ofInt_natCast,
    BitVec.ofNat_toNat, BitVec.ofNat_toNat, BitVec.sub_eq_add_neg]

theorem setV64_eq_setVN (g : Group) (n l : Nat) (x : DWord) : g.setV64 n l x = Group.setVN 2 g n l x.toNat := by
  have hlo : x.extractLsb' 0 32 = BitVec.ofNat 32 x.toNat := by
    apply BitVec.eq_of_toNat_eq; simp
  have hhi : x.extractLsb' 32 32 = BitVec.ofNat 32 (x.toNat / 2 ^ 32) := by
    apply BitVec.eq_of_toNat_eq; simp [Nat.shiftRight_eq_div_pow]
  rw [Group.setV64, hlo, hhi]
  rfl

/-- The group of a call after its links are kept. -/
theorem links_eq_setLanes (g : Group) (d : Nat) (ls : List Nat) (x : DWord) :
    ls.foldl (fun k l => k.setV64 d l x) g = g.setLanes 2 d ls (fun _ => x.toNat) := by
  simp only [setV64_eq_setVN, Group.setLanes]

/-- A call's group: the links kept, the lanes of the mask one level deeper at their targets. -/
theorem callTo_curGroup {s b : State} (m : DWord) (d : Nat) (o : Nat × CodeObj) (t : Nat → VAddr) (hg : b.curGroup = s.curGroup)
    (hc : b.cur = s.cur) :
    let h := s.curGroup.setLanes 2 d (lanesOf m) (fun _ => (link s o).toNat)
    let u := b.callTo m d o t
    u.curGroup = { s.curGroup with v := h.v, dirtyV := h.dirtyV, lanes := u.curGroup.lanes } ∧
      ∀ l, l < s.curGroup.lanes.length → u.curGroup.lane l = branched s m (fun k x => goTo s (t k) { x with depth := x.depth + 1 }) l := by
  intro h u
  have hn : b.nextPc = s.nextPc := by rw [State.nextPc, hc]; rfl
  have hrest : h = { s.curGroup with v := h.v, dirtyV := h.dirtyV } := setLanes_rest ..
  have hu : u = (b.setCurGroup (h.mapLanes m (fun x => { x with depth := x.depth + 1 }))).branch m t := by
    simp only [u, State.callTo, hg, hn, linkWord_eq_link, links_eq_setLanes]
    rfl
  refine ⟨?_, fun l hl => ?_⟩
  · rw [hu, State.branch, curGroup_setCurGroup, curGroup_setCurGroup, hrest]
    rfl
  · rw [hu]
    exact lane_mapLanes_branch m _ t hc (by rw [hrest]) hl

/-- A call is done, from the state that its own reads leave. -/
theorem callDone_of_exec {i : Instr} {s b : State} {m : DWord} {d : Nat} {o : Nat × CodeObj} {t : Nat → VAddr} (hg : b.groups = s.groups)
    (hc : b.cur = s.cur) (hi : exec i s = (Act.done m (b.callTo m d o t)).run s) : CallDone i s b m d o t := by
  have hcg : b.curGroup = s.curGroup := by rw [State.curGroup, State.group, hg, hc]; rfl
  obtain ⟨hown, hlane⟩ := callTo_curGroup m d o t hcg hc
  have hucur : (b.callTo m d o t).cur = s.cur := hc
  have hother : ∀ k, k ≠ s.cur.grp → (b.callTo m d o t).group k = s.group k := fun k hk => by
    rw [← hc] at hk
    have h1 : (b.callTo m d o t).group k = b.group k := (group_setGroup_ne _ _ hk).trans (group_setGroup_ne _ _ hk)
    rw [h1, State.group, hg]
    rfl
  have hrest : b.callTo m d o t = { b with groups := (b.callTo m d o t).groups } := rfl
  generalize b.callTo m d o t = u at hi hown hlane hucur hother hrest
  obtain ⟨hacc, hother', hown'⟩ := retire_accounted (s := s) (u := u) (act := m) hucur (by rw [hown]) (by rw [hown]) (by rw [hown]) (by rw [hown])
    (by rw [hown])
  refine ⟨_, hi, hacc, fun k hk => (hother' k hk).trans (hother k hk), ?_, ?_, fun l hl => ?_, fun n l hl => ?_⟩
  · rw [stateRetire_rest, hrest]
  · rw [hown', hown]
  · rw [← hlane l hl, hown']
    rfl
  · have hv : (s.retire m u).curGroup.v = (s.curGroup.setLanes 2 d (lanesOf m) (fun _ => (link s o).toNat)).v := by rw [hown', hown]
    rw [v32_congr hv, v32_setLanes_mask _ _ _ _ _ _ _ hl]
    rfl

/-- A call with a lane active: a trap of its depth, or of a PC outside every object, or the call. -/
theorem callAct_full {b : State} {m : DWord} (a : Nat) (t : VAddr) (h : DepthFull b m) :
    ∃ e, callAct b m a t = .trap e ∧ e.cause = 2 ∧ e.lane ∈ lanesOf m ∧ (b.curGroup.lane e.lane).depth = 255 := by
  obtain ⟨l, hl, hd⟩ := h
  have hm : m ≠ 0 := by rintro rfl; simp [lanesOf] at hl
  obtain ⟨k, e, hk, hke, he⟩ := firstLane_isSome (f := b.curGroup.depthTrap) hl (by simp [Group.depthTrap, hd])
  refine ⟨e, by simp only [callAct, if_neg hm, he], ?_⟩
  unfold Group.depthTrap at hke
  split at hke
  · next hfull =>
    obtain rfl := Option.some.inj hke
    exact ⟨rfl, hk, hfull⟩
  · cases hke

theorem depthTrap_none {b : State} {m : DWord} (h : ¬DepthFull b m) : firstLane m b.curGroup.depthTrap = none :=
  firstLane_none fun l hl => by
    have hd : (b.curGroup.lane l).depth ≠ 255 := fun hd => h ⟨l, hl, hd⟩
    rw [Group.depthTrap, if_neg hd]

section

variable {b : State} {m : DWord} (a : Nat) (t : VAddr) (hm : m ≠ 0) (h : ¬DepthFull b m)
include hm h

theorem callAct_done {o : Nat × CodeObj} (ho : b.curJob.objOf b.cur.pc = some o) : callAct b m a t = .done m (b.callTo m a o (fun _ => t)) := by
  simp only [callAct, if_neg hm, depthTrap_none h, ho]

theorem callAct_noObject (ho : b.curJob.objOf b.cur.pc = none) : callAct b m a t = .trap (b.noObject m) := by
  simp only [callAct, if_neg hm, depthTrap_none h, ho]

end

theorem callRun_of_exec {i : Instr} {s : State} {m : DWord} {a : Nat} {t : VAddr} (hi : exec i s = (callAct s m a t).run s) : CallRun i s m a t := by
  refine ⟨fun hm => ?_, fun h => ?_, fun hm h ho => ?_, fun o hm h ho => ?_⟩
  · subst hm
    exact lanesRun_none hi
  · obtain ⟨e, he, hp⟩ := callAct_full a t h
    exact ⟨e, hp, by rw [hi, he]; rfl⟩
  · exact ⟨s.noObject m, ⟨rfl, rfl⟩, by rw [hi, callAct_noObject a t hm h ho]; rfl⟩
  · exact callDone_of_exec rfl rfl (by rw [hi, callAct_done a t hm h ho])

/-! ## CALLX (R201) -/

/-- The trap of a lane of CALLX. -/
def callxTrap (s : State) (a : BitVec 11) (l : Nat) : Option Trap :=
  if (s.curGroup.v64 a.toNat l).toNat % 4 ≠ 0 then some { Trap.of 0x08 with lane := l, addr := s.curGroup.v64 a.toNat l }
  else if (s.curGroup.v64 a.toNat l).toNat / 2 ^ 57 ≠ 0 then some (Trap.protection 4 l (s.curGroup.v64 a.toNat l))
  else s.curGroup.depthTrap l

theorem callxTrap_cause (s : State) (a : BitVec 11) (l : Nat) :
    (callxTrap s a l).map (fun e => (e.cause, e.rsn, e.lane)) = (callxCause s a l).map (fun x => (x.1, x.2, l)) := by
  have hdiv : (s.curGroup.v64 a.toNat l).toNat / 2 ^ 57 ≠ 0 ↔ 2 ^ 57 ≤ (s.curGroup.v64 a.toNat l).toNat := by omega
  unfold callxTrap callxCause Group.depthTrap
  simp only [hdiv]
  split_ifs <;> rfl

section

variable {s : State} {gd : Guard} (d : BitVec 11) {a : BitVec 11}

theorem callx_traps {e : Trap} (h : firstLane (s.active gd) (callxTrap s a) = some e) : exec (.callx gd d a) s = (Act.trap e).run s := by
  change execCallx gd d a s = _
  unfold execCallx
  change (match firstLane (s.active gd) (callxTrap s a) with | some e => Act.trap e | none => _).run s = _
  rw [h]

theorem callx_idle (h : s.active gd = 0) : exec (.callx gd d a) s = (Act.done 0 s.advance).run s := by
  change execCallx gd d a s = _
  unfold execCallx
  simp only [h]
  rfl

theorem callx_calls {o : Nat × CodeObj} (hm : s.active gd ≠ 0) (h : firstLane (s.active gd) (callxTrap s a) = none)
    (ho : s.curJob.objOf s.cur.pc = some o) :
    exec (.callx gd d a) s = (Act.done (s.active gd) (s.callTo (s.active gd) d.toNat o (fun l => (s.curGroup.v64 a.toNat l).setWidth 57))).run s := by
  change execCallx gd d a s = _
  unfold execCallx
  change (match firstLane (s.active gd) (callxTrap s a) with | some e => Act.trap e | none => _).run s = _
  rw [h]
  simp only [if_neg hm, ho]

end

/-! ## RET (R202) -/

/-- The trap of a lane of RET. -/
def retTrap (s : State) (a l : Nat) : Option Trap :=
  if (s.curGroup.lane l).depth = 0 then some (Trap.illegalOperand l)
  else match s.curJob.linkTarget (s.curGroup.v64 a l) with
    | some _ => none
    | none => some (Trap.protection 7 l (Config.faultAddr (s.curGroup.v64 a l)))

theorem retTrap_cause (s : State) (a l : Nat) :
    (retTrap s a l).map (fun e => (e.cause, e.rsn, e.lane)) = (retCause s a l).map (fun x => (x.1, x.2, l)) := by
  unfold retTrap retCause
  split
  · rfl
  · cases s.curJob.linkTarget (s.curGroup.v64 a l) <;> rfl

theorem retRun_of_exec {i : Instr} {s : State} {m : DWord} {a : Nat} (hi : exec i s = (retAct s m a).run s) : RetRun i s m a := by
  have hact : retAct s m a = match firstLane m (retTrap s a) with
    | some e => Act.trap e
    | none => .done m ((s.setCurGroup (s.curGroup.mapLanes m (fun x => { x with depth := x.depth - 1 }))).branch m
        (fun l => (s.curJob.linkTarget (s.curGroup.v64 a l)).getD 0)) := rfl
  refine ⟨firstTraps_of_exec (f := retTrap s a) (fun e he => ?_) (retTrap_cause s a), fun h => ?_⟩
  · rw [hi, hact, he]
  · have hnone := firstLane_none fun l hl => Option.map_eq_none_iff.mp ((retTrap_cause s a l).trans (by rw [h l hl, Option.map_none]))
    rw [hact, hnone] at hi
    refine lanesRun_of_exec hi rfl (fun k hk => ?_) ?_ fun l hl => lane_mapLanes_branch m _ _ rfl rfl hl
    · exact (group_setGroup_ne _ _ hk).trans (group_setGroup_ne _ _ hk)
    · rw [State.branch, curGroup_setCurGroup, curGroup_setCurGroup]
      rfl

/-! ## CALL.STUB (R49, R169, R200) -/

theorem readVia_side (s : State) (die la : Nat) : MemorySide s (s.readVia die la) := by
  unfold State.readVia
  split
  · exact .refl _
  · exact readHome_side s la

theorem objRead_side {s : State} {w : Nat} {va : DWord} {r : State × Nat × Option Nat} (h : s.objRead w va = .ok r) : MemorySide s r.1 := by
  unfold State.objRead at h
  dsimp only at h
  cases hx : s.xlate s.curGroup.job s.curGroup.place.die .load w va with
  | error e => rw [hx] at h; cases h
  | ok x =>
    rw [hx] at h
    rw [← Except.ok.inj h]
    exact (useXlate_side ..).trans (readVia_side ..)

section

variable {s : State} {gd : Guard} (a : BitVec 11) {n : BitVec 33}

theorem callStub_idle (h : s.active gd = 0) : exec (.callStub gd a n) s = (Act.done 0 s.advance).run s := by
  change (stubAct s (s.active gd) a.toNat n.toNat).run s = _
  simp only [stubAct, h, if_true]

variable (hm : s.active gd ≠ 0)
include hm

theorem callStub_noObject (ho : s.curJob.objOf s.cur.pc = none) :
    exec (.callStub gd a n) s = (Act.trap (s.noObject (s.active gd))).run s := by
  change (stubAct s (s.active gd) a.toNat n.toNat).run s = _
  simp only [stubAct, if_neg hm, ho]

variable {o : Nat × CodeObj} {r q : State × Nat × Option Nat} (ho : s.curJob.objOf s.cur.pc = some o)
  (hr : s.objRead 4 (o.2.base.setWidth 64 + 8) = .ok r)
include ho hr

theorem callStub_poison {pa : Nat} (hz : r.2.2 = some pa) : exec (.callStub gd a n) s = (s.objPoison pa).run s := by
  change (stubAct s (s.active gd) a.toNat n.toNat).run s = _
  obtain ⟨t, count, z⟩ := r
  subst hz
  simp only [stubAct, if_neg hm, ho, hr]

variable (hz : r.2.2 = none)
include hz

theorem callStub_range (hn : r.2.1 ≤ n.toNat) :
    exec (.callStub gd a n) s = (Act.trap (Trap.illegalOperand (lowLane (s.active gd)))).run s := by
  change (stubAct s (s.active gd) a.toNat n.toNat).run s = _
  obtain ⟨t, count, z⟩ := r
  subst hz
  simp only [stubAct, if_neg hm, ho, hr, if_pos hn]

theorem callStub_calls (hn : n.toNat < r.2.1) (hq : r.1.objRead 8 (o.2.base.setWidth 64 + 0x80 + BitVec.ofNat 64 (16 * n.toNat)) = .ok q)
    (hqz : q.2.2 = none) :
    exec (.callStub gd a n) s = (callAct q.1 (s.active gd) a.toNat (BitVec.ofNat 57 (q.2.1 / 4 * 4))).run s := by
  change (stubAct s (s.active gd) a.toNat n.toNat).run s = _
  obtain ⟨t, count, z⟩ := r
  obtain ⟨u, target, y⟩ := q
  subst hz hqz
  simp only [stubAct, if_neg hm, ho, hr, if_neg (Nat.not_le.mpr hn), hq]

end

/-- Settles O16: a call's checks lane by lane, the call itself, and the two reads of a stub. -/
theorem callsAndReturns : Obligations.CallsAndReturns := by
  refine ⟨fun s disp => ?_, fun s gd a disp => ?_, fun s gd d a => ?_, fun s gd d a h => ?_, fun s gd d a o hm h ho => ?_, fun s a => ?_,
    fun s gd a => ?_, fun s gd a n h => ?_, fun s gd a n hm ho => ?_, fun s gd a n o r hm ho hr => ⟨fun hz hn => ?_, fun pa hz hq => ?_⟩,
    fun s gd a n o r q hm ho hr hz hn hq hqz => ?_⟩
  · exact callRun_of_exec (by rw [← target_eq_dest_short]; rfl)
  · exact callRun_of_exec (by rw [← target_eq_dest]; rfl)
  · exact firstTraps_of_exec (fun e he => callx_traps d he) (callxTrap_cause s a)
  · exact lanesRun_none (callx_idle d h)
  · have hnone := firstLane_none fun l hl => Option.map_eq_none_iff.mp ((callxTrap_cause s a l).trans (by rw [h l hl, Option.map_none]))
    exact callDone_of_exec rfl rfl (callx_calls d hm hnone ho)
  · exact retRun_of_exec rfl
  · exact retRun_of_exec rfl
  · exact lanesRun_none (callStub_idle a h)
  · exact ⟨_, ⟨rfl, rfl⟩, callStub_noObject a hm ho⟩
  · exact ⟨_, rfl, callStub_range a hm ho hr hz hn⟩
  · exact ⟨_, ⟨rfl, rfl, rfl⟩, by rw [callStub_poison a hm ho hr hz, State.objPoison, if_pos hq]; rfl⟩
  · have hside : MemorySide s q.1 := (objRead_side hr).trans (objRead_side hq)
    have hi := callStub_calls a hm ho hr hz hn hq hqz
    have hfull : DepthFull q.1 (s.active gd) ↔ DepthFull s (s.active gd) := by rw [DepthFull, hside.curGroup]; rfl
    refine ⟨fun h => ?_, fun h => ?_⟩
    · obtain ⟨e, he, hcause, -⟩ := callAct_full a.toNat _ (hfull.mpr h)
      exact ⟨e, hcause, by rw [hi, he]; rfl⟩
    · have hobj : q.1.curJob.objOf q.1.cur.pc = some o := (hside.congr (fun u => u.curJob.objOf u.cur.pc) rfl).trans ho
      exact callDone_of_exec hside.groups hside.cur (hi.trans (by rw [callAct_done _ _ hm (fun hd => h (hfull.mp hd)) hobj]))

end Sys2Proof.Proofs
end

section
namespace Sys2Proof.Proofs
open Sys2Proof.Machine Sys2Proof.Says Sys2Proof.Laws

/-! ## What a change of a barrier leaves alone (R263) -/

/-- Teams and lanes alone may differ: barriers change, and lanes that waited at one go on. -/
def LanesWoken (s t : State) : Prop :=
  t = { s with teams := t.teams, groups := t.groups } ∧ ∀ k, t.group k = { s.group k with lanes := (t.group k).lanes }

theorem wakeAll_woken (l : List Nat) (b : BwKind) (s : State) : LanesWoken s (s.wakeAll l b) := by
  refine List.foldlRecOn (motive := LanesWoken s) l _ ⟨rfl, fun _ => rfl⟩ fun t ⟨hrest, hg⟩ k _ => ⟨?_, fun j => ?_⟩
  · rw [setGroup_rest, hrest]
  · by_cases hj : j = k
    · subst hj
      rw [group_setGroup_self, Group.wakeBw, hg j]
    · rw [group_setGroup_ne _ _ hj]
      exact hg j

theorem updBar_woken (s : State) (tk b : Nat) (f : Barrier → Barrier) : LanesWoken s (s.updBar tk b f) := by
  unfold State.updBar State.barCheck
  dsimp only
  split
  · obtain ⟨hrest, hg⟩ := wakeAll_woken ((s.setTeam tk ((s.team tk).setBar b (f ((s.team tk).bar b)))).groupsOf tk) (.bar (BitVec.ofNat 4 b))
      (((s.setTeam tk ((s.team tk).setBar b (f ((s.team tk).bar b)))).setTeam tk _))
    exact ⟨by rw [hrest]; rfl, hg⟩
  · exact ⟨rfl, fun _ => rfl⟩

/-! ## Tags of segments (R34) -/

theorem tag_setTag (j : Job) (k : Nat) (t : SegTag) (i : Nat) : (j.setTag k t).tag_ i = if i = k then t else j.tag_ i := by
  by_cases h : i = k
  · subst h; simp [Job.tag_, Job.setTag]
  · rw [if_neg h]
    exact getD_setD_ne _ _ _ h

/-- Segments changed one after another, each to a tag that a second change leaves: the listed ones are changed. -/
theorem tag_foldl {f : Job → Nat → Job} {g : Nat → SegTag → SegTag}
    (hf : ∀ j k i, (f j k).tag_ i = if i = k then g i (j.tag_ i) else j.tag_ i) (hg : ∀ i x, g i (g i x) = g i x) (l : List Nat) (j : Job)
    (i : Nat) : (l.foldl f j).tag_ i = if i ∈ l then g i (j.tag_ i) else j.tag_ i := by
  induction l generalizing j with
  | nil => rfl
  | cons k l ih =>
    rw [List.foldl_cons, ih, hf]
    by_cases h : i = k <;> simp [h, hg]

/-- The segments that a control word names. -/
theorem mem_segRange (ws n i : Nat) : i ∈ (List.range n).map (fun k => ws + k) ↔ ws ≤ i ∧ i < ws + n := by
  simp only [List.mem_map, List.mem_range]
  exact ⟨fun ⟨k, hk, he⟩ => by omega, fun h => ⟨i - ws, by omega, by omega⟩⟩

/-! ## Pins (R110) -/

theorem pin_rest (s : State) (job die id : Nat) (c : Cover) : s.pin job die id c =
    { c.pins.foldl (fun (t : State) p => t.useXlate job die p.1 p.2.2.2.1 p.2.2.2.2) s with pins := (s.pin job die id c).pins } := rfl

theorem useXlates_side (s : State) (job die : Nat) (l : List (Nat × Nat × DWord × AKind × Xlate)) :
    MemorySide s (l.foldl (fun (t : State) p => t.useXlate job die p.1 p.2.2.2.1 p.2.2.2.2) s) := by
  refine .foldl (fun t p => ?_) _ s
  exact useXlate_side t job die p.1 p.2.2.2.1 p.2.2.2.2

/-- Pinning touches the memory side and the pins alone. -/
theorem pin_side (s : State) (job die id : Nat) (c : Cover) :
    ∃ u, MemorySide s u ∧ s.pin job die id c = { u with pins := (s.pin job die id c).pins } := by
  refine ⟨_, ?_, pin_rest ..⟩
  exact useXlates_side ..

/-- What reads neither the memory side nor the pins is as it was. -/
theorem pin_congr {α : Type} {s : State} {job die id : Nat} {c : Cover} (f : State → α)
    (hf : ∀ t pins, f { withMemorySide s t with pins := pins } = f s) : f (s.pin job die id c) = f s := by
  obtain ⟨u, hu, hp⟩ := pin_side s job die id c
  rw [hp, hu.eq]
  exact hf ..

/-! ## BCHK (R34, R262) -/

/-- A group's own part after an instruction whose effect gave `u`. -/
theorem retire_advance_curGroup {s u : State} (act : DWord) (hc : u.cur = s.cur) :
    let t := s.retire act u.advance
    t.curGroup = { u.curGroup with
      lanes := t.curGroup.lanes, perf := t.curGroup.perf, sk := t.curGroup.sk, sc := t.curGroup.sc, skip := t.curGroup.skip,
      stepPend := t.curGroup.stepPend } := by
  intro t
  have hg : t.curGroup = s.curGroup.retire s.curJob.da act u.advance.curGroup := by
    simp only [t, State.curGroup, State.retire, State.advance, State.setCurGroup, cur_setGroup, hc, group_setGroup_self]
  rw [hg, retire_rest, State.advance, curGroup_setCurGroup]
  rfl

section

variable {s : State} {d : BitVec 4} {a b : BitVec 7}

theorem word_over (x : DWord) : x.toNat / 2 ^ 23 ≠ 0 ↔ 2 ^ 23 ≤ x.toNat := by omega

theorem bchk_refuses (h : 2 ^ 23 ≤ (s.curGroup.sget b.toNat).toNat ∨ (s.curTeam.bar d.toNat).ec = 0) :
    exec (.bchk d a b) s = (Act.trap (Trap.illegalOperand 0)).run s := by
  change execBchk d a b s = _
  simp only [execBchk, word_over, if_pos h]

theorem bchkin_refuses (h : 2 ^ 23 ≤ (s.curGroup.sget b.toNat).toNat ∨ segMx (s.curGroup.sget b.toNat) = true ∨ (s.curTeam.bar d.toNat).ec = 0) :
    exec (.bchkin d b) s = (Act.trap (Trap.illegalOperand 0)).run s := by
  change execBchkin d b s = _
  simp only [execBchkin, word_over, if_pos h]

end

/-- The cover of a check-out's pages. -/
def bchkCover (s : State) (a b : BitVec 7) : Cover :=
  let x := s.curGroup.sget b.toNat
  let va := (s.curGroup.sget a.toNat).toNat
  s.coverRange s.curGroup.job s.curGroup.place.die (if segMx x then .bchkEx else .bchk) 4098 va (va + 4096 * segCnt x) Cover.start

/-- The check-out that BCHK enters in the engine. -/
def bchkCopy (s : State) (d : BitVec 4) (a b : BitVec 7) : Copy :=
  let x := s.curGroup.sget b.toNat
  let va := (s.curGroup.sget a.toNat).toNat
  let k : AKind := if segMx x then .bchkEx else .bchk
  { Copy.zero with
    id := s.nextCopy, kind := .bchk, grp := s.cur.grp, flight := s.curGroup.nextId, die := s.curGroup.place.die, bar := d, ss := .global,
    ds := .comb, src := BitVec.ofNat 64 va, dst := BitVec.ofNat 64 (segWs x * 4096), len := 4096 * segCnt x, ws := segWs x, cnt := segCnt x,
    excl := segMx x,
    runs := (runsOf (segWs x) (s.frames s.curGroup.job s.curGroup.place.die va (segCnt x) k)).foldl (fun l r => insRun r l) [],
    pc := s.cur.pc }

/-- The state after BCHK has entered a check-out. -/
def bchkState (s : State) (d : BitVec 4) (a b : BitVec 7) : State :=
  let t := (s.pin s.curGroup.job s.curGroup.place.die s.nextCopy (bchkCover s a b)).setCurGroup
    { s.curGroup.raise (s.flight .c s.curGroup.nextId false []) with wait := .hop s.nextCopy }
  { t with copies := t.copies ++ [bchkCopy s d a b] }

/-- BCHK where nothing refuses or holds it. -/
theorem bchk_enters {s : State} {d : BitVec 4} {a b : BitVec 7} (hx : (s.curGroup.sget b.toNat).toNat < 2 ^ 23)
    (hec : (s.curTeam.bar d.toNat).ec ≠ 0) (hva : (s.curGroup.sget a.toNat).toNat % 4096 = 0)
    (hnw : segWs (s.curGroup.sget b.toNat) + segCnt (s.curGroup.sget b.toNat) ≤ s.curJob.jd.nw)
    (hidle : ∀ i, i < segCnt (s.curGroup.sget b.toNat) → (s.curJob.tag_ (segWs (s.curGroup.sget b.toNat) + i)).st = 0)
    (hcov : (bchkCover s a b).fault = none) (hready : s.copyReady = true)
    (hroom : s.pinRoom s.curGroup.place.die (bchkCover s a b).pins.length = true) : exec (.bchk d a b) s = .next (bchkState s d a b) := by
  have hover : ¬((s.curGroup.sget b.toNat).toNat / 2 ^ 23 ≠ 0 ∨ (s.curTeam.bar d.toNat).ec = 0) := by
    rw [word_over]
    exact not_or.mpr ⟨by omega, hec⟩
  generalize hsegs : (List.range (segCnt (s.curGroup.sget b.toNat))).map (fun i => segWs (s.curGroup.sget b.toNat) + i) = segs
  have hst : ∀ i ∈ segs, (s.curJob.tag_ i).st = 0 := by
    intro i hi
    rw [← hsegs] at hi
    obtain ⟨k, hk, rfl⟩ := List.mem_map.mp hi
    exact hidle k (List.mem_range.mp hk)
  have hany : segs.any (fun i => (s.curJob.tag_ i).st == 3) = false := by
    rw [List.any_eq_false]
    intro i hi
    simp [hst i hi]
  have hfind : segs.find? (fun i => (s.curJob.tag_ i).st == 1 || (s.curJob.tag_ i).st == 2) = none := by
    rw [List.find?_eq_none]
    intro i hi
    simp [hst i hi]
  change execBchk d a b s = _
  unfold bchkCover at hcov hroom
  simp only [execBchk, if_neg hover, hva, ne_eq, not_true_eq_false, if_false, if_neg (Nat.not_lt.mpr hnw), hsegs, hany, hfind, hcov, hready, hroom,
    Bool.not_true, Bool.or_self, Bool.false_eq_true]
  rfl

theorem bchkState_spec (s : State) (d : BitVec 4) (a b : BitVec 7) :
    let t := bchkState s d a b
    t.curGroup = { s.curGroup.raise (s.flight .c s.curGroup.nextId false []) with wait := .hop s.nextCopy } ∧
      t.copies = s.copies ++ [bchkCopy s d a b] ∧ t.curJob = s.curJob := by
  intro t
  have hjobs : t.jobs = s.jobs := pin_congr (id := s.nextCopy) (fun u => u.jobs) fun _ _ => rfl
  have hcopies : (s.pin s.curGroup.job s.curGroup.place.die s.nextCopy (bchkCover s a b)).copies = s.copies :=
    pin_congr (fun u => u.copies) fun _ _ => rfl
  have hg : t.curGroup = { s.curGroup.raise (s.flight .c s.curGroup.nextId false []) with wait := .hop s.nextCopy } :=
    curGroup_setCurGroup ..
  refine ⟨hg, congrArg (· ++ [bchkCopy s d a b]) hcopies, ?_⟩
  rw [State.curJob, hg, State.job, hjobs]
  rfl

/-! ## BCHKIN (R34, R262) -/

/-- A segment's tag when BCHKIN has taken it: from S it enters I, from O it enters T to be written back. -/
def tagTaken (x : SegTag) : SegTag := if x.st = 1 then SegTag.idle else if x.st = 2 then { x with st := 3, td := true } else x

theorem tagTaken_twice (x : SegTag) : tagTaken (tagTaken x) = tagTaken x := by
  unfold tagTaken
  split_ifs with h1 h2 <;> simp_all [SegTag.idle]

/-- With no request waiting, the release of a segment touches the range tables alone. -/
theorem releaseSeg_rest (home idx : Nat) {s : State} (h : s.rangeWait = []) :
    ∃ r : List RangeEnt, s.releaseSeg home idx = { s with ranges := r } := by
  unfold State.releaseSeg
  simp only [h, List.length_nil, State.reexamine]
  split <;> exact ⟨_, rfl⟩

theorem releaseSegs_rest (home idx : Nat → Nat) (l : List Nat) {s : State} (h : s.rangeWait = []) :
    ∃ r : List RangeEnt, l.foldl (fun (t : State) i => t.releaseSeg (home i) (idx i)) s = { s with ranges := r } := by
  refine List.foldlRecOn (motive := fun (t : State) => ∃ r : List RangeEnt, t = { s with ranges := r }) l _ ⟨s.ranges, rfl⟩ ?_
  rintro t ⟨r, rfl⟩ i -
  obtain ⟨r2, h2⟩ := releaseSeg_rest (s := { s with ranges := r }) (home i) (idx i) h
  exact ⟨r2, h2⟩

/-- The cover of the pages that a check-in writes back to. -/
def bchkinCover (s : State) (b : BitVec 7) : Cover :=
  let x := s.curGroup.sget b.toNat
  (((List.range (segCnt x)).map (fun i => segWs x + i)).filter (fun i => (s.curJob.tag_ i).st == 2)).foldl
    (fun c i => s.coverRange s.curGroup.job s.curGroup.place.die .copyDst 2 ((s.curJob.tag_ i).gva.toNat * 4096)
      ((s.curJob.tag_ i).gva.toNat * 4096 + 4096) c) Cover.start

/-- A check-in that writes nothing back is complete at once; another enters the engine. -/
theorem checkinEnters_spec (s : State) (c : Copy) (done : Bool) :
    let t := if done then s.setCurGroup (s.curGroup.flightDone c.flight) else { s with copies := s.copies ++ [c] }
    t.cur = s.cur ∧ t.jobs = s.jobs ∧ t.curGroup = { s.curGroup with flights := t.curGroup.flights } := by
  cases done with
  | true => exact ⟨rfl, rfl, by simp only [if_true, curGroup_setCurGroup]; rfl⟩
  | false => exact ⟨rfl, rfl, rfl⟩

/-- BCHKIN where nothing refuses or holds it: what its effect leaves of the current group and the job. -/
theorem bchkin_takes {s : State} {d : BitVec 4} {b : BitVec 7} (hx : (s.curGroup.sget b.toNat).toNat < 2 ^ 23)
    (hmx : segMx (s.curGroup.sget b.toNat) = false) (hec : (s.curTeam.bar d.toNat).ec ≠ 0)
    (hnw : segWs (s.curGroup.sget b.toNat) + segCnt (s.curGroup.sget b.toNat) ≤ s.curJob.jd.nw)
    (hst : ∀ i, i < segCnt (s.curGroup.sget b.toNat) → (s.curJob.tag_ (segWs (s.curGroup.sget b.toNat) + i)).st ≠ 3)
    (hcov : (bchkinCover s b).fault = none) (hready : s.copyReady = true)
    (hroom : s.pinRoom s.curGroup.place.die (bchkinCover s b).pins.length = true) (hwait : s.rangeWait = []) :
    ∃ (u : State) (j : Job), exec (.bchkin d b) s = .next (s.retire s.cur.lanes u.advance) ∧ u.cur = s.cur ∧
      u.jobs = mapInsert s.jobs s.curGroup.job j ∧
      u.curGroup = { s.curGroup with lanes := u.curGroup.lanes, cnt := u.curGroup.cnt, flights := u.curGroup.flights } ∧
      ∀ i, j.tag_ i = if i ∈ (List.range (segCnt (s.curGroup.sget b.toNat))).map (fun i => segWs (s.curGroup.sget b.toNat) + i)
        then tagTaken (s.curJob.tag_ i) else s.curJob.tag_ i := by
  have hover : ¬((s.curGroup.sget b.toNat).toNat / 2 ^ 23 ≠ 0 ∨ segMx (s.curGroup.sget b.toNat) = true ∨ (s.curTeam.bar d.toNat).ec = 0) := by
    rw [word_over, hmx]
    exact not_or.mpr ⟨by omega, not_or.mpr ⟨Bool.false_ne_true, hec⟩⟩
  change ∃ u j, execBchkin d b s = _ ∧ _
  unfold execBchkin
  extract_lets g x n j segs out cov id shared homeIx j2 s1 s2 s3 s4 c0 c s5
  have hany : segs.any (fun i => (j.tag_ i).st == 3) = false := by
    rw [List.any_eq_false]
    intro i hi
    obtain ⟨k, hk, rfl⟩ := List.mem_map.mp hi
    simpa using hst k (List.mem_range.mp hk)
  have hcov' : cov.fault = none := hcov
  have hgo : (!s.copyReady || !s.pinRoom g.place.die cov.pins.length) = false := by
    rw [hready, show s.pinRoom g.place.die cov.pins.length = true from hroom]
    rfl
  rw [if_neg hover, if_neg (Nat.not_lt.mpr hnw), if_neg (by rw [hany]; exact Bool.false_ne_true), hcov', hgo]
  have hpin {α : Type} (f : State → α) (hf : ∀ t pins, f { withMemorySide s t with pins := pins } = f s) :
      f (s.pin g.job g.place.die id cov) = f s := pin_congr f hf
  have hjobs1 : s1.jobs = mapInsert s.jobs g.job j2 := by
    have hg : (s.pin g.job g.place.die id cov).curGroup = g := hpin State.curGroup fun _ _ => rfl
    simp only [s1, State.setCurJob, State.setJob, hg, hpin (fun u => u.jobs) fun _ _ => rfl]
  have hwait1 : s1.rangeWait = [] := (hpin (fun u => u.rangeWait) fun _ _ => rfl).trans hwait
  have hcur1 : s1.cur = s.cur := hpin (fun u => u.cur) fun _ _ => rfl
  have hown1 : s1.group s.cur.grp = g := hpin (fun u => u.group s.cur.grp) fun _ _ => rfl
  have hj2 : ∀ i, j2.tag_ i = if i ∈ segs then tagTaken (j.tag_ i) else j.tag_ i := by
    refine tag_foldl (g := fun _ => tagTaken) (fun j k i => ?_) (fun _ => tagTaken_twice) segs j
    unfold tagTaken
    by_cases hi : i = k
    · subst hi
      split_ifs <;> simp_all [tag_setTag]
    · split_ifs <;> simp_all [tag_setTag]
  clear_value s1 j2
  obtain ⟨r, hs2⟩ : ∃ r : List RangeEnt, s2 = { s1 with ranges := r } := releaseSegs_rest (fun i => (homeIx i).1) (fun i => (homeIx i).2) shared hwait1
  clear_value s2
  obtain ⟨hrest3, hg3⟩ : LanesWoken s2 s3 := updBar_woken ..
  clear_value s3
  have hcur3 : s3.cur = s.cur := by rw [hrest3, hs2, ← hcur1]
  have hjobs3 : s3.jobs = mapInsert s.jobs g.job j2 := by rw [hrest3, hs2, ← hjobs1]
  have hown3 : s3.curGroup = { g with lanes := s3.curGroup.lanes } := by
    rw [State.curGroup, hcur3, hg3, hs2, ← hown1]
    rfl
  have hown4 : s4.curGroup = { g with lanes := s4.curGroup.lanes, cnt := s4.curGroup.cnt, flights := s4.curGroup.flights } := by
    rw [show s4.curGroup = _ from curGroup_setCurGroup .., hown3]
    rfl
  have hcur4 : s4.cur = s.cur := hcur3
  have hjobs4 : s4.jobs = mapInsert s.jobs g.job j2 := hjobs3
  clear_value s4
  obtain ⟨hcur5, hjobs5, hown5⟩ : s5.cur = s4.cur ∧ s5.jobs = s4.jobs ∧ s5.curGroup = { s4.curGroup with flights := s5.curGroup.flights } :=
    checkinEnters_spec s4 c out.isEmpty
  refine ⟨s5, j2, rfl, hcur5.trans hcur4, hjobs5.trans hjobs4, ?_, hj2⟩
  clear_value s5
  rw [hown5, hown4]

/-- Settles O28: BCHK enters its check-out and waits, BCHKIN takes its segments' tags. -/
theorem combChecks : Obligations.CombChecks := by
  refine ⟨fun s d a b h => ⟨_, rfl, bchk_refuses h⟩, fun s d a b => ?_,
    fun s d b h => ⟨_, rfl, bchkin_refuses h⟩, fun s d b => ?_⟩
  · intro x va cov hx hec hva hnw hidle hcov hready hroom
    obtain ⟨hg, hcopies, hjob⟩ := bchkState_spec s d a b
    refine ⟨_, bchkCopy s d a b, bchk_enters hx hec hva hnw hidle hcov hready hroom, ?_, by rw [hg]; rfl, hcopies, by rw [hg]; rfl, rfl, rfl, rfl,
      rfl, ?_, by rw [hg]; rfl, by rw [hjob]⟩
    · unfold AllRegs OtherRegs
      rw [hg]
      exact ⟨⟨rfl, rfl, rfl, rfl, rfl, rfl, rfl, rfl⟩, rfl⟩
    · exact Nat.mod_eq_of_lt (s.curGroup.sget a.toNat).isLt
  · intro x out cov hx hmx hec hnw hst hcov hready hroom hwait
    obtain ⟨u, j, hi, hcur, hjobs, hown, htag⟩ := bchkin_takes hx hmx hec hnw hst hcov hready hroom hwait
    have hend := retire_advance_curGroup s.cur.lanes hcur
    refine ⟨_, hi, ?_, fun i => ?_⟩
    · unfold AllRegs OtherRegs
      rw [hend, hown]
      exact ⟨⟨rfl, rfl, rfl, rfl, rfl, rfl, rfl, rfl⟩, rfl⟩
    · have hjob : (s.retire s.cur.lanes u.advance).curJob = j := by
        rw [State.curJob, hend, hown]
        change getD Job.dead u.jobs s.curGroup.job = j
        rw [hjobs, getD_insert_self]
      rw [hjob, htag]
      simp only [mem_segRange]
      rfl

end Sys2Proof.Proofs
end

section
namespace Sys2Proof.Proofs
open Sys2Proof.Machine Sys2Proof.Says Sys2Proof.Laws

theorem job_setJob_ne (s : State) {k n : Nat} (j : Job) (h : n ≠ k) : (s.setJob k j).job n = s.job n := getD_insert_ne _ _ _ h

/-! ## What the registration of check-outs leaves alone (R34 to R36) -/

/-- The groups' trap state and jobs, the descriptors of the jobs and the numbers of the operations in the engines stay. -/
structure CheckKept (s t : State) : Prop where
  tm : ∀ k, (t.group k).tm = (s.group k).tm
  job : ∀ k, (t.group k).job = (s.group k).job
  jd : ∀ j, (t.job j).jd = (s.job j).jd
  ids : t.copies.map (fun c => c.id) = s.copies.map (fun c => c.id)

namespace CheckKept
variable {s t u : State}

theorem refl (s : State) : CheckKept s s := ⟨fun _ => rfl, fun _ => rfl, fun _ => rfl, rfl⟩
theorem trans (h : CheckKept s t) (k : CheckKept t u) : CheckKept s u :=
  ⟨fun n => (k.tm n).trans (h.tm n), fun n => (k.job n).trans (h.job n), fun n => (k.jd n).trans (h.jd n), k.ids.trans h.ids⟩

theorem of_same (hg : t.groups = s.groups) (hj : t.jobs = s.jobs) (hc : t.copies = s.copies) : CheckKept s t :=
  ⟨fun _ => by rw [State.group, hg]; rfl, fun _ => by rw [State.group, hg]; rfl, fun _ => by rw [State.job, hj]; rfl, by rw [hc]⟩

theorem of_woken (h : LanesWoken s t) : CheckKept s t :=
  ⟨fun k => by rw [h.2 k], fun k => by rw [h.2 k], fun j => by rw [h.1]; rfl, by rw [h.1]⟩

theorem setGroup (s : State) (k : Nat) {g : Group} (htm : g.tm = (s.group k).tm) (hjob : g.job = (s.group k).job) : CheckKept s (s.setGroup k g) := by
  refine ⟨fun n => ?_, fun n => ?_, fun _ => rfl, rfl⟩ <;>
  · by_cases hn : n = k
    · subst hn; rwa [group_setGroup_self]
    · rw [group_setGroup_ne _ _ hn]

theorem setJob (s : State) (k : Nat) {j : Job} (hjd : j.jd = (s.job k).jd) : CheckKept s (s.setJob k j) := by
  refine ⟨fun _ => rfl, fun _ => rfl, fun n => ?_, rfl⟩
  by_cases hn : n = k
  · subst hn; rwa [job_setJob]
  · rw [job_setJob_ne _ _ hn]

theorem setCopy (s : State) (c : Copy) : CheckKept s (s.setCopy c) := by
  refine ⟨fun _ => rfl, fun _ => rfl, fun _ => rfl, ?_⟩
  simp only [State.setCopy, List.map_map]
  refine List.map_congr_left fun x _ => ?_
  by_cases h : x.id = c.id <;> simp [h]

theorem not_mem_ids (h : CheckKept s t) {n : Nat} (hs : ∀ x ∈ s.copies, x.id ≠ n) : ∀ x ∈ t.copies, x.id ≠ n := by
  intro x hx he
  have hmem : n ∈ t.copies.map (fun c => c.id) := List.mem_map.mpr ⟨x, hx, he⟩
  rw [h.ids] at hmem
  obtain ⟨y, hy, hyn⟩ := List.mem_map.mp hmem
  exact hs y hy hyn

end CheckKept

theorem releaseFlight_kept (s : State) (k id : Nat) : CheckKept s (s.releaseFlight k id) := by
  unfold State.releaseFlight
  split
  · exact .setGroup s k (by rw [retire_rest]; rfl) (by rw [retire_rest]; rfl)
  · exact .refl s

theorem releaseFlight_rest (s : State) (k id : Nat) : s.releaseFlight k id = { s with groups := (s.releaseFlight k id).groups } := by
  unfold State.releaseFlight
  split <;> rfl

/-- The job of a check-out once its segments have entered T. -/
def Copy.entered (c : Copy) (j : Job) : Job := c.segs.foldl (fun (j : Job) i => j.setTag i (c.tagOf i)) j

theorem entered_jd (c : Copy) (j : Job) : (Copy.entered c j).jd = j.jd :=
  List.foldlRecOn (motive := fun k : Job => k.jd = j.jd) _ _ rfl fun _ h _ _ => h

theorem tag_entered (c : Copy) (j : Job) (i : Nat) : (Copy.entered c j).tag_ i = if i ∈ c.segs then c.tagOf i else j.tag_ i :=
  tag_foldl (g := fun i _ => c.tagOf i) (fun j k i => by rw [tag_setTag]; split <;> simp_all) (fun _ _ => rfl) c.segs j i

/-- A check-out may register: all its runs are granted, all its segments in I. -/
def CheckReady (s : State) (c : Copy) : Prop := c.granted = true ∧ ∀ i ∈ c.segs, ((s.job (s.group c.grp).job).tag_ i).st = 0

theorem registered_waits {s : State} {c : Copy} (h : ¬CheckReady s c) : s.registered c = s := by
  have hc : ¬((c.granted && c.segs.all (fun i => ((s.job (s.group c.grp).job).tag_ i).st == 0)) = true) := fun ht => h (by
    simpa [CheckReady] using ht)
  rw [State.registered, if_neg hc]

/-- The segments of a check-out that is ready enter T, its bytes are counted, and its group goes on. -/
theorem registered_enters {s : State} {c : Copy} (h : CheckReady s c) :
    ∃ kids u, LanesWoken (s.setJob (s.group c.grp).job { Copy.entered c (s.job (s.group c.grp).job) with segKid := kids }) u ∧
      s.registered c = (u.setCopy { c with filling := true, row := 0, off := 0 }).releaseFlight c.grp c.flight := by
  have hc : (c.granted && c.segs.all (fun i => ((s.job (s.group c.grp).job).tag_ i).st == 0)) = true := by simpa [CheckReady] using h
  rw [State.registered, if_pos hc]
  exact ⟨_, _, updBar_woken _ _ _ _, rfl⟩

/-- Registration keeps what a trap of another check-out reads. -/
theorem registered_kept (s : State) (c : Copy) : CheckKept s (s.registered c) := by
  by_cases h : CheckReady s c
  · obtain ⟨kids, u, hu, he⟩ := registered_enters h
    have hjob := CheckKept.setJob s (s.group c.grp).job (j := { Copy.entered c (s.job (s.group c.grp).job) with segKid := kids }) (entered_jd c _)
    rw [he]
    exact ((hjob.trans (.of_woken hu)).trans (.setCopy ..)).trans (releaseFlight_kept ..)
  · rw [registered_waits h]
    exact .refl s

theorem registered_ranges (s : State) (c : Copy) : (s.registered c).ranges = s.ranges := by
  by_cases h : CheckReady s c
  · obtain ⟨kids, u, ⟨hu, -⟩, he⟩ := registered_enters h
    rw [he, releaseFlight_rest]
    change u.ranges = _
    rw [hu]
    rfl
  · rw [registered_waits h]

theorem registered_tag {s : State} {c : Copy} (h : CheckReady s c) {i : Nat} (hi : i ∈ c.segs) :
    ((s.registered c).job (s.group c.grp).job).tag_ i = c.tagOf i := by
  obtain ⟨kids, u, ⟨hu, -⟩, he⟩ := registered_enters h
  have hjob : u.job (s.group c.grp).job = { Copy.entered c (s.job (s.group c.grp).job) with segKid := kids } := by
    rw [hu]
    exact job_setJob ..
  rw [he, releaseFlight_rest]
  change (u.job (s.group c.grp).job).tag_ i = _
  rw [hjob]
  exact (tag_entered c _ i).trans (if_pos hi)

theorem CheckKept.withRanges (s : State) (r : List RangeEnt) (w : List (Nat × Nat × Nat)) : CheckKept s { s with ranges := r, rangeWait := w } :=
  .of_same rfl rfl rfl

theorem grantRun_kept (s : State) (c : Copy) (k idx : Nat) (r : Run) : CheckKept s (s.grantRun c k idx r) :=
  (CheckKept.withRanges s (s.grantRun c k idx r).ranges s.rangeWait).trans (.setCopy ..)

theorem reexamine_kept (home n : Nat) (s : State) : CheckKept s (s.reexamine home n) := by
  induction n generalizing s with
  | zero => exact .refl s
  | succ n ih =>
    unfold State.reexamine
    dsimp only
    split
    · exact .refl s
    · next w c r idx _ =>
      refine CheckKept.trans ?_ (ih _)
      have hgrant := (CheckKept.withRanges s s.ranges (s.rangeWait.filter (fun x => x != w))).trans (grantRun_kept _ c w.2.2 idx r)
      split
      · exact hgrant.trans (registered_kept ..)
      · exact hgrant

theorem releaseRun_kept (s : State) (home idx : Nat) : CheckKept s (s.releaseRun home idx) :=
  (CheckKept.withRanges s _ s.rangeWait).trans (reexamine_kept ..)

/-! ## A check-out taken back (R34, R35) -/

/-- The releases of the granted runs of a check-out that is taken back. -/
theorem releaseRuns_kept (l : List Run) (s : State) :
    CheckKept s (l.foldl (fun (t : State) r => match r.granted with | some i => t.releaseRun r.home i | none => t) s) := by
  refine List.foldlRecOn (motive := CheckKept s) l _ (.refl s) fun t ht r _ => ?_
  split
  · exact ht.trans (releaseRun_kept ..)
  · exact ht

/-- A check-out taken back has left the engine; its group is as it was but for the flight. -/
theorem cancelCheckout_spec (s : State) (c : Copy) :
    let t := s.cancelCheckout c
    (∀ x ∈ t.copies, x.id ≠ c.id) ∧ (t.group c.grp).tm = (s.group c.grp).tm ∧ (t.group c.grp).job = (s.group c.grp).job ∧
      ∀ j, (t.job j).jd = (s.job j).jd := by
  let u : State := { s with copies := s.copies.filter (fun x => x.id != c.id), rangeWait := s.rangeWait.filter (fun w => w.2.1 != c.id) }
  have hgone : ∀ x ∈ u.copies, x.id ≠ c.id := fun x hx => by simpa using (List.mem_filter.mp hx).2
  have hkept := releaseRuns_kept c.runs u
  have ht : s.cancelCheckout c =
      (State.unpin (c.runs.foldl (fun (t : State) r => match r.granted with | some i => t.releaseRun r.home i | none => t) u) c.id).setGroup c.grp
        { ((c.runs.foldl (fun (t : State) r => match r.granted with | some i => t.releaseRun r.home i | none => t) u).group c.grp).discard
            c.flight with wait := .none } := rfl
  generalize c.runs.foldl (fun (t : State) r => match r.granted with | some i => t.releaseRun r.home i | none => t) u = v at hkept ht
  obtain ⟨htm, hjob⟩ := discard_keeps (v.group c.grp) c.flight
  rw [ht]
  refine ⟨fun x hx => hkept.not_mem_ids hgone x hx, ?_, ?_, fun j => hkept.jd j⟩
  · rw [group_setGroup_self]
    exact htm.trans (hkept.tm c.grp)
  · rw [group_setGroup_self]
    exact hjob.trans (hkept.job c.grp)

/-- A check-out that traps has left the engine; its group enters its handler, if it has one and stands outside it. -/
theorem dropCheckout_spec (s : State) (c : Copy) {e : Trap} (h20 : e.cause ≠ 0x20) (h21 : e.cause ≠ 0x21) :
    let t := s.dropCheckout c e
    (∀ x ∈ t.copies, x.id ≠ c.id) ∧ ((s.group c.grp).tm = false → (s.job (s.group c.grp).job).jd.trapv ≠ 0 →
      (∃ f ∈ (s.group c.grp).flights, f.id = c.flight) →
      (t.group c.grp).fi.cause = BitVec.ofNat 64 e.cause ∧ (t.group c.grp).tm = true) := by
  obtain ⟨hgone, htm, hjob, hjd⟩ := cancelCheckout_spec s c
  unfold State.dropCheckout
  cases hf : (s.group c.grp).flightOf c.flight with
  | none =>
    refine ⟨hgone, fun _ _ ⟨f, hmem, hid⟩ => ?_⟩
    exact absurd (List.find?_eq_none.mp hf f hmem) (by simp [hid])
  | some f =>
    obtain ⟨_, _, _, _, _, hframe⟩ := trapIssue_frame (s.cancelCheckout c) c.grp f.lanes f.lanes f.pc f.len e
    refine ⟨fun x hx => hgone x (by simpa only [hframe] using hx), fun h0 hv _ => ?_⟩
    obtain ⟨htm', hcause, -⟩ := takeTrap_enters (s := s.cancelCheckout c) (k := c.grp) f.lanes f.pc f.len (t := e) (htm.trans h0)
      (by rw [hjob, hjd]; exact hv) h20 h21
    simp only [State.trapIssue, group_setGroup_self]
    rw [retire_rest]
    exact ⟨hcause, htm'⟩

/-! ## The steps of a check-out (R35, R36) -/

/-- The first run not yet asked for, with its number. -/
theorem nextRun_find {s : State} {i k : Nat} {c : Copy} {r : Run} (h : NextRun s i c k r) :
    ((List.range c.runs.length).zip c.runs).find? (fun e => !e.2.asked) = some (k, r) ∧ (c.runs.take k).any (fun r => r.granted.isNone) = false := by
  obtain ⟨-, -, -, -, hk, hr, hbefore⟩ := h
  obtain ⟨hlt, hget⟩ := List.getElem?_eq_some_iff.mp hk
  constructor
  · rw [List.find?_eq_some_iff_getElem]
    refine ⟨by simp [hr], k, by simpa using hlt, by simp [hget], fun j hj => ?_⟩
    simp [(hbefore j _ hj (List.getElem?_eq_getElem (hj.trans hlt))).1]
  · rw [List.any_eq_false]
    intro x hx
    obtain ⟨n, hn, rfl⟩ := List.mem_take_iff_getElem.mp hx
    have hn' : n < k ∧ n < c.runs.length := by omega
    simpa [Option.isSome_iff_ne_none] using (hbefore n _ hn'.1 (List.getElem?_eq_getElem hn'.2)).2

/-- What the home answers to a run of a check-out. -/
def runAnswer (s : State) (c : Copy) (r : Run) : Except Bool Nat :=
  if s.passesOver s.rangeWait c.excl r then .error true else s.grantIdx r.home c.excl r

theorem runAnswer_granted {s : State} {c : Copy} {r : Run} {idx : Nat} (hp : s.passesOver s.rangeWait c.excl r = false)
    (hg : s.grantIdx r.home c.excl r = .ok idx) : runAnswer s c r = .ok idx := by
  rw [runAnswer, hp, hg]
  rfl

theorem runAnswer_refused {s : State} {c : Copy} {r : Run} (h : Refused s c r) : ∃ b, runAnswer s c r = .error b := by
  unfold runAnswer
  split
  · exact ⟨true, rfl⟩
  · next hp =>
    rcases h with h | h
    · exact absurd h hp
    · exact h

section

variable {s : State} {i k : Nat} {c : Copy} {r : Run} (h : NextRun s i c k r)
include h

theorem checkoutRegister_grants {idx : Nat} (ha : runAnswer s c r = .ok idx) : exec (.checkoutRegister i) s =
    .next (((s.grantRun c k idx r).copyOf c.id).elim (s.grantRun c k idx r) (fun c2 => (s.grantRun c k idx r).registered c2)) := by
  obtain ⟨hfind, hbefore⟩ := nextRun_find h
  obtain ⟨hi, hkind, hfill, hstop, -⟩ := h
  change execCheckoutRegister i s = _
  unfold runAnswer at ha
  simp only [execCheckoutRegister, hi, hkind, hfill, hstop, hfind, hbefore, ha, bne_self_eq_false, Bool.or_self, Bool.false_eq_true, if_false]
  cases (s.grantRun c k idx r).copyOf c.id <;> rfl

theorem checkoutRegister_waits {b : Bool} (ha : runAnswer s c r = .error b) (hw : (s.job (s.group c.grp).job).jd.ckw ≠ 0) :
    exec (.checkoutRegister i) s = .next { s.setCopy { c with runs := setAt c.runs k { r with asked := true } } with
      rangeWait := s.rangeWait ++ [(r.home, c.id, k)] } := by
  obtain ⟨hfind, hbefore⟩ := nextRun_find h
  obtain ⟨hi, hkind, hfill, hstop, -⟩ := h
  change execCheckoutRegister i s = _
  unfold runAnswer at ha
  simp only [execCheckoutRegister, hi, hkind, hfill, hstop, hfind, hbefore, ha, hw, bne_self_eq_false, Bool.or_self, Bool.false_eq_true, if_false]
  rfl

theorem checkoutRegister_drops {b : Bool} (ha : runAnswer s c r = .error b) (hw : (s.job (s.group c.grp).job).jd.ckw = 0) :
    exec (.checkoutRegister i) s = .next (s.dropCheckout c (checkoutConflict c (if b then 0 else 1))) := by
  obtain ⟨hfind, hbefore⟩ := nextRun_find h
  obtain ⟨hi, hkind, hfill, hstop, -⟩ := h
  change execCheckoutRegister i s = _
  unfold runAnswer at ha
  simp only [execCheckoutRegister, hi, hkind, hfill, hstop, hfind, hbefore, ha, hw, bne_self_eq_false, Bool.or_self, Bool.false_eq_true, if_false,
    if_true]
  rfl

end

theorem mem_segs (c : Copy) (i : Nat) : i ∈ c.segs ↔ ∃ n, n < c.cnt ∧ i = c.ws + n := by
  simp [Copy.segs, eq_comm]

section

variable {s : State} {i : Nat} {c : Copy} (h : AllGranted s i c)
include h

/-- With every run granted and no segment under way, the check-out registers, or meets the first segment that has left I. -/
theorem checkoutRegister_granted : c.granted = true ∧
    exec (.checkoutRegister i) s = .next ((c.segs.find? (fun i => ((s.job (s.group c.grp).job).tag_ i).st != 0)).elim (s.registered c)
      (fun i => s.dropCheckout c { Trap.of 0x11 with rsn := 0xA, at_ := 5, addr := BitVec.ofNat 64 (i * 4096) })) := by
  obtain ⟨hi, hkind, hfill, hstop, hruns, hst⟩ := h
  have hgranted : c.granted = true := by
    simp only [Copy.granted, hfill, Bool.not_false, Bool.and_true, List.all_eq_true]
    exact fun r hr => (hruns r hr).2
  have hfind : ((List.range c.runs.length).zip c.runs).find? (fun e => !e.2.asked) = none := by
    rw [List.find?_eq_none]
    intro e he
    simp [(hruns e.2 (List.of_mem_zip he).2).1]
  have hany : c.segs.any (fun i => ((s.job (s.group c.grp).job).tag_ i).st == 3) = false := by
    rw [List.any_eq_false]
    intro x hx
    obtain ⟨n, hn, rfl⟩ := (mem_segs c x).mp hx
    simpa using hst n hn
  refine ⟨hgranted, ?_⟩
  change execCheckoutRegister i s = _
  simp only [execCheckoutRegister, hi, hkind, hfill, hstop, hfind, hgranted, hany, bne_self_eq_false, Bool.or_self, Bool.false_eq_true, if_false,
    Bool.not_true]
  cases c.segs.find? (fun i => ((s.job (s.group c.grp).job).tag_ i).st != 0) <;> rfl

theorem checkoutRegister_enters (hall : ∀ n, n < c.cnt → ((s.job (s.group c.grp).job).tag_ (c.ws + n)).st = 0) :
    Happens (.checkoutRegister i) s (fun t => ∀ n, n < c.cnt → ((t.job (s.group c.grp).job).tag_ (c.ws + n)).st = 3 ∧
      ((t.job (s.group c.grp).job).tag_ (c.ws + n)).md = c.excl) := by
  obtain ⟨hgranted, hexec⟩ := checkoutRegister_granted h
  have hidle : ∀ x ∈ c.segs, ((s.job (s.group c.grp).job).tag_ x).st = 0 := fun x hx => by
    obtain ⟨n, hn, rfl⟩ := (mem_segs c x).mp hx
    exact hall n hn
  have hnone : c.segs.find? (fun i => ((s.job (s.group c.grp).job).tag_ i).st != 0) = none := by
    rw [List.find?_eq_none]
    intro x hx
    simp [hidle x hx]
  rw [hnone] at hexec
  refine ⟨_, hexec, fun n hn => ?_⟩
  have htag := registered_tag ⟨hgranted, hidle⟩ ((mem_segs c _).mpr ⟨n, hn, rfl⟩)
  rw [Option.elim_none, htag]
  exact ⟨rfl, rfl⟩

theorem checkoutRegister_meets (hleft : ¬∀ n, n < c.cnt → ((s.job (s.group c.grp).job).tag_ (c.ws + n)).st = 0) :
    Happens (.checkoutRegister i) s (fun t => ∀ x, x ∈ t.copies → x.id ≠ c.id) := by
  obtain ⟨-, hexec⟩ := checkoutRegister_granted h
  push Not at hleft
  obtain ⟨n, hn, hst⟩ := hleft
  have hsome : (c.segs.find? (fun i => ((s.job (s.group c.grp).job).tag_ i).st != 0)).isSome = true := by
    rw [List.find?_isSome]
    exact ⟨c.ws + n, (mem_segs c _).mpr ⟨n, hn, rfl⟩, by simpa using hst⟩
  obtain ⟨x, hx⟩ := Option.isSome_iff_exists.mp hsome
  rw [hx] at hexec
  exact ⟨_, hexec, (dropCheckout_spec s c (show (0x11 : Nat) ≠ 0x20 by decide) (show (0x11 : Nat) ≠ 0x21 by decide)).1⟩

end

/-- The wait limit of a check-out with a run that waits. -/
theorem checkoutWaitExpiry_happens {s : State} {i : Nat} {c : Copy} (hi : s.copies[i]? = some c) (hkind : c.kind = .bchk)
    (hfill : c.filling = false) (hwaits : ∃ r, r ∈ c.runs ∧ r.asked = true ∧ r.granted = none) :
    ∃ code, exec (.checkoutWaitExpiry i) s = .next (s.dropCheckout c (checkoutConflict c code)) := by
  have hsome : (c.runs.find? (fun r => r.asked && r.granted.isNone)).isSome = true := by
    obtain ⟨r, hr, hasked, hnone⟩ := hwaits
    rw [List.find?_isSome]
    exact ⟨r, hr, by simp [hasked, hnone]⟩
  obtain ⟨r, hr⟩ := Option.isSome_iff_exists.mp hsome
  change ∃ code, execCheckoutWaitExpiry i s = _
  simp only [execCheckoutWaitExpiry, hi, hkind, hfill, hr, bne_self_eq_false, Bool.or_self, Bool.false_eq_true, if_false]
  exact ⟨_, rfl⟩

/-! ## Fills, write-backs and range-table writes (R34, R37) -/

/-- An operation past a segment, done or not, leaves the jobs as they were. -/
theorem job_pastSegment (s : State) (c : Copy) (done : Prop) [Decidable done] (j : Nat) :
    (if done then s.copyDone c else s.setCopy c).job j = s.job j := by
  split <;> rfl

theorem segmentFillDone_happens {s : State} {i : Nat} {c : Copy} (hi : s.copies[i]? = some c) (hkind : c.kind = .bchk) (hfill : c.filling = true)
    (hoff : c.off = 4096) :
    Happens (.segmentFillDone i) s (fun t => ((t.job (s.group c.grp).job).tag_ (c.ws + c.row)).st = if c.excl then 2 else 1) := by
  have hexec : exec (.segmentFillDone i) s = execSegmentFillDone i s := rfl
  simp only [execSegmentFillDone, hi, hkind, hfill, hoff, beq_self_eq_true, Bool.and_self, if_true, ev] at hexec
  refine ⟨_, hexec, ?_⟩
  beta_reduce
  rw [job_pastSegment, job_setJob, tag_setTag, if_pos rfl]

theorem countBytes_jobs (s : State) (c : Copy) (n : Nat) : (s.countBytes c n).jobs = s.jobs := by
  rw [State.countBytes, (updBar_woken ..).1]
  rfl

theorem segmentWritebackDone_happens {s : State} {i : Nat} {c : Copy} (hi : s.copies[i]? = some c) (hkind : c.kind = .bchkin)
    (hstop : c.stopped = false) (hoff : c.off = 4096) (hwait : s.rangeWait = [])
    (hst : ((s.job (s.group c.grp).job).tag_ (c.ws + c.row)).st = 3) :
    Happens (.segmentWritebackDone i) s (fun t => (t.job (s.group c.grp).job).tag_ (c.ws + c.row) = SegTag.idle) := by
  have hexec : exec (.segmentWritebackDone i) s = execSegmentWritebackDone i s := rfl
  simp only [execSegmentWritebackDone, hi, hkind, hstop, hst, hoff, bne_self_eq_false, Bool.or_self, Bool.false_eq_true, if_false, if_true, ev] at hexec
  refine ⟨_, hexec, ?_⟩
  beta_reduce
  rw [job_pastSegment, State.job, countBytes_jobs]
  obtain ⟨r, hr⟩ := releaseSeg_rest (s := s.setJob (s.group c.grp).job ((s.job (s.group c.grp).job).setTag (c.ws + c.row) SegTag.idle))
    (if ((s.job (s.group c.grp).job).tag_ (c.ws + c.row)).hm = 4 then 8 else ((s.job (s.group c.grp).job).tag_ (c.ws + c.row)).hm.toNat + 4)
    ((s.job (s.group c.grp).job).tag_ (c.ws + c.row)).ix.toNat hwait
  rw [hr]
  change ((State.setJob s _ _).job _).tag_ _ = _
  rw [job_setJob, tag_setTag, if_pos rfl]

/-- With no request waiting, an entry released is gone and nothing else changes. -/
theorem releaseRun_alone {s : State} (home idx : Nat) (h : s.rangeWait = []) :
    s.releaseRun home idx = { s with ranges := s.ranges.filter (fun e => !(e.home == home && e.idx == idx)) } := by
  rw [State.releaseRun, h]
  rfl

theorem rangeTableWrite_enabled {s : State} {e : RangeEnt}
    (hst : (s.job e.js).st = .stopped ∨ (s.job e.js).st = .ended ∨ (s.job e.js).st = .failed) :
    ((s.job e.js).st == .stopped || (s.job e.js).st == .ended || (s.job e.js).st == .failed) = true := by
  simpa [or_assoc] using hst

section

variable {s : State} {home idx : Nat} {e : RangeEnt} (he : s.ranges.find? (fun e => e.home == home && e.idx == idx) = some e)
  (hst : (s.job e.js).st = .stopped ∨ (s.job e.js).st = .ended ∨ (s.job e.js).st = .failed)
include he hst

theorem rangeTableWrite_moves (d : BitVec 2) (g : BitVec 14) :
    Happens (.rangeTableWrite home idx (.move d g)) s (fun t => t = { s with ranges := t.ranges } ∧
      { e with hd := d.toNat, seg := g.toNat } ∈ t.ranges) := by
  have hexec : exec (.rangeTableWrite home idx (.move d g)) s = execRangeTableWrite home idx (.move d g) s := rfl
  simp only [execRangeTableWrite, he, rangeTableWrite_enabled hst, if_true, ev] at hexec
  refine ⟨_, hexec, rfl, List.mem_map.mpr ⟨e, List.mem_of_find?_eq_some he, ?_⟩⟩
  rw [if_pos (by simpa using List.find?_some he)]

theorem rangeTableWrite_releases (hwait : s.rangeWait = []) :
    Happens (.rangeTableWrite home idx .release) s (fun t => t = { s with ranges := t.ranges } ∧
      ∀ x, x ∈ t.ranges ↔ x ∈ s.ranges ∧ ¬(x.home = home ∧ x.idx = idx)) := by
  have hexec : exec (.rangeTableWrite home idx .release) s = execRangeTableWrite home idx .release s := rfl
  simp only [execRangeTableWrite, he, rangeTableWrite_enabled hst, if_true, ev, releaseRun_alone home idx hwait] at hexec
  refine ⟨_, hexec, rfl, fun x => ?_⟩
  simp [List.mem_filter, imp_iff_not_or]

end

/-- Settles O42, one step of a check-out after another. -/
theorem checkOuts : Obligations.CheckOuts := by
  refine ⟨fun s i c k r idx h hp hg => ?_, fun s i c k r h href hw => ?_, fun s i c k r h href hw => ?_, fun s i c => ?_,
    fun s i c hi hkind hfill hwaits => ?_, fun s i c hi hkind hfill hoff => segmentFillDone_happens hi hkind hfill hoff,
    fun s i c hi hkind hstop hoff hwait hst => segmentWritebackDone_happens hi hkind hstop hoff hwait hst,
    fun s home idx e he hst => ⟨fun d g => rangeTableWrite_moves he hst d g, rangeTableWrite_releases he hst⟩⟩
  · refine ⟨_, checkoutRegister_grants h (runAnswer_granted hp hg), ?_⟩
    refine ⟨_, Eq.trans ?_ (show (s.grantRun c k idx r).ranges = _ from rfl), rfl, rfl, rfl, rfl, rfl, rfl, rfl⟩
    cases (s.grantRun c k idx r).copyOf c.id with
    | none => rfl
    | some c2 => exact registered_ranges ..
  · obtain ⟨b, ha⟩ := runAnswer_refused href
    exact ⟨_, checkoutRegister_waits h ha hw, rfl, rfl⟩
  · obtain ⟨b, ha⟩ := runAnswer_refused href
    exact ⟨_, checkoutRegister_drops h ha hw, (dropCheckout_spec s c (show (0x14 : Nat) ≠ 0x20 by decide) (show (0x14 : Nat) ≠ 0x21 by decide)).1⟩
  · intro j h
    split
    · next hall => exact checkoutRegister_enters h hall
    · next hleft => exact checkoutRegister_meets h hleft
  · obtain ⟨code, hexec⟩ := checkoutWaitExpiry_happens hi hkind hfill hwaits
    exact ⟨_, hexec, dropCheckout_spec s c (show (0x14 : Nat) ≠ 0x20 by decide) (show (0x14 : Nat) ≠ 0x21 by decide)⟩

end Sys2Proof.Proofs
end

section
namespace Sys2Proof.Proofs
open Sys2Proof.Machine Sys2Proof.Says Sys2Proof.Laws

/-! ## What moves tokens of a line (R55, R62, R64) -/

/-- Holdings, messages, persistent entries and activations alone may differ. -/
def TokensMove (s t : State) : Prop :=
  ∃ l2 home h0 msgs ptab pseq acts, t = { s with l2 := l2, home := home, h0 := h0, msgs := msgs, ptab := ptab, pseq := pseq, acts := acts }

theorem TokensMove.refl (s : State) : TokensMove s s := ⟨_, _, _, _, _, _, _, rfl⟩
theorem TokensMove.trans {s t u : State} (h : TokensMove s t) (k : TokensMove t u) : TokensMove s u := by
  obtain ⟨_, _, _, _, _, _, _, rfl⟩ := h
  obtain ⟨_, _, _, _, _, _, _, rfl⟩ := k
  exact ⟨_, _, _, _, _, _, _, rfl⟩
/-- What reads none of it is as it was. -/
theorem TokensMove.congr {α : Type} {s t : State} (h : TokensMove s t) (f : State → α)
    (hf : ∀ l2 home h0 msgs ptab pseq acts,
      f { s with l2 := l2, home := home, h0 := h0, msgs := msgs, ptab := ptab, pseq := pseq, acts := acts } = f s) : f t = f s := by
  obtain ⟨_, _, _, _, _, _, _, rfl⟩ := h
  exact hf ..

theorem giveUp_moves (s : State) (a la n : Nat) (ow : Bool) : TokensMove s (s.giveUp a la n ow) := by
  unfold State.giveUp
  split
  · exact ⟨_, _, _, _, _, _, _, rfl⟩
  · split <;> exact ⟨_, _, _, _, _, _, _, rfl⟩

theorem send_moves (s : State) (m : Msg) : TokensMove s (s.send m) := ⟨_, _, _, _, _, _, _, rfl⟩

theorem sendTok_moves (s : State) (a b la n : Nat) (ow data : Bool) (kid : BitVec 6) : TokensMove s (s.sendTok a b la n ow data kid) :=
  (giveUp_moves ..).trans (send_moves ..)

theorem yieldTokens_moves (s : State) (a la rq : Nat) (kd : Bool) (kid : BitVec 6) : TokensMove s (s.yieldTokens a la rq kd kid) := by
  unfold State.yieldTokens
  dsimp only
  split
  · exact .refl s
  · split
    · exact sendTok_moves ..
    · split
      · exact sendTok_moves ..
      · split
        · exact .refl s
        · exact sendTok_moves ..

theorem homeYield_moves (s : State) (home la : Nat) (kid : BitVec 6) : TokensMove s (s.homeYield home la kid) := by
  unfold State.homeYield
  split
  · exact .refl s
  · split
    · exact .refl s
    · split
      · exact yieldTokens_moves ..
      · split
        · exact sendTok_moves ..
        · exact .refl s

theorem activateNext_moves (s : State) (home la : Nat) : TokensMove s (s.activateNext home la) := by
  unfold State.activateNext
  split
  · exact .refl s
  · exact TokensMove.trans ⟨_, _, _, _, _, _, _, rfl⟩ (homeYield_moves ..)

theorem addEntry_moves (s : State) (home idx rq la : Nat) (kd hm : Bool) (rid : Nat) (kid : BitVec 6) :
    TokensMove s (s.addEntry home idx rq la kd hm rid kid) := by
  unfold State.addEntry
  exact TokensMove.trans ⟨_, _, _, _, _, _, _, rfl⟩ (activateNext_moves ..)

/-! ## H0 asks for a line at its own home (R62, R67) -/

/-- A request of the home becomes persistent where it has a free entry. -/
theorem escalate_own {s : State} {q : Req} (r : Nat) (ha : q.agent = homeOf (q.la * 128))
    (he : (s.freeEntry (homeOf (q.la * 128)) 48 16).isSome = true) :
    ∃ t, s.escalate r q = some t ∧ TokensMove { s with reqs := setAt s.reqs r { q with esc := true, heldEsc := false } } t := by
  obtain ⟨i, hi⟩ := Option.isSome_iff_exists.mp he
  have h : s.escalate r q = some (({ s with reqs := setAt s.reqs r { q with esc := true, heldEsc := false } } : State).addEntry
      (homeOf (q.la * 128)) i (homeOf (q.la * 128)) q.la q.write true q.rid q.kid) := by
    simp only [State.escalate, if_pos ha, hi]
  exact ⟨_, h, addEntry_moves ..⟩

theorem reqOf_isSome {s : State} {a la : Nat} {write : Bool} {r : Req} (h : r ∈ s.reqs) (ha : r.agent = a) (hl : r.la = la)
    (hw : (r.write || !write) = true) : (s.reqOf a la write).isSome = true := by
  rw [State.reqOf, List.find?_isSome]
  exact ⟨r, h, by simp [ha, hl, hw]⟩

/-- H0 asks for a line of host memory, or has asked; a request stands. -/
theorem homeRequest_asks {s : State} {la : Nat} (write : Bool) (hr : regionOf (la * 128) = .host) (he : (s.freeEntry 8 48 16).isSome = true) :
    let t := s.homeRequest 8 la write
    (t.reqOf 8 la write).isSome = true ∧ ∃ reqs, TokensMove { s with reqs := reqs } t := by
  have hhome : homeOf (la * 128) = 8 := by rw [homeOf, hr]; rfl
  unfold State.homeRequest
  cases hq : s.reqOf 8 la write with
  | some q =>
    have hprop := List.find?_some (show s.reqs.find? (fun r => r.agent == 8 && r.la == la && (r.write || !write)) = some q from hq)
    simp only [Bool.and_eq_true, beq_iff_eq] at hprop
    obtain ⟨⟨hag, hla⟩, hwr⟩ := hprop
    have hstands : (s.reqOf 8 la write).isSome = true := by rw [hq]; rfl
    dsimp only
    split
    · exact ⟨hstands, s.reqs, .refl s⟩
    · split
      · next i q' hfind =>
        obtain rfl : q' = q := by simpa using List.find?_some hfind
        have hi : i < s.reqs.length := List.mem_range.mp (List.of_mem_zip (List.mem_of_find?_eq_some hfind)).1
        obtain ⟨t, ht, hmove⟩ := escalate_own (s := s) (q := q') i (by rw [hla, hhome, hag]) (by rw [hla, hhome]; exact he)
        rw [ht]
        refine ⟨reqOf_isSome ?_ (r := { q' with esc := true, heldEsc := false }) hag hla hwr, _, hmove⟩
        rw [Option.getD_some, hmove.congr (fun u => u.reqs) fun _ _ _ _ _ _ _ => rfl]
        exact List.mem_set hi _
      · exact ⟨hstands, s.reqs, .refl s⟩
  | none =>
    dsimp only
    generalize hq : ({ agent := 8, la := la, write := write, attempt := 3, rid := s.newRid 8, kid := 0, esc := false, heldEsc := false } : Req) = q
    obtain ⟨t, ht, hmove⟩ := escalate_own (s := { s with reqs := s.reqs ++ [q] }) (q := q) s.reqs.length (by rw [← hq]; exact hhome.symm)
      (by rw [← hq]; change (s.freeEntry (homeOf (la * 128)) 48 16).isSome = true; rw [hhome]; exact he)
    rw [ht]
    refine ⟨reqOf_isSome ?_ (r := { q with esc := true, heldEsc := false }) (by rw [← hq]) (by rw [← hq]) (by rw [← hq]; simp), _, hmove⟩
    rw [Option.getD_some, hmove.congr (fun u => u.reqs) fun _ _ _ _ _ _ _ => rfl]
    exact List.mem_set (by simp) _

/-! ## Snoops of the host (R67) -/

theorem RequestsEnd.congr {α : Type} {s t : State} (h : RequestsEnd s t) (f : State → α)
    (hf : ∀ wants reqs ptab acts msgs, f { s with wants := wants, reqs := reqs, ptab := ptab, acts := acts, msgs := msgs } = f s) : f t = f s := by
  obtain ⟨_, _, _, _, _, rfl⟩ := h
  exact hf ..

/-- With no request outstanding, the end of an operation's wait touches the list of those that wait alone. -/
theorem wantDone_alone {s : State} (a la : Nat) (write : Bool) (h : s.reqs = []) :
    s.wantDone a la write = { s with wants := (s.wantDone a la write).wants } := by
  unfold State.wantDone State.closeReqs
  simp only [h, List.filter_nil, List.foldl_nil]

/-- A snoop for which H0 lacks tokens waits: H0 asks for them at its own home, and the snoop comes again. -/
theorem snoop_waits {s : State} {la : Nat} (write : Bool) (i : Instr) (hr : regionOf (la * 128) = .host) (he : (s.freeEntry 8 48 16).isSome = true) :
    let u := (s.want 8 la write).homeRequest 8 la write
    let t := { u with agenda := u.agenda ++ [i] }
    Waits s t i 8 la write ∧ t.perm = s.perm ∧ t.hostOut = s.hostOut := by
  intro u t
  obtain ⟨wants, hw⟩ : ∃ wants, s.want 8 la write = { s with wants := wants } := by
    unfold State.want
    dsimp only
    split <;> exact ⟨_, rfl⟩
  obtain ⟨hstands, reqs, hmove⟩ := homeRequest_asks (s := s.want 8 la write) write hr (by rw [hw]; exact he)
  have hu {α : Type} (f : State → α) (hf : ∀ wants reqs l2 home h0 msgs ptab pseq acts, f { s with
      wants := wants, reqs := reqs, l2 := l2, home := home, h0 := h0, msgs := msgs, ptab := ptab, pseq := pseq, acts := acts } = f s) : f u = f s := by
    have h1 := hmove.congr f fun l2 home h0 msgs ptab pseq acts => by
      rw [hw]
      exact (hf wants reqs l2 home h0 msgs ptab pseq acts).trans (hf wants reqs s.l2 s.home s.h0 s.msgs s.ptab s.pseq s.acts).symm
    rw [h1, hw]
    exact hf wants reqs s.l2 s.home s.h0 s.msgs s.ptab s.pseq s.acts
  exact ⟨⟨congrArg (· ++ [i]) (hu State.agenda fun _ _ _ _ _ _ _ _ _ => rfl), hstands, hu State.mem fun _ _ _ _ _ _ _ _ _ => rfl⟩,
    hu State.perm fun _ _ _ _ _ _ _ _ _ => rfl, hu State.hostOut fun _ _ _ _ _ _ _ _ _ => rfl⟩

/-- A permission given up, H0 asking for it again where a home operation waits. -/
theorem dropPerm_rest (s : State) (la : Nat) : ∃ out, s.dropPerm la =
    { s with perm := setD .none s.perm la .none, hostDirty := setD false s.hostDirty la false, hostOut := out } ∧ ∀ m ∈ s.hostOut, m ∈ out := by
  have tell (t : State) (m : HostMsg) : ∃ out, t.tellHost m = { t with hostOut := out } ∧ ∀ x ∈ t.hostOut, x ∈ out := by
    unfold State.tellHost
    split
    · exact ⟨_, rfl, fun _ h => h⟩
    · exact ⟨_, rfl, fun _ h => List.mem_append_left _ h⟩
  have ask (t : State) : ∃ out, t.askHost la true = { t with hostOut := out } ∧ ∀ x ∈ t.hostOut, x ∈ out := by
    unfold State.askHost
    split
    · exact ⟨_, rfl, fun _ h => h⟩
    · rw [if_pos rfl]
      split
      · exact ⟨_, rfl, fun _ h => h⟩
      · exact tell ..
  unfold State.dropPerm
  dsimp only
  split
  · obtain ⟨out, h, hout⟩ := ask { s with perm := setD .none s.perm la .none, hostDirty := setD false s.hostDirty la false }
    exact ⟨out, h, hout⟩
  · exact ⟨_, rfl, fun _ h => h⟩

/-- Home operations leave the host's permissions alone. -/
theorem runHops_perm (s : State) (la : Nat) : (s.runHops la).perm = s.perm := by
  have perform (t : State) (m : Msg) : (t.performHop m).perm = t.perm := by
    unfold State.performHop
    split
    · rfl
    · dsimp only
      split
      · rfl
      · unfold State.homePut
        obtain ⟨_, _, _, h⟩ := homeWrite_rest t ((m.la * 128 + field m.data.toNat 128 7) / 128)
        dsimp only
        split <;> rw [h] <;> rfl
  unfold State.runHops
  split
  · exact List.foldlRecOn (motive := fun t : State => t.perm = s.perm) _ _ rfl fun t ht m _ => (perform t m).trans ht
  · rfl

/-- With no home operation waiting for the line, memory stays. -/
theorem runHops_mem {s : State} {la : Nat} (h : ∀ m, m ∈ s.homeq → m.la ≠ la) : (s.runHops la).mem = s.mem := by
  have hnil : s.homeq.filter (fun m => m.la == la) = [] := by simpa [List.filter_eq_nil_iff] using h
  unfold State.runHops
  dsimp only
  rw [hnil]
  split <;> rfl

/-- What follows a grant at the home. -/
theorem grantFollows_spec (u : State) (la : Nat) :
    let t := ((u.homeYield 8 la 0).runHops la).closeReqs 8 la
    t.perm = u.perm ∧ ((∀ m, m ∈ u.homeq → m.la ≠ la) → t.mem = u.mem) := by
  have hmove := homeYield_moves u 8 la 0
  have hend := closeReqs_ends ((u.homeYield 8 la 0).runHops la) 8 la
  refine ⟨?_, fun h => ?_⟩
  · rw [hend.congr State.perm fun _ _ _ _ _ => rfl, runHops_perm]
    exact hmove.congr State.perm fun _ _ _ _ _ _ _ => rfl
  · have hq : (u.homeYield 8 la 0).homeq = u.homeq := hmove.congr State.homeq fun _ _ _ _ _ _ _ => rfl
    rw [hend.mem, runHops_mem (by rwa [hq])]
    exact hmove.congr State.mem fun _ _ _ _ _ _ _ => rfl

section

variable {s : State} {la : Nat} (hr : regionOf (la * 128) = .host)
include hr

theorem hostSnpdata_asks (ho : (s.holding la).ow = false) (he : (s.freeEntry 8 48 16).isSome = true) :
    Happens (.hostSnpdata la) s (fun t => Waits s t (.hostSnpdata la) 8 la false ∧ t.perm = s.perm ∧ t.hostOut = s.hostOut) := by
  have hexec : exec (.hostSnpdata la) s = execHostSnpdata la s := rfl
  simp only [execHostSnpdata, hr, ho, bne_self_eq_false, Bool.false_eq_true, if_false, ev] at hexec
  exact ⟨_, hexec, snoop_waits false _ hr he⟩

theorem hostSnpinv_asks (ht : (s.holding la).tc ≠ 16) (he : (s.freeEntry 8 48 16).isSome = true) :
    Happens (.hostSnpinv la) s (fun t => Waits s t (.hostSnpinv la) 8 la true ∧ t.perm = s.perm ∧ t.hostOut = s.hostOut) := by
  have hexec : exec (.hostSnpinv la) s = execHostSnpinv la s := rfl
  simp only [execHostSnpinv, hr, ht, bne_self_eq_false, Bool.false_eq_true, if_false, ev] at hexec
  exact ⟨_, hexec, snoop_waits true _ hr he⟩

/-- SnpData of a recalled line: it is answered, and the host may share it. -/
theorem hostSnpdata_answers (ho : (s.holding la).ow = true) :
    Happens (.hostSnpdata la) s (fun t => t.mem = s.mem ∧ t.hostOut = s.hostOut ++ [.snpRsp la (DirtyValue s la)] ∧
      (t.hostPerm la = if s.hostPerm la = .excl then .shared else s.hostPerm la) ∧
      (s.reqs = [] → t = { s with perm := t.perm, hostOut := t.hostOut, hostDirty := t.hostDirty, wants := t.wants })) := by
  have hexec : exec (.hostSnpdata la) s = execHostSnpdata la s := rfl
  simp only [execHostSnpdata, hr, ho, bne_self_eq_false, Bool.false_eq_true, if_false, if_true, ev] at hexec
  generalize hu : ({ s with
    hostOut := s.hostOut ++ [.snpRsp la (s.snpData la)], hostDirty := setD false s.hostDirty la false,
    perm := if s.hostPerm la == .excl then setD .none s.perm la .shared else s.perm } : State) = u at hexec
  have hend := wantDone_ends u 8 la false
  refine ⟨_, hexec, ?_, ?_, ?_, fun hreqs => ?_⟩
  · rw [hend.mem, ← hu]
  · rw [hend.congr State.hostOut fun _ _ _ _ _ => rfl, ← hu]
    rfl
  · rw [State.hostPerm, hend.congr State.perm fun _ _ _ _ _ => rfl, ← hu]
    by_cases h : s.hostPerm la = .excl
    · simp [h]
    · simp only [h, beq_iff_eq, if_false]
      rfl
  · have halone := wantDone_alone 8 la false (s := u) (by rw [← hu]; exact hreqs)
    rw [halone, ← hu]

/-- SnpInv with all tokens home: it is answered, and the host's permission is given up. -/
theorem hostSnpinv_answers (ht : (s.holding la).tc = 16) :
    Happens (.hostSnpinv la) s (fun t => t.mem = s.mem ∧ .snpRsp la (DirtyValue s la) ∈ t.hostOut ∧ t.hostPerm la = .none ∧
      (∀ b, b ≠ la → t.hostPerm b = s.hostPerm b) ∧
      (s.reqs = [] → t = { s with perm := t.perm, hostOut := t.hostOut, hostDirty := t.hostDirty, wants := t.wants })) := by
  have hexec : exec (.hostSnpinv la) s = execHostSnpinv la s := rfl
  simp only [execHostSnpinv, hr, ht, bne_self_eq_false, Bool.false_eq_true, if_false, if_true, ev] at hexec
  obtain ⟨out, hdrop, hout⟩ := dropPerm_rest { s with hostOut := s.hostOut ++ [.snpRsp la (s.snpData la)] } la
  generalize State.dropPerm { s with hostOut := s.hostOut ++ [.snpRsp la (s.snpData la)] } la = u at hexec hdrop
  have hend := wantDone_ends u 8 la true
  have hperm (b : Nat) : (u.wantDone 8 la true).hostPerm b = getD .none (setD .none s.perm la .none) b := by
    rw [State.hostPerm, hend.congr State.perm fun _ _ _ _ _ => rfl, hdrop]
  refine ⟨_, hexec, ?_, ?_, ?_, fun b hb => ?_, fun hreqs => ?_⟩
  · rw [hend.mem, hdrop]
  · rw [hend.congr State.hostOut fun _ _ _ _ _ => rfl, hdrop]
    exact hout _ (List.mem_append_right _ (List.mem_singleton_self _))
  · rw [hperm, getD_setD_self]
  · rw [hperm, getD_setD_ne _ _ _ hb]
    rfl
  · have halone := wantDone_alone 8 la true (s := u) (by rw [hdrop]; exact hreqs)
    rw [halone, hdrop]

/-! ## Grants (R67) -/

/-- The host grants what H0 has asked for: the permission, and with a first one the line's data. -/
theorem hostPermissionGrant_grants {excl : Bool} (hm : (if excl = true then HostMsg.rdOwn la else .rdShared la) ∈ s.hostOut) :
    Happens (.hostPermissionGrant la excl) s (fun t =>
      (t.hostPerm la = if excl = true ∨ s.hostPerm la = .excl then .excl else .shared) ∧ (∀ b, b ≠ la → t.hostPerm b = s.hostPerm b) ∧
      (s.hostPerm la ≠ .none → (∀ m, m ∈ s.homeq → m.la ≠ la) → t.mem = s.mem)) := by
  have hexec : exec (.hostPermissionGrant la excl) s = execHostPermissionGrant la excl s := rfl
  have hc : s.hostOut.contains (if excl = true then HostMsg.rdOwn la else .rdShared la) = true := by simpa using hm
  simp only [execHostPermissionGrant, hr, hc, bne_self_eq_false, Bool.not_true, Bool.or_self, Bool.false_eq_true, if_false, ev] at hexec
  generalize ht : (if (s.hostPerm la == .none) = true then _ else s : State) = t at hexec
  have hperm : t.perm = s.perm := by rw [← ht]; split <;> rfl
  have hsame : s.hostPerm la ≠ .none → t = s := fun h => by rw [← ht, if_neg (by simpa using h)]
  generalize hu : ({ t with hostOut := _, perm := _ } : State) = u at hexec
  obtain ⟨hp, hmem⟩ := grantFollows_spec u la
  have hpu : u.perm = setD .none s.perm la (if (excl || s.hostPerm la == HostPerm.excl) = true then HostPerm.excl else HostPerm.shared) := by
    rw [← hu, ← hperm]
  refine ⟨_, hexec, ?_, fun b hb => ?_, fun hnone hq => ?_⟩
  · rw [State.hostPerm, hp, hpu, getD_setD_self]
    simp
  · rw [State.hostPerm, hp, hpu, getD_setD_ne _ _ _ hb]
    rfl
  · have hts := hsame hnone
    rw [hmem (by rw [← hu, hts]; exact hq), ← hu, hts]

end

/-! ## The host's accesses of device memory (R47, R68) -/

theorem h0line_send (s : State) (m : Msg) (la : Nat) : (s.send m).h0line la = s.h0line la := rfl

/-- All that H0 holds of a line of another home goes there. -/
theorem h0Return_gone {s : State} {la : Nat} (kid : BitVec 6) (hr : regionOf (la * 128) = .hbm) (ht : (s.h0line la).tc ≠ 0) :
    ((s.h0Return la kid).h0line la).tc = 0 := by
  have hh := homeOf_hbm hr
  have hne : ¬ 8 = homeOf (la * 128) := by omega
  have hheld : s.holds_ 8 la = { tc := (s.h0line la).tc, ow := (s.h0line la).ow } := by simp [State.holds_, hne]
  have hgive : s.giveUp 8 la (s.h0line la).tc (s.h0line la).ow = s.setH0 la Line.none := by simp [State.giveUp, hne, Line.minus]
  rw [State.h0Return, State.sendHeld, hheld]
  simp only [ht, if_false, State.sendTok, hgive, h0line_send, h0line_setH0, Line.none]

theorem logSlot_logged (s : State) (pa : Nat) : OnlyLogged s (s.logSlot pa) pa := ⟨rfl, by rw [State.logSlot, getD_setD_self]⟩

section

variable {s : State} {addr pa : Nat} {kid : BitVec 6} (hd : s.hdmOf addr = some (pa, kid))
include hd

theorem hostCxlMemRead_locked (c : Bool) (hl : s.hdmLocked addr kid = true) : exec (.hostCxlMemRead addr c) s = .next (s.logSlot pa) := by
  change execHostCxlMemRead addr c s = _
  simp only [execHostCxlMemRead, hd, hl, if_true, ev]

theorem hostCxlMemWrite_locked (d : BitVec 1024) (hl : s.hdmLocked addr kid = true) : exec (.hostCxlMemWrite addr d) s = .next (s.logSlot pa) := by
  change execHostCxlMemWrite addr d s = _
  simp only [execHostCxlMemWrite, hd, hl, if_true, ev]

variable (hl : s.hdmLocked addr kid = false)
include hl

theorem hostCxlMemRead_keeps (hh : s.h0Has (pa / 128) true = true) :
    Happens (.hostCxlMemRead addr true) s (fun t => (t.h0line (pa / 128)) = { s.h0line (pa / 128) with wb := true } ∧ t.mem = s.mem ∧
      (s.reqs = [] → t.msgs = s.msgs)) := by
  have hexec : exec (.hostCxlMemRead addr true) s = execHostCxlMemRead addr true s := rfl
  simp only [execHostCxlMemRead, hd, hl, hh, Bool.false_eq_true, if_false, if_true, ev] at hexec
  have hend := wantDone_ends (s.setH0 (pa / 128) { s.h0line (pa / 128) with wb := true }) 8 (pa / 128) true
  refine ⟨_, hexec, ?_, hend.mem, fun hreqs => ?_⟩
  · rw [State.h0line, hend.congr State.h0 fun _ _ _ _ _ => rfl]
    exact h0line_setH0 ..
  · rw [wantDone_alone 8 (pa / 128) true (s := s.setH0 (pa / 128) { s.h0line (pa / 128) with wb := true }) hreqs]
    rfl

theorem hostCxlMemRead_returns (hr : regionOf (pa / 128 * 128) = .hbm) (hh : s.h0Has (pa / 128) false = true)
    (hw : (s.h0line (pa / 128)).wb = false) :
    Happens (.hostCxlMemRead addr false) s (fun t => (t.h0line (pa / 128)).tc = 0 ∧ t.mem = s.mem) := by
  have hexec : exec (.hostCxlMemRead addr false) s = execHostCxlMemRead addr false s := rfl
  simp only [execHostCxlMemRead, hd, hl, hh, hw, Bool.false_eq_true, if_false, if_true, ev] at hexec
  have htc : (s.h0line (pa / 128)).tc ≠ 0 := by
    simp only [State.h0Has, Bool.false_eq_true, if_false, Bool.and_eq_true, decide_eq_true_eq] at hh
    omega
  have hend := wantDone_ends (s.h0Return (pa / 128) kid) 8 (pa / 128) false
  refine ⟨_, hexec, ?_, hend.mem.trans (h0Return_keeps ..).1⟩
  rw [State.h0line, hend.congr State.h0 fun _ _ _ _ _ => rfl]
  exact h0Return_gone kid hr htc

theorem hostCxlMemRead_asks {c : Bool} (hh : s.h0Has (pa / 128) c = false) :
    Happens (.hostCxlMemRead addr c) s (fun t => Waits s t (.hostCxlMemRead addr c) 8 (pa / 128) c) := by
  have hexec : exec (.hostCxlMemRead addr c) s = execHostCxlMemRead addr c s := rfl
  simp only [execHostCxlMemRead, hd, hl, hh, Bool.false_eq_true, if_false, ev] at hexec
  exact ⟨_, hexec, again_waits ..⟩

theorem hostCxlMemWrite_asks (d : BitVec 1024) (hh : s.h0Has (pa / 128) true = false) :
    Happens (.hostCxlMemWrite addr d) s (fun t => Waits s t (.hostCxlMemWrite addr d) 8 (pa / 128) true) := by
  have hexec : exec (.hostCxlMemWrite addr d) s = execHostCxlMemWrite addr d s := rfl
  simp only [execHostCxlMemWrite, hd, hl, hh, Bool.false_eq_true, if_false, ev] at hexec
  exact ⟨_, hexec, again_waits ..⟩

theorem hostCxlMemWrite_sends (d : BitVec 1024) (h : AllAtH0 s (pa / 128)) :
    Happens (.hostCxlMemWrite addr d) s (fun t => SendsHome t (pa / 128) kid d ∧ (t.h0line (pa / 128)).tc = 0 ∧ t.mem = s.mem) := by
  have hexec : exec (.hostCxlMemWrite addr d) s = execHostCxlMemWrite addr d s := rfl
  simp only [execHostCxlMemWrite, hd, hl, h0Has_all h, Bool.false_eq_true, if_false, if_true, ev] at hexec
  generalize hx : ({ s.h0line (pa / 128) with data := d, dt := true, pz := false, kid := kid, wb := false } : Line) = x at hexec
  have hline := h0line_setH0 s (pa / 128) x
  obtain ⟨hr, htc, hdv, how⟩ := h
  have hsend := h0Return_sendsHome (s := s.setH0 (pa / 128) x) (la := pa / 128) (kid := kid) ⟨hr, by rw [hline, ← hx]; exact ⟨htc, hdv, how⟩⟩
    (by rw [hline, ← hx])
  rw [hline, show x.kid = kid by rw [← hx], show x.data = d by rw [← hx]] at hsend
  have hend := wantDone_ends ((s.setH0 (pa / 128) x).h0Return (pa / 128) kid) 8 (pa / 128) true
  refine ⟨_, hexec, sendsHome_mono hsend hend, ?_, hend.mem.trans (h0Return_keeps ..).1⟩
  rw [State.h0line, hend.congr State.h0 fun _ _ _ _ _ => rfl]
  exact h0Return_gone kid hr (by rw [hline, ← hx]; simp [htc])

end

section

variable {s : State} {la : Nat}

theorem birsp_unasked (d : Option (BitVec 1024)) (h : (s.h0line la).wb = false ∨ .bisnp la ∉ s.hostOut) :
    exec (.birsp la d) s = .fault .notEnabled := by
  have hc : (!(s.h0line la).wb || !s.hostOut.contains (.bisnp la)) = true := by simpa using h
  change execBirsp la d s = _
  simp only [execBirsp, hc, if_true, ev]

theorem birsp_ends (d : Option (BitVec 1024)) (hw : (s.h0line la).wb = true) (hm : .bisnp la ∈ s.hostOut) :
    exec (.birsp la d) s = .next (({ s with hostOut := s.hostOut.erase (.bisnp la) } : State).setH0 la (match d with
      | some d => { s.h0line la with data := d, dt := true, pz := false, kid := (s.hdmKid (la * 128)).getD (s.h0line la).kid, wb := false }
      | none => { s.h0line la with wb := false })) := by
  have hc : (!(s.h0line la).wb || !s.hostOut.contains (.bisnp la)) = false := by simp [hw, hm]
  change execBirsp la d s = _
  simp only [execBirsp, hc, Bool.false_eq_true, if_false, ev]
  cases d <;> rfl

theorem hostPermissionGrant_unasked {excl : Bool} (h : (if excl = true then HostMsg.rdOwn la else .rdShared la) ∉ s.hostOut) :
    exec (.hostPermissionGrant la excl) s = .fault .notEnabled := by
  have hc : (regionOf (la * 128) != .host || !s.hostOut.contains (if excl = true then HostMsg.rdOwn la else .rdShared la)) = true := by simp [h]
  change execHostPermissionGrant la excl s = _
  simp only [execHostPermissionGrant, hc, if_true, ev]

end

/-- Settles O51: snoops, grants, and what H0 does with a line that the host reads, writes or gives up. -/
theorem hostLines : Obligations.HostLines := by
  refine ⟨⟨fun s la hr ho => hostSnpdata_answers hr ho, fun s la hr ht => hostSnpinv_answers hr ht, fun s la hr ho he => hostSnpdata_asks hr ho he,
    fun s la hr ht he => hostSnpinv_asks hr ht he, fun s la excl h => hostPermissionGrant_unasked h,
    fun s la excl hr hm => hostPermissionGrant_grants hr hm⟩,
    fun s addr pa kid hd hl hh => hostCxlMemRead_keeps hd hl hh, fun s addr pa kid hd hl hr hh hw => hostCxlMemRead_returns hd hl hr hh hw,
    fun s addr c pa kid hd hl hh => hostCxlMemRead_asks hd hl hh, fun s addr d pa kid hd hl h => hostCxlMemWrite_sends hd hl d h,
    fun s addr d pa kid hd hl hh => hostCxlMemWrite_asks hd hl d hh,
    fun s addr c d pa kid hd hl => ⟨⟨_, hostCxlMemRead_locked hd c hl, logSlot_logged s pa⟩, ⟨_, hostCxlMemWrite_locked hd d hl, logSlot_logged s pa⟩⟩,
    fun s la d h => birsp_unasked d h, fun s la d hw hm => ⟨⟨_, birsp_ends none hw hm, ?_⟩, ⟨_, birsp_ends (some d) hw hm, ?_⟩⟩⟩
  · exact ⟨h0line_setH0 .., rfl, rfl, rfl⟩
  · exact ⟨rfl, h0line_setH0 ..⟩

end Sys2Proof.Proofs
end

section
namespace Sys2Proof.Proofs
open Sys2Proof.Machine Sys2Proof.Says Sys2Proof.Laws

/-! ## What a stop keeps (R311) -/

/-- Memory, the device timer and every job's clusters stay. -/
structure ClustersKept (s t : State) : Prop where
  mem : t.mem = s.mem
  timer : t.timer = s.timer
  clusters : ∀ j, (t.job j).clusters = (s.job j).clusters

namespace ClustersKept
variable {s t u : State}

theorem refl (s : State) : ClustersKept s s := ⟨rfl, rfl, fun _ => rfl⟩
theorem trans (h : ClustersKept s t) (k : ClustersKept t u) : ClustersKept s u :=
  ⟨k.mem.trans h.mem, k.timer.trans h.timer, fun j => (k.clusters j).trans (h.clusters j)⟩
theorem of_same (hm : t.mem = s.mem) (ht : t.timer = s.timer) (hj : t.jobs = s.jobs) : ClustersKept s t :=
  ⟨hm, ht, fun _ => by rw [State.job, hj]; rfl⟩
theorem foldl {α : Type} {f : State → α → State} (hf : ∀ t a, ClustersKept t (f t a)) (l : List α) (s : State) : ClustersKept s (l.foldl f s) :=
  List.foldlRecOn l f (refl s) fun t ht a _ => ht.trans (hf t a)
theorem setJob (s : State) (k : Nat) {j : Job} (h : j.clusters = (s.job k).clusters) : ClustersKept s (s.setJob k j) := by
  refine ⟨rfl, rfl, fun n => ?_⟩
  by_cases hn : n = k
  · subst hn; rwa [job_setJob]
  · rw [job_setJob_ne _ _ hn]
theorem setJst (s : State) (j : Nat) (st : JState) : ClustersKept s (s.setJst j st) :=
  (setJob s j (j := { s.job j with st := st }) rfl).trans (of_same rfl rfl rfl)

end ClustersKept

theorem dropLoads_clusters (s : State) (k : Nat) : ClustersKept s (s.dropLoads k) := by
  refine .foldl (fun t f => ?_) _ s
  split
  · exact .of_same rfl rfl rfl
  · exact .refl t

theorem dropArrivals_clusters (s : State) (tk : Nat) : ClustersKept s (s.dropArrivals tk) := by
  unfold State.dropArrivals
  extract_lets l src t
  refine ClustersKept.trans (t := t) (.of_same rfl rfl rfl) (.foldl (fun _ _ => ?_) l t)
  exact .of_same rfl rfl rfl

theorem cancelBapnd_clusters (s : State) (c : Copy) : ClustersKept s (s.cancelBapnd c) := .of_same rfl rfl rfl

theorem backAppend_clusters (s : State) (h : Hop) : ClustersKept s (s.backAppend h) := by
  unfold State.backAppend
  split
  · exact cancelBapnd_clusters ..
  · dsimp only
    split <;> exact .of_same rfl rfl rfl

theorem entered_clusters (c : Copy) (j : Job) : (Copy.entered c j).clusters = j.clusters :=
  List.foldlRecOn (motive := fun k : Job => k.clusters = j.clusters) _ _ rfl fun _ h _ _ => h

theorem registered_clusters (s : State) (c : Copy) : ClustersKept s (s.registered c) := by
  by_cases h : CheckReady s c
  · obtain ⟨kids, u, ⟨hu, -⟩, he⟩ := registered_enters h
    have hu' : ClustersKept s u :=
      (ClustersKept.setJob s (s.group c.grp).job (j := { Copy.entered c (s.job (s.group c.grp).job) with segKid := kids })
        (entered_clusters c _)).trans (.of_same (by rw [hu]) (by rw [hu]) (by rw [hu]))
    rw [he, releaseFlight_rest]
    exact hu'.trans (.of_same rfl rfl rfl)
  · rw [registered_waits h]
    exact .refl s

theorem reexamine_clusters (home n : Nat) (s : State) : ClustersKept s (s.reexamine home n) := by
  induction n generalizing s with
  | zero => exact .refl s
  | succ n ih =>
    unfold State.reexamine
    dsimp only
    split
    · exact .refl s
    · next w c r idx _ =>
      refine ClustersKept.trans ?_ (ih _)
      have hgrant : ClustersKept s (({ s with rangeWait := s.rangeWait.filter (fun x => x != w) } : State).grantRun c w.2.2 idx r) :=
        .of_same rfl rfl rfl
      split
      · exact hgrant.trans (registered_clusters ..)
      · exact hgrant

theorem releaseRun_clusters (s : State) (home idx : Nat) : ClustersKept s (s.releaseRun home idx) :=
  (ClustersKept.of_same (s := s) (t := { s with ranges := s.ranges.filter (fun e => !(e.home == home && e.idx == idx)) }) rfl rfl rfl).trans
    (reexamine_clusters ..)

theorem cancelCheckout_clusters (s : State) (c : Copy) : ClustersKept s (s.cancelCheckout c) := by
  unfold State.cancelCheckout
  extract_lets s1 g
  have hruns : ClustersKept s s1 := by
    refine ClustersKept.trans (t := { s with
      copies := s.copies.filter (fun x => x.id != c.id), rangeWait := s.rangeWait.filter (fun w => w.2.1 != c.id) })
      (.of_same rfl rfl rfl) (.foldl (fun t r => ?_) c.runs _)
    split
    · exact releaseRun_clusters ..
    · exact .refl t
  exact hruns.trans (.of_same rfl rfl rfl)

theorem haltGroup_clusters (s : State) (k : Nat) : ClustersKept s (s.haltGroup k) := by
  have hback := (dropLoads_clusters s k).trans (.foldl (f := fun (t : State) h => t.backAppend h) backAppend_clusters
    ((s.dropLoads k).hops.filter (fun h => h.grp == k && h.op == 0x20 && h.start.isNone)) (s.dropLoads k))
  unfold State.haltGroup
  extract_lets s1 s2 src s3
  refine (hback.trans ?_ : ClustersKept s s3).trans (.of_same rfl rfl rfl)
  change ClustersKept s2 s3
  simp only [s3]
  split
  · exact .of_same rfl rfl rfl
  · split
    · exact cancelCheckout_clusters ..
    · exact .refl s2
  · exact .refl s2

theorem closeReqs_clusters (s : State) (a la : Nat) : ClustersKept s (s.closeReqs a la) := by
  obtain ⟨_, _, _, _, _, h⟩ := closeReqs_ends s a la
  rw [h]
  exact .of_same rfl rfl rfl

theorem stopCopy_clusters (s : State) (c : Copy) : ClustersKept s (s.stopCopy c) :=
  (ClustersKept.of_same (s := s) (t := (s.setCopy { c with stopped := true, buf := [], bufPz := false, wants := [] }).unpin c.id) rfl rfl rfl).trans
    (.foldl (fun t la => closeReqs_clusters t c.die la) _ _)

/-- The stop of teams changes groups, teams, copies and what they had under way. -/
theorem haltTeams_clusters (s : State) (tks : List Nat) : ClustersKept s (s.haltTeams tks) := by
  unfold State.haltTeams
  extract_lets ks s1 s2 s3 pins
  have h1 : ClustersKept s s1 := .foldl dropArrivals_clusters tks s
  have h2 : ClustersKept s1 s2 := .foldl haltGroup_clusters ks s1
  have h3 : ClustersKept s2 s3 := .foldl stopCopy_clusters (s2.copies.filter (fun c => ks.contains c.grp)) s2
  exact ((h1.trans h2).trans h3).trans (.of_same rfl rfl rfl)

/-! ## Stops (R301, R306, R311) -/

/-- A cluster changed where it stands. -/
theorem clusterIs_setCluster {s : State} {j c : Nat} {p q : Cluster → Prop} {f : Cluster → Cluster} (h : ClusterIs s j c p)
    (hf : ∀ x, p x → q (f x)) : ClusterIs (s.setCluster j c f) j c q := by
  obtain ⟨x, hx, hp⟩ := h
  refine ⟨f x, ?_, hf x hp⟩
  rw [State.setCluster, job_setJob, List.getElem?_mapIdx, hx]
  simp

theorem clusterIs_kept {s t : State} {j c : Nat} {p : Cluster → Prop} (h : ClusterIs s j c p) (k : ClustersKept s t) : ClusterIs t j c p := by
  rwa [ClusterIs, k.clusters]

/-- Time that passes does not run backwards, and the timer does not wrap. -/
theorem passTime_le (s : State) : s.timer.toNat ≤ s.passTime.timer.toNat := by
  have hlt := s.timer.isLt
  have hmod := Nat.mod_lt (Config.ticks s.free) (show 0 < 2 ^ 64 - s.timer.toNat by omega)
  change s.timer.toNat ≤ (s.timer + BitVec.ofNat 64 (Config.ticks s.free % (2 ^ 64 - s.timer.toNat))).toNat
  rw [BitVec.toNat_add, BitVec.toNat_ofNat, Nat.mod_eq_of_lt (a := Config.ticks s.free % _) (by omega), Nat.mod_eq_of_lt (by omega)]
  omega

theorem endStop_spec {s : State} {job cl : Nat} {p : Cluster → Prop} (h : ClusterIs s job cl p) :
    (s.endStop job cl).mem = s.mem ∧ s.timer.toNat ≤ (s.endStop job cl).timer.toNat ∧
      ClusterIs (s.endStop job cl) job cl (fun c => c.st = .halted ∧ c.entry = (s.endStop job cl).timer.toNat) := by
  have hset : ClusterIs (s.passTime.setCluster job cl (fun c => { c with st := .halted, entry := s.passTime.timer.toNat })) job cl
      (fun c => c.st = .halted ∧ c.entry = s.passTime.timer.toNat) := clusterIs_setCluster (s := s.passTime) (p := p) h fun x _ => ⟨rfl, rfl⟩
  have hkept : ClustersKept (s.passTime.setCluster job cl (fun c => { c with st := .halted, entry := s.passTime.timer.toNat })) (s.endStop job cl) := by
    unfold State.endStop
    dsimp only
    split
    · exact .setJst ..
    · exact .refl _
  have htimer : (s.endStop job cl).timer = s.passTime.timer := hkept.timer
  rw [htimer]
  exact ⟨hkept.mem, passTime_le s, clusterIs_kept hset hkept⟩

theorem clusterOf_eq (s : State) (j c : Nat) : s.clusterOf j c = (s.job j).clusters[c]? := rfl

theorem stopRequest_happens {s : State} {job cl : Nat} (hl : (s.job job).live = true) (h : ClusterIs s job cl (fun c => c.st = .placed)) :
    Happens (.stopRequest job cl) s (fun t => t.mem = s.mem ∧ ClusterIs t job cl (fun c => c.st = .stopping) ∧ t.groups = s.groups) := by
  have hset : ClusterIs (s.setCluster job cl (fun c => { c with st := .stopping })) job cl (fun c => c.st = .stopping) :=
    clusterIs_setCluster h fun _ _ => rfl
  obtain ⟨x, hx, hst⟩ := h
  have hexec : exec (.stopRequest job cl) s = execStopRequest job cl s := rfl
  simp only [execStopRequest, clusterOf_eq, hx, hl, hst, beq_self_eq_true, Bool.and_self, if_true, ev] at hexec
  refine ⟨_, hexec, ?_⟩
  split
  · exact ⟨rfl, clusterIs_kept hset (.setJst ..), rfl⟩
  · exact ⟨rfl, hset, rfl⟩

theorem stopComplete_happens {s : State} {job cl : Nat} (hl : (s.job job).live = true) (h : ClusterIs s job cl (fun c => c.st = .stopping))
    (hc : (s.job job).closing = false) (hrest : s.teamsRest (s.teamsIn job cl) = true) :
    ∃ u : State, exec (.stopComplete job cl) s = .next (u.pass (s.job job).jd.rdie) ∧ u.mem = s.mem ∧
      ClusterIs u job cl (fun c => c.st = .halted ∧ c.entry = u.timer.toNat) ∧ s.timer.toNat ≤ u.timer.toNat := by
  have hhalt := haltTeams_clusters s (s.teamsIn job cl)
  obtain ⟨hmem, htimer, hend⟩ := endStop_spec (clusterIs_kept h hhalt)
  obtain ⟨x, hx, hst⟩ := h
  have hexec : exec (.stopComplete job cl) s = execStopComplete job cl s := rfl
  simp only [execStopComplete, clusterOf_eq, hx, hl, hst, hc, hrest, beq_self_eq_true, Bool.not_false, Bool.and_self, if_true, ev] at hexec
  exact ⟨_, hexec, hmem.trans hhalt.mem, hend, hhalt.timer ▸ htimer⟩

end Sys2Proof.Proofs
end

section
namespace Sys2Proof.Proofs
open Sys2Proof.Machine Sys2Proof.Says Sys2Proof.Laws

/-! ## Long runs of memory -/

theorem lookup_append {α : Type} (l m : List (Nat × α)) (k : Nat) : lookup (l ++ m) k = (lookup l k).or (lookup m k) := by
  induction l with
  | nil => rfl
  | cons e l ih =>
    simp only [List.cons_append, lookup]
    split
    · rfl
    · exact ih

theorem lookup_filter {α : Type} (p : Nat → Bool) (m : List (Nat × α)) (k : Nat) :
    lookup (m.filter (fun e => p e.1)) k = if p k then lookup m k else none := by
  induction m with
  | nil => simp [lookup]
  | cons e m ih =>
    rw [List.filter_cons]
    by_cases he : e.1 = k
    · subst he
      cases hp : p e.1 <;> simp_all [lookup]
    · cases p e.1 <;> simpa [lookup, he] using ih

theorem lookup_eq_none {α : Type} {m : List (Nat × α)} {k : Nat} (h : ∀ e ∈ m, e.1 ≠ k) : lookup m k = none := by
  induction m with
  | nil => rfl
  | cons e m ih =>
    rw [lookup, if_neg (h e List.mem_cons_self)]
    exact ih fun x hx => h x (List.mem_cons_of_mem _ hx)

theorem lookup_same {α : Type} (f : Nat → Nat) (v : α) {l : List Nat} {i : Nat} (hi : i ∈ l) : lookup (l.map (fun i => (f i, v))) (f i) = some v := by
  induction l with
  | nil => simp at hi
  | cons n l ih =>
    simp only [List.map_cons, lookup]
    split
    · rfl
    · next hn => exact ih ((List.mem_cons.mp hi).resolve_left fun e => hn (by rw [e]))

theorem read_put_ne (m : List Host.Cell) {a x : Nat} (bs : List Byte) (h : x < a ∨ a + bs.length ≤ x) :
    Memory.read (Memory.put m a bs) x = Memory.read m x := by
  have hcells : lookup (Memory.cells a bs) x = none := lookup_eq_none fun e he hx => by
    have := mem_cells he
    omega
  have hlow := lookup_filter (fun y => decide (y < a)) m x
  have hhigh := lookup_filter (fun y => decide (a + bs.length ≤ y)) m x
  simp only [decide_eq_true_eq] at hlow hhigh
  simp only [Memory.read, getD, Memory.put, lookup_append, hcells, hlow, hhigh]
  rcases h with h | h
  · rw [if_pos h, if_neg (by omega), Option.or_none, Option.or_none]
  · rw [if_neg (by omega), if_pos h]
    rfl

theorem fill_zero (m : List Host.Cell) (a : Nat) (l : List Byte) : Memory.fill m a 0 l = l.reverse := by
  cases m <;> rfl

theorem fill_skip {m : List Host.Cell} {a : Nat} (n : Nat) (l : List Byte) (h : ∀ e ∈ m, e.1 ≠ a) :
    Memory.fill m a (n + 1) l = Memory.fill m (a + 1) n (memDefault :: l) := by
  cases m with
  | nil => rfl
  | cons c m => rw [Memory.fill, if_neg (h c List.mem_cons_self)]

theorem fill_cells (lo : Nat) (bs : List Byte) (a n : Nat) (l : List Byte) (hlo : lo ≤ a) (hn : n ≤ bs.length) :
    Memory.fill ((Memory.cells a bs).filter (fun e => decide (lo ≤ e.1) && decide (e.1 < a + n))) a n l = l.reverse ++ bs.take n := by
  induction bs generalizing a n l with
  | nil =>
    obtain rfl : n = 0 := by simpa using hn
    simp [fill_zero]
  | cons b bs ih =>
    cases n with
    | zero => simp [fill_zero]
    | succ n =>
      have hrest := ih (a + 1) n (b :: l) (by omega) (by simpa using hn)
      rw [show a + 1 + n = a + (n + 1) by omega] at hrest
      rw [cells_cons, List.filter_append]
      by_cases hb : b = memDefault
      · subst hb
        rw [if_pos rfl, List.filter_nil, List.nil_append, fill_skip n l fun e he => ?_, hrest]
        · simp
        · have := (mem_cells (List.mem_filter.mp he).1).1
          omega
      · rw [if_neg hb, List.filter_cons_of_pos (by simpa using hlo), List.filter_nil, List.singleton_append, Memory.fill, if_pos rfl, hrest]
        simp

/-- A long run written is read back, whole or its first bytes. -/
theorem slice_put (m : List Host.Cell) (a : Nat) (bs : List Byte) {n : Nat} (h : n ≤ bs.length) : Memory.slice (Memory.put m a bs) a n = bs.take n := by
  have hbelow : (m.filter (fun e => decide (e.1 < a))).filter (fun e => decide (a ≤ e.1) && decide (e.1 < a + n)) = [] :=
    List.filter_eq_nil_iff.mpr fun e he => by
      have := (List.mem_filter.mp he).2
      simp at this ⊢
      omega
  have habove : (m.filter (fun e => decide (a + bs.length ≤ e.1))).filter (fun e => decide (a ≤ e.1) && decide (e.1 < a + n)) = [] :=
    List.filter_eq_nil_iff.mpr fun e he => by
      have := (List.mem_filter.mp he).2
      simp at this ⊢
      omega
  rw [Memory.slice, Memory.put, List.filter_append, List.filter_append, hbelow, habove, List.nil_append, List.append_nil,
    fill_cells a bs a n [] le_rfl h]
  rfl

/-! ## Ranges of lines at their homes (R46, R47) -/

theorem memPut_read_line {s : State} {kid : BitVec 6} {pa x : Nat} {bs : List Byte} (hw : pa % 128 + bs.length ≤ 128) (h : x / 128 ≠ pa / 128) :
    Memory.read (s.memPut kid pa bs).mem x = Memory.read s.mem x := by
  simp only [State.memPut]
  rw [read_writeN_ne _ _ (by omega)]
  split
  · exact read_writeN_ne _ _ (by simp only [List.length_map, List.length_range]; omega)
  · rfl

theorem homeWrite_mem (s : State) (la : Nat) : (s.homeWrite la).mem = s.mem := by
  obtain ⟨_, _, _, h⟩ := homeWrite_rest s la
  rw [h]

theorem homeStore_read (s : State) (kid : BitVec 6) {la x : Nat} (d : BitVec 1024) (pz : Bool) (h : x / 128 ≠ la) :
    Memory.read (s.homeStore kid la d pz).mem x = Memory.read s.mem x := by
  have hput : Memory.read ((s.homeWrite la).memPut kid (la * 128) (lineBytes d)).mem x = Memory.read (s.homeWrite la).mem x :=
    memPut_read_line (by rw [lineBytes_length, Nat.mul_mod_left]) (by rwa [Nat.mul_div_cancel _ (by decide)])
  rw [homeWrite_mem] at hput
  exact hput

theorem storeOwner_read (s : State) {la x : Nat} (h : x / 128 ≠ la) : Memory.read (s.storeOwner la).mem x = Memory.read s.mem x := by
  unfold State.storeOwner
  split
  · split
    · exact homeStore_read s _ _ _ h
    · rfl
  · rfl

/-- The home that gathers a line writes no other line. -/
theorem recall_read (s : State) {la x : Nat} (h : x / 128 ≠ la) : Memory.read (s.recall la).mem x = Memory.read s.mem x := by
  have hfold : (s.recall la).mem = s.mem ∨ (s.recall la).mem = (s.storeOwner la).mem := by
    unfold State.recall
    split
    · exact .inl rfl
    · generalize s.storeOwner la = t
      refine .inr (List.foldlRecOn (motive := fun v : State => v.mem = t.mem) _ _ rfl fun v hv d _ => ?_)
      split
      · exact hv
      · rwa [setL2_mem]
  rcases hfold with hm | hm
  · rw [hm]
  · rw [hm, storeOwner_read s h]

theorem getD_lineKid_range (m : SMap (BitVec 6)) (kid : BitVec 6) {la n i : Nat} (hi : i < n) :
    getD 0 (m.filter (fun e => decide (e.1 < la)) ++ (if kid = 0 then [] else (List.range n).map (fun i => (la + i, kid))) ++
      m.filter (fun e => decide (la + n ≤ e.1))) (la + i) = kid := by
  have hlow := lookup_filter (fun y => decide (y < la)) m (la + i)
  have hhigh := lookup_filter (fun y => decide (la + n ≤ y)) m (la + i)
  simp only [decide_eq_true_eq] at hlow hhigh
  rw [if_neg (by omega)] at hlow hhigh
  rw [getD, lookup_append, lookup_append, hlow, hhigh]
  split
  · next h0 => simpa [lookup] using h0.symm
  · rw [lookup_same (fun i => la + i) kid (List.mem_range.mpr hi)]
    rfl

/-- Whole lines written at their homes are as their key slot wrote them, and other lines stay as they are in memory. -/
theorem storeRange_lines (s : State) (kid : BitVec 6) {a : Nat} {bs : List Byte} (ha : a % 128 = 0) (hn : bs.length % 128 = 0) :
    MemorySide s (s.storeRange kid a bs) ∧ (s.storeRange kid a bs).underKey kid (a / 128) (bs.length / 128) = true ∧
      ∃ m, (s.storeRange kid a bs).mem = Memory.put m a bs ∧ ∀ x, x < a ∨ a + bs.length ≤ x → Memory.read m x = Memory.read s.mem x := by
  unfold State.storeRange
  extract_lets la n t whole
  have hlines : n = bs.length / 128 := by simp only [n, la]; omega
  rw [← hlines]
  have ht : MemorySide s t ∧ ∀ x, x < a ∨ a + bs.length ≤ x → Memory.read t.mem x = Memory.read s.mem x := by
    refine List.foldlRecOn (motive := fun t : State => MemorySide s t ∧ ∀ x, x < a ∨ a + bs.length ≤ x → Memory.read t.mem x = Memory.read s.mem x)
      _ _ ⟨.refl s, fun _ _ => rfl⟩ fun v hv i hi => ⟨?_, fun x hx => ?_⟩
    · exact (hv.1.trans (recall_side ..)).trans (homeWrite_side ..)
    · have hi : i < n := List.mem_range.mp hi
      rw [homeWrite_mem, recall_read v (by omega), hv.2 x hx]
  clear_value t
  obtain ⟨hside, hread⟩ := ht
  split
  · next hkey => exact ⟨hside.trans (.of_fields ..), hkey, t.mem, rfl, hread⟩
  · rw [if_pos ⟨ha, hn⟩]
    refine ⟨hside.trans (.of_fields ..), ?_, t.mem, rfl, hread⟩
    simp only [State.underKey, Bool.and_eq_true, List.all_eq_true, List.mem_range, beq_iff_eq, Bool.not_eq_true', List.any_eq_false,
      List.mem_filter, Bool.or_eq_true, decide_eq_true_eq, not_and, not_lt]
    exact ⟨fun i hi => getD_lineKid_range t.lineKid kid hi, fun e he => by omega⟩

theorem padLine_length (l : List Byte) : (padLine l).length = (l.length + 127) / 128 * 128 := by
  simp only [padLine, zeros, ceilTo, List.length_append, List.length_replicate]
  omega

/-- An image written in whole lines is read back under its key. -/
theorem rangeBytes_storeRange (s : State) (kid : BitVec 6) {a : Nat} (im : List Byte) (ha : a % 128 = 0) :
    (s.storeRange kid a (padLine im)).rangeBytes kid a im.length = im := by
  obtain ⟨-, hkey, m, hm, -⟩ := storeRange_lines s kid (bs := padLine im) ha (by rw [padLine_length]; omega)
  have hlen := padLine_length im
  rw [State.rangeBytes, show (a + im.length + 127) / 128 - a / 128 = (padLine im).length / 128 by omega, if_pos hkey, hm,
    slice_put _ _ _ (by omega), padLine, List.take_left]

/-! ## Saves (R47, R312, R313) -/

theorem setGroups_rest {α : Type} (key : α → Nat) (f : State → α → Group) (l : List α) (s : State) :
    ∃ groups, l.foldl (fun (t : State) a => t.setGroup (key a) (f t a)) s = { s with groups := groups } := by
  induction l generalizing s with
  | nil => exact ⟨s.groups, rfl⟩
  | cons a l ih => exact ih (s.setGroup (key a) (f s a))

theorem captureGroups_rest (s : State) (ks : List Nat) :
    ∃ groups hops copies, s.captureGroups ks = { s with groups := groups, hops := hops, copies := copies } := by
  obtain ⟨groups, hg⟩ := setGroups_rest (fun k => k) (fun t k => (t.group k).countResumed) ks s
  rw [State.captureGroups, hg]
  exact ⟨_, _, _, rfl⟩

/-- The job of a cluster with an image of it. -/
def Job.withImage (j : Job) (cl base : Nat) (im : List Byte) (i : Image) : Job :=
  { j with saved := mapInsert j.saved cl (base, im), image := some i }

/-- The image of a cluster stands in memory under the system key, and no other line has changed. -/
theorem writeImage_spec (s : State) (job cl : Nat) {base : Nat} (tks ks : List Nat) (hb : base % 128 = 0) :
    ∃ im i, (s.writeImage job cl base tks ks).job job = Job.withImage (s.job job) cl base im i ∧
      (s.writeImage job cl base tks ks).rangeBytes (s.skidOf job) base im.length = im ∧
      ∀ a, a < base ∨ base + (padLine im).length ≤ a → Memory.read (s.writeImage job cl base tks ks).mem a = Memory.read s.mem a := by
  unfold State.writeImage
  extract_lets im t u src
  obtain ⟨hside, -, m, hm, hread⟩ := storeRange_lines s (s.skidOf job) (bs := padLine im) hb (by rw [padLine_length]; omega)
  have hback : t.rangeBytes (s.skidOf job) base im.length = im := rangeBytes_storeRange s (s.skidOf job) im hb
  have hu : ∃ groups, u = { t with groups := groups } := setGroups_rest (fun k => k) (fun v k => { v.group k with age := s.ageRank k }) ks t
  have ht : t.jobs = s.jobs ∧ t.mem = Memory.put m base (padLine im) := ⟨hside.jobs, hm⟩
  clear_value t
  obtain ⟨groups, hu⟩ := hu
  obtain ⟨hjobs, hm⟩ := ht
  refine ⟨im, s.imageOf job, ?_, ?_, fun a ha => ?_⟩
  · rw [job_setJob]
    have : u.job job = s.job job := by rw [hu, State.job, State.job, ← hjobs]
    simp only [src, this]
    rfl
  · rw [hu]
    exact hback
  · rw [setJob_mem, hu, hm, read_put_ne _ _ ha, hread a ha]

theorem mem_freeCores (s : State) {l : List (Nat × Nat)} {e : Nat × Nat} (h : e ∈ l) : Instr.coreFree e.1 e.2 ∈ (s.freeCores l).agenda :=
  List.mem_append_right _ (List.mem_map.mpr ⟨e, List.mem_eraseDups.mpr h, rfl⟩)

/-- A cluster saved: its job and memory after its image is written, and its cores free. -/
def SavedBy (s t : State) (job cl base : Nat) (tks : List Nat) : Prop :=
  ClusterIs t job cl (fun c => c.st = .saved) ∧ (t.job job).image.isSome = true ∧
    (∃ im, lookup (t.job job).saved cl = some (base, im) ∧ t.rangeBytes (s.skidOf job) base im.length = im ∧
      ∀ a, a < base ∨ base + (padLine im).length ≤ a → Memory.read t.mem a = Memory.read s.mem a) ∧
    ∀ e, e ∈ tks.flatMap s.coresOf → Instr.coreFree e.1 e.2 ∈ t.agenda

theorem savedBy_setJst {s t : State} {job cl base : Nat} {tks : List Nat} (h : SavedBy s t job cl base tks) (st : JState) :
    SavedBy s (t.setJst job st) job cl base tks := by
  obtain ⟨hcl, himage, ⟨im, hsaved, hback, hread⟩, hfree⟩ := h
  have hjob : (t.setJst job st).job job = { t.job job with st := st } := job_setJob ..
  refine ⟨clusterIs_kept hcl (.setJst ..), by rwa [hjob], ⟨im, by rwa [hjob], hback, hread⟩, fun e he => ?_⟩
  exact List.mem_append_left _ (hfree e he)

theorem saved_savedBy (s : State) {job cl base : Nat} (tks ks : List Nat) (hb : base % 128 = 0) (h : ClusterIs s job cl (fun c => c.st = .halted)) :
    SavedBy s ((((s.captureGroups ks).writeImage job cl base tks ks).setCluster job cl (fun c => { c with st := .saved })).freeCores
      (tks.flatMap s.coresOf)) job cl base tks := by
  obtain ⟨groups, hops, copies, hu⟩ := captureGroups_rest s ks
  obtain ⟨im, i, hjob, hback, hread⟩ := writeImage_spec (s.captureGroups ks) job cl tks ks hb
  have hsame : (s.captureGroups ks).job job = s.job job ∧ (s.captureGroups ks).skidOf job = s.skidOf job ∧ (s.captureGroups ks).mem = s.mem := by
    rw [hu]
    exact ⟨rfl, rfl, rfl⟩
  obtain ⟨hj, hskid, hmem⟩ := hsame
  rw [hj] at hjob
  rw [hskid] at hback
  rw [hmem] at hread
  generalize (s.captureGroups ks).writeImage job cl base tks ks = w at hjob hback hread
  have hcl : ClusterIs w job cl (fun c => c.st = .halted) := by
    rw [ClusterIs, hjob]
    exact h
  have hset := job_setJob w job { w.job job with
    clusters := (w.job job).clusters.mapIdx (fun i x => if i = cl then { x with st := .saved } else x) }
  refine ⟨clusterIs_setCluster (s := w) hcl fun _ _ => rfl, ?_, ⟨im, ?_, hback, hread⟩, fun e he => mem_freeCores _ he⟩
  · refine (congrArg (fun j : Job => j.image.isSome) hset).trans ?_
    rw [hjob]
    rfl
  · refine (congrArg (fun j : Job => lookup j.saved cl) hset).trans ?_
    rw [hjob]
    exact lookup_insert_self ..

theorem saveComplete_happens {s : State} {job cl base : Nat} (h : ClusterIs s job cl (fun c => c.st = .halted)) (he : s.inError job = false)
    (hc : (s.job job).closing = false) (hready : s.saveReady (s.groupsIn (s.teamsIn job cl)) = true) (hbase : (s.job job).saveBase cl = some base)
    (hb : base % 128 = 0) : Happens (.saveComplete job cl) s (fun t => SavedBy s t job cl base (s.teamsIn job cl)) := by
  have hsaved := saved_savedBy s (s.teamsIn job cl) (s.groupsIn (s.teamsIn job cl)) hb h
  obtain ⟨x, hx, hst⟩ := h
  have hexec : exec (.saveComplete job cl) s = execSaveComplete job cl s := rfl
  simp only [execSaveComplete, clusterOf_eq, hx, hbase, hst, he, hc, hready, bne_self_eq_false, Bool.not_true, Bool.or_self, Bool.false_eq_true,
    if_false, ev] at hexec
  refine ⟨_, hexec, ?_⟩
  split
  · exact savedBy_setJst hsaved .stopped
  · exact hsaved

end Sys2Proof.Proofs
end

section
namespace Sys2Proof.Proofs
open Sys2Proof.Machine Sys2Proof.Says Sys2Proof.Laws

/-! ## The job status block (R320) -/

/-- A write by an agent at the home writes memory there, after every token has come, with the line's marks. -/
theorem poke_rest (s : State) (kid : BitVec 6) (pa : Nat) (bs : List Byte) : ∃ poison perm track staged hostDirty, s.poke kid pa bs =
    { (s.recall (pa / 128)).memPut kid pa bs with poison := poison, perm := perm, track := track, staged := staged, hostDirty := hostDirty } := by
  obtain ⟨track, staged, hostDirty, hw⟩ := homeWrite_rest (s.recall (pa / 128)) (pa / 128)
  simp only [State.poke, State.homePut, hw]
  split <;> split <;> exact ⟨_, _, _, _, _, rfl⟩

/-- A number written at the front of bytes within a line is read back, where the home has the value. -/
theorem poke_numNow_at {s : State} {kid : BitVec 6} {pa n x : Nat} {bs : List Byte} (hc : (s.recall (pa / 128)).liveCopy (pa / 128) = none)
    (hl : pa % 128 + n ≤ 128) (hx : x < 2 ^ (8 * n)) : (s.poke kid pa (toBytes n x ++ bs)).numNow kid pa n = x := by
  obtain ⟨_, _, _, _, _, hp⟩ := poke_rest s kid pa (toBytes n x ++ bs)
  generalize hv : s.recall (pa / 128) = v at hc hp
  have hnum : (s.poke kid pa (toBytes n x ++ bs)).numNow kid pa n = (v.memPut kid pa (toBytes n x ++ bs)).numNow kid pa n := by
    rw [hp]
    rfl
  have hlive : (v.memPut kid pa (toBytes n x ++ bs)).liveCopy (pa / 128) = none := hc
  have hbytes : (List.range n).map (fun i => (v.memPut kid pa (toBytes n x ++ bs)).memByte kid (pa + i)) = toBytes n x :=
    List.map_congr_left fun i hi => by
      have hi : i < n := List.mem_range.mp hi
      have hlen : i < (toBytes n x).length := by rwa [toBytes_length]
      rw [memByte_memPut_at (by rw [List.length_append]; omega) (by omega), List.getD_append _ _ _ _ hlen, getD_toBytes _ hi,
        Nat.shiftRight_eq_div_pow]
  rw [hnum, State.numNow, hlive]
  dsimp only
  rw [hbytes, ofBytes_toBytes n x hx]

theorem jst_lt (j : Job) : j.jst < 2 ^ 64 := by
  unfold Job.jst
  cases j.st <;> simp only <;> split <;> split <;> decide

theorem putJsb_page {s : State} {job : Nat} {p : Page} (bs : List Byte) (hp : s.walk job (s.job job).jd.jsb.toNat = .page p)
    (hrs : pteRs p.leaf = true) :
    s.putJsb job 0 bs = s.poke (pteKid p.leaf) (pteFn p.leaf * 4096 + (s.job job).jd.jsb.toNat % p.size) bs := by
  unfold State.putJsb
  dsimp only
  rw [hp]
  dsimp only
  rw [if_pos hrs, Nat.add_zero]

theorem jsbUpdate_happens (s : State) (job : Nat) : Happens (.jsbUpdate job) s (fun t => t.jobs = s.jobs ∧ t.groups = s.groups ∧
    ∀ p, s.walk job (s.job job).jd.jsb.toNat = .page p → pteRs p.leaf = true →
      let a := pteFn p.leaf * 4096 + (s.job job).jd.jsb.toNat % p.size
      a % 128 + 64 ≤ 128 → (s.recall (a / 128)).liveCopy (a / 128) = none → t.numNow (pteKid p.leaf) a 8 = (s.job job).jst) := by
  refine ⟨_, rfl, (putJsb_side ..).jobs, (putJsb_side ..).groups, ?_⟩
  intro p hp hrs a hl hc
  rw [putJsb_page _ hp hrs, List.append_assoc, List.append_assoc, List.append_assoc]
  exact poke_numNow_at hc (by omega) (jst_lt _)

/-! ## Resumes (R307, R326) -/

theorem seatTeam_clusters (s : State) (j team core : Nat) (yet : List Nat) : ClustersKept s (s.seatTeam j team core yet) := by
  unfold State.seatTeam
  extract_lets d tk src t
  refine ClustersKept.trans (t := t) (.of_same rfl rfl rfl) (.foldl (fun u k => ?_) _ t)
  exact .of_same rfl rfl rfl

theorem launchTeam_clusters (s : State) (j team core : Nat) : ClustersKept s (s.launchTeam j team core) := by
  unfold State.launchTeam State.launchGroups
  extract_lets d d' t age
  refine ClustersKept.trans (t := s.setTeam (tkey j team) { Team.dead with live := true, die := d.rdie, core := core })
    (.of_same rfl rfl rfl) (.foldl (fun u q => ?_) _ _)
  exact .of_same rfl rfl rfl

theorem rankRestored_clusters (s : State) (ks : List Nat) : ClustersKept s (s.rankRestored ks) := by
  unfold State.rankRestored
  extract_lets l a
  refine .foldl (fun u e => ?_) _ s
  exact .of_same rfl rfl rfl

theorem wakeGroup_clusters (s : State) (k : Nat) : ClustersKept s (s.wakeGroup k) := by
  unfold State.wakeGroup
  refine ClustersKept.trans (t := s.setGroup k { s.group k with outs := [] }) (.of_same rfl rfl rfl) (.foldl (fun u i => ?_) _ _)
  rw [finishFlight_rest]
  exact .of_same rfl rfl rfl

theorem restartTeams_clusters (s : State) (reload : Bool) (tks : List Nat) : ClustersKept s (s.restartTeams reload tks) := by
  unfold State.restartTeams
  extract_lets ks s1 s2
  have h1 : ClustersKept s s1 := by
    simp only [s1]
    split
    · refine .foldl (fun t tk => ?_) _ s
      split
      · refine .foldl (fun u l => ?_) _ t
        exact .of_same rfl rfl rfl
      · exact .refl t
    · exact .refl s
  have h2 : ClustersKept s1 s2 := .foldl wakeGroup_clusters ks s1
  exact (h1.trans h2).trans (.of_same rfl rfl rfl)

/-- A cluster placed holds its cores. -/
theorem placeCluster_holds {s : State} {j c : Nat} {p : Cluster → Prop} (cores : List Nat) (h : ClusterIs s j c p) :
    ClusterIs (s.placeCluster j c cores) j c (fun x => x.holds = true) := by
  unfold State.placeCluster
  extract_lets saved teams t jb t1 t2 pairs yet t3 boot t4 tks ks src t5
  have ht1 : ClusterIs t1 j c (fun x => x.holds = true) := clusterIs_setCluster (s := t) (p := p) h fun _ _ => rfl
  have h2 : ClustersKept t1 t2 := by
    simp only [t2]
    split
    · exact .refl t1
    · exact .setJst ..
  have h3 : ClustersKept t2 t3 := by
    simp only [t3]
    split
    · exact .foldl (fun u e => seatTeam_clusters ..) pairs t2
    · exact .foldl (fun u e => launchTeam_clusters ..) pairs t2
  have h4 : ClustersKept t1 t4 := (h2.trans h3).trans (.of_same rfl rfl rfl)
  split
  · have h5 : ClustersKept t4 t5 := .setJob t4 j rfl
    exact clusterIs_kept ht1 (((h4.trans h5).trans (rankRestored_clusters ..)).trans (restartTeams_clusters ..))
  · exact clusterIs_kept ht1 h4

theorem waits_saved {j : Job} {c : Nat} (h : j.waits c .saved = true) :
    ∃ x, j.clusters[c]? = some x ∧ x.st = .saved := by
  unfold Job.waits at h
  split at h
  · next x hx =>
    simp only [Bool.and_eq_true, beq_iff_eq] at h
    exact ⟨x, hx, h.1⟩
  · cases h

/-- A cluster of no image does not wait with one. -/
theorem waits_removed (j : Job) (c : Nat) {k : Job} (hk : k.saved = remove j.saved c) : k.waits c .saved = false := by
  unfold Job.waits
  split
  · rw [hk, lookup_remove_self]
    simp
  · rfl

/-- A refused resume leaves groups and memory; the job is stopped where it has no core. -/
theorem refuseResume_spec (s : State) (job reason : Nat) (iv : Word) :
    let t := s.refuseResume job reason iv
    t.groups = s.groups ∧ t.mem = s.mem ∧ ∃ st, t.job job = { s.job job with st := st } ∧ ((s.job job).offCores = true → st = .stopped) := by
  unfold State.refuseResume
  split
  · exact ⟨rfl, rfl, .stopped, job_setJob .., fun _ => rfl⟩
  · next hoff => exact ⟨rfl, rfl, (s.job job).st, rfl, fun h => absurd h hoff⟩

/-- The region of a job rewritten: its clusters and their images stay, and nothing but range-table entries changes beside the job. -/
theorem moveRegion_rest {s t : State} {job die half : Nat} {mask : DWord} (h : s.moveRegion job die half mask = some t) :
    ∃ n ranges, t = State.setJob { s with ranges := ranges } job n ∧
      n.clusters = (s.job job).clusters ∧ n.saved = (s.job job).saved ∧ n.part = (s.job job).part := by
  unfold State.moveRegion at h
  dsimp only at h
  split at h
  · cases h
    exact ⟨_, s.ranges, rfl, rfl, rfl, rfl⟩
  · split at h
    · cases h
    · cases h
      exact ⟨_, _, rfl, rfl, rfl, rfl⟩

theorem moveRegion_imageGood {s t : State} {job die half : Nat} {mask : DWord} (h : s.moveRegion job die half mask = some t) (c : Nat) :
    t.imageGood job c = s.imageGood job c := by
  obtain ⟨n, ranges, ht, -, hsaved, hpart⟩ := moveRegion_rest h
  have hskid : t.skidOf job = s.skidOf job := by
    rw [State.skidOf, State.skidOf, ht, job_setJob, hpart]
    rfl
  rw [State.imageGood, State.imageGood, hskid, ht, job_setJob, hsaved]
  rfl

theorem waits_congr {j k : Job} (hc : j.clusters = k.clusters) (hs : j.saved = k.saved) (c : Nat) (st : ClState) : j.waits c st = k.waits c st := by
  rw [Job.waits, Job.waits, hc, hs]

/-- A seat for a saved cluster: one that waits is the head. -/
theorem seatSaved_isSome {s : State} {job : Nat} (h : (s.seatSaved job).isSome = true) :
    ∃ c cores, (s.job job).waits c .saved = true ∧ s.seatSaved job = some (s.placeHead (job, c) cores) := by
  unfold State.seatSaved at h ⊢
  dsimp only at h ⊢
  split at h
  · cases h
  · next c hc =>
    obtain ⟨cores, hcores⟩ := Option.isSome_iff_exists.mp ((Option.isSome_map ..).symm.trans h)
    exact ⟨c, cores, List.find?_some (p := fun c => (s.job job).waits c .saved) hc, by rw [hcores]; rfl⟩

theorem placeHead_good {s : State} {job c : Nat} (cores : List Nat) (h : s.imageGood job c = true) :
    s.placeHead (job, c) cores = s.placeCluster job c cores := by
  simp [State.placeHead, h]

theorem placeHead_bad {s : State} {job c : Nat} (cores : List Nat) (hw : (s.job job).waits c .saved = true) (h : s.imageGood job c = false) :
    s.placeHead (job, c) cores = (s.setJob job { s.job job with saved := remove (s.job job).saved c }).refuseResume job 1 0 := by
  simp [State.placeHead, hw, h]

section

variable {s : State} {job die half : Nat} {mask : DWord}

/-- A resume that names a die, half and cores of the partition, of a job with a saved cluster. -/
structure MayResume (s : State) (job die half : Nat) (mask : DWord) : Prop where
  live : (s.job job).live = true
  not_held : (s.job job).held = false
  waits : (List.range (s.job job).clusters.length).any (fun c => (s.job job).waits c .saved) = true
  mask_ne : mask ≠ 0
  cores : mask &&& ~~~ (s.part (s.job job).part).coreMask die half = 0
  die_lt : die < 4
  half_lt : half < 2
  pairs : (s.job job).jd.pr = true → oddPair mask = false
  off : die = (s.job job).jd.rdie ∨ (s.job job).offCores = true

variable (h : MayResume s job die half mask)
include h

theorem resume_exec : exec (.resume job die half mask) s =
    ev (if !s.keysOk job [] then some (s.refuseResume job 4 0) else (s.moveRegion job die half mask).bind (fun t => t.seatSaved job)) := by
  obtain ⟨hlive, hheld, hwaits, hsome, hcores, hdie, hhalf, hpairs, hoff⟩ := h
  have hodd : ((s.job job).jd.pr && oddPair mask) = false := by
    cases hpr : (s.job job).jd.pr
    · rfl
    · exact hpairs hpr
  have hstay : (die != (s.job job).jd.rdie && !(s.job job).offCores) = false := by
    rcases hoff with hoff | hoff <;> simp [hoff]
  have hexec : exec (.resume job die half mask) s = execResume job die half mask s := rfl
  rw [hexec, execResume]
  simp only [hcores, hsome, hodd, hheld, hlive, hwaits, hstay, Nat.not_le.mpr hdie, Nat.not_le.mpr hhalf, bne_self_eq_false, Bool.and_self,
    Bool.or_self, Bool.false_eq_true, decide_false, if_false, if_true]

theorem resume_places (hk : s.keysOk job [] = true) (hm : ((s.moveRegion job die half mask).bind (fun t => t.seatSaved job)).isSome = true) :
    ∃ t c cores, exec (.resume job die half mask) s = .next (t.placeHead (job, c) cores) ∧ s.moveRegion job die half mask = some t ∧
      (s.job job).waits c .saved = true ∧ (t.job job).waits c .saved = true := by
  obtain ⟨t, ht⟩ := Option.isSome_iff_exists.mp (Option.isSome_of_isSome_bind hm)
  rw [ht, Option.bind_some] at hm
  obtain ⟨c, cores, hw, hseat⟩ := seatSaved_isSome hm
  obtain ⟨n, ranges, hn, hcl, hsaved, -⟩ := moveRegion_rest ht
  refine ⟨t, c, cores, ?_, ht, ?_, hw⟩
  · rw [resume_exec h, hk, ht, Option.bind_some, hseat]
    rfl
  · rw [hn, job_setJob] at hw
    rwa [← waits_congr hcl hsaved]

theorem resume_good (hk : s.keysOk job [] = true) (hm : ((s.moveRegion job die half mask).bind (fun t => t.seatSaved job)).isSome = true)
    (hgood : ∀ c, (s.job job).waits c .saved = true → s.imageGood job c = true) : Happens (.resume job die half mask) s (fun t =>
      ∃ c, ClusterIs s job c (fun x => x.st = .saved) ∧ ClusterIs t job c (fun x => x.holds = true)) := by
  obtain ⟨t, c, cores, hexec, ht, hws, hwt⟩ := resume_places h hk hm
  rw [placeHead_good cores ((moveRegion_imageGood ht c).trans (hgood c hws))] at hexec
  exact ⟨_, hexec, c, waits_saved hws, placeCluster_holds cores (waits_saved hwt)⟩

theorem resume_bad (hk : s.keysOk job [] = true) (hm : ((s.moveRegion job die half mask).bind (fun t => t.seatSaved job)).isSome = true)
    (hbad : ∀ c, (s.job job).waits c .saved = true → s.imageGood job c = false) : Happens (.resume job die half mask) s (fun t =>
      t.groups = s.groups ∧ t.mem = s.mem ∧
        ∃ c, (s.job job).waits c .saved = true ∧ (t.job job).waits c .saved = false ∧ ClusterIs t job c (fun x => x.st = .saved)) := by
  obtain ⟨t, c, cores, hexec, ht, hws, hwt⟩ := resume_places h hk hm
  rw [placeHead_bad cores hwt ((moveRegion_imageGood ht c).trans (hbad c hws))] at hexec
  obtain ⟨n, ranges, hn, -, -, -⟩ := moveRegion_rest ht
  obtain ⟨hgroups, hmem, st, hjob, -⟩ := refuseResume_spec (t.setJob job { t.job job with saved := remove (t.job job).saved c }) job 1 0
  rw [job_setJob] at hjob
  refine ⟨_, hexec, hgroups.trans (by rw [hn]; rfl), hmem.trans (by rw [hn]; rfl), c, hws, ?_, ?_⟩
  · rw [hjob]
    exact waits_removed (t.job job) c rfl
  · obtain ⟨x, hx, hst⟩ := waits_saved hwt
    exact ⟨x, by rwa [hjob], hst⟩

theorem resume_keys (hk : s.keysOk job [] = false) : Happens (.resume job die half mask) s (fun t =>
    ((s.job job).offCores = true → (t.job job).st = .stopped) ∧ t.groups = s.groups ∧ t.mem = s.mem) := by
  obtain ⟨hgroups, hmem, st, hjob, hst⟩ := refuseResume_spec s job 4 0
  refine ⟨_, by rw [resume_exec h, hk]; rfl, fun hoff => ?_, hgroups, hmem⟩
  rw [hjob]
  exact hst hoff

end

/-- Settles O46: a stop changes neither memory nor the job's clusters but the one that stops, a save's whole lines are read back as they were
written, and a resume places a cluster whose image reads back whole. -/
theorem stopsAndResumes : Obligations.StopsAndResumes := by
  unfold Obligations.StopsAndResumes
  refine ⟨fun _ _ _ => stopRequest_happens, fun _ _ _ => stopComplete_happens, fun _ _ _ _ => saveComplete_happens, ?_, jsbUpdate_happens⟩
  intro s job die half mask j hlive hheld hwaits hsome hcores hdie hhalf hpairs hoff
  have h : MayResume s job die half mask := ⟨hlive, hheld, hwaits, hsome, hcores, hdie, hhalf, hpairs, hoff⟩
  exact ⟨fun hk hm => ⟨resume_good h hk hm, resume_bad h hk hm⟩, resume_keys h⟩

end Sys2Proof.Proofs
end

section
namespace Sys2Proof.Proofs
open Sys2Proof.Machine Sys2Proof.Says Sys2Proof.Laws

/-! ## The boot ROM and fatal errors (R343, R349) -/

/-- Whatever steps 3 to 7 of the boot come to, they have been run and change no fuse, dump, key, session or error. -/
theorem start_keeps (b : Boot) (ok : Bool) (svn : Nat) (image : BitVec 256) (recovery : Bool) :
    let c := b.start ok svn image recovery
    c.rom = false ∧ c.fatal = b.fatal ∧ c.session = b.session ∧ c.fc = b.fc ∧ c.dump = b.dump ∧ c.deviceKey = b.deviceKey := by
  unfold Boot.start
  split
  · exact ⟨rfl, rfl, rfl, rfl, rfl, rfl⟩
  · split <;> exact ⟨rfl, rfl, rfl, rfl, rfl, rfl⟩

/-- What the boot of a reset starts from: Boot.reset with what a reset keeps. -/
theorem doReset_boot (s : State) : ∃ (b : Boot) (ok : Bool) (svn : Nat) (image : BitVec 256), s.doReset.boot = b.start ok svn image false ∧ b.fatal = false ∧ b.session = false ∧
    b.fc = s.boot.fc ∧ b.dump = s.boot.dump ∧ b.deviceKey = Config.deviceKey s.free := by
  unfold State.doReset
  exact ⟨_, _, _, _, rfl, rfl, rfl, rfl, rfl, rfl⟩

theorem doReset_agenda (s : State) : s.doReset.agenda = s.agenda := by
  unfold State.doReset
  rfl

/-- A reset leaves a machine whose boot ROM has run. -/
theorem doReset_booted (s : State) : FreshlyBooted s s.doReset := by
  obtain ⟨b, ok, svn, image, hb, hf, hs, hfc, hd, hk⟩ := doReset_boot s
  obtain ⟨hrom, hfatal, hsession, hfuses, hdump, hkey⟩ := start_keeps b ok svn image false
  rw [← hb] at hrom hfatal hsession hfuses hdump hkey
  exact ⟨rfl, rfl, rfl, rfl, rfl, rfl, rfl, rfl, hrom, hfatal.trans hf, hsession.trans hs, hfuses.trans hfc, hdump.trans hd, hkey.trans hk, doReset_agenda s⟩

theorem step_rom {s : State} (hf : s.boot.fatal = false) (hr : s.boot.rom = true) : step s = .next s.doReset := by
  rw [step, hf, hr]
  rfl

theorem step_fatal {s : State} (hf : s.boot.fatal = true) : step s = s.fatalStep := by rw [step, if_pos hf]

/-- Only resets and the recovery's go revive a device with a fatal error. -/
theorem revives_false {i : Instr} (hr : i ≠ .reset) (hm : i ≠ .mailboxReset) (hg : ∀ n l, i ≠ .recoveryGo n l) : Instr.revives i = false := by
  unfold Sys2Proof.Machine.Instr.revives
  split
  · exact absurd rfl hr
  · exact absurd rfl hm
  · exact absurd rfl (hg _ _)
  · rfl

/-- Settles O59: the boot ROM's step is a reset, and a step after a fatal error is `State.fatalStep`. -/
theorem resetAndFatal : Obligations.ResetAndFatal := by
  unfold Obligations.ResetAndFatal
  refine ⟨⟨rfl, rfl, rfl, rfl, rfl, fun _ => rfl, reset_memWf, fun s hf hr => ⟨_, step_rom hf hr, doReset_booted s⟩⟩, fun s hf ha => ?_,
    fun s i rest hf ha hr hm hg => ?_, fun s rest hf ha => ?_⟩
  · rw [step_fatal hf, State.fatalStep, ha]
  · rw [step_fatal hf, State.fatalStep, ha]
    exact if_neg (by rw [revives_false hr hm hg]; decide)
  · obtain ⟨-, -, -, -, -, -, -, -, -, hfatal, -, -, -, -, hagenda⟩ := doReset_booted { s with agenda := rest }
    exact ⟨_, by rw [step_fatal hf, State.fatalStep, ha]; rfl, hfatal, hagenda⟩

end Sys2Proof.Proofs
end

section
namespace Sys2Proof.Proofs
open Sys2Proof.Machine Sys2Proof.Says Sys2Proof.Laws

/-! ## Messages as their receivers take them (R57) -/

theorem msgOf_sent {s : State} {k ty : Nat} {m : Msg} (h : Sent s k m ty) : s.msgOf k ty = some m := by
  obtain ⟨hk, ht⟩ := h
  rw [State.msgOf, hk]
  exact if_pos ht

/-- A sample of a miss changes the free counter and the sampling rings alone (R44). -/
theorem sample_rest (s : State) (home : Bool) (la ty : Nat) :
    s.sample home la ty = { s with free := (s.sample home la ty).free, rings := (s.sample home la ty).rings } := by
  unfold State.sample
  split <;> rfl

/-! ## Home atomics (R66) -/

/-- A line is at its home whole, with any permission of the host that it needs, and no home operation waits for it. -/
def HopGoes (s : State) (la : Nat) : Prop := (s.holding la).tc = 16 ∧ s.mayOwn la = true ∧ ∀ q, q ∈ s.homeq → q.la ≠ la

theorem hopAtomic_performs {s : State} {k : Nat} {m : Msg} (h : Sent s k m 10) (ho : (opAtom m.op.toNat).isSome = true) (hg : HopGoes s m.la) :
    ∃ free rings, exec (.hopAtomic k) s = .next (State.performHop { s.takeMsg k with free := free, rings := rings } m) := by
  obtain ⟨htc, hown, hq⟩ := hg
  have hnone : (opAtom m.op.toNat).isNone = false := by rwa [Option.isNone_eq_false_iff]
  have hready : s.homeReady m.la = true := by simp [State.homeReady, htc, hown]
  have hwait : s.homeq.any (fun q => q.la == m.la) = false := by simpa [List.any_eq_false] using hq
  have hexec : exec (.hopAtomic k) s = execHopAtomic k s := rfl
  simp only [execHopAtomic, msgOf_sent h, hnone, hready, hwait, Bool.not_false, Bool.and_self, Bool.false_eq_true, if_false, if_true, ev] at hexec
  rw [sample_rest] at hexec
  exact ⟨_, _, hexec⟩

/-- What an atomic of `w` bytes finds at its offset. -/
def hopOld (s : State) (m : Msg) (w : Nat) : Nat := lineNum (s.memLine m.kid m.la) (field m.data.toNat 128 7) w
/-- The answer to a home atomic: the old value, and the line's poison. -/
def hopAnswer (s : State) (m : Msg) (w : Nat) (pz : Bool) : Msg :=
  { mkMsg 11 m.dst.toNat m.src.toNat m.la with rid := m.rid, op := m.op, d := true, pz := pz, data := BitVec.ofNat 1024 (hopOld s m w) }

/-- A poisoned line is answered and not written (R49). -/
theorem performHop_poisoned {s : State} {m : Msg} {o : AtomOp} {w : Nat} (ho : opAtom m.op.toNat = some (o, w)) (hz : getD false s.poison m.la = true) :
    s.performHop m = s.send (hopAnswer s m w true) := by
  unfold State.performHop
  simp only [ho, hz, Bool.true_or, if_true]
  rfl

/-- A line without poison is written. -/
theorem performHop_writes {s : State} {m : Msg} {o : AtomOp} {w : Nat} (ho : opAtom m.op.toNat = some (o, w)) (hz : getD false s.poison m.la = false)
    (hd : s.poolDark m.la = false) :
    ∃ stale, s.performHop m = State.send { s.homePut m.kid (m.la * 128 + field m.data.toNat 128 7)
      (toBytes w (atomNew o (8 * w) (hopOld s m w) (field m.data.toNat 0 64) (field m.data.toNat 64 64))) with stale := stale } (hopAnswer s m w false) := by
  unfold State.performHop
  simp only [ho, hz, hd, Bool.or_self, Bool.false_eq_true, if_false]
  exact ⟨_, rfl⟩

/-! ## Bits of bytes and of lines (R5) -/

theorem testBit_ofBytes (l : List Byte) (b : Nat) : (ofBytes l).testBit b = (l.getD (b / 8) 0).getLsbD (b % 8) := by
  induction l generalizing b with
  | nil => simp [ofBytes]
  | cons x l ih =>
    rw [show ofBytes (x :: l) = 2 ^ 8 * ofBytes l + x.toNat from Nat.add_comm .., Nat.testBit_two_pow_mul_add _ x.isLt]
    by_cases hb : b < 8
    · rw [if_pos hb, Nat.div_eq_of_lt hb, Nat.mod_eq_of_lt hb]
      rfl
    · obtain ⟨c, rfl⟩ := Nat.exists_eq_add_of_le' (Nat.le_of_not_lt hb)
      rw [if_neg hb, Nat.add_sub_cancel, ih c, Nat.add_div_right c (by decide), Nat.add_mod_right]
      rfl

theorem getLsbD_getD_toBytes {n i j : Nat} (x : Nat) (hi : i < n) (hj : j < 8) : ((toBytes n x).getD i 0).getLsbD j = x.testBit (8 * i + j) := by
  rw [getD_toBytes x hi, BitVec.getLsbD_ofNat, Nat.testBit_div_two_pow]
  simp [hj, Nat.add_comm]

theorem testBit_lineNum (d : BitVec 1024) (i n b : Nat) : (lineNum d i n).testBit b = (decide (b < 8 * n) && d.getLsbD (8 * i + b)) := by
  rw [lineNum, field, Nat.testBit_mod_two_pow, Nat.testBit_shiftRight]
  rfl

theorem getLsbD_memLine (s : State) (kid : BitVec 6) (la : Nat) {b : Nat} (h : b < 1024) :
    (s.memLine kid la).getLsbD b = (s.memByte kid (la * 128 + b / 8)).getLsbD (b % 8) := by
  rw [State.memLine, BitVec.getLsbD_ofNat, testBit_ofBytes]
  have hb : b / 8 < 128 := by omega
  simp [h, hb]

/-- The number that bytes of a line in memory make once they have been written. -/
theorem lineNum_memPut {s : State} {kid : BitVec 6} {la off w x : Nat} (h : off + w ≤ 128) :
    lineNum ((s.memPut kid (la * 128 + off) (toBytes w x)).memLine kid la) off w = x % 2 ^ (8 * w) := by
  refine Nat.eq_of_testBit_eq fun b => ?_
  rw [testBit_lineNum, Nat.testBit_mod_two_pow]
  by_cases hb : b < 8 * w
  · have hi : b / 8 < w := by omega
    rw [getLsbD_memLine _ _ _ (by omega), show la * 128 + (8 * off + b) / 8 = la * 128 + off + b / 8 by omega,
      memByte_memPut_at (by rwa [toBytes_length]) (by omega), getLsbD_getD_toBytes x hi (by omega), show 8 * (b / 8) + (8 * off + b) % 8 = b by omega]
  · simp [hb]

theorem homePut_memLine (s : State) (kid k : BitVec 6) (pa la : Nat) (bs : List Byte) :
    (s.homePut kid pa bs).memLine k la = ((s.homeWrite (pa / 128)).memPut kid pa bs).memLine k la := by
  unfold State.homePut
  dsimp only
  split <;> rfl

theorem homePut_msgs (s : State) (kid : BitVec 6) (pa : Nat) (bs : List Byte) : (s.homePut kid pa bs).msgs = s.msgs := by
  obtain ⟨_, _, _, hw⟩ := homeWrite_rest s (pa / 128)
  unfold State.homePut
  dsimp only
  split <;> rw [hw] <;> rfl

/-! ## The home's messages (R57, R59, R66, R343) -/

theorem wb_happens {s : State} {k : Nat} {m : Msg} (h : Sent s k m 14) : Happens (.wb k) s (fun t => t.memLine m.kid m.la = m.data ∧
    t.msgs = dropAt s.msgs k ++ [mkMsg 15 m.dst.toNat m.src.toNat m.la] ∧ t.l2 = s.l2) := by
  have hexec : exec (.wb k) s = execWb k s := rfl
  simp only [execWb, msgOf_sent h, ev] at hexec
  obtain ⟨_, _, _, hw⟩ := homeWrite_rest (s.takeMsg k) m.la
  refine ⟨_, hexec, memLine_memPutLine ((s.takeMsg k).homeWrite m.la) m.kid m.la m.data m.pz, ?_, ?_⟩
  · rw [State.homeStore, hw]; rfl
  · rw [State.homeStore, hw]; rfl

theorem wback_happens {s : State} {k : Nat} {m : Msg} (h : Sent s k m 15) : Happens (.wback k) s (fun t => t.mem = s.mem ∧
    t.msgs = dropAt s.msgs k ∧ t.l2line m.dst.toNat m.la = { s.l2line m.dst.toNat m.la with dt := false, wb := false }) := by
  have hexec : exec (.wback k) s = execWback k s := rfl
  simp only [execWback, msgOf_sent h, ev] at hexec
  exact ⟨_, hexec, rfl, rfl, getD_setD_self ..⟩

theorem hopAtomic_writes {s : State} {k : Nat} {m : Msg} {o : AtomOp} {w : Nat} (h : Sent s k m 10) (ho : opAtom m.op.toNat = some (o, w))
    (hg : HopGoes s m.la) (hz : getD false s.poison m.la = false) (hd : s.poolDark m.la = false) (hw : field m.data.toNat 128 7 + w ≤ 128) :
    Happens (.hopAtomic k) s (fun t =>
      lineNum (t.memLine m.kid m.la) (field m.data.toNat 128 7) w =
        atomNew o (8 * w) (hopOld s m w) (field m.data.toNat 0 64) (field m.data.toNat 64 64) % 2 ^ (8 * w) ∧
      ∃ x : Msg, t.msgs = dropAt s.msgs k ++ [x] ∧ x.ty = 11 ∧ x.dst = m.src ∧ x.rid = m.rid ∧ x.data = BitVec.ofNat 1024 (hopOld s m w)) := by
  obtain ⟨free, rings, hexec⟩ := hopAtomic_performs h (by rw [ho]; rfl) hg
  obtain ⟨stale, hp⟩ := performHop_writes (s := { s.takeMsg k with free := free, rings := rings }) ho hz hd
  refine ⟨_, hexec, ?_, hopAnswer s m w false, ?_, rfl, ?_, rfl, rfl⟩
  · rw [hp]
    refine Eq.trans (congrArg (fun d => lineNum d _ w) (homePut_memLine ..)) ?_
    exact lineNum_memPut hw
  · rw [hp]
    exact congrArg (· ++ _) (homePut_msgs ..)
  · simp [hopAnswer, mkMsg]

theorem hopAtomic_poisoned {s : State} {k : Nat} {m : Msg} (h : Sent s k m 10) (ho : (opAtom m.op.toNat).isSome = true)
    (hg : HopGoes s m.la) (hz : getD false s.poison m.la = true) : Happens (.hopAtomic k) s (fun t => t.mem = s.mem ∧
      ∃ x : Msg, t.msgs = dropAt s.msgs k ++ [x] ∧ x.ty = 11 ∧ x.dst = m.src ∧ x.rid = m.rid ∧ x.pz = true) := by
  obtain ⟨free, rings, hexec⟩ := hopAtomic_performs h ho hg
  obtain ⟨⟨o, w⟩, ho⟩ := Option.isSome_iff_exists.mp ho
  have hp := performHop_poisoned (s := { s.takeMsg k with free := free, rings := rings }) ho hz
  refine ⟨_, hexec, by rw [hp]; rfl, hopAnswer s m w true, by rw [hp]; rfl, rfl, ?_, rfl, rfl⟩
  simp [hopAnswer, mkMsg]

/-- Asking the host changes what H0 has sent it alone (R67). -/
theorem askHost_rest (s : State) (la : Nat) (own : Bool) : s.askHost la own = { s with hostOut := (s.askHost la own).hostOut } := by
  have tell (m : HostMsg) : s.tellHost m = { s with hostOut := (s.tellHost m).hostOut } := by
    unfold State.tellHost
    split <;> rfl
  unfold State.askHost
  split
  · rfl
  · split
    · split
      · rfl
      · exact tell _
    · split
      · exact tell _
      · rfl

theorem hopAtomic_waits {s : State} {k : Nat} {m : Msg} (h : Sent s k m 10) (ho : (opAtom m.op.toNat).isSome = true)
    (ht : (s.holding m.la).tc ≠ 16) : Happens (.hopAtomic k) s (fun t => t.homeq = s.homeq ++ [m] ∧ t.mem = s.mem) := by
  have hnone : (opAtom m.op.toNat).isNone = false := by rwa [Option.isNone_eq_false_iff]
  have hready : s.homeReady m.la = false := by simp [State.homeReady, ht]
  have hexec : exec (.hopAtomic k) s = execHopAtomic k s := rfl
  simp only [execHopAtomic, msgOf_sent h, hnone, hready, Bool.false_and, Bool.false_eq_true, if_false, ht, ev] at hexec
  rw [sample_rest] at hexec
  refine ⟨_, hexec, ?_, ?_⟩
  · rw [askHost_rest]
    exact (request_side ..).congr State.homeq rfl
  · rw [askHost_rest]
    exact request_mem ..

/-- A message of a type that is never sent is fatal. -/
theorem invalidMessageType_fatal {s : State} {k : Nat} {m : Msg} (h : s.msgs[k]? = some m) (hb : m.ty = 0 ∨ 16 ≤ m.ty.toNat) :
    Happens (.invalidMessageType k) s (fun t => t.boot.fatal = true) := by
  have hexec : exec (.invalidMessageType k) s = execInvalidMessageType k s := rfl
  have hbad : (decide (m.ty = 0) || decide (16 ≤ m.ty.toNat)) = true := by simpa using hb
  simp only [execInvalidMessageType, h, hbad, Bool.true_or, if_true, ev] at hexec
  exact ⟨_, hexec, rfl⟩

/-- Settles O39, message by message; an atomic's value through the bits of the bytes that the home writes. -/
theorem homeMessages : Obligations.HomeMessages := by
  unfold Obligations.HomeMessages
  refine ⟨fun s k m h => wb_happens h, fun s k m h => wback_happens h,
    fun s k m o w h ho ht hown hq hz hd hw => hopAtomic_writes h ho ⟨ht, hown, hq⟩ hz hd hw,
    fun s k m h ho ht hown hq hz => hopAtomic_poisoned h ho ⟨ht, hown, hq⟩ hz, fun s k m h ho ht => hopAtomic_waits h ho ht,
    fun s k m h => invalidMessageType_fatal h.1 (.inl (BitVec.eq_of_toNat_eq h.2)),
    fun s k m ty hty h => invalidMessageType_fatal h.1 (.inr (by rw [h.2]; exact hty))⟩

end Sys2Proof.Proofs
end

section
namespace Sys2Proof.Proofs
open Sys2Proof.Machine Sys2Proof.Says Sys2Proof.Laws

/-! ## What agents hold of a line (R53, R55) -/

theorem l2line_setL2 (s : State) (die la : Nat) (x : Line) : (s.setL2 die la x).l2line die la = x := getD_setD_self ..

theorem minus_tc (x : Line) (n : Nat) (ow : Bool) : (x.minus n ow).tc = x.tc - n := by
  unfold Line.minus
  split
  · next h => exact (Nat.sub_eq_zero_of_le h).symm
  · rfl

/-- Tokens given up are held no more. -/
theorem holds_giveUp (s : State) (a la n : Nat) (ow : Bool) : ((s.giveUp a la n ow).holds_ a la).tc = (s.holds_ a la).tc - n := by
  unfold State.giveUp State.holds_
  by_cases ha : a < 4
  · simp only [ha, if_true, l2line_setL2, minus_tc]
  · by_cases hh : a = homeOf (la * 128)
    · simp only [← hh, ha, if_false, if_true, State.holding, State.setHolding, getD_setD_self]
    · simp only [ha, hh, if_false, h0line_setH0, minus_tc]

/-- A TOK that leaves an agent: its fields, and what the agent still holds. -/
theorem sendTok_spec (s : State) (a b la n : Nat) (ow data : Bool) (kid : BitVec 6) :
    ∃ x : Msg, (s.sendTok a b la n ow data kid).msgs = s.msgs ++ [x] ∧ x.ty = 3 ∧ x.dst = BitVec.ofNat 4 b ∧ x.la = la ∧ x.tc = n ∧ x.ow = ow ∧
      x.d = data ∧ ((s.sendTok a b la n ow data kid).holds_ a la).tc = (s.holds_ a la).tc - n ∧ (s.sendTok a b la n ow data kid).mem = s.mem := by
  obtain ⟨hmem, -, hmsgs⟩ := giveUp_keeps s a la n ow
  refine ⟨_, congrArg (· ++ _) hmsgs, ?_, ?_, ?_, ?_, ?_, ?_, holds_giveUp s a la n ow, hmem⟩ <;> cases data <;> rfl

/-! ## GETS and GETX (R58) -/

theorem mayGive_room {s : State} {a la : Nat} {own : Bool} (h : MayGive s a la own) : ((a == homeOf (la * 128)) && !s.awayRoom la) = false := by
  by_cases hh : a = homeOf (la * 128)
  · simp [(h hh).1]
  · simp [hh]

theorem mayGive_may {s : State} {a la : Nat} {own : Bool} (h : MayGive s a la own) :
    (!(a == homeOf (la * 128)) || (if own then s.mayOwn la else s.mayShare la)) = true := by
  by_cases hh : a = homeOf (la * 128)
  · simp [(h hh).2]
  · simp [hh]

section

variable {s : State} {k : Nat} {m : Msg} (hf : s.frozenAt m.dst.toNat m.la = false)
include hf

theorem gets_dropped (h : Sent s k m 1) (hd : (s.actFor m.dst.toNat m.la).isSome = true ∨ (s.holds_ m.dst.toNat m.la).ow = false) :
    Dropped (.gets k) s k := by
  have hexec : exec (.gets k) s = execGets k s := rfl
  have hcond : ((s.actFor m.dst.toNat m.la).isSome || !(s.holds_ m.dst.toNat m.la).ow) = true := by simpa using hd
  simp only [execGets, msgOf_sent h, hf, hcond, Bool.false_eq_true, if_false, if_true, ev] at hexec
  exact ⟨_, hexec, sample_rest ..⟩

/-- An owner that may give tokens out answers a read with one. -/
theorem gets_answers (h : Sent s k m 1) (ha : s.actFor m.dst.toNat m.la = none) (ho : (s.holds_ m.dst.toNat m.la).ow = true) {own : Bool}
    (ht : if own then (s.holds_ m.dst.toNat m.la).tc = 1 else 2 ≤ (s.holds_ m.dst.toNat m.la).tc) (hm : MayGive s m.dst.toNat m.la own) :
    Answers (.gets k) s k m 1 own := by
  have hexec : exec (.gets k) s = execGets k s := rfl
  have hroom := mayGive_room hm
  have hmay := mayGive_may hm
  have hsent : exec (.gets k) s = .next (((s.takeMsg k).sample (m.dst.toNat == homeOf (m.la * 128)) m.la 0).sendTok m.dst.toNat m.src.toNat m.la 1
      own true m.kid) := by
    simp only [execGets, msgOf_sent h, hf, ha, ho, hroom, Option.isSome_none, Bool.not_true, Bool.or_self, Bool.false_eq_true, if_false, ev] at hexec
    cases own with
    | false =>
      simp only [Bool.false_eq_true, if_false] at ht hmay
      rw [hexec, if_pos ht, if_pos hmay]
    | true =>
      simp only [if_true] at ht hmay
      rw [hexec, if_neg (by omega), if_pos hmay]
  have htc : 1 ≤ (s.holds_ m.dst.toNat m.la).tc := by
    cases own
    · exact Nat.le_of_lt ht
    · exact ht.ge
  rw [sample_rest] at hsent
  obtain ⟨x, hmsgs, hty, hdst, hla, hxtc, how, hxd, hheld, hmem⟩ := sendTok_spec
    { s.takeMsg k with
      free := ((s.takeMsg k).sample (m.dst.toNat == homeOf (m.la * 128)) m.la 0).free,
      rings := ((s.takeMsg k).sample (m.dst.toNat == homeOf (m.la * 128)) m.la 0).rings } m.dst.toNat m.src.toNat m.la 1 own true m.kid
  refine ⟨_, hsent, x, hmsgs, hty, by simpa using hdst, hla, hxtc, how, hxd, ?_, hmem⟩
  exact (congrArg (· + 1) hheld).trans (Nat.sub_add_cancel htc)

theorem getx_dropped (h : Sent s k m 2) (ha : (s.actFor m.dst.toNat m.la).isSome = true) : Dropped (.getx k) s k := by
  have hexec : exec (.getx k) s = execGetx k s := rfl
  simp only [execGetx, msgOf_sent h, hf, ha, Bool.false_eq_true, if_false, if_true, ev] at hexec
  exact ⟨_, hexec, sample_rest ..⟩

/-- An agent that may give tokens out sends the requester of a write all that it holds. -/
theorem getx_sends (h : Sent s k m 2) (ha : s.actFor m.dst.toNat m.la = none) (hm : MayGive s m.dst.toNat m.la true) :
    ∃ free rings, exec (.getx k) s = .next (State.sendHeld { s.takeMsg k with free := free, rings := rings } m.dst.toNat m.src.toNat m.la m.kid) := by
  have hexec : exec (.getx k) s = execGetx k s := rfl
  have hroom := mayGive_room hm
  have hmay : ((m.dst.toNat == homeOf (m.la * 128)) && !s.mayOwn m.la) = false := by simpa [Decidable.imp_iff_not_or] using mayGive_may hm
  simp only [execGetx, msgOf_sent h, hf, ha, hroom, hmay, Option.isSome_none, Bool.false_eq_true, if_false, ev] at hexec
  rw [sample_rest] at hexec
  exact ⟨_, _, hexec⟩

theorem getx_idle (h : Sent s k m 2) (ha : s.actFor m.dst.toNat m.la = none) (hm : MayGive s m.dst.toNat m.la true)
    (ht : (s.holds_ m.dst.toNat m.la).tc = 0) : Dropped (.getx k) s k := by
  obtain ⟨free, rings, hexec⟩ := getx_sends hf h ha hm
  exact ⟨_, hexec.trans (congrArg _ (if_pos ht)), rfl⟩

theorem getx_answers (h : Sent s k m 2) (ha : s.actFor m.dst.toNat m.la = none) (hm : MayGive s m.dst.toNat m.la true)
    (ht : (s.holds_ m.dst.toNat m.la).tc ≠ 0) : Happens (.getx k) s (fun t => ∃ x : Msg, t.msgs = dropAt s.msgs k ++ [x] ∧ x.ty = 3 ∧
      x.dst = m.src ∧ x.la = m.la ∧ x.tc = (s.holds_ m.dst.toNat m.la).tc ∧ x.ow = (s.holds_ m.dst.toNat m.la).ow ∧
      x.d = (s.holds_ m.dst.toNat m.la).ow ∧ (t.holds_ m.dst.toNat m.la).tc = 0 ∧ t.mem = s.mem) := by
  obtain ⟨free, rings, hexec⟩ := getx_sends hf h ha hm
  obtain ⟨x, hmsgs, hty, hdst, hla, hxtc, how, hxd, hheld, hmem⟩ := sendTok_spec { s.takeMsg k with free := free, rings := rings } m.dst.toNat m.src.toNat
    m.la (s.holds_ m.dst.toNat m.la).tc (s.holds_ m.dst.toNat m.la).ow (s.holds_ m.dst.toNat m.la).ow m.kid
  refine ⟨_, hexec.trans (congrArg _ (if_neg ht)), x, hmsgs, hty, by simpa using hdst, hla, hxtc, how, hxd, ?_, hmem⟩
  exact hheld.trans (Nat.sub_self _)

end

/-! ## A line that the host may hold (R68) -/

theorem thaw_asks {s : State} {la : Nat} (h : .bisnp la ∉ s.hostOut) : s.thaw 8 la = some { s with hostOut := s.hostOut ++ [.bisnp la] } := by
  have hc : s.hostOut.contains (.bisnp la) = false := by simpa using h
  rw [State.thaw, if_pos ⟨rfl, by rw [hc]; rfl⟩, State.tellHost, hc]
  rfl

/-- H0 asks the host for its copy of a line; the message that it holds back stays. -/
theorem thaws {s : State} {k : Nat} {m : Msg} (hd : m.dst = 8) (hf : s.frozenAt 8 m.la = true) (hb : .bisnp m.la ∉ s.hostOut) :
    let t := { s with hostOut := s.hostOut ++ [.bisnp m.la] }
    (Sent s k m 1 → exec (.gets k) s = .next t) ∧ (Sent s k m 2 → exec (.getx k) s = .next t) ∧ (Sent s k m 5 → exec (.act k) s = .next t) := by
  intro t
  have hdst : m.dst.toNat = 8 := by rw [hd]; rfl
  refine ⟨fun h => ?_, fun h => ?_, fun h => ?_⟩
  · show execGets k s = _
    simp only [execGets, msgOf_sent h, hdst, hf, if_true, thaw_asks hb, ev, t]
  · show execGetx k s = _
    simp only [execGetx, msgOf_sent h, hdst, hf, if_true, thaw_asks hb, ev, t]
  · show execAct k s = _
    simp only [execAct, msgOf_sent h, hdst, hf, if_true, thaw_asks hb, ev, t]

/-! ## Tokens that arrive (R55, R58, R59) -/

theorem four_le_homeOf (pa : Nat) : 4 ≤ homeOf pa := by
  rw [homeOf]
  split <;> omega

theorem closeReqs_none {s : State} (a la : Nat) (h : s.reqs = []) : s.closeReqs a la = s := by
  unfold State.closeReqs
  simp only [h, List.filter_nil, List.foldl_nil]
  rw [← h]

theorem runHops_none {s : State} (la : Nat) (h : s.homeq = []) : s.runHops la = s := by
  unfold State.runHops
  simp only [h, List.filter_nil, List.foldl_nil]
  rw [← h, ite_self]

/-- Where nothing waits, nothing follows the arrival of tokens. -/
theorem afterTok_none {s : State} (a la : Nat) (h : NoneWait s) : s.afterTok a la = s := by
  obtain ⟨hp, hq, hr, -⟩ := h
  have hdrain : s.drain a la s.pend.length = s := by rw [hp]; rfl
  rw [State.afterTok, hdrain, runHops_none la hq, ite_self, ite_self]
  exact closeReqs_none a la hr

theorem recvTok_none {s : State} (a : Nat) (m : Msg) (h : s.acts = []) : s.recvTok a m = (s.addTok a m).afterTok a m.la := by
  have ha : s.actFor a m.la = none := by rw [State.actFor, h]; rfl
  rw [State.recvTok, ha]

/-- A home's write of a line: memory with its keys and marks, and no holding. -/
theorem homeStore_rest (s : State) (kid : BitVec 6) (la : Nat) (d : BitVec 1024) (pz : Bool) :
    ∃ mem lineKid lineOld poison track staged hostDirty, s.homeStore kid la d pz =
      { s with
        mem := mem, lineKid := lineKid, lineOld := lineOld, poison := poison, track := track, staged := staged, hostDirty := hostDirty } := by
  obtain ⟨_, _, _, hw⟩ := homeWrite_rest s la
  rw [State.homeStore, hw]
  exact ⟨_, _, _, _, _, _, _, rfl⟩

theorem plus_tc (x : Line) (m : Msg) : (x.plus m).tc = x.tc + m.tc := by unfold Line.plus; dsimp only; split <;> rfl
theorem plus_ow (x : Line) (m : Msg) : (x.plus m).ow = (x.ow || m.ow) := by unfold Line.plus; dsimp only; split <;> rfl
theorem plus_data {x : Line} {m : Msg} (h : m.d = true) : (x.plus m).data = m.data ∧ (x.plus m).dv = true := by
  unfold Line.plus
  rw [if_pos h]
  exact ⟨rfl, rfl⟩

/-- What a TOK's tokens and data become at the agent that takes them. -/
structure Added (s t : State) (a : Nat) (m : Msg) : Prop where
  msgs : t.msgs = s.msgs
  waits : NoneWait s → NoneWait t
  tc : (t.holds_ a m.la).tc = (s.holds_ a m.la).tc + m.tc
  ow : (t.holds_ a m.la).ow = ((s.holds_ a m.la).ow || m.ow)
  data : m.d = true → a < 4 → (t.l2line a m.la).data = m.data ∧ (t.l2line a m.la).dv = true
  mem : m.ow = false ∨ m.dt = false ∨ a < 4 → t.mem = s.mem

/-- An L2 adds tokens to its line, in whatever way. -/
theorem added_l2 {s : State} {a : Nat} {m : Msg} {y : Line} (ha : a < 4) (htc : y.tc = ((s.l2line a m.la).plus m).tc)
    (how : y.ow = ((s.l2line a m.la).plus m).ow) (hd : y.data = ((s.l2line a m.la).plus m).data) (hdv : y.dv = ((s.l2line a m.la).plus m).dv) :
    Added s (s.setL2 a m.la y) a m := by
  refine ⟨rfl, fun h => h, ?_, ?_, fun hm _ => ?_, fun _ => rfl⟩
  · simp only [State.holds_, ha, if_true, l2line_setL2, htc, plus_tc]
  · simp only [State.holds_, ha, if_true, l2line_setL2, how, plus_ow]
  · rw [l2line_setL2, hd, hdv]
    exact plus_data hm

theorem addTok_added {s : State} {a : Nat} {m : Msg} (hway : a < 4 → (s.l2line a m.la).tc ≠ 0 ∨ (s.freeWay a m.la m.kid).isSome = true) :
    Added s (s.addTok a m) a m := by
  unfold State.addTok
  dsimp only
  by_cases ha : a < 4
  · rw [if_pos ha]
    split
    · exact added_l2 ha rfl rfl rfl rfl
    · next hno =>
      have hsome := (hway ha).resolve_left (by simp at hno; simp [hno.1])
      obtain ⟨w, hw⟩ := Option.isSome_iff_exists.mp hsome
      rw [hw]
      exact added_l2 ha rfl rfl rfl rfl
  · rw [if_neg ha]
    by_cases hh : a = homeOf (m.la * 128)
    · rw [if_pos hh]
      have hheld (t : State) (ht : t.home = (s.setHolding m.la { tc := (s.holding m.la).tc + m.tc, ow := (s.holding m.la).ow || m.ow }).home) :
          t.holds_ a m.la = { tc := (s.holds_ a m.la).tc + m.tc, ow := (s.holds_ a m.la).ow || m.ow } := by
        simp only [State.holds_, ha, ← hh, if_false, if_true, State.holding, ht, State.setHolding, getD_setD_self]
      split
      · next hdirty =>
        obtain ⟨how, hdt⟩ : m.ow = true ∧ m.dt = true := by simpa using hdirty
        obtain ⟨_, _, _, _, _, _, _, hs⟩ :=
          homeStore_rest (s.setHolding m.la { tc := (s.holding m.la).tc + m.tc, ow := (s.holding m.la).ow || m.ow }) m.kid m.la m.data m.pz
        rw [hs]
        exact ⟨rfl, fun h => h, congrArg Holding.tc (hheld _ rfl), congrArg Holding.ow (hheld _ rfl), fun _ h => absurd h ha, by simp [how, hdt, ha]⟩
      · exact ⟨rfl, fun h => h, congrArg Holding.tc (hheld _ rfl), congrArg Holding.ow (hheld _ rfl), fun _ h => absurd h ha, fun _ => rfl⟩
    · rw [if_neg hh]
      refine ⟨rfl, fun h => h, ?_, ?_, fun _ h => absurd h ha, fun _ => rfl⟩
      · simp only [State.holds_, ha, hh, if_false, h0line_setH0, plus_tc]
      · simp only [State.holds_, ha, hh, if_false, h0line_setH0, plus_ow]

/-- A TOK that waits for no sector of the staging buffer is received. -/
theorem tok_received {s : State} {k : Nat} {m : Msg} (h : Sent s k m 3)
    (hs : (decide (m.dst.toNat = homeOf (m.la * 128)) && m.ow && m.dt && s.stageWaits m.la) = false) (hn : NoneWait s) :
    exec (.tok k) s = .next (((s.takeMsg k).addTok m.dst.toNat m).afterTok m.dst.toNat m.la) := by
  obtain ⟨-, -, -, hacts⟩ := hn
  have hexec : exec (.tok k) s = execTok k s := rfl
  simp only [execTok, msgOf_sent h, hs, Bool.false_eq_true, if_false, ev] at hexec
  rw [hexec, recvTok_none _ _ (show (s.takeMsg k).acts = [] from hacts)]

theorem tok_goesOn {s : State} {k : Nat} {m : Msg} (h4 : m.dst.toNat < 4) (h : Sent s k m 3) (hn : NoneWait s)
    (htc : (s.l2line m.dst.toNat m.la).tc = 0) (hs : (s.l2line m.dst.toNat m.la).isSealed = false)
    (hw : s.freeWay m.dst.toNat m.la m.kid = none) :
    exec (.tok k) s = .next { s with msgs := dropAt s.msgs k ++ [{ m with src := m.dst, dst := BitVec.ofNat 4 (homeOf (m.la * 128)) }] } := by
  have hhome : m.dst.toNat ≠ homeOf (m.la * 128) := by
    have := four_le_homeOf (m.la * 128)
    omega
  have hadd : (s.takeMsg k).addTok m.dst.toNat m =
      { s with msgs := dropAt s.msgs k ++ [{ m with src := m.dst, dst := BitVec.ofNat 4 (homeOf (m.la * 128)) }] } := by
    have hcond : (((s.takeMsg k).l2line m.dst.toNat m.la).tc != 0 || ((s.takeMsg k).l2line m.dst.toNat m.la).isSealed) = false := by
      simpa [htc] using ⟨htc, hs⟩
    have hway : (s.takeMsg k).freeWay m.dst.toNat m.la m.kid = none := hw
    unfold State.addTok
    dsimp only
    rw [if_pos h4, hcond, hway, BitVec.ofNat_toNat, BitVec.setWidth_eq]
    rfl
  rw [tok_received h (by simp [hhome]) hn, hadd]
  exact congrArg Host.Outcome.next (afterTok_none _ _ (show NoneWait _ from hn))

theorem tok_adds {s : State} {k : Nat} {m : Msg} (h : Sent s k m 3) (hst : s.stagingFull (dieOf (m.la * 128)) = false) (hn : NoneWait s)
    (hway : m.dst.toNat < 4 → (s.l2line m.dst.toNat m.la).tc ≠ 0 ∨ (s.freeWay m.dst.toNat m.la m.kid).isSome = true) :
    Happens (.tok k) s (fun t => t.msgs = dropAt s.msgs k ∧ (t.holds_ m.dst.toNat m.la).tc = (s.holds_ m.dst.toNat m.la).tc + m.tc ∧
      (t.holds_ m.dst.toNat m.la).ow = ((s.holds_ m.dst.toNat m.la).ow || m.ow) ∧
      (m.d = true → m.dst.toNat < 4 → (t.l2line m.dst.toNat m.la).data = m.data ∧ (t.l2line m.dst.toNat m.la).dv = true) ∧
      (m.ow = false ∨ m.dt = false ∨ m.dst.toNat < 4 → t.mem = s.mem)) := by
  have hadd := addTok_added (s := s.takeMsg k) (a := m.dst.toNat) (m := m) hway
  refine ⟨_, tok_received h (by simp [State.stageWaits, hst]) hn, ?_⟩
  rw [afterTok_none _ _ (hadd.waits hn)]
  exact ⟨hadd.msgs, hadd.tc, hadd.ow, hadd.data, hadd.mem⟩

/-- Settles O37, by what a TOK that leaves takes away and what one that arrives adds. -/
theorem tokensMove : Obligations.TokensMove := by
  unfold Obligations.TokensMove
  refine ⟨fun s k m h hf ha => ⟨fun ho => gets_dropped hf h (.inr ho), fun ho ht hm => gets_answers hf h ha ho ht hm,
      fun ho ht hm => gets_answers hf h ha ho ht hm⟩,
    fun s k m h hf ha hm => ⟨getx_idle hf h ha hm, getx_answers hf h ha hm⟩, fun s k m h hf ha => gets_dropped hf h (.inl ha),
    fun s k m h hf ha => getx_dropped hf h ha, fun s k m hd hf hb => thaws hd hf hb,
    fun s k m h4 h hn htc hs hw => tok_goesOn h4 h hn htc hs hw, fun s k m h hst hn hway => tok_adds h hst hn hway⟩

end Sys2Proof.Proofs
end

section
namespace Sys2Proof.Proofs
open Sys2Proof.Machine Sys2Proof.Says Sys2Proof.Laws

/-! ## Tokens that leave (R55, R64) -/

/-- Holdings and messages alone may differ. -/
def HoldingsMove (s t : State) : Prop := ∃ l2 home h0 msgs, t = { s with l2 := l2, home := home, h0 := h0, msgs := msgs }

theorem sendTok_holdings (s : State) (a b la n : Nat) (ow data : Bool) (kid : BitVec 6) : HoldingsMove s (s.sendTok a b la n ow data kid) := by
  unfold State.sendTok State.giveUp
  dsimp only
  split
  · exact ⟨_, _, _, _, rfl⟩
  · split <;> exact ⟨_, _, _, _, rfl⟩

theorem yieldTokens_holdings (s : State) (a la rq : Nat) (kd : Bool) (kid : BitVec 6) : HoldingsMove s (s.yieldTokens a la rq kd kid) := by
  have keep : HoldingsMove s s := ⟨_, _, _, _, rfl⟩
  unfold State.yieldTokens
  dsimp only
  split
  · exact keep
  · split
    · exact sendTok_holdings ..
    · split
      · exact sendTok_holdings ..
      · split
        · exact keep
        · exact sendTok_holdings ..

theorem homeYield_holdings (s : State) (home la : Nat) (kid : BitVec 6) : HoldingsMove s (s.homeYield home la kid) := by
  have keep : HoldingsMove s s := ⟨_, _, _, _, rfl⟩
  unfold State.homeYield
  split
  · exact keep
  · split
    · exact keep
    · split
      · exact yieldTokens_holdings ..
      · split
        · exact sendTok_holdings ..
        · exact keep

/-! ## Persistent entries (R62, R63) -/

/-- What a change of an entry's state leaves: its place and its request. -/
def RequestKept (f : PEntry → PEntry) : Prop :=
  ∀ e, (f e).home = e.home ∧ (f e).idx = e.idx ∧ (f e).rq = e.rq ∧ (f e).la = e.la ∧ (f e).kd = e.kd ∧ (f e).rid = e.rid ∧ (f e).hm = e.hm

theorem RequestKept.comp {f g : PEntry → PEntry} (hf : RequestKept f) (hg : RequestKept g) : RequestKept (f ∘ g) := fun e => by
  obtain ⟨h1, h2, h3, h4, h5, h6, h7⟩ := hf (g e)
  obtain ⟨k1, k2, k3, k4, k5, k6, k7⟩ := hg e
  exact ⟨h1.trans k1, h2.trans k2, h3.trans k3, h4.trans k4, h5.trans k5, h6.trans k6, h7.trans k7⟩

theorem RequestKept.ite {c : PEntry → Bool} {f : PEntry → PEntry} (hf : RequestKept f) : RequestKept (fun e => if c e then f e else e) := fun e => by
  dsimp only
  split
  · exact hf e
  · exact ⟨rfl, rfl, rfl, rfl, rfl, rfl, rfl⟩

/-- Activating a line's next request changes entries of the table in their state alone. -/
theorem activateNext_ptab (s : State) (home la : Nat) : ∃ f, (s.activateNext home la).ptab = s.ptab.map f ∧ RequestKept f := by
  unfold State.activateNext
  split
  · exact ⟨id, (List.map_id _).symm, fun _ => ⟨rfl, rfl, rfl, rfl, rfl, rfl, rfl⟩⟩
  · next e _ =>
    have hld : RequestKept (fun x : PEntry => if x.home == home && x.la == la then { x with ld := PEntry.code e } else x) :=
      .ite (f := fun x => { x with ld := PEntry.code e }) fun _ => ⟨rfl, rfl, rfl, rfl, rfl, rfl, rfl⟩
    have hst : RequestKept (fun x : PEntry => if x.home == home && x.idx == e.idx then { x with st := .activating, ak := [] } else x) :=
      .ite (f := fun x => { x with st := .activating, ak := [] }) fun _ => ⟨rfl, rfl, rfl, rfl, rfl, rfl, rfl⟩
    dsimp only
    generalize hu : State.mk .. = u
    obtain ⟨_, _, _, _, hy⟩ := homeYield_holdings u home la e.kid
    rw [hy, ← hu]
    exact ⟨_, List.map_map .., hst.comp hld⟩

/-- A request that takes an entry is found there. -/
theorem addEntry_enters (s : State) (home idx rq la : Nat) (kd hm : Bool) (rid : Nat) (kid : BitVec 6) :
    Entered (s.addEntry home idx rq la kd hm rid kid) home idx (fun e => e.rq = rq ∧ e.la = la ∧ e.kd = kd ∧ e.rid = rid ∧ e.hm = hm) := by
  unfold State.addEntry
  dsimp only
  generalize hu : State.mk .. = u
  obtain ⟨f, hf, hkept⟩ := activateNext_ptab u home la
  obtain ⟨h1, h2, h3, h4, h5, h6, h7⟩ := hkept {
    home := home, idx := idx, st := .waiting, kd := kd, rq := rq, ld := _, ak := [], seq := getD 0 s.pseq home, hm := hm, la := la, rid := rid,
    kid := kid, done := false }
  refine ⟨_, ?_, h1, h2, h3, h4, h5, h6, h7⟩
  rw [hf, ← hu]
  exact List.mem_map_of_mem (List.mem_append_right _ (List.mem_singleton_self _))

/-- A change of one entry's state keeps what holds of every entry at a place, if it keeps it there. -/
theorem every_setEntry {s : State} {home idx h i : Nat} {f : PEntry → PEntry} {p : PEntry → Prop} (hf : RequestKept f) (hp : ∀ e, p e → p (f e))
    (he : Every s h i p) : Every (s.setEntry home idx f) h i p := by
  intro e hmem hhome hidx
  obtain ⟨x, hx, rfl⟩ := List.mem_map.mp hmem
  obtain ⟨h1, h2, -⟩ := hf x
  split at hhome <;> rename_i hc
  · rw [if_pos hc] at hidx ⊢
    exact hp x (he x hx (h1.symm.trans hhome) (h2.symm.trans hidx))
  · rw [if_neg hc] at hidx ⊢
    exact he x hx hhome hidx

/-- What a change of state brings holds of every entry at its place. -/
theorem every_setEntry_self {s : State} {home idx : Nat} {f : PEntry → PEntry} {p : PEntry → Prop} (hp : ∀ e, p (f e)) :
    Every (s.setEntry home idx f) home idx p := by
  intro e hmem hhome hidx
  obtain ⟨x, hx, rfl⟩ := List.mem_map.mp hmem
  split at hhome <;> rename_i hc
  · rw [if_pos hc]
    exact hp x
  · rw [if_neg hc] at hidx
    have hother : x.home = home → ¬x.idx = idx := by simpa using hc
    exact absurd hidx (hother hhome)

/-- A DEACT changes entries to deactivating and takes back the home's own part in an activation. -/
theorem maybeDeact_cases (s : State) (home idx : Nat) : s.maybeDeact home idx = s ∨ ∃ l, s.maybeDeact home idx =
    (State.setEntry { s with acts := s.acts.filter (fun x => !(x.agent == home && x.home == home && x.idx == idx)) } home idx
      (fun x => { x with st := .deactivating, ak := [] })).sendAll l := by
  unfold State.maybeDeact
  split
  · dsimp only
    split
    · exact .inr ⟨_, rfl⟩
    · exact .inl rfl
  · exact .inl rfl

theorem every_maybeDeact {s : State} {home idx h i : Nat} {p : PEntry → Prop} (hp : ∀ e, p e → p { e with st := .deactivating, ak := [] })
    (he : Every s h i p) : Every (s.maybeDeact home idx) h i p := by
  rcases maybeDeact_cases s home idx with hm | ⟨l, hm⟩ <;> rw [hm]
  · exact he
  · exact every_setEntry (fun _ => ⟨rfl, rfl, rfl, rfl, rfl, rfl, rfl⟩) hp (s := { s with acts := _ }) he

/-- An agent's record of another agent's activation outlives a DEACT. -/
theorem mem_acts_maybeDeact {s : State} {home idx : Nat} {x : Activation} (hne : x.agent ≠ x.home) (hx : x ∈ s.acts) :
    x ∈ (s.maybeDeact home idx).acts := by
  rcases maybeDeact_cases s home idx with hm | ⟨l, hm⟩ <;> rw [hm]
  · exact hx
  · refine List.mem_filter.mpr ⟨hx, ?_⟩
    have : ¬(x.agent = home ∧ x.home = home) := fun h => hne (h.1.trans h.2.symm)
    simp only [Bool.not_eq_true', Bool.and_eq_false_iff, beq_eq_false_iff_ne]
    tauto

/-- What the parts of closing requests keep, closing them keeps. -/
theorem closeReqs_induct {P : State → Prop} (hreqs : ∀ t reqs, P t → P { t with reqs := reqs })
    (hdone : ∀ t home idx, P t → P (t.setEntry home idx (fun x => { x with done := true }))) (hdeact : ∀ t home idx, P t → P (t.maybeDeact home idx))
    (hsend : ∀ t m, P t → P (t.send m)) {s : State} (a la : Nat) (hs : P s) : P (s.closeReqs a la) := by
  unfold State.closeReqs
  dsimp only
  refine List.foldlRecOn (motive := P) _ _ (hreqs _ _ hs) fun t ht r _ => ?_
  split
  · split
    · split
      · split
        · exact hdeact _ _ _ (hreqs _ _ (hdone _ _ _ ht))
        · exact ht
      · split
        · exact hsend _ _ (hreqs _ _ ht)
        · exact ht
    · exact ht
  · exact ht

/-- An entry with an acknowledgement counted. -/
def acked (m : Msg) (e : PEntry) : PEntry := { e with ak := m.src.toNat :: e.ak }

/-! ## Persistent requests (R62 to R64) -/

section

variable {s : State} {k : Nat} {m : Msg}

theorem preq_enters {i : Nat} (h : Sent s k m 4)
    (hi : (if m.src.toNat < 4 then s.freeEntry m.dst.toNat 0 48 else s.freeEntry m.dst.toNat 48 16) = some i) :
    Happens (.preq k) s (fun t => Entered t m.dst.toNat i (fun e => e.rq = m.src.toNat ∧ e.la = m.la ∧ e.kd = m.pk ∧ e.rid = m.rid) ∧ t.mem = s.mem) := by
  have hexec : exec (.preq k) s = execPreq k s := rfl
  simp only [execPreq, msgOf_sent h, hi, ev] at hexec
  rw [sample_rest] at hexec
  obtain ⟨e, he, hh, hx, hrq, hla, hkd, hrid, -⟩ := addEntry_enters { s.takeMsg k with
    free := ((s.takeMsg k).sample true m.la (if m.pk then 1 else 0)).free, rings := ((s.takeMsg k).sample true m.la (if m.pk then 1 else 0)).rings }
    m.dst.toNat i m.src.toNat m.la m.pk false m.rid m.kid
  exact ⟨_, hexec, ⟨e, he, hh, hx, hrq, hla, hkd, hrid⟩, (addEntry_moves ..).congr State.mem fun _ _ _ _ _ _ _ => rfl⟩

theorem act_records (h : Sent s k m 5) (hne : m.src ≠ m.dst) (hf : s.frozenAt m.dst.toNat m.la = false) : Happens (.act k) s (fun t =>
    { agent := m.dst.toNat, home := m.src.toNat, idx := m.pe, la := m.la, kd := m.pk, rq := m.rid } ∈ t.acts ∧
    { mkMsg 6 m.dst.toNat m.src.toNat m.la with pe := m.pe } ∈ t.msgs ∧ t.mem = s.mem) := by
  have hexec : exec (.act k) s = execAct k s := rfl
  simp only [execAct, msgOf_sent h, hf, Bool.false_eq_true, if_false, ev] at hexec
  generalize hx : ({ agent := m.dst.toNat, home := m.src.toNat, idx := m.pe, la := m.la, kd := m.pk, rq := m.rid } : Activation) = x at hexec ⊢
  obtain ⟨_, _, _, _, hy⟩ := yieldTokens_holdings { s.takeMsg k with acts := s.acts ++ [x] } m.dst.toNat m.la m.rid m.pk 0
  rw [hy] at hexec
  have hagent : x.agent ≠ x.home := by
    rw [← hx]
    exact fun he => hne (BitVec.eq_of_toNat_eq he.symm)
  refine ⟨_, hexec, ?_, ?_, (closeReqs_ends ..).mem⟩
  · exact closeReqs_induct (P := fun t => x ∈ t.acts) (fun _ _ h => h) (fun _ _ _ h => h) (fun _ _ _ => mem_acts_maybeDeact hagent) (fun _ _ h => h) _ _
      (List.mem_append_right _ (List.mem_singleton_self _))
  · obtain ⟨_, _, _, _, l, hc⟩ := closeReqs_ends (State.send _ { mkMsg 6 m.dst.toNat m.src.toNat m.la with pe := m.pe }) m.dst.toNat m.la
    rw [hc]
    exact List.mem_append_left _ (List.mem_append_right _ (List.mem_singleton_self _))

/-- A change that leaves an entry's place and request. -/
theorem requestKept_of_state (st : PEntry → PState) (ak : PEntry → List Nat) (done : PEntry → Bool) :
    RequestKept (fun e => { e with st := st e, ak := ak e, done := done e }) := fun _ => ⟨rfl, rfl, rfl, rfl, rfl, rfl, rfl⟩

theorem actack_counts (h : Sent s k m 6) : Happens (.actack k) s (fun t => t.mem = s.mem ∧
    Every t m.dst.toNat m.pe (fun e => m.src.toNat ∈ e.ak ∨ e.st = .deactivating)) := by
  have hexec : exec (.actack k) s = execActack k s := rfl
  simp only [execActack, msgOf_sent h, ev] at hexec
  refine ⟨_, hexec, ?_, ?_⟩
  · rw [(maybeDeact_ends ..).mem, (closeReqs_ends ..).mem]
    rfl
  · refine every_maybeDeact (fun _ _ => .inr rfl) ?_
    refine closeReqs_induct (P := fun t => Every t m.dst.toNat m.pe (fun e => m.src.toNat ∈ e.ak ∨ e.st = .deactivating)) (fun _ _ h => h)
      (fun _ _ _ => every_setEntry (requestKept_of_state (fun e => e.st) (fun e => e.ak) fun _ => true) fun _ h => h)
      (fun _ _ _ => every_maybeDeact fun _ _ => .inr rfl) (fun _ _ h => h) _ _ ?_
    have hcounted : Every ((s.takeMsg k).setEntry m.dst.toNat m.pe (acked m)) m.dst.toNat m.pe (fun e => m.src.toNat ∈ e.ak) :=
      every_setEntry_self fun e => List.mem_cons_self
    have hactive := every_setEntry (home := m.dst.toNat) (idx := m.pe)
      (.ite (c := fun e => e.st == .activating && PEntry.allAcked e) (requestKept_of_state (fun _ => .active) (fun e => e.ak) fun e => e.done))
      (fun e he => by split <;> exact he) hcounted
    exact fun e he hh hi => .inl (hactive e he hh hi)

theorem done_held (h : Sent s k m 7) : Happens (.done k) s (fun t => t.mem = s.mem ∧ Every t m.dst.toNat m.pe (fun e => e.done = true)) := by
  have hexec : exec (.done k) s = execDone k s := rfl
  simp only [execDone, msgOf_sent h, ev] at hexec
  exact ⟨_, hexec, (maybeDeact_ends ..).mem, every_maybeDeact (fun _ h => h) (every_setEntry_self fun _ => rfl)⟩

theorem deact_ends (h : Sent s k m 8) : Happens (.deact k) s (fun t => t.mem = s.mem ∧
    (∀ x : Activation, x ∈ t.acts ↔ x ∈ s.acts ∧ ¬(x.agent = m.dst.toNat ∧ x.home = m.src.toNat ∧ x.idx = m.pe)) ∧
    t.msgs = dropAt s.msgs k ++ [{ mkMsg 9 m.dst.toNat m.src.toNat m.la with pe := m.pe }] ∧
    ∀ (r : Nat) (q : Req), s.reqs[r]? = some q → t.reqs[r]? = some (if q.agent = m.dst.toNat ∧ q.la = m.la ∧ q.esc = false then { q with attempt := 0 } else q)) := by
  have hexec : exec (.deact k) s = execDeact k s := rfl
  simp only [execDeact, msgOf_sent h, ev] at hexec
  refine ⟨_, hexec, rfl, fun x => ?_, rfl, fun r q hq => ?_⟩
  · show x ∈ List.filter _ _ ↔ _
    simp [imp_iff_not_or, or_assoc]
  · show (List.map _ _)[r]? = _
    rw [List.getElem?_map, hq]
    simp [and_assoc]

theorem deactack_mem (h : Sent s k m 9) : Happens (.deactack k) s (fun t => t.mem = s.mem) := by
  have hexec : exec (.deactack k) s = execDeactack k s := rfl
  simp only [execDeactack, msgOf_sent h] at hexec
  split at hexec
  · split at hexec
    · exact ⟨_, hexec, (activateNext_moves ..).congr State.mem fun _ _ _ _ _ _ _ => rfl⟩
    · exact ⟨_, hexec, rfl⟩
  · exact ⟨_, hexec, rfl⟩

/-- The entry at a place, after a change of that entry. -/
theorem find_setEntry {s : State} {home idx : Nat} {f : PEntry → PEntry} (hf : RequestKept f) :
    (s.setEntry home idx f).ptab.find? (fun e => e.home == home && e.idx == idx) =
      (s.ptab.find? (fun e => e.home == home && e.idx == idx)).map f := by
  have hsame : (fun e : PEntry => e.home == home && e.idx == idx) ∘ (fun e => if e.home == home && e.idx == idx then f e else e) =
      fun e => e.home == home && e.idx == idx := funext fun e => by
    obtain ⟨h1, h2, -⟩ := hf e
    show ((ite _ _ _ : PEntry).home == home && (ite _ _ _ : PEntry).idx == idx) = _
    split
    · rw [h1, h2]
    · rfl
  show (List.map _ _).find? _ = _
  rw [List.find?_map, hsame]
  cases hfound : s.ptab.find? (fun e => e.home == home && e.idx == idx) with
  | none => rfl
  | some e => exact congrArg some (if_pos (List.find?_some hfound))

theorem allAcked_of {e : PEntry} (h : ∀ b, b ∈ agentsOf e.la → b ≠ e.home → b ∈ e.ak) : e.allAcked = true := by
  refine List.all_eq_true.mpr fun b hb => ?_
  obtain ⟨hmem, hne⟩ := List.mem_filter.mp hb
  exact List.contains_iff_mem.mpr (h b hmem (by simpa using hne))

/-- No entry comes back to a place by the activation of a line's next request. -/
theorem activateNext_freed {s : State} {home idx h la : Nat} (hfree : ∀ e, e ∈ s.ptab → ¬(e.home = home ∧ e.idx = idx)) :
    ¬Entered (s.activateNext h la) home idx (fun _ => True) := by
  rintro ⟨e, he, hh, hi, -⟩
  obtain ⟨f, hf, hkept⟩ := activateNext_ptab s h la
  rw [hf] at he
  obtain ⟨x, hx, rfl⟩ := List.mem_map.mp he
  obtain ⟨h1, h2, -⟩ := hkept x
  exact hfree x hx ⟨h1.symm.trans hh, h2.symm.trans hi⟩

theorem deactack_frees {e : PEntry} (h : Sent s k m 9) (hfind : s.ptab.find? (fun x => x.home == m.dst.toNat && x.idx == m.pe) = some e)
    (hst : e.st = .deactivating) (hall : ∀ b, b ∈ agentsOf e.la → b ≠ e.home → b = m.src.toNat ∨ b ∈ e.ak) :
    Happens (.deactack k) s (fun t => ¬Entered t m.dst.toNat m.pe (fun _ => True)) := by
  have hexec : exec (.deactack k) s = execDeactack k s := rfl
  have hlast : (e.st == .deactivating && PEntry.allAcked { e with ak := m.src.toNat :: e.ak }) = true := by
    rw [allAcked_of (e := { e with ak := m.src.toNat :: e.ak }) fun b hb hne => List.mem_cons.mpr (hall b hb hne), hst]
    rfl
  have hfound := (find_setEntry (s := s.takeMsg k) (home := m.dst.toNat) (idx := m.pe) (f := fun e => { e with ak := m.src.toNat :: e.ak })
    fun _ => ⟨rfl, rfl, rfl, rfl, rfl, rfl, rfl⟩).trans (congrArg _ hfind)
  simp only [execDeactack, msgOf_sent h, hfound, Option.map_some, hlast, if_true, ev] at hexec
  refine ⟨_, hexec, activateNext_freed fun x hx => ?_⟩
  have hother := (List.mem_filter.mp hx).2
  simpa [-not_and, not_and_or] using hother

end

/-! ## Reissues and escalations (R60, R62) -/

section

variable {s : State} {r : Nat} {q : Req}

theorem getElem_setAt {α : Type} {l : List α} {i : Nat} {x y : α} (h : l[i]? = some x) : (setAt l i y)[i]? = some y := by
  obtain ⟨hlt, -⟩ := List.getElem?_eq_some_iff.mp h
  exact List.getElem?_set_self hlt

/-- A later attempt goes to every other agent of the line. -/
theorem attempt_later (s : State) (h : q.attempt ≠ 0) : s.attempt q =
    s.sendAll (((agentsOf q.la).filter (fun b => b != q.agent)).map (fun b =>
      { mkMsg (if q.write then 2 else 1) q.agent b q.la with at_ := BitVec.ofNat 2 q.attempt, rid := q.rid, kid := q.kid })) := by
  have hlater : ¬(q.agent = homeOf (q.la * 128) ∧ q.attempt = 0) := fun hc => h hc.2
  unfold State.attempt State.attemptMsgs State.addressed
  simp only [if_neg hlater]

theorem transientReissue_sends (hq : s.reqs[r]? = some q) (he : q.esc = false) (ha : s.actFor q.agent q.la = none)
    (hmay : q.attempt < 3 ∨ q.heldEsc = true) : Happens (.transientReissue r) s (fun t => ∃ q2 : Req, t.reqs[r]? = some q2 ∧
      q2 = { q with attempt := if q.attempt < 3 then q.attempt + 1 else 3 } ∧
      t.msgs = s.msgs ++ ((agentsOf q.la).filter (fun b => b != q.agent)).map (fun b =>
        { mkMsg (if q.write then 2 else 1) q.agent b q.la with at_ := BitVec.ofNat 2 q2.attempt, rid := q.rid, kid := q.kid })) := by
  have hexec : exec (.transientReissue r) s = execTransientReissue r s := rfl
  have hgoes : (q.esc || (s.actFor q.agent q.la).isSome || (decide (3 ≤ q.attempt) && !q.heldEsc)) = false := by
    rcases hmay with h | h
    · simp [he, ha, h]
    · simp [he, ha, h]
  have hpos : (if q.attempt < 3 then q.attempt + 1 else 3) ≠ 0 := by split <;> omega
  simp only [execTransientReissue, hq, hgoes, Bool.false_eq_true, if_false, ev] at hexec
  rw [attempt_later _ hpos] at hexec
  exact ⟨_, hexec, _, getElem_setAt hq, rfl, rfl⟩

/-- A die's request becomes persistent with a PREQ. -/
theorem escalate_die (s : State) (r : Nat) (hd : q.agent < 4) : s.escalate r q =
    some (({ s with reqs := setAt s.reqs r { q with esc := true, heldEsc := false } }).send
      { mkMsg 4 q.agent (homeOf (q.la * 128)) q.la with pk := q.write, rid := q.rid, kid := q.kid }) := by
  have hne : q.agent ≠ homeOf (q.la * 128) := fun h => by
    have := four_le_homeOf (q.la * 128)
    omega
  rw [State.escalate]
  exact if_neg hne

theorem escalation_due (he : q.esc = false) (hh : q.heldEsc = false) (h3 : q.attempt = 3) (ha : s.actFor q.agent q.la = none) :
    (q.esc || q.heldEsc || q.attempt != 3 || (s.actFor q.agent q.la).isSome) = false := by
  simp [he, hh, h3, ha]

theorem transientEscalation_die (hq : s.reqs[r]? = some q) (he : q.esc = false) (hh : q.heldEsc = false) (h3 : q.attempt = 3)
    (ha : s.actFor q.agent q.la = none) (hd : q.agent < 4) :
    if 12 ≤ s.escalated q.agent (homeOf (q.la * 128)) then
      exec (.transientEscalation r) s = .next { s with reqs := dropAt s.reqs r ++ [{ q with heldEsc := true }] }
    else Happens (.transientEscalation r) s (fun t => t.reqs[r]? = some { q with esc := true } ∧
      t.msgs = s.msgs ++ [{ mkMsg 4 q.agent (homeOf (q.la * 128)) q.la with pk := q.write, rid := q.rid, kid := q.kid }]) := by
  have hexec : exec (.transientEscalation r) s = execTransientEscalation r s := rfl
  simp only [execTransientEscalation, hq, escalation_due he hh h3 ha, hd, Bool.false_eq_true, if_false, decide_true, Bool.true_and,
    decide_eq_true_eq, escalate_die s r hd] at hexec
  split at hexec <;> rename_i h12
  · rw [if_pos h12]
    exact hexec
  · rw [if_neg h12]
    refine ⟨_, hexec, ?_, rfl⟩
    rw [← hh]
    exact getElem_setAt hq

theorem transientEscalation_home {i : Nat} (hq : s.reqs[r]? = some q) (he : q.esc = false) (hh : q.heldEsc = false) (h3 : q.attempt = 3)
    (ha : s.actFor q.agent q.la = none) (hhome : q.agent = homeOf (q.la * 128)) (hi : s.freeEntry q.agent 48 16 = some i) :
    Happens (.transientEscalation r) s (fun t => t.reqs[r]? = some { q with esc := true } ∧ t.mem = s.mem ∧
      Entered t q.agent i (fun e => e.rq = q.agent ∧ e.la = q.la ∧ e.kd = q.write ∧ e.rid = q.rid ∧ e.hm = true)) := by
  have hexec : exec (.transientEscalation r) s = execTransientEscalation r s := rfl
  have hhigh : ¬q.agent < 4 := by
    have := four_le_homeOf (q.la * 128)
    omega
  have hesc : s.escalate r q = some (({ s with reqs := setAt s.reqs r { q with esc := true, heldEsc := false } }).addEntry q.agent i q.agent q.la
      q.write true q.rid q.kid) := by
    rw [State.escalate]
    simp only [← hhome, hi, if_true]
  simp only [execTransientEscalation, hq, escalation_due he hh h3 ha, hhigh, hesc, Bool.false_eq_true, if_false, decide_false, Bool.false_and,
    ev] at hexec
  obtain ⟨e, hmem, hx, hidx, hrq, hla, hkd, hrid, hhm⟩ := addEntry_enters
    { s with reqs := setAt s.reqs r { q with esc := true, heldEsc := false } } q.agent i q.agent q.la q.write true q.rid q.kid
  refine ⟨_, hexec, ?_, (addEntry_moves ..).congr State.mem fun _ _ _ _ _ _ _ => rfl, e, hmem, hx, hidx, hrq, hla, hkd, hrid, hhm⟩
  rw [(addEntry_moves ..).congr State.reqs fun _ _ _ _ _ _ _ => rfl]
  rw [← hh]
  exact getElem_setAt hq

/-- The first element of a list with a property, and its place. -/
theorem find_zip_range {α : Type} {l : List α} {i : Nat} {x : α} {p : α → Bool} (hx : l[i]? = some x) (hp : p x = true)
    (hfirst : ∀ j y, j < i → l[j]? = some y → p y = false) : ((List.range l.length).zip l).find? (fun e => p e.2) = some (i, x) := by
  obtain ⟨hlt, hget⟩ := List.getElem?_eq_some_iff.mp hx
  have hlen : i < ((List.range l.length).zip l).length := by simpa using hlt
  refine List.find?_eq_some_iff_getElem.mpr ⟨hp, i, hlen, ?_, fun j hj => ?_⟩
  · simp [hget]
  · have hjl : j < l.length := by omega
    simpa using hfirst j l[j] hj (List.getElem?_eq_getElem hjl)

theorem heldEscalationSend_sends {die home : Nat} (h12 : s.escalated die home < 12) (hd : die < 4) (hq : s.reqs[r]? = some q)
    (hag : q.agent = die) (hh : q.heldEsc = true) (hhome : homeOf (q.la * 128) = home)
    (hfirst : ∀ i (x : Req), i < r → s.reqs[i]? = some x → ¬(x.agent = die ∧ x.heldEsc = true ∧ homeOf (x.la * 128) = home)) :
    Happens (.heldEscalationSend die home) s (fun t => t.reqs[r]? = some { q with esc := true, heldEsc := false } ∧
      t.msgs = s.msgs ++ [{ mkMsg 4 die home q.la with pk := q.write, rid := q.rid, kid := q.kid }]) := by
  subst hag hhome
  have hexec : exec (.heldEscalationSend q.agent (homeOf (q.la * 128))) s = execHeldEscalationSend q.agent (homeOf (q.la * 128)) s := rfl
  have hfound := find_zip_range (p := fun x : Req => x.agent == q.agent && x.heldEsc && homeOf (x.la * 128) == homeOf (q.la * 128)) hq
    (by simp [hh]) (fun i x hi hx => by
      rw [Bool.eq_false_iff]
      simpa [and_assoc] using hfirst i x hi hx)
  simp only [execHeldEscalationSend, if_neg (Nat.not_le.mpr h12), hfound, escalate_die s r hd, ev] at hexec
  exact ⟨_, hexec, getElem_setAt hq, rfl⟩

end

/-! ## Evictions (R58) -/

theorem minus_all (x : Line) (ow : Bool) : x.minus x.tc ow = Line.none := by
  rw [Line.minus, if_pos (Nat.le_refl _)]

theorem lineEviction_sealed {s : State} {die la : Nat} (hp : ∀ b, b ∈ s.pend → b.die = die → b.pa / 128 ≠ la) (hwb : (s.l2line die la).wb = false)
    (hs : (s.l2line die la).isSealed = true) : Happens (.lineEviction die la) s (fun t => t.l2line die la = Line.none ∧ t.msgs = s.msgs) := by
  have hexec : exec (.lineEviction die la) s = execLineEviction die la s := rfl
  have hnone : s.pend.any (fun b => b.die == die && b.pa / 128 == la) = false := List.any_eq_false.mpr fun b hb => by simpa using hp b hb
  simp only [execLineEviction, hnone, hwb, hs, Bool.or_self, Bool.false_eq_true, if_false, if_true, ev] at hexec
  exact ⟨_, hexec, l2line_setL2 .., setL2_msgs ..⟩

theorem lineEviction_sends {s : State} {die la : Nat} (hp : ∀ b, b ∈ s.pend → b.die = die → b.pa / 128 ≠ la) (hwb : (s.l2line die la).wb = false)
    (hs : (s.l2line die la).isSealed = false) (hd : die < 4) (htc : (s.l2line die la).tc ≠ 0) :
    Happens (.lineEviction die la) s (fun t => t.l2line die la = Line.none ∧ t.mem = s.mem ∧
      ∃ m : Msg, t.msgs = s.msgs ++ [m] ∧ m.ty = 3 ∧ m.dst = BitVec.ofNat 4 (homeOf (la * 128)) ∧ m.la = la ∧ m.tc = (s.l2line die la).tc ∧
        m.ow = (s.l2line die la).ow ∧ m.d = (s.l2line die la).ow ∧
        ((s.l2line die la).ow = true → m.data = (s.l2line die la).data ∧ m.dt = (s.l2line die la).dt)) := by
  have hexec : exec (.lineEviction die la) s = execLineEviction die la s := rfl
  have hnone : s.pend.any (fun b => b.die == die && b.pa / 128 == la) = false := List.any_eq_false.mpr fun b hb => by simpa using hp b hb
  have hsend : s.sendHeld die (homeOf (la * 128)) la (s.l2line die la).kid =
      s.sendTok die (homeOf (la * 128)) la (s.l2line die la).tc (s.l2line die la).ow (s.l2line die la).ow (s.l2line die la).kid := by
    unfold State.sendHeld State.holds_
    simp only [if_pos hd, if_neg htc]
  simp only [execLineEviction, hnone, hwb, hs, hd, bne_iff_ne.mpr htc, hsend, Bool.or_self, Bool.false_eq_true, if_false, decide_true,
    Bool.and_self, if_true, ev] at hexec
  refine ⟨_, hexec, ?_, (giveUp_keeps ..).1, _, congrArg (· ++ _) (giveUp_keeps ..).2.2, ?_⟩
  · show (s.giveUp die la (s.l2line die la).tc (s.l2line die la).ow).l2line die la = _
    rw [State.giveUp, if_pos hd, l2line_setL2, minus_all]
  · unfold State.dataOf
    simp only [if_pos hd]
    cases (s.l2line die la).ow <;> simp [mkMsg]

/-- Settles O38: each persistent request message does one thing to the table, the agents' records or the requests; the rest sends messages. -/
theorem requests : Obligations.Requests := by
  unfold Obligations.Requests
  exact ⟨⟨fun s k m i h hi => preq_enters h hi, fun s k m h hne hf => act_records h hne hf, fun s k m h => actack_counts h,
    fun s k m h => done_held h, fun s k m h => deact_ends h, fun s k m h => deactack_mem h,
    fun s k m e h hf hst hall => deactack_frees h hf hst hall⟩,
    fun s r q hq he ha hmay => transientReissue_sends hq he ha hmay, fun s r q hq he hh h3 ha hd => transientEscalation_die hq he hh h3 ha hd,
    fun s r q i hq he hh h3 ha hhome hi => transientEscalation_home hq he hh h3 ha hhome hi,
    fun s die home r q h12 hd hq hag hh hhome hfirst => heldEscalationSend_sends h12 hd hq hag hh hhome hfirst,
    fun s die la hp hwb => ⟨fun hs => lineEviction_sealed hp hwb hs, fun hs hd htc => lineEviction_sends hp hwb hs hd htc⟩⟩

end Sys2Proof.Proofs
end

section
namespace Sys2Proof.Proofs
open Sys2Proof.Machine Sys2Proof.Says Sys2Proof.Laws

/-! ## Lines of bytes (R5, R78) -/

/-- The line whose byte `j` is `f j`. -/
theorem byteOf_line (f : Nat → Byte) {j : Nat} (hj : j < 128) : byteOf (BitVec.ofNat 1024 (ofBytes ((List.range 128).map f))) j = f j := by
  refine BitVec.eq_of_getLsbD_eq fun b hb => ?_
  have h1 : (8 * j + b) / 8 = j := by omega
  have h2 : (8 * j + b) % 8 = b := by omega
  have h3 : 8 * j + b < 1024 := by omega
  rw [byteOf, BitVec.getLsbD_extractLsb', BitVec.getLsbD_ofNat, testBit_ofBytes, h1, h2]
  simp [hb, h3, hj]

theorem getLsbD_belowMask (la lim : Nat) {j : Nat} (hj : j < 128) : (belowMask la lim).getLsbD j = decide (la * 128 + j < lim) := by
  rw [belowMask, BitVec.getLsbD_ofNat, Nat.testBit_two_pow_sub_one, decide_eq_true hj, Bool.true_and]
  refine decide_eq_decide.mpr ?_
  split <;> omega

/-! ## Reads of append-seal lines (R78, R81, R87) -/

section

variable {s : State} {k : Nat} {m : Msg}

/-- A home operation for a page that has a record is done with it. -/
theorem asHop_asked {op i : Nat} {r : PageRec} (f : Msg → Nat → PageRec → State) (h : AsksPage s k op m i r) : s.asHop k op f = some (f m i r) := by
  obtain ⟨hsent, hop, hrec⟩ := h
  simp only [State.asHop, msgOf_sent hsent, hop, if_true, State.recOf, hrec]

theorem ard_unsealed {i : Nat} {r : PageRec} (h : AsksPage s k 0x24 m i r) (hsl : r.sl = false) :
    Happens (.ard k) s (fun t => t = { s with msgs := t.msgs } ∧
      ∃ x : Msg, t.msgs = dropAt s.msgs k ++ [x] ∧ x.ty = 11 ∧ x.dst = m.src ∧ x.rid = m.rid ∧ ∀ j, j < 128 →
        byteOf x.data j = (if m.la * 128 + j < r.bfn.toNat * 4096 + r.ct then s.memByte r.kid (m.la * 128 + j) else 0) ∧
        x.mask.getLsbD j = decide (m.la * 128 + j < r.bfn.toNat * 4096 + r.ct)) := by
  have hexec : exec (.ard k) s = execArd k s := rfl
  simp only [execArd, asHop_asked _ h, hsl, Bool.false_eq_true, if_false, ev] at hexec
  exact ⟨_, hexec, rfl, _, rfl, rfl, BitVec.ofNat_toNat .., rfl, fun j hj => ⟨byteOf_line _ hj, getLsbD_belowMask _ _ hj⟩⟩

theorem ard_sealed {i : Nat} {r : PageRec} (h : AsksPage s k 0x24 m i r) (hsl : r.sl = true) :
    Happens (.ard k) s (fun t => t = { s with msgs := t.msgs } ∧
      ∃ x : Msg, t.msgs = dropAt s.msgs k ++ [x] ∧ x.ty = 13 ∧ x.dst = m.src ∧ x.rid = m.rid ∧ x.data = s.memLine r.kid m.la) := by
  have hexec : exec (.ard k) s = execArd k s := rfl
  simp only [execArd, asHop_asked _ h, hsl, if_true, ev] at hexec
  exact ⟨_, hexec, rfl, _, rfl, rfl, BitVec.ofNat_toNat .., rfl, rfl⟩

theorem srd_replica {p : Replica} (h : Sent s k m 12) (hp : s.replicaOf (m.dst.toNat - 4) (m.la * 128) = some p) :
    Happens (.srd k) s (fun t => t = { s with msgs := t.msgs, replicas := s.replicas.filter (fun x => x != p) ++ [p] } ∧
      ∃ x : Msg, t.msgs = dropAt s.msgs k ++ [x] ∧ x.ty = 13 ∧ x.dst = m.src ∧
        x.data = s.memLine m.kid (p.rfn.toNat * 32 + (m.la - p.sfn.toNat * 32))) := by
  have hexec : exec (.srd k) s = execSrd k s := rfl
  simp only [execSrd, msgOf_sent h, hp, ev] at hexec
  exact ⟨_, hexec, rfl, _, rfl, rfl, BitVec.ofNat_toNat .., rfl⟩

theorem srd_home {i : Nat} {r : PageRec} (h : Sent s k m 12) (hp : s.replicaOf (m.dst.toNat - 4) (m.la * 128) = none)
    (hrec : s.recordAt (m.la * 128) = some (i, r)) (hsl : r.sl = true) (hhome : homeOf (m.la * 128) = m.dst.toNat) :
    Happens (.srd k) s (fun t => t = { s with msgs := t.msgs } ∧
      ∃ x : Msg, t.msgs = dropAt s.msgs k ++ [x] ∧ x.ty = 13 ∧ x.dst = m.src ∧ x.data = s.memLine r.kid m.la) := by
  have hexec : exec (.srd k) s = execSrd k s := rfl
  simp only [execSrd, msgOf_sent h, hp, State.recOf, hrec, hsl, hhome, BEq.rfl, Bool.and_self, if_true, ev] at hexec
  exact ⟨_, hexec, rfl, _, rfl, rfl, BitVec.ofNat_toNat .., rfl⟩

/-! ## Answers (R57, R81, R233) -/

/-- An L2 with room keeps a sealed line. -/
theorem keepSealed_keeps (h : HasRoom s m.dst.toNat m.la m.kid) : let x := ((s.takeMsg k).keepSealed m.dst.toNat m).l2line m.dst.toNat m.la
    x.data = m.data ∧ x.dv = true ∧ x.isSealed = true ∧ x.tc = 0 := by
  obtain ⟨hs, ht, hw⟩ := h
  obtain ⟨w, hw⟩ := Option.isSome_iff_exists.mp hw
  have hl : (s.takeMsg k).l2line m.dst.toNat m.la = s.l2line m.dst.toNat m.la := rfl
  have hfree : (s.takeMsg k).freeWay m.dst.toNat m.la m.kid = some w := hw
  simp only [State.keepSealed, hl, hs, ht, hfree, bne_self_eq_false, Bool.or_self, Bool.false_eq_true, if_false, l2line_setL2]
  exact ⟨trivial, trivial, trivial, rfl⟩

/-- An L2 without room drops it. -/
theorem keepSealed_drops (h : ¬HasRoom s m.dst.toNat m.la m.kid) : (s.takeMsg k).keepSealed m.dst.toNat m = s.takeMsg k := by
  have hl : (s.takeMsg k).l2line m.dst.toNat m.la = s.l2line m.dst.toNat m.la := rfl
  have hfree : (s.takeMsg k).freeWay m.dst.toNat m.la m.kid = s.freeWay m.dst.toNat m.la m.kid := rfl
  unfold State.keepSealed
  simp only [hl, hfree]
  split
  · rfl
  · next hroom =>
    split
    · next w hw =>
      refine absurd ⟨?_, ?_, by rw [hw]; rfl⟩ h <;> simp at hroom
      · exact hroom.1
      · exact hroom.2
    · rfl

/-- A load takes its answer; caches and memory stay. -/
theorem asAnswer_takes (s : State) (a : Access) (d : BitVec 1024) (flag : Bool) : ∃ t, s.asAnswer a d false flag = some t ∧ t.l2 = s.l2 ∧ t.mem = s.mem := by
  simp only [State.asAnswer, Bool.false_eq_true, if_false]
  exact ⟨_, rfl, finishFlight_l2 _ _ _, finishFlight_mem _ _ _⟩

theorem srsp_keeps (h : Sent s k m 13) (hroom : HasRoom s m.dst.toNat m.la m.kid) (ha : s.askedBy m = none ∨ m.pz = false) :
    Happens (.srsp k) s (fun t => (t.l2line m.dst.toNat m.la).data = m.data ∧ t.mem = s.mem ∧
      (t.l2line m.dst.toNat m.la).dv = true ∧ (t.l2line m.dst.toNat m.la).isSealed = true ∧ (t.l2line m.dst.toNat m.la).tc = 0) := by
  have hexec : exec (.srsp k) s = execSrsp k s := rfl
  obtain ⟨hdata, hdv, hsealed, htc⟩ := keepSealed_keeps (k := k) hroom
  have hmem : ((s.takeMsg k).keepSealed m.dst.toNat m).mem = s.mem := by
    obtain ⟨_, hl2⟩ := keepSealed_rest (s.takeMsg k) m.dst.toNat m
    rw [hl2]
    rfl
  simp only [execSrsp, msgOf_sent h] at hexec
  cases hasked : s.askedBy m with
  | none =>
    simp only [hasked, ev] at hexec
    exact ⟨_, hexec, hdata, hmem, hdv, hsealed, htc⟩
  | some a =>
    obtain ⟨t, ht, hl2, htmem⟩ := asAnswer_takes ((s.takeMsg k).keepSealed m.dst.toNat m) a m.data false
    simp only [hasked, ha.resolve_left (by rw [hasked]; exact nofun), ht, ev] at hexec
    refine ⟨_, hexec, ?_, htmem.trans hmem, ?_, ?_, ?_⟩ <;> rw [State.l2line, hl2] <;> assumption

theorem srsp_drops (h : Sent s k m 13) (hroom : ¬HasRoom s m.dst.toNat m.la m.kid) (ha : s.askedBy m = none) :
    exec (.srsp k) s = .next (s.takeMsg k) := by
  have hexec : exec (.srsp k) s = execSrsp k s := rfl
  simp only [execSrsp, msgOf_sent h, ha, keepSealed_drops hroom, ev] at hexec
  exact hexec

/-- The end of an instruction that no access has given anything leaves its group's registers. -/
theorem finishFlight_regs {w : State} {g id : Nat} (h : ∀ f, f ∈ (w.group g).flights → f.id = id → f.vals = []) :
    ((w.finishFlight g id).group g).v = (w.group g).v ∧ ((w.finishFlight g id).group g).s = (w.group g).s := by
  cases hf : (w.group g).flightOf id with
  | some f =>
    have hid : f.id = id := by simpa using List.find?_some hf
    rw [group_finishFlight_noVals hf (h f (List.mem_of_find?_eq_some hf) hid)]
    exact ⟨rfl, rfl⟩
  | none =>
    cases hb : w.flightBusy g id with
    | true =>
      rw [State.finishFlight, if_pos hb]
      exact ⟨rfl, rfl⟩
    | false =>
      have hg := group_finishFlight hb
      rw [hf, Option.map_none, Option.getD_none, List.foldl_nil] at hg
      rw [hg]
      exact ⟨rfl, rfl⟩

theorem hrsp_tail {h : Hop} (hm : Sent s k m 11) (hb : s.hopBy m.dst.toNat m.rid = some h) (hop : h.op = 0x22 ∨ h.op = 0x23) (hr : h.retry = false)
    (hmo : m.op = h.op) (hv : ∀ f, f ∈ (s.group h.grp).flights → f.id = h.flight → f.vals = []) :
    Happens (.hrsp k) s (fun t => t.msgs = dropAt s.msgs k ∧ t.mem = s.mem ∧ (∀ x, x ∈ t.hops ↔ x ∈ s.hops ∧ x.id ≠ h.id) ∧
      (t.group h.grp).v = (s.group h.grp).v ∧
      ∀ n, (t.group h.grp).sget n = if n = h.st.toNat ∧ n ≠ 0 then m.data.extractLsb' 0 64 else (s.group h.grp).sget n) := by
  have hexec : exec (.hrsp k) s = execHrsp k s := rfl
  have h20 : h.op ≠ 0x20 := by rcases hop with e | e <;> rw [e] <;> decide
  have hm20 : m.op ≠ 0x20 := by rwa [hmo]
  have hm24 : m.op ≠ 0x24 := by rw [hmo]; rcases hop with e | e <;> rw [e] <;> decide
  have hlow : ¬m.op.toNat < 0x20 := by rw [hmo]; rcases hop with e | e <;> rw [e] <;> decide
  simp only [execHrsp, msgOf_sent hm, if_neg hm24, if_neg hlow, hb, h20, hm20, false_and, if_false, hr, Bool.false_eq_true, ev] at hexec
  refine ⟨_, hexec, ?_, ?_, fun x => ?_, ?_⟩
  · rw [finishFlight_rest]
    rfl
  · exact finishFlight_mem ..
  · rw [finishFlight_rest]
    show x ∈ List.filter _ _ ↔ _
    simp
  · generalize hw : State.dropHop _ h = w
    have hg : w.group h.grp = (s.group h.grp).sset h.st.toNat (m.data.extractLsb' 0 64) := by
      rw [← hw]
      exact group_setGroup_self ..
    have hflights : (w.group h.grp).flights = (s.group h.grp).flights := by
      rw [hg, Group.sset]
      split <;> rfl
    obtain ⟨hvs, hss⟩ := finishFlight_regs (w := w) (g := h.grp) (id := h.flight) (by rw [hflights]; exact hv)
    refine ⟨?_, fun n => ?_⟩
    · rw [hvs, hg, Group.sset]
      split <;> rfl
    · rw [← sget_sset, ← hg, Group.sget, Group.sget, hss]

theorem hrsp_retry {h : Hop} (hm : Sent s k m 11) (hb : s.hopBy m.dst.toNat m.rid = some h) (hr : h.retry = false)
    (hmo : m.op = 0x20) (h59 : m.data.getLsbD 59 = false) (h58 : m.data.getLsbD 58 = true) :
    Happens (.hrsp k) s (fun t => t = { s.takeMsg k with hops := t.hops } ∧
      ∀ x, x ∈ t.hops ↔ ∃ y, y ∈ s.hops ∧ x = if y.id = h.id then { h with retry := true } else y) := by
  have hexec : exec (.hrsp k) s = execHrsp k s := rfl
  have hpb : bitAt (m.data.extractLsb' 0 64).toNat 59 = false := by
    rw [bitAt, BitVec.testBit_toNat, BitVec.getLsbD_extractLsb']
    simpa using h59
  have hry : bitAt (m.data.extractLsb' 0 64).toNat 58 = true := by
    rw [bitAt, BitVec.testBit_toNat, BitVec.getLsbD_extractLsb']
    simpa using h58
  have h24 : ¬(0x20 : BitVec 6) = 0x24 := by decide
  have hlow : ¬(0x20 : BitVec 6).toNat < 0x20 := by decide
  have h23 : ¬(0x20 : BitVec 6) = 0x23 := by decide
  simp only [execHrsp, msgOf_sent hm, hmo, if_neg h24, if_neg hlow, h23, and_false, hb, hr, hpb, hry, Bool.false_eq_true, if_false, if_true, ev] at hexec
  refine ⟨_, hexec, rfl, fun x => ?_⟩
  refine List.mem_map.trans (exists_congr fun y => and_congr_right fun _ => ?_)
  rw [eq_comm]
  simp only [beq_iff_eq]

theorem hrsp_unasked (hm : Sent s k m 11) (ha : m.op = 0x24 ∨ m.op.toNat < 0x20 → s.askedBy m = none)
    (hh : m.op ≠ 0x24 → 0x20 ≤ m.op.toNat → s.hopBy m.dst.toNat m.rid = none) : exec (.hrsp k) s = .next (s.takeMsg k) := by
  have hexec : exec (.hrsp k) s = execHrsp k s := rfl
  simp only [execHrsp, msgOf_sent hm] at hexec
  by_cases h24 : m.op = 0x24
  · simp only [if_pos h24, ha (.inl h24), ev] at hexec
    exact hexec
  · by_cases hlow : m.op.toNat < 0x20
    · simp only [if_neg h24, if_pos hlow, ha (.inr hlow), ev] at hexec
      exact hexec
    · simp only [if_neg h24, if_neg hlow, hh h24 (Nat.le_of_not_lt hlow), ev] at hexec
      exact hexec

end

/-! ## Page records (R71) -/

theorem read_put_zeros (m : List Host.Cell) {a n x : Nat} (hlo : a ≤ x) (hhi : x < a + n) : Memory.read (Memory.put m a (List.replicate n 0)) x = 0 := by
  have hcells : Memory.cells a (List.replicate n 0) = [] := List.filterMap_eq_nil_iff.mpr fun e he =>
    if_pos (List.eq_of_mem_replicate (List.of_mem_zip he).2)
  have hlow := lookup_filter (fun y => decide (y < a)) m x
  have hhigh := lookup_filter (fun y => decide (a + n ≤ y)) m x
  simp only [decide_eq_true_eq] at hlow hhigh
  rw [if_neg (by omega)] at hlow hhigh
  simp only [Memory.read, getD, Memory.put, hcells, List.append_nil, lookup_append, List.length_replicate, hlow, hhigh]
  rfl

/-- A line last written under a key id is read under it as it stands. -/
theorem memByte_underKey {s : State} {kid : BitVec 6} {la n x : Nat} (h : s.underKey kid la n = true) (hlo : la ≤ x / 128) (hhi : x / 128 < la + n) :
    s.memByte kid x = Memory.read s.mem x := by
  simp only [State.underKey, Bool.and_eq_true, List.all_eq_true, List.mem_range, beq_iff_eq, Bool.not_eq_true', List.any_eq_false,
    decide_eq_true_eq, not_and, not_lt] at h
  obtain ⟨hkid, hold⟩ := h
  have hw : getD 0 s.lineKid (x / 128) = kid := by
    have := hkid (x / 128 - la) (by omega)
    rwa [Nat.add_sub_cancel' hlo] at this
  have hnone : lookup s.lineOld (x / 128) = none := lookup_eq_none fun e he hx => by
    have := hold e he
    omega
  simp only [State.memByte, hw, hnone, if_true, ite_self]

theorem asSize_lines (ps : BitVec 2) : asSize ps % 128 = 0 := by
  have hpow : asSize ps = 128 * 2 ^ (5 + (if ps = 0 then 0 else if ps = 1 then 4 else 9)) := by
    rw [asSize, show (128 : Nat) = 2 ^ 7 from rfl, ← Nat.pow_add, ← Nat.add_assoc]
  rw [hpow, Nat.mul_mod_right]

theorem pageRecordCreate_happens {s : State} {home rcd : Nat} {frame : BitVec 40} {ps : BitVec 2} {part : BitVec 4} {kid : BitVec 6}
    (hfree : (lookup s.records (recKey home rcd)).all (fun r => !r.v) = true) (hps : ps ≠ 3) (hhome : homeOf (frame.toNat * 4096) = home)
    (hrcd : rcd < 65536) (halign : frame.toNat * 4096 % asSize ps = 0) (hkeyed : keyed (frame.toNat * 4096) = true)
    (htaken : s.frameTaken (frame.toNat * 4096) (frame.toNat * 4096 + asSize ps) = false)
    (hrec : s.recordIn home (frame.toNat * 4096) (frame.toNat * 4096 + asSize ps) = false) :
    Happens (.pageRecordCreate home rcd frame ps part kid) s (fun t => (∃ r, lookup t.records (recKey home rcd) = some r ∧ r.v = true ∧ r.sl = false ∧
        r.rt = 0 ∧ r.ct = 0 ∧ r.bfn = frame ∧ r.ps = ps ∧ r.kid = kid ∧ r.pt = part) ∧
      (∀ a, frame.toNat * 4096 ≤ a → a < frame.toNat * 4096 + asSize ps → t.memByte kid a = 0) ∧
      ∀ a, a < frame.toNat * 4096 ∨ frame.toNat * 4096 + asSize ps ≤ a → Memory.read t.mem a = Memory.read s.mem a) := by
  have hexec : exec (.pageRecordCreate home rcd frame ps part kid) s = execPageRecordCreate home rcd frame ps part kid s := rfl
  have hrcd' : decide (65536 ≤ rcd) = false := decide_eq_false (by omega)
  have hps' : decide (ps = 3) = false := decide_eq_false hps
  simp only [execPageRecordCreate, hps', hhome, hrcd', halign, hkeyed, htaken, hrec, bne_self_eq_false, Bool.not_true, Bool.or_false] at hexec
  have hnext : exec (.pageRecordCreate home rcd frame ps part kid) s = .next (s.newRecord home rcd frame ps part kid) := by
    cases hl : lookup s.records (recKey home rcd) with
    | none => simpa only [hl, Bool.false_eq_true, if_false, ev] using hexec
    | some r =>
      have hv : r.v = false := by simpa [hl] using hfree
      simpa only [hl, hv, Bool.false_eq_true, if_false, ev] using hexec
  have hsize := asSize_lines ps
  have hlen : (List.replicate (asSize ps) (0 : Byte)).length = asSize ps := List.length_replicate
  obtain ⟨-, hkey, m, hm, hread⟩ := storeRange_lines s kid (a := frame.toNat * 4096) (bs := List.replicate (asSize ps) 0) (by omega) (by omega)
  rw [hlen] at hkey hread
  refine ⟨_, hnext, ⟨_, lookup_insert_self .., rfl, rfl, rfl, rfl, rfl, rfl, rfl, rfl⟩, fun a hlo hhi => ?_, fun a ha => ?_⟩
  · show (s.storeRange kid (frame.toNat * 4096) (List.replicate (asSize ps) 0)).memByte kid a = 0
    rw [memByte_underKey hkey (by omega) (by omega), hm, read_put_zeros _ hlo hhi]
  · show Memory.read (s.storeRange kid (frame.toNat * 4096) (List.replicate (asSize ps) 0)).mem a = _
    rw [hm, read_put_ne _ _ (by rwa [hlen]), hread a ha]

/-! ## Frees (R85, R90) -/

theorem answers_rest {α : Type} (m : α → Msg) (w : α → DWord) (l : List α) (s : State) :
    ∃ msgs, l.foldl (fun (u : State) a => u.answer (m a) (w a)) s = { s with msgs := msgs } := by
  induction l generalizing s with
  | nil => exact ⟨s.msgs, rfl⟩
  | cons a l ih => exact ih (s.answer (m a) (w a))

theorem sealCheck_keeps (s : State) (k : Nat) : (s.sealCheck k).mem = s.mem ∧ (s.sealCheck k).appends = s.appends := by
  unfold State.sealCheck
  split
  · exact ⟨rfl, rfl⟩
  · dsimp only
    split
    · obtain ⟨_, hmsgs⟩ := answers_rest _ _ _ _
      rw [hmsgs]
      exact ⟨rfl, rfl⟩
    · exact ⟨rfl, rfl⟩

/-- Publishing leaves memory, and takes appends away. -/
theorem publish_keeps (s : State) (k : Nat) : (s.publish k).mem = s.mem ∧ ∀ a ∈ (s.publish k).appends, a ∈ s.appends := by
  unfold State.publish
  split
  · exact ⟨rfl, fun _ h => h⟩
  · dsimp only
    obtain ⟨_, hmsgs⟩ := answers_rest _ _ _ _
    rw [hmsgs]
    obtain ⟨hmem, happ⟩ := sealCheck_keeps _ k
    rw [hmem, happ]
    exact ⟨rfl, fun a ha => (List.mem_filter.mp ha).1⟩

/-- Every append of a page is complete once the home has completed those that are not. -/
theorem fillAppends_fills (s : State) (k : Nat) : (s.fillAppends k (fun _ => true)).mem = s.mem ∧
    ∀ a ∈ (s.fillAppends k (fun _ => true)).appends, recKey a.home a.rcd = k → a.rb = a.ln := by
  have hfilled : ∀ a ∈ s.appends.map (fun (a : Append) => if recKey a.home a.rcd == k && true then { a with rb := a.ln } else a),
      recKey a.home a.rcd = k → a.rb = a.ln := fun a ha hk => by
    obtain ⟨b, -, rfl⟩ := List.mem_map.mp ha
    by_cases hb : recKey b.home b.rcd = k <;> simp_all
  unfold State.fillAppends
  dsimp only
  split
  · split
    · exact ⟨rfl, hfilled⟩
    · obtain ⟨hmem, happ⟩ := publish_keeps _ k
      exact ⟨hmem, fun a ha => hfilled a (happ a ha)⟩
  · exact ⟨rfl, hfilled⟩

theorem freeRequest_happens {s : State} {home rcd : Nat} {r : PageRec} (hr : lookup s.records (recKey home rcd) = some r) (hv : r.v = true)
    (hf : r.fr = false) (hm : s.mapped (r.bfn.toNat * 4096) (r.bfn.toNat * 4096 + asSize r.ps) = false) :
    Happens (.freeRequest home rcd) s (fun t => lookup t.records (recKey home rcd) = some { r with fr := true } ∧ t.mem = s.mem ∧
      t.frees = s.frees ++ [{ home := home, rcd := rcd, step := 3, frames := [], acks := [] }]) := by
  have hexec : exec (.freeRequest home rcd) s = execFreeRequest home rcd s := rfl
  have hmay : (r.v && !r.fr && !s.mapped (r.bfn.toNat * 4096) (r.bfn.toNat * 4096 + asSize r.ps)) = true := by
    rw [hv, hf, hm]
    rfl
  simp only [execFreeRequest, hr, hmay, if_true, ev] at hexec
  exact ⟨_, hexec, lookup_insert_self .., rfl, rfl⟩

section

variable {s : State} {home rcd : Nat} {f : FreeJob} {r : PageRec}

theorem freeService_fills (hf : s.frees.find? (fun f => f.home == home && f.rcd == rcd) = some f)
    (hr : lookup s.records (recKey home rcd) = some r) (hs : f.step = 3) : Happens (.freeService home rcd) s (fun t => t.mem = s.mem ∧
      ∀ a, a ∈ t.appends → recKey a.home a.rcd = recKey home rcd → a.rb = a.ln) := by
  have hexec : exec (.freeService home rcd) s = execFreeService home rcd s := rfl
  simp only [execFreeService, hf, hr, hs, if_true, ev] at hexec
  obtain ⟨hmem, happ⟩ := fillAppends_fills s (recKey home rcd)
  exact ⟨_, hexec, hmem, happ⟩

theorem freeService_waits (hf : s.frees.find? (fun f => f.home == home && f.rcd == rcd) = some f)
    (hr : lookup s.records (recKey home rcd) = some r) (hs : f.step = 4) (hu : s.readsUnderWay r = true) :
    exec (.freeService home rcd) s = .fault .notEnabled := by
  have hexec : exec (.freeService home rcd) s = execFreeService home rcd s := rfl
  simp only [execFreeService, hf, hr, hs, hu, show ¬(4 = 3) by decide, if_true, if_false, ev] at hexec
  exact hexec

theorem freeService_drops (hf : s.frees.find? (fun f => f.home == home && f.rcd == rcd) = some f)
    (hr : lookup s.records (recKey home rcd) = some r) (hs : f.step = 4) (hu : s.readsUnderWay r = false) :
    Happens (.freeService home rcd) s (fun t => t.mem = s.mem ∧ (∀ p, p ∈ t.replicas → p.sfn ≠ r.bfn) ∧
      ∀ e, e ∈ t.l2 → e.2.isSealed = true → e.1 % 2 ^ 45 < r.bfn.toNat * 32 ∨ r.bfn.toNat * 32 + asSize r.ps / 128 ≤ e.1 % 2 ^ 45) := by
  have hexec : exec (.freeService home rcd) s = execFreeService home rcd s := rfl
  simp only [execFreeService, hf, hr, hs, hu, show ¬(4 = 3) by decide, Bool.false_eq_true, if_true, if_false, ev] at hexec
  refine ⟨_, hexec, rfl, fun p hp => ?_, fun e he hsealed => ?_⟩
  · simpa using (List.mem_filter.mp hp).2
  · have hout := (List.mem_filter.mp he).2
    simp only [hsealed, Bool.true_and, Bool.not_eq_true', Bool.and_eq_false_iff, decide_eq_false_iff_not] at hout
    omega

theorem freeService_awaits (hf : s.frees.find? (fun f => f.home == home && f.rcd == rcd) = some f)
    (hr : lookup s.records (recKey home rcd) = some r) (hs : f.step = 5) (ha : f.acks ≠ []) :
    exec (.freeService home rcd) s = .fault .notEnabled := by
  have hexec : exec (.freeService home rcd) s = execFreeService home rcd s := rfl
  have hempty : f.acks.isEmpty = false := by simpa using ha
  simp only [execFreeService, hf, hr, hs, hempty, show ¬(5 = 3) by decide, show ¬(5 = 4) by decide, Bool.false_eq_true, if_true, if_false, ev] at hexec
  exact hexec

theorem freeService_acked (hf : s.frees.find? (fun f => f.home == home && f.rcd == rcd) = some f)
    (hr : lookup s.records (recKey home rcd) = some r) (hs : f.step = 5) (ha : f.acks = []) :
    Happens (.freeService home rcd) s (fun t => t = { s with frees := t.frees }) := by
  have hexec : exec (.freeService home rcd) s = execFreeService home rcd s := rfl
  simp only [execFreeService, hf, hr, hs, ha, List.isEmpty_nil, show ¬(5 = 3) by decide, show ¬(5 = 4) by decide, if_true, if_false, ev] at hexec
  exact ⟨_, hexec, rfl⟩

theorem poolBack_rest (s : State) (part : Nat) (l : List (Nat × BitVec 40)) : ∃ parts, s.poolBack part l = { s with parts := parts } := by
  unfold State.poolBack
  dsimp only
  split
  · exact ⟨s.parts, rfl⟩
  · exact ⟨_, rfl⟩

theorem freeService_frees (hf : s.frees.find? (fun f => f.home == home && f.rcd == rcd) = some f)
    (hr : lookup s.records (recKey home rcd) = some r) (hs : f.step = 6) : Happens (.freeService home rcd) s (fun t =>
      lookup t.records (recKey home rcd) = some { r with v := false, rm := 0, fr := false } ∧ t.mem = s.mem) := by
  have hexec : exec (.freeService home rcd) s = execFreeService home rcd s := rfl
  simp only [execFreeService, hf, hr, hs, show ¬(6 = 3) by decide, show ¬(6 = 4) by decide, show ¬(6 = 5) by decide, if_false, ev] at hexec
  obtain ⟨_, hparts⟩ := poolBack_rest { s.setRec (recKey home rcd) { r with v := false, rm := 0, fr := false } with
    frees := s.frees.filter (fun x => !(x.home == home && x.rcd == rcd)), exports := s.exports.filter (fun e => !(e.1 == home && e.2.1 == rcd)) }
    r.pt.toNat f.frames
  refine ⟨_, hexec, ?_⟩
  rw [hparts]
  split <;> exact ⟨lookup_insert_self .., rfl⟩

end

/-! ## Replicas (R86 to R88) -/

/-- The free frames of a partition's pool on a die. -/
def poolFrames (s : State) (part die : Nat) : List (BitVec 40) := (((s.part part).pool.find? (fun e => e.1 == die)).map (fun e => e.2)).getD []
/-- The replicas of a die. -/
def dieReplicas (s : State) (die : Nat) : List Replica := s.replicas.filter (fun p => p.die == die)

theorem homeStores_rest (kid : BitVec 6) (la : Nat → Nat) (d : Nat → BitVec 1024) (pz : Nat → Bool) (l : List Nat) (s : State) :
    ∃ mem lineKid lineOld poison track staged hostDirty, l.foldl (fun (t : State) i => t.homeStore kid (la i) (d i) (pz i)) s =
      { s with
        mem := mem, lineKid := lineKid, lineOld := lineOld, poison := poison, track := track, staged := staged, hostDirty := hostDirty } := by
  induction l generalizing s with
  | nil => exact ⟨s.mem, s.lineKid, s.lineOld, s.poison, s.track, s.staged, s.hostDirty, rfl⟩
  | cons i l ih =>
    obtain ⟨_, _, _, _, _, _, _, hi⟩ := homeStore_rest s kid (la i) (d i) (pz i)
    obtain ⟨_, _, _, _, _, _, _, hl⟩ := ih (s.homeStore kid (la i) (d i) (pz i))
    rw [List.foldl_cons, hl, hi]
    exact ⟨_, _, _, _, _, _, _, rfl⟩

/-- A page gets a replica on a die: it is sealed and not freed, the partition has a pool there, and no replica of it stands there. -/
structure GetsReplica (s : State) (die home rcd : Nat) (r : PageRec) : Prop where
  rcd : lookup s.records (recKey home rcd) = some r
  valid : r.v = true
  sealed : r.sl = true
  kept : r.fr = false
  pool : (s.part r.pt.toNat).rcd.pool[die]?.getD 0 ≠ 0
  none : ∀ p, p ∈ s.replicas → ¬(p.die = die ∧ p.sfn = r.bfn)

theorem GetsReplica.goes {s : State} {die home rcd : Nat} {r : PageRec} (h : GetsReplica s die home rcd r) :
    (!r.v || !r.sl || r.fr || ((s.part r.pt.toNat).rcd.pool[die]?).getD 0 = 0 || s.replicas.any (fun p => p.die == die && p.sfn == r.bfn)) = false := by
  have hnone : s.replicas.any (fun p => p.die == die && p.sfn == r.bfn) = false := by simpa [List.any_eq_false] using h.none
  simp [h.valid, h.sealed, h.kept, h.pool, hnone]

/-- A replica has to be dropped first: the pool has no free frame, or the die's map is full. -/
def mustDrop (s : State) (part die : Nat) : Bool := (poolFrames s part die).isEmpty || decide (16384 ≤ (dieReplicas s die).length)

/-- With `s1` after any replica has been dropped, a free frame `f` and room in the die's map: the replica is entered. -/
theorem replicaCreate_enters {s s1 : State} {die home rcd : Nat} {r r2 : PageRec} {f : BitVec 40} {l : List (BitVec 40)}
    (h : GetsReplica s die home rcd r)
    (hs1 : s = s1 ∨ mustDrop s r.pt.toNat die = true ∧
      ∃ v, s.replicas.find? (fun p => p.die == die && p.pt == r.pt) = some v ∧ s.dropReplica v = s1)
    (hf : poolFrames s1 r.pt.toNat die = f :: l) (hroom : (dieReplicas s1 die).length < 16384)
    (hr2 : lookup s1.records (recKey home rcd) = some r2) :
    Happens (.replicaCreate die home rcd) s (fun t =>
      t.replicas = s1.replicas ++ [{ die := die, ps := r.ps, pt := r.pt, sfn := r.bfn, rfn := f }] ∧
      lookup t.records (recKey home rcd) = some { r2 with rm := r2.rm ||| ((1 : BitVec 4) <<< die) }) := by
  have hexec : exec (.replicaCreate die home rcd) s = execReplicaCreate die home rcd s := rfl
  have hgoes := h.goes
  have hnotFull : decide (16384 ≤ (dieReplicas s1 die).length) = false := decide_eq_false (by omega)
  have hfold := homeStores_rest r.kid (fun i => f.toNat * 32 + i) (fun i => s.memLine r.kid (r.bfn.toNat * 32 + i))
    (fun i => getD false s.poison (r.bfn.toNat * 32 + i) || s.poolDark (r.bfn.toNat * 32 + i)) (List.range (asSize r.ps / 128))
    (s1.setPart r.pt.toNat { s1.part r.pt.toNat with
      pool := (s1.part r.pt.toNat).pool.map (fun (e : Nat × List (BitVec 40)) => if e.1 == die then (e.1, l) else e) })
  dsimp only at hfold
  unfold mustDrop at hs1
  unfold poolFrames at hs1 hf
  unfold dieReplicas at hs1 hnotFull
  rcases hs1 with rfl | ⟨hdrop, v, hv, rfl⟩
  case' inl => simp only [execReplicaCreate, h.rcd, hgoes, Bool.false_eq_true, if_false, hf, hnotFull, List.isEmpty_cons, Bool.or_self] at hexec
  case' inr => simp only [execReplicaCreate, h.rcd, hgoes, hdrop, hv, Bool.false_eq_true, if_true, if_false, hf, hnotFull] at hexec
  all_goals
    obtain ⟨_, _, _, _, _, _, _, hfold⟩ := hfold
    rw [hfold] at hexec
    simp only [setPart_records, hr2, ev] at hexec
    exact ⟨_, hexec, rfl, lookup_insert_self ..⟩

theorem replicaCreate_pool {s : State} {die home rcd : Nat} {r : PageRec} {f : BitVec 40} {l : List (BitVec 40)} (h : GetsReplica s die home rcd r)
    (hpool : (s.part r.pt.toNat).pool.find? (fun e => e.1 == die) = some (die, f :: l)) (hroom : (dieReplicas s die).length < 16384) :
    Happens (.replicaCreate die home rcd) s (fun t => { die := die, ps := r.ps, pt := r.pt, sfn := r.bfn, rfn := f } ∈ t.replicas ∧
      lookup t.records (recKey home rcd) = some { r with rm := r.rm ||| ((1 : BitVec 4) <<< die) }) := by
  have hframes : poolFrames s r.pt.toNat die = f :: l := by rw [poolFrames, hpool]; rfl
  obtain ⟨t, ht, hreps, hrec⟩ := replicaCreate_enters h (.inl rfl) hframes hroom h.rcd
  exact ⟨t, ht, hreps ▸ List.mem_append_right _ (List.mem_singleton_self _), hrec⟩

/-- A replica dropped is gone, its frame is the last of its pool, and records stay in their places. -/
theorem dropReplica_spec (s : State) (v : Replica) : (s.dropReplica v).replicas = s.replicas.filter (fun x => x != v) ∧
    (∀ l, (s.part v.pt.toNat).pool.find? (fun e => e.1 == v.die) = some (v.die, l) →
      poolFrames (s.dropReplica v) v.pt.toNat v.die = l ++ [v.rfn]) ∧
    ∀ k, (lookup s.records k).isSome = true → (lookup (s.dropReplica v).records k).isSome = true := by
  generalize hd : ({ s with replicas := s.replicas.filter (fun x => x != v) } : State).poolBack v.pt.toNat [(v.die, v.rfn)] = d
  have hpart : d.part v.pt.toNat = { s.part v.pt.toNat with
      pool := (s.part v.pt.toNat).pool.map (fun e => (e.1, e.2 ++ ([(v.die, v.rfn)].filter (fun f => f.1 == e.1)).map (fun f => f.2))) } := by
    rw [← hd]
    exact getD_insert_self ..
  obtain ⟨_, hrest⟩ := poolBack_rest { s with replicas := s.replicas.filter (fun x => x != v) } v.pt.toNat [(v.die, v.rfn)]
  have hreps : d.replicas = s.replicas.filter (fun x => x != v) := by rw [← hd, hrest]
  have hrecs : d.records = s.records := by rw [← hd, hrest]
  have hframes : ∀ l, (s.part v.pt.toNat).pool.find? (fun e => e.1 == v.die) = some (v.die, l) → poolFrames d v.pt.toNat v.die = l ++ [v.rfn] :=
    fun l hl => by
      rw [poolFrames, hpart]
      simp only [List.find?_map, Function.comp_def, hl, Option.map_some, Option.getD_some, List.filter_cons, BEq.rfl, if_true, List.filter_nil,
        List.map_cons, List.map_nil]
  unfold State.dropReplica
  dsimp only
  rw [hd]
  split
  · next i r _ =>
    refine ⟨hreps, hframes, fun k hk => ?_⟩
    by_cases hki : k = i
    · rw [hki, setRec_records, lookup_insert_self]
      rfl
    · rwa [setRec_records, lookup_insert_ne _ _ hki, hrecs]
  · exact ⟨hreps, hframes, fun k hk => by rwa [hrecs]⟩

theorem replicaCreate_replaces {s : State} {die home rcd : Nat} {r : PageRec} {v : Replica} (h : GetsReplica s die home rcd r)
    (hpool : (s.part r.pt.toNat).pool.find? (fun e => e.1 == die) = some (die, [])) (hroom : (dieReplicas s die).length ≤ 16384)
    (hfind : s.replicas.find? (fun p => p.die == die && p.pt == r.pt) = some v) :
    Happens (.replicaCreate die home rcd) s (fun t => v ∉ t.replicas ∧
      { die := die, ps := r.ps, pt := r.pt, sfn := r.bfn, rfn := v.rfn } ∈ t.replicas) := by
  have hv : v ∈ s.replicas := List.mem_of_find?_eq_some hfind
  obtain ⟨hdie, hpt⟩ : v.die = die ∧ v.pt = r.pt := by simpa using List.find?_some hfind
  obtain ⟨hreps, hframes, hrecs⟩ := dropReplica_spec s v
  have hdrop : mustDrop s r.pt.toNat die = true := by rw [mustDrop, poolFrames, hpool]; rfl
  rw [hdie, hpt] at hframes
  have hf := hframes [] hpool
  have hless : (dieReplicas (s.dropReplica v) die).length < (dieReplicas s die).length := by
    rw [dieReplicas, hreps, List.filter_comm]
    exact List.length_filter_lt_length_iff_exists.mpr ⟨v, List.mem_filter.mpr ⟨hv, by simpa using hdie⟩, by simp⟩
  obtain ⟨r2, hr2⟩ := Option.isSome_iff_exists.mp (hrecs _ (by rw [h.rcd]; rfl))
  obtain ⟨t, ht, hreps2, -⟩ := replicaCreate_enters h (.inr ⟨hdrop, v, hfind, rfl⟩) hf (by omega) hr2
  refine ⟨t, ht, ?_, hreps2 ▸ List.mem_append_right _ (List.mem_singleton_self _)⟩
  rw [hreps2, hreps, List.mem_append, List.mem_singleton]
  rintro (hkept | hnew)
  · simpa using (List.mem_filter.mp hkept).2
  · exact h.none v hv ⟨hdie, by rw [hnew]⟩

theorem sealedLineInvalidate_happens (s : State) (base : BitVec 40) (n : Nat) : Happens (.sealedLineInvalidate base n) s (fun t => t = { s with l2 := t.l2 } ∧
    ∀ e, e ∈ t.l2 ↔ e ∈ s.l2 ∧ ¬(e.2.isSealed = true ∧ base.toNat * 32 ≤ e.1 % 2 ^ 45 ∧ e.1 % 2 ^ 45 < base.toNat * 32 + n * 32)) := by
  have hexec : exec (.sealedLineInvalidate base n) s = execSealedLineInvalidate base n s := rfl
  refine ⟨_, hexec, rfl, fun e => List.mem_filter.trans (and_congr_right fun _ => ?_)⟩
  simp only [Bool.not_eq_true', ← Bool.not_eq_true, Bool.and_eq_true, decide_eq_true_eq, and_assoc]

/-- Settles O41: each read, answer, free and replica does one thing to the records, the caches or the messages; memory is written by a new record
and by a new replica alone. -/
theorem pagesReadAndFreed : Obligations.PagesReadAndFreed := by
  unfold Obligations.PagesReadAndFreed
  exact ⟨⟨fun s k m i r h hsl => ard_unsealed h hsl, fun s k m i r h hsl => ard_sealed h hsl, fun s k m p h hp => srd_replica h hp,
      fun s k m i r h hp hrec hsl hhome => srd_home h hp hrec hsl hhome, fun s k m h hroom ha => srsp_keeps h hroom ha,
      fun s k m h hroom ha => srsp_drops h hroom ha, fun s k m x hm hb hop hr hmo hv => hrsp_tail hm hb hop hr hmo hv,
      fun s k m x hm hb _ hr _ hmo h59 h58 => hrsp_retry hm hb hr hmo h59 h58, fun s k m hm ha hh => hrsp_unasked hm ha hh⟩,
    fun s home rcd frame ps part kid hfree hps hhome hrcd halign hkeyed htaken hrec =>
      pageRecordCreate_happens hfree hps hhome hrcd halign hkeyed htaken hrec,
    fun s home rcd r hr hv hf hm => freeRequest_happens hr hv hf hm,
    fun s home rcd f r hf hr => ⟨fun hs => freeService_fills hf hr hs, fun hs hu => freeService_waits hf hr hs hu,
      fun hs hu => freeService_drops hf hr hs hu, fun hs ha => freeService_awaits hf hr hs ha, fun hs ha => freeService_acked hf hr hs ha,
      fun hs => freeService_frees hf hr hs⟩,
    fun s die home rcd r f l hr hv hsl hfr hp hnone hpool hroom => replicaCreate_pool ⟨hr, hv, hsl, hfr, hp, hnone⟩ hpool hroom,
    fun s die home rcd r v hr hv hsl hfr hp hnone hpool hroom hfind => replicaCreate_replaces ⟨hr, hv, hsl, hfr, hp, hnone⟩ hpool hroom hfind,
    sealedLineInvalidate_happens⟩

end Sys2Proof.Proofs
end

section
namespace Sys2Proof.Proofs
open Sys2Proof.Machine Sys2Proof.Says Sys2Proof.Laws

/-! ## Bytes of a cached line (R5, R54) -/

theorem ofBytes_lt_length (bs : List Byte) : ofBytes bs < 2 ^ (8 * bs.length) :=
  ofBytes_lt fun i hi => by simp [hi]

/-- Replacing `q` bits of a number from bit `p`. -/
theorem testBit_replace {n x : Nat} (p q b : Nat) (hx : x < 2 ^ q) :
    (n - n / 2 ^ p % 2 ^ q * 2 ^ p + x * 2 ^ p).testBit b = if p ≤ b ∧ b < p + q then x.testBit (b - p) else n.testBit b := by
  have hlo : n % 2 ^ p < 2 ^ p := Nat.mod_lt _ (Nat.two_pow_pos p)
  have hn : n = 2 ^ p * (2 ^ q * (n / 2 ^ p / 2 ^ q) + n / 2 ^ p % 2 ^ q) + n % 2 ^ p := by rw [Nat.div_add_mod, Nat.div_add_mod]
  have hsum : n - n / 2 ^ p % 2 ^ q * 2 ^ p + x * 2 ^ p = 2 ^ p * (2 ^ q * (n / 2 ^ p / 2 ^ q) + x) + n % 2 ^ p := by
    rw [Nat.mul_add] at hn ⊢
    rw [Nat.mul_comm x, Nat.mul_comm (n / 2 ^ p % 2 ^ q)]
    omega
  rw [hsum, Nat.testBit_two_pow_mul_add _ hlo]
  by_cases hb : b < p
  · rw [if_pos hb, if_neg (by omega), Nat.testBit_mod_two_pow, decide_eq_true hb, Bool.true_and]
  · rw [if_neg hb, Nat.testBit_two_pow_mul_add _ hx]
    by_cases hq : b - p < q
    · rw [if_pos hq, if_pos (by omega)]
    · rw [if_neg hq, if_neg (by omega), Nat.testBit_div_two_pow, Nat.testBit_div_two_pow]
      congr 1
      omega

theorem getLsbD_linePut (d : BitVec 1024) (i : Nat) (bs : List Byte) {b : Nat} (hb : b < 1024) :
    (linePut d i bs).getLsbD b = if 8 * i ≤ b ∧ b < 8 * i + 8 * bs.length then (ofBytes bs).testBit (b - 8 * i) else d.getLsbD b := by
  rw [linePut, BitVec.getLsbD_ofNat, decide_eq_true hb, Bool.true_and, field, Nat.shiftRight_eq_div_pow, testBit_replace _ _ _ (ofBytes_lt_length bs)]
  rfl

/-- A number put in a line is found there. -/
theorem lineNum_linePut (d : BitVec 1024) {i w : Nat} (x : Nat) (h : i + w ≤ 128) : lineNum (linePut d i (toBytes w x)) i w = x % 2 ^ (8 * w) := by
  refine Nat.eq_of_testBit_eq fun b => ?_
  rw [testBit_lineNum, Nat.testBit_mod_two_pow]
  by_cases hb : b < 8 * w
  · have hbyte : b / 8 < w := by omega
    rw [getLsbD_linePut _ _ _ (by omega), toBytes_length, if_pos (by omega), Nat.add_sub_cancel_left, testBit_ofBytes,
      getLsbD_getD_toBytes _ hbyte (Nat.mod_lt _ (by decide)), Nat.div_add_mod]
  · simp [hb]

/-- Bytes of a line outside those put stay. -/
theorem lineNum_linePut_ne (d : BitVec 1024) {i j w : Nat} (bs : List Byte) (h : i + w ≤ 128) (ha : i + w ≤ j ∨ j + bs.length ≤ i) :
    lineNum (linePut d j bs) i w = lineNum d i w := by
  refine Nat.eq_of_testBit_eq fun b => ?_
  rw [testBit_lineNum, testBit_lineNum]
  by_cases hb : b < 8 * w
  · rw [getLsbD_linePut _ _ _ (by omega), if_neg (by omega)]
  · simp [hb]

theorem lineByte_linePut_ne (d : BitVec 1024) {i j : Nat} (bs : List Byte) (h : i < 128) (ha : i < j ∨ j + bs.length ≤ i) :
    lineByte (linePut d j bs) i = lineByte d i := by
  refine BitVec.eq_of_getLsbD_eq fun b hb => ?_
  rw [lineByte, lineByte, BitVec.getLsbD_extractLsb', BitVec.getLsbD_extractLsb', getLsbD_linePut _ _ _ (by omega), if_neg (by omega)]

end Sys2Proof.Proofs
end

section
namespace Sys2Proof.Proofs
open Sys2Proof.Machine Sys2Proof.Says Sys2Proof.Laws

/-! ## Folds whose steps each establish something -/

/-- What a step of a fold establishes of its element, steps of other elements keep. -/
theorem foldl_establish {σ α : Type} {f : σ → α → σ} {P : σ → α → Prop} {R : α → α → Prop} (hself : ∀ s a, P (f s a) a)
    (hkeep : ∀ s a b, R a b → P s a → P (f s b) a) {l : List α} (hl : l.Pairwise R) {s : σ} {a : α} (ha : a ∈ l) : P (l.foldl f s) a := by
  induction l generalizing s with
  | nil => simp at ha
  | cons b l ih =>
    rw [List.pairwise_cons] at hl
    rcases List.mem_cons.mp ha with rfl | ha
    · exact List.foldlRecOn (motive := fun t => P t a) l f (hself s a) fun t ht b hb => hkeep t a b (hl.1 b hb) ht
    · exact ih hl.2 ha

/-! ## Registers that performed accesses leave (R226) -/

/-- Registers that a number of `w` bytes takes. -/
def regCount (w : Nat) : Nat := if w < 4 then 1 else w / 4
/-- What a lane was left is for a register in a lane. -/
def TakesReg (v : LaneVal) (n l : Nat) : Prop := v.w ≠ 0 ∧ l = v.lane ∧ v.d + v.off / 4 ≤ n ∧ n < v.d + v.off / 4 + regCount v.w
/-- Well formed: a lane of the group, and a number below 4 bytes stands at the start of its operand. -/
def FitsLane (v : LaneVal) : Prop := v.lane < 64 ∧ (v.w < 4 → v.off = 0)

theorem v32_putLoad_ne (g : Group) (sx : Bool) {d l off w x n i : Nat} (hl : l < 64) (hi : i < 64) (ho : w < 4 → off = 0)
    (h : ¬(i = l ∧ d + off / 4 ≤ n ∧ n < d + off / 4 + regCount w)) : (putLoad g sx d l off w x).v32 n i = g.v32 n i := by
  unfold putLoad
  unfold regCount at h
  by_cases hw : w < 4
  · rw [if_pos hw] at h ⊢
    rw [ho hw] at h
    exact (v32_setV32 _ _ _ _ _ _ hl hi).trans (if_neg (by omega))
  · rw [if_neg hw] at h ⊢
    exact (v32_setVN _ _ _ _ _ _ _ hl hi).trans (if_neg (by tauto))

/-- The vector registers after what a lane was left: those of its number alone. -/
theorem put_v (g : Group) (v : LaneVal) : (LaneVal.put g v).v = (if v.w = 0 then g else putLoad g v.sx v.d v.lane v.off v.w v.val).v := by
  unfold LaneVal.put
  dsimp only
  split
  · rfl
  · rw [psetMask_rest]

theorem v32_put_ne (g : Group) {v : LaneVal} (hv : FitsLane v) {n l : Nat} (hl : l < 64) (h : ¬TakesReg v n l) : (LaneVal.put g v).v32 n l = g.v32 n l := by
  rw [v32_congr (put_v g v)]
  by_cases hw : v.w = 0
  · rw [if_pos hw]
  · rw [if_neg hw]
    exact v32_putLoad_ne g v.sx hv.1 hl hv.2 fun ht => h ⟨hw, ht⟩

theorem v32_puts_ne {vs : List LaneVal} (hv : ∀ v ∈ vs, FitsLane v) {n l : Nat} (hl : l < 64) (h : ∀ v ∈ vs, ¬TakesReg v n l) (g : Group) :
    (vs.foldl LaneVal.put g).v32 n l = g.v32 n l :=
  List.foldlRecOn (motive := fun h : Group => h.v32 n l = g.v32 n l) vs LaneVal.put rfl fun t ht v hm => (v32_put_ne t (hv v hm) hl (h v hm)).trans ht

/-- A lane holds the number that it was left. -/
def Left (g : Group) (v : LaneVal) : Prop := Loaded g v.sx v.d v.lane v.off v.w v.val

theorem left_put (g : Group) {v : LaneVal} (hv : FitsLane v) (hw : v.w ≠ 0) : Left (LaneVal.put g v) v :=
  loaded_congr ((put_v g v).trans (by rw [if_neg hw])) (loaded_putLoad g v.sx v.d v.off v.w v.val hv.1)

/-- Two lane values have no register in common. -/
def RegsApart (a b : LaneVal) : Prop := ∀ n, TakesReg a n a.lane → ¬TakesReg b n a.lane

theorem left_put_ne (g : Group) {a b : LaneVal} (ha : FitsLane a) (hw : a.w ≠ 0) (hb : FitsLane b) (h : RegsApart a b) (hl : Left g a) : Left (LaneVal.put g b) a := by
  unfold Left Loaded at *
  unfold RegsApart TakesReg regCount at h
  by_cases h4 : a.w < 4
  · have hoff : a.off = 0 := ha.2 h4
    rw [if_pos h4] at hl ⊢
    rw [v32_put_ne g hb ha.1 (h _ ⟨hw, rfl, by omega, by rw [if_pos h4]; omega⟩)]
    exact hl
  · rw [if_neg h4] at hl ⊢
    intro j hj
    rw [v32_put_ne g hb ha.1 (h _ ⟨hw, rfl, by omega, by rw [if_neg h4]; omega⟩)]
    exact hl j hj

theorem left_puts {vs : List LaneVal} (hv : ∀ v ∈ vs, FitsLane v ∧ v.w ≠ 0) (hoff : vs.Pairwise RegsApart) (g : Group) {v : LaneVal} (hm : v ∈ vs) :
    Left (vs.foldl LaneVal.put g) v := by
  induction vs generalizing g with
  | nil => simp at hm
  | cons a vs ih =>
    rw [List.pairwise_cons] at hoff
    rcases List.mem_cons.mp hm with rfl | hm
    · obtain ⟨hfit, hw⟩ := hv v List.mem_cons_self
      exact List.foldlRecOn (motive := fun h : Group => Left h v) vs LaneVal.put (left_put g hfit hw) fun t ht b hb =>
        left_put_ne t hfit hw (hv b (List.mem_cons_of_mem _ hb)).1 (hoff.1 b hb) ht
    · exact ih (fun x hx => hv x (List.mem_cons_of_mem _ hx)) hoff.2 (LaneVal.put g a) hm

/-- Registers loaded with zero read zero as one number. -/
theorem vN_zero (g : Group) (k d l : Nat) (h : ∀ j, j < k → g.v32 (d + j) l = 0) : g.vN k d l = 0 := by
  induction k generalizing d with
  | zero => rfl
  | succ k ih =>
    rw [Group.vN, ih (d + 1) fun j hj => by rw [Nat.add_right_comm]; exact h (j + 1) (by omega), show g.v32 d l = 0 from h 0 (by omega)]
    rfl

theorem vN_of_left {g : Group} {d l w : Nat} (h : Loaded g false d l 0 w 0) : g.vN (regCount w) d l = 0 := by
  refine vN_zero g _ d l fun j hj => ?_
  unfold Loaded at h
  unfold regCount at hj
  by_cases h4 : w < 4
  · rw [if_pos h4] at h hj
    obtain rfl : j = 0 := by omega
    exact h
  · rw [if_neg h4] at h hj
    simpa using h j hj

/-- What accesses leave changes vector registers, and the predicates of LDNR. -/
theorem put_rest (g : Group) (v : LaneVal) :
    LaneVal.put g v = { g with v := (LaneVal.put g v).v, dirtyV := (LaneVal.put g v).dirtyV, p := (LaneVal.put g v).p } := by
  have hload : (if v.w = 0 then g else putLoad g v.sx v.d v.lane v.off v.w v.val) = { g with
      v := (if v.w = 0 then g else putLoad g v.sx v.d v.lane v.off v.w v.val).v,
      dirtyV := (if v.w = 0 then g else putLoad g v.sx v.d v.lane v.off v.w v.val).dirtyV } := by
    unfold putLoad
    split
    · rfl
    · split
      · rw [setV32_rest]
      · rw [setVN_rest]
  unfold LaneVal.put
  dsimp only
  rw [hload]
  split
  · rfl
  · rw [psetMask_rest]

theorem puts_rest (vs : List LaneVal) (g : Group) : ∃ v dirtyV p, vs.foldl LaneVal.put g = { g with v := v, dirtyV := dirtyV, p := p } :=
  List.foldlRecOn (motive := fun h : Group => ∃ v dirtyV p, h = { g with v := v, dirtyV := dirtyV, p := p }) vs LaneVal.put ⟨_, _, _, rfl⟩
    fun t ht v _ => by
      obtain ⟨_, _, _, rfl⟩ := ht
      exact ⟨_, _, _, put_rest _ v⟩

theorem puts_p {vs : List LaneVal} (h : ∀ v ∈ vs, v.flag = none) (g : Group) : (vs.foldl LaneVal.put g).p = g.p :=
  List.foldlRecOn (motive := fun h : Group => h.p = g.p) vs LaneVal.put rfl fun t ht v hv => by
    unfold LaneVal.put putLoad
    rw [h v hv]
    dsimp only
    split
    · exact ht
    · split
      · exact ht
      · rw [setVN_rest]
        exact ht

theorem put_pred (g : Group) {v : LaneVal} {p l : Nat} {b : Bool} (hp : p ≠ 0) (hl : l < 64) (hf : v.flag = some (p, b)) :
    (LaneVal.put g v).pred p l = if v.lane = l then b else g.pred p l := by
  have hbit : (laneBit v.lane).getLsbD l = decide (v.lane = l) := by
    rw [laneBit, BitVec.getLsbD_shiftLeft, show (1 : BitVec 64) = 1#64 from rfl, BitVec.getLsbD_one, Bool.eq_iff_iff]
    simp only [Bool.and_eq_true, Bool.not_eq_true', decide_eq_true_eq, decide_eq_false_iff_not]
    omega
  have hpred : (if v.w = 0 then g else putLoad g v.sx v.d v.lane v.off v.w v.val).pred p l = g.pred p l := by
    unfold putLoad
    split
    · rfl
    · split
      · rfl
      · rw [setVN_rest]
        rfl
  have hfill : (if b = true then ~~~ (0 : DWord) else 0).getLsbD l = b := by
    cases b
    · exact BitVec.getLsbD_zero
    · rw [if_pos rfl, BitVec.getLsbD_not, show (0 : DWord).getLsbD l = false from BitVec.getLsbD_zero, decide_eq_true hl]
      rfl
  unfold LaneVal.put
  rw [hf]
  dsimp only
  rw [pred_psetMask _ _ _ _ _ _ hl, hpred, hbit, hfill]
  simp [hp]

/-- The flag that a lane was left, where every value for the lane bears it. -/
theorem puts_pred {vs : List LaneVal} {p l : Nat} {b : Bool} (hp : p ≠ 0) (hl : l < 64)
    (hall : ∀ v ∈ vs, ∃ c, v.flag = some (p, c) ∧ (v.lane = l → c = b)) (hex : ∃ v ∈ vs, v.lane = l) (g : Group) :
    (vs.foldl LaneVal.put g).pred p l = b := by
  have hkeep : ∀ (us : List LaneVal), (∀ u ∈ us, u ∈ vs) → ∀ h : Group, h.pred p l = b → (us.foldl LaneVal.put h).pred p l = b := fun us hus h hb =>
    List.foldlRecOn (motive := fun h : Group => h.pred p l = b) us LaneVal.put hb fun t ht u hu => by
      obtain ⟨c, hc, hcb⟩ := hall u (hus u hu)
      rw [put_pred t hp hl hc]
      split
      · next hul => exact hcb hul
      · exact ht
  obtain ⟨v, hv, hvl⟩ := hex
  obtain ⟨us, ws, rfl⟩ := List.append_of_mem hv
  obtain ⟨c, hc, hcb⟩ := hall v hv
  rw [List.foldl_append, List.foldl_cons]
  refine hkeep ws (fun u hu => by simp [hu]) _ ?_
  rw [put_pred _ hp hl hc, if_pos hvl, hcb hvl]

end Sys2Proof.Proofs
end

section
namespace Sys2Proof.Proofs
open Sys2Proof.Machine Sys2Proof.Says Sys2Proof.Laws

/-! ## Pieces of lanes' accesses (R11, R109, R226) -/

/-- A piece of an access of `w` bytes: it takes registers of its operand, and below 4 bytes stands at its start. -/
def PieceOk (w : Nat) (p : Piece) : Prop := p.w ≠ 0 ∧ (p.w < 4 → p.off = 0) ∧ p.off / 4 + regCount p.w ≤ regCount w
/-- Two pieces of different lanes, or for different registers. -/
def PiecesApart (p q : Piece) : Prop := p.lane ≠ q.lane ∨ p.off / 4 + regCount p.w ≤ q.off / 4
/-- The pieces of lanes. -/
def LanePieces (w : Nat) (ls : List Nat) (ps : List Piece) : Prop := (∀ p ∈ ps, p.lane ∈ ls ∧ PieceOk w p) ∧ ps.Pairwise PiecesApart

theorem lanePieces_one {w l : Nat} (va : DWord) (hw : w ≠ 0) : LanePieces w [l] [{ lane := l, va := va, w := w, off := 0 }] := by
  refine ⟨fun p hp => ?_, List.pairwise_singleton ..⟩
  obtain rfl := List.mem_singleton.mp hp
  exact ⟨List.mem_singleton_self l, hw, fun _ => rfl, by simp⟩

theorem lanePieces_words {w l : Nat} (va : Nat → DWord) (h4 : 4 < w) :
    LanePieces w [l] ((List.range (w / 4)).map (fun i => { lane := l, va := va i, w := 4, off := 4 * i })) := by
  constructor
  · intro p hp
    obtain ⟨i, hi, rfl⟩ := List.mem_map.mp hp
    rw [List.mem_range] at hi
    refine ⟨List.mem_singleton_self l, Nat.succ_ne_zero 3, fun h => absurd h (Nat.lt_irrefl 4), ?_⟩
    show 4 * i / 4 + regCount 4 ≤ regCount w
    rw [show regCount 4 = 1 from rfl, regCount, if_neg (by omega)]
    omega
  · rw [List.pairwise_map]
    refine List.pairwise_lt_range.imp fun {i j} hij => .inr ?_
    show 4 * i / 4 + regCount 4 ≤ 4 * j / 4
    rw [show regCount 4 = 1 from rfl]
    omega

theorem lanePieces_ok {s : State} {ad : Addr} {off : Off} {w l : Nat} {ps : List Piece} (hw : w ≠ 0) (h : s.lanePieces ad off w l = .ok ps) :
    LanePieces w [l] ps := by
  unfold State.lanePieces at h
  dsimp only at h
  split at h
  · split at h
    · exact absurd h nofun
    · split at h
      · exact absurd h nofun
      · split at h
        · cases h
          exact lanePieces_one _ hw
        · cases h
          exact lanePieces_words _ (by omega)
  · cases h
    exact lanePieces_one _ hw

theorem xlatePieces_pieces {s : State} {k : AKind} {ps : List Piece} {pg : Pages} {r : List (Piece × Xlate) × Pages}
    (h : s.xlatePieces k pg ps = .ok r) : r.1.map Prod.fst = ps := by
  induction ps generalizing pg r with
  | nil =>
    cases h
    rfl
  | cons p ps ih =>
    rw [State.xlatePieces] at h
    split at h
    · exact absurd h nofun
    · next x pg2 _ =>
      cases hr : s.xlatePieces k pg2 ps with
      | error e =>
        rw [hr] at h
        exact absurd h nofun
      | ok q =>
        rw [hr] at h
        cases h
        exact congrArg (p :: ·) (ih hr)

theorem LanePieces.append {w l : Nat} {ls : List Nat} {ps qs : List Piece} (hl : l ∉ ls) (hp : LanePieces w [l] ps) (hq : LanePieces w ls qs) :
    LanePieces w (l :: ls) (ps ++ qs) := by
  refine ⟨fun p hm => ?_, List.pairwise_append.mpr ⟨hp.2, hq.2, fun p hpm q hqm => .inl ?_⟩⟩
  · rcases List.mem_append.mp hm with hm | hm
    · obtain ⟨hlane, hok⟩ := hp.1 p hm
      exact ⟨List.mem_singleton.mp hlane ▸ List.mem_cons_self, hok⟩
    · obtain ⟨hlane, hok⟩ := hq.1 p hm
      exact ⟨List.mem_cons_of_mem _ hlane, hok⟩
  · rw [List.mem_singleton.mp (hp.1 p hpm).1]
    exact fun he => hl (he ▸ (hq.1 q hqm).1)

theorem planIn_pieces {s : State} {k : AKind} {ad : Addr} {off : Off} {w : Nat} (hw : w ≠ 0) {ls : List Nat} (hl : ls.Nodup) {pg : Pages}
    {ps : List (Piece × Xlate)} (h : s.planIn k ad off w pg ls = .ok ps) : LanePieces w ls (ps.map Prod.fst) := by
  induction ls generalizing pg ps with
  | nil =>
    cases h
    exact ⟨nofun, .nil⟩
  | cons l ls ih =>
    rw [List.nodup_cons] at hl
    rw [State.planIn] at h
    split at h
    · exact absurd h nofun
    · next pcs hpcs =>
      split at h
      · exact absurd h nofun
      · next r hr =>
        cases hq : s.planIn k ad off w r.2 ls with
        | error e =>
          rw [hq] at h
          exact absurd h nofun
        | ok q =>
          rw [hq] at h
          cases h
          rw [List.map_append, xlatePieces_pieces hr]
          exact (lanePieces_ok hw hpcs).append hl.1 (ih hl.2 hq)

/-- Lanes of LDNR whose page is not resident have no piece. -/
theorem planNrIn_pieces {s : State} {ad : Addr} {off : Off} {w : Nat} (hw : w ≠ 0) {ls : List Nat} (hl : ls.Nodup) {pg : Pages}
    {r : List Nat × List (Piece × Xlate)} (h : s.planNrIn ad off w pg ls = .ok r) :
    LanePieces w ls (r.2.map Prod.fst) ∧ (∀ e ∈ r.2, e.1.w = w ∧ e.1.off = 0) ∧ (∀ l ∈ r.1, l ∈ ls ∧ ∀ e ∈ r.2, e.1.lane ≠ l) ∧ r.1.Nodup := by
  induction ls generalizing pg r with
  | nil =>
    cases h
    exact ⟨⟨nofun, .nil⟩, nofun, nofun, .nil⟩
  | cons l ls ih =>
    rw [List.nodup_cons] at hl
    rw [State.planNrIn] at h
    split at h
    · next pg2 _ =>
      split at h
      · cases hq : s.planNrIn ad off w pg2 ls with
        | error e =>
          rw [hq] at h
          exact absurd h nofun
        | ok q =>
          rw [hq] at h
          cases h
          obtain ⟨⟨hin, hpw⟩, hwhole, hnr, hnd⟩ := ih hl.2 hq
          refine ⟨⟨fun p hp => ⟨List.mem_cons_of_mem _ (hin p hp).1, (hin p hp).2⟩, hpw⟩, hwhole, fun i hi => ?_,
            List.nodup_cons.mpr ⟨fun hm => hl.1 (hnr l hm).1, hnd⟩⟩
          rcases List.mem_cons.mp hi with rfl | hi
          · exact ⟨List.mem_cons_self, fun e he hlane => hl.1 (hlane ▸ (hin e.1 (List.mem_map_of_mem he)).1)⟩
          · exact ⟨List.mem_cons_of_mem _ (hnr i hi).1, (hnr i hi).2⟩
      · exact absurd h nofun
    · next x pg2 _ =>
      cases hq : s.planNrIn ad off w pg2 ls with
      | error e =>
        rw [hq] at h
        exact absurd h nofun
      | ok q =>
        rw [hq] at h
        cases h
        obtain ⟨hps, hwhole, hnr, hnd⟩ := ih hl.2 hq
        refine ⟨(lanePieces_one _ hw).append hl.1 hps, fun e he => ?_, fun i hi => ⟨List.mem_cons_of_mem _ (hnr i hi).1, fun e he => ?_⟩, hnd⟩
        · rcases List.mem_cons.mp he with rfl | he
          · exact ⟨rfl, rfl⟩
          · exact hwhole e he
        · rcases List.mem_cons.mp he with rfl | he
          · exact fun hlane : l = i => hl.1 (hlane ▸ (hnr i hi).1)
          · exact (hnr i hi).2 e he

theorem bytes_ne_zero (w : Width) : w.bytes ≠ 0 := by cases w <;> decide

theorem regCount_bytes (w : Width) : regCount w.bytes = w.regs := by cases w <;> rfl

end Sys2Proof.Proofs
end

section
namespace Sys2Proof.Proofs
open Sys2Proof.Machine Sys2Proof.Says Sys2Proof.Laws

/-! ## Accesses performed at an L2 (R54) -/

/-- A line after an access of it has performed. -/
def lineAfter (x : Line) (a : Access) : Line :=
  let put := fun (n : Nat) => { x with
    data := linePut x.data (a.pa % 128) (toBytes a.w n), dt := true, dv := true, kid := a.kid, pz := x.pz && !((toBytes a.w n).length == 128) }
  match a.op with
  | .load _ _ => { x with kid := a.kid }
  | .store d => put d.toNat
  | .atom op _ p q => put (atomNew op (8 * a.w) (lineNum x.data (a.pa % 128) a.w) p.toNat q.toNat)

section

variable (s : State) (a : Access)

theorem l2line_setL2_at (die la d l : Nat) (x : Line) :
    (s.setL2 die la x).l2line d l = if l2key d l = l2key die la then x else s.l2line d l := by
  unfold State.l2line State.setL2
  split
  · next h => rw [h, getD_setD_self]
  · next h => exact getD_setD_ne _ _ _ h

theorem l2line_key {s : State} {d l die la : Nat} (h : l2key d l = l2key die la) : s.l2line d l = s.l2line die la := by
  rw [State.l2line, State.l2line, h]

theorem l2line_effect (d la : Nat) : (s.effect a).1.l2line d la =
    if l2key d la = l2key a.die (a.pa / 128) then lineAfter (s.l2line d la) a else s.l2line d la := by
  have hset : ∀ x : Line, x = lineAfter (s.l2line a.die (a.pa / 128)) a → (s.setL2 a.die (a.pa / 128) x).l2line d la =
      if l2key d la = l2key a.die (a.pa / 128) then lineAfter (s.l2line d la) a else s.l2line d la := fun x hx => by
    rw [l2line_setL2_at, hx]
    split
    · next h => rw [l2line_key h]
    · rfl
  unfold State.effect
  cases ho : a.op <;> refine hset _ ?_ <;> unfold lineAfter <;> rw [ho]

theorem effect_rest : ∃ l2 stale, (s.effect a).1 = { s with l2 := l2, stale := stale } := by
  unfold State.effect
  dsimp only
  split <;> exact ⟨_, _, rfl⟩

theorem perform_rest : ∃ l2 stale groups, s.perform a = { s with l2 := l2, stale := stale, groups := groups } := by
  obtain ⟨_, _, h⟩ := effect_rest s a
  unfold State.perform
  dsimp only
  rw [h]
  exact ⟨_, _, _, rfl⟩

theorem l2line_perform (d la : Nat) : (s.perform a).l2line d la =
    if l2key d la = l2key a.die (a.pa / 128) then lineAfter (s.l2line d la) a else s.l2line d la := l2line_effect s a d la

end

/-! ## Accesses of an instruction performed at issue (R54, R93) -/

/-- An access may perform: the L2 admits it, and it consumes no poison. -/
def Goes (s : State) (a : Access) : Prop := s.admits a = true ∧ s.consumesPoison a = false

/-- A line keeps its tokens and its data through an access, and gets no poison. -/
theorem perform_line (s : State) (b : Access) (d la : Nat) :
    ((s.perform b).l2line d la).tc = (s.l2line d la).tc ∧ ((s.l2line d la).dv = true → ((s.perform b).l2line d la).dv = true) ∧
      ((s.l2line d la).pz = false → ((s.perform b).l2line d la).pz = false) := by
  rw [l2line_perform]
  split
  · unfold lineAfter
    cases b.op
    · exact ⟨rfl, id, id⟩
    all_goals exact ⟨rfl, fun _ => rfl, fun h => by simp [h]⟩
  · exact ⟨rfl, id, id⟩

/-- Performing an access lets every other go that might. -/
theorem goes_perform {s : State} {a : Access} (b : Access) (h : Goes s a) : Goes (s.perform b) a := by
  obtain ⟨htc, hdv, hpz⟩ := perform_line s b a.die (a.pa / 128)
  obtain ⟨hadm, hcon⟩ := h
  constructor
  · unfold State.admits State.canWrite State.canRead at *
    rw [htc]
    split at hadm
    · next hw => rwa [if_pos hw]
    · next hw =>
      rw [if_neg hw]
      rw [Bool.and_eq_true] at hadm ⊢
      exact ⟨hadm.1, hdv hadm.2⟩
  · unfold State.consumesPoison at *
    rw [Bool.and_eq_false_iff] at hcon ⊢
    exact hcon.imp_right hpz

theorem issueOne_performs {s : State} {a : Access} (hp : s.pend = []) (hk : a.kind = .coherent) (h : Goes s a) : s.issueOne a = s.perform a := by
  obtain ⟨hadm, hcon⟩ := h
  unfold State.issueOne
  simp only [hk, hp, hadm, hcon, List.any_nil, Bool.not_false, Bool.and_self, if_true]

theorem issueOnes_perform {as : List Access} {s : State} (hp : s.pend = []) (h : ∀ a ∈ as, a.kind = .coherent ∧ Goes s a) :
    as.foldl (fun t a => t.issueOne a) s = as.foldl State.perform s := by
  induction as generalizing s with
  | nil => rfl
  | cons a as ih =>
    obtain ⟨hk, hg⟩ := h a List.mem_cons_self
    rw [List.foldl_cons, List.foldl_cons, issueOne_performs hp hk hg]
    obtain ⟨_, _, _, hrest⟩ := perform_rest s a
    refine ih (by rw [hrest]; exact hp) fun b hb => ?_
    obtain ⟨hkb, hgb⟩ := h b (List.mem_cons_of_mem _ hb)
    exact ⟨hkb, goes_perform a hgb⟩

/-- What accesses leave for their lanes as they perform one after the other. -/
def answers : State → List Access → List LaneVal
  | _, [] => []
  | s, a :: as => a.laneVal (s.effect a).2 false :: answers (s.perform a) as

/-- `h` is the group `g` with values appended to the instruction `id` in flight. -/
def Gave (g h : Group) (id : Nat) (vs : List LaneVal) : Prop :=
  h = { g with flights := g.flights.map (fun f => if f.id == id then { f with vals := f.vals ++ vs } else f), outs := h.outs } ∧
    h.outs.map (fun o => o.flight) = g.outs.map (fun o => o.flight)

theorem Gave.trans {g h k : Group} {id : Nat} {vs ws : List LaneVal} (h1 : Gave g h id vs) (h2 : Gave h k id ws) : Gave g k id (vs ++ ws) := by
  obtain ⟨e1, o1⟩ := h1
  obtain ⟨e2, o2⟩ := h2
  refine ⟨?_, o2.trans o1⟩
  rw [e2, e1]
  dsimp only
  rw [List.map_map]
  congr 1
  refine List.map_congr_left fun f _ => ?_
  by_cases hid : f.id = id <;> simp [hid]

theorem perform_gave (s : State) (a : Access) : Gave (s.group a.grp) ((s.perform a).group a.grp) a.flight [a.laneVal (s.effect a).2 false] := by
  obtain ⟨_, _, h⟩ := effect_rest s a
  have hg : (s.effect a).1.group a.grp = s.group a.grp := by rw [h]; rfl
  unfold State.perform
  rw [group_gave_self, hg]
  refine ⟨rfl, ?_⟩
  rw [List.map_map]
  exact List.map_congr_left fun o _ => outst_result_flight a _ o

theorem performs_spec {as : List Access} {k id : Nat} (h : ∀ a ∈ as, a.grp = k ∧ a.flight = id) (s : State) :
    (∃ l2 stale groups, as.foldl State.perform s = { s with l2 := l2, stale := stale, groups := groups }) ∧
    (∀ j, j ≠ k → (as.foldl State.perform s).group j = s.group j) ∧
    Gave (s.group k) ((as.foldl State.perform s).group k) id (answers s as) := by
  induction as generalizing s with
  | nil => exact ⟨⟨s.l2, s.stale, s.groups, rfl⟩, fun _ _ => rfl, by simp [answers], rfl⟩
  | cons a as ih =>
    obtain ⟨⟨_, _, _, hrest⟩, hne, hgave⟩ := ih (fun b hb => h b (List.mem_cons_of_mem _ hb)) (s.perform a)
    obtain ⟨_, _, _, hone⟩ := perform_rest s a
    obtain ⟨rfl, rfl⟩ := h a List.mem_cons_self
    rw [List.foldl_cons]
    refine ⟨?_, fun j hj => (hne j hj).trans ?_, (perform_gave s a).trans hgave⟩
    · rw [hrest, hone]
      exact ⟨_, _, _, rfl⟩
    · unfold State.perform
      rw [group_gave_ne _ _ _ _ hj]
      obtain ⟨_, _, heff⟩ := effect_rest s a
      rw [heff]
      rfl

/-! ## Bytes that stay (R54, R69) -/

/-- A byte keeps its value where the L2s' copies of its line do, and no copy at the host is open. -/
theorem byteNow_lines (u : State) (l2 : SMap Line) (stale : SMap Word) (groups : SMap Group) (free : Nat) {kid : BitVec 6} {a : Nat}
    (hm : u.hostMay (a / 128) = false)
    (h : ∀ d, d < 4 → let t : State := { u with l2 := l2, stale := stale, groups := groups, free := free }
      (t.l2line d (a / 128)).ow = (u.l2line d (a / 128)).ow ∧
      lineByte (t.l2line d (a / 128)).data (a % 128) = lineByte (u.l2line d (a / 128)).data (a % 128)) :
    State.byteNow { u with l2 := l2, stale := stale, groups := groups, free := free } kid a = u.byteNow kid a := by
  generalize ht : ({ u with l2 := l2, stale := stale, groups := groups, free := free } : State) = t at h ⊢
  have hmt : t.hostMay (a / 128) = false := by rw [← ht]; exact hm
  have hfind : (List.range 4).find? (fun d => (t.l2line d (a / 128)).ow) = (List.range 4).find? (fun d => (u.l2line d (a / 128)).ow) := by
    refine List.find?_congr fun d hd => ?_
    exact (h d (List.mem_range.mp hd)).1
  unfold State.byteNow State.liveCopy State.ownerCopy
  rw [hfind, hm, hmt]
  cases hd : (List.range 4).find? (fun d => (u.l2line d (a / 128)).ow) with
  | some d =>
    exact (h d (List.mem_range.mp (List.mem_of_find?_eq_some hd))).2
  | none =>
    rw [← ht]
    rfl

end Sys2Proof.Proofs
end

section
namespace Sys2Proof.Proofs
open Sys2Proof.Machine Sys2Proof.Says Sys2Proof.Laws

/-! ## The issue of accesses that all perform at once (R54, R93) -/

theorem usePlan_side (s : State) (k : AKind) (ps : List (Piece × Xlate)) : MemorySide s (s.usePlan k ps) :=
  List.foldlRecOn (motive := MemorySide s) ps _ (.refl s) fun t ht _ _ => ht.trans (useXlate_side t _ _ _ _ _)

/-- Coherent pieces are single accesses, and none of a fresh instruction has performed before. -/
theorem pieces_whole {ps : List (Piece × Xlate)} (hcl : ∀ e ∈ ps, e.2.cl = 0) : ps.flatMap splitUnit = ps := by
  have hone : ∀ e ∈ ps, splitUnit e = [e] := fun e he => if_neg (by rw [hcl e he]; omega)
  rw [List.flatMap_congr hone, List.flatMap_singleton']

theorem keptOf_none {s : State} (hf : Fresh s) (p : Piece) : s.curGroup.keptOf s.cur.pc p = none := by
  obtain ⟨hkept, -⟩ := hf
  refine List.find?_eq_none.mpr fun x hx => ?_
  simp [hkept x hx]

theorem units_whole {s : State} {ps : List (Piece × Xlate)} (hf : Fresh s) (hcl : ∀ e ∈ ps, e.2.cl = 0) : s.units ps = ps := by
  rw [State.units, pieces_whole hcl]
  exact List.filter_eq_self.mpr fun e _ => by rw [keptOf_none hf]; rfl

/-- The accesses of pieces. -/
def accessesOf (s : State) (o : GOp) (ps : List (Piece × Xlate)) : List Access :=
  numbered s s.curGroup.nextId o (s.freeRids s.curGroup.place.die ps.length) s.nextAcc ps
/-- The translations are used and the instruction is in flight. -/
def issuing (s : State) (o : GOp) (ps : List (Piece × Xlate)) : State :=
  (s.usePlan o.kind ps).setCurGroup { s.curGroup.raise { s.flight .g s.curGroup.nextId o.isLoad o.dst with vals := o.pre } with
    kept := s.curGroup.kept.filter (fun x => !(([] : List Kept).contains x)) }

/-- What each access is of its piece, whatever its number. -/
theorem numbered_map {α : Type} (s : State) (fl : Nat) (o : GOp) (f : Access → α) (g : Piece × Xlate → α) {ps : List (Piece × Xlate)}
    (h : ∀ n, ∀ e ∈ ps, f (mkAccess s fl o n e) = g e) (rids : List Nat) (n : Nat) : (numbered s fl o rids n ps).map f = ps.map g := by
  induction ps generalizing rids n with
  | nil => rfl
  | cons e ps ih =>
    rw [numbered]
    have hrest := ih fun n e he => h n e (List.mem_cons_of_mem _ he)
    split
    · rw [List.map_cons, List.map_cons, h _ e List.mem_cons_self, hrest]
    · rw [List.map_cons, List.map_cons, h _ e List.mem_cons_self, hrest]

theorem mem_numbered {s : State} {fl : Nat} {o : GOp} {rids : List Nat} {n : Nat} {ps : List (Piece × Xlate)} {a : Access}
    (h : a ∈ numbered s fl o rids n ps) : ∃ i, ∃ e ∈ ps, a = mkAccess s fl o i e := by
  induction ps generalizing rids n with
  | nil => simp [numbered] at h
  | cons e ps ih =>
    rw [numbered] at h
    split at h <;> rcases List.mem_cons.mp h with rfl | h
    · exact ⟨_, e, List.mem_cons_self, rfl⟩
    · obtain ⟨i, x, hx, hax⟩ := ih h
      exact ⟨i, x, List.mem_cons_of_mem _ hx, hax⟩
    · exact ⟨_, e, List.mem_cons_self, rfl⟩
    · obtain ⟨i, x, hx, hax⟩ := ih h
      exact ⟨i, x, List.mem_cons_of_mem _ hx, hax⟩

/-- An instruction whose operations are of one kind: all write, or all read alone. -/
structure OneKind (o : GOp) : Prop where
  inOrder : o.mixed = false
  notHome : o.home = false
  writes : ∀ p, (o.op p).isWrite = o.kind.writes
  reads : ∀ p, (o.op p).reads = true → o.kind ≠ .store

section

variable {s : State} {o : GOp} {ps : List (Piece × Xlate)}

theorem l2line_issuing (s : State) (o : GOp) (ps : List (Piece × Xlate)) (d la : Nat) :
    (issuing s o ps).l2line d la = (s.usePlan o.kind ps).l2line d la := rfl

/-- Every access of a ready instruction may perform. -/
theorem accessesOf_go (h : Ready s o ps) (ho : OneKind o) : ∀ a ∈ accessesOf s o ps, a.kind = .coherent ∧ Goes (issuing s o ps) a := by
  intro a ha
  obtain ⟨i, e, he, rfl⟩ := mem_numbered ha
  obtain ⟨-, -, -, hready⟩ := h
  obtain ⟨hcl, -, hdv, hpz, htc⟩ := hready e he
  refine ⟨?_, ?_, ?_⟩
  · show kindOf e.2.cl o.home = .coherent
    rw [hcl, ho.notHome]
    rfl
  · show (if (o.op e.1).isWrite then (issuing s o ps).canWrite (myDie s) (e.2.pa / 128) else (issuing s o ps).canRead (myDie s) (e.2.pa / 128)) = true
    rw [State.canWrite, State.canRead, l2line_issuing, ho.writes]
    split at htc
    · next hw => rw [if_pos hw, htc]; rfl
    · next hw => rw [if_neg hw, hdv, decide_eq_true htc]; rfl
  · show ((o.op e.1).reads && ((issuing s o ps).l2line (myDie s) (e.2.pa / 128)).pz) = false
    rw [l2line_issuing, Bool.and_eq_false_iff, ← Bool.not_eq_true]
    rcases hpz with hstore | ⟨-, hpz⟩
    · exact .inl fun hr => ho.reads e.1 hr hstore
    · exact .inr hpz

theorem issuing_pend (h : Ready s o ps) : (issuing s o ps).pend = [] := by
  obtain ⟨-, hp, -⟩ := h
  exact ((usePlan_side s o.kind ps).congr State.pend rfl).trans hp

/-- A ready instruction issues its accesses, they perform, and it ends. -/
theorem issueAccesses_eq (h : Ready s o ps) (ho : OneKind o) : ∃ free, s.issueAccesses o ps =
    State.finishFlight { (accessesOf s o ps).foldl State.perform (issuing s o ps) with free := free } s.cur.grp s.curGroup.nextId := by
  have hpend := issuing_pend h
  have hperf := issueOnes_perform hpend (accessesOf_go h ho)
  have hleft : ((accessesOf s o ps).foldl State.perform (issuing s o ps)).pend = [] := by
    have hids : ∀ a ∈ accessesOf s o ps, a.grp = s.cur.grp ∧ a.flight = s.curGroup.nextId := fun a ha => by
      obtain ⟨i, e, -, rfl⟩ := mem_numbered ha
      exact ⟨rfl, rfl⟩
    obtain ⟨⟨_, _, _, hrest⟩, -⟩ := performs_spec hids (issuing s o ps)
    rw [hrest]
    exact hpend
  obtain ⟨-, -, hfresh, hready⟩ := id h
  have hcl : ∀ e ∈ ps, e.2.cl = 0 := fun e he => (hready e he).1
  unfold State.issueAccesses
  extract_lets g id us far held f0 fl g1 s1 as_ as2 s2 s3 wait g3 s4
  have hus : us = ps := units_whole hfresh hcl
  have hheld : held = [] := List.filterMap_eq_nil_iff.mpr fun e _ => keptOf_none hfresh e.1
  have hs1 : s1 = issuing s o ps := by
    simp only [s1, g1, fl, hheld, List.map_nil, List.append_nil]
    rfl
  have hs2 : s2 = (accessesOf s o ps).foldl State.perform (issuing s o ps) := by
    simp only [s2, as2, ho.inOrder, Bool.false_eq_true, if_false, as_, hus, hs1]
    exact hperf
  have hwait : wait = false := by
    have hnone : s3.pend = [] := by
      show s2.pend = []
      rw [hs2, hleft]
    simp only [wait, hnone, List.any_nil, Bool.false_and]
  have hs4 : s4 = s3 := if_neg (by rw [hwait]; decide)
  have hs3 : s3 = { (accessesOf s o ps).foldl State.perform (issuing s o ps) with free := s3.free } := by
    rw [← hs2]
  rw [hs4]
  exact ⟨s3.free, congrArg (fun t => State.finishFlight t s.cur.grp id) hs3⟩

theorem gave_flightOf {g h : Group} {id : Nat} {vs : List LaneVal} {f : Flight} (hg : Gave g h id vs) (hf : g.flightOf id = some f) :
    h.flightOf id = some { f with vals := f.vals ++ vs } := by
  obtain ⟨he, -⟩ := hg
  have hid : f.id = id := by simpa using List.find?_some hf
  have hsame : ((fun f : Flight => f.id == id) ∘ fun f => if f.id == id then { f with vals := f.vals ++ vs } else f) = fun f => f.id == id := funext fun x => by
    simp only [Function.comp_apply]
    split <;> rfl
  rw [he, Group.flightOf]
  dsimp only
  rw [List.find?_map, hsame]
  rw [Group.flightOf] at hf
  simp [hf, hid]

/-- A ready instruction ends with its accesses performed: caches as they leave them, and the lanes' registers as they were left. -/
theorem issueAccesses_spec (h : Ready s o ps) (ho : OneKind o) :
    (∃ stale groups free, s.issueAccesses o ps =
      { s.usePlan o.kind ps with
        l2 := ((accessesOf s o ps).foldl State.perform (issuing s o ps)).l2, stale := stale, groups := groups, free := free }) ∧
    ∃ cnt flights kept outs flights2 wait, (s.issueAccesses o ps).curGroup =
      { (o.pre ++ answers (issuing s o ps) (accessesOf s o ps)).foldl LaneVal.put
        { s.curGroup with cnt := cnt, flights := flights, kept := kept, outs := outs } with flights := flights2, wait := wait } := by
  obtain ⟨free, heq⟩ := issueAccesses_eq h ho
  have hids : ∀ a ∈ accessesOf s o ps, a.grp = s.cur.grp ∧ a.flight = s.curGroup.nextId := fun a ha => by
    obtain ⟨i, e, -, rfl⟩ := mem_numbered ha
    exact ⟨rfl, rfl⟩
  obtain ⟨⟨l2, stale, groups, hrest⟩, -, hgave⟩ := performs_spec hids (issuing s o ps)
  have hcur : (issuing s o ps).cur = s.cur := (usePlan_side s o.kind ps).cur
  have hgroup : (issuing s o ps).group s.cur.grp = { s.curGroup.raise { s.flight .g s.curGroup.nextId o.isLoad o.dst with vals := o.pre } with
      kept := s.curGroup.kept.filter (fun x => !(([] : List Kept).contains x)) } := by
    rw [← hcur]
    exact curGroup_setCurGroup ..
  have hflight := gave_flightOf hgave (f := { s.flight .g s.curGroup.nextId o.isLoad o.dst with vals := o.pre })
    (by rw [hgroup]; exact flightOf_raise rfl)
  obtain ⟨-, hpend, ⟨-, hfresh⟩, -⟩ := id h
  generalize hw : ({ (accessesOf s o ps).foldl State.perform (issuing s o ps) with free := free } : State) = w at heq
  have hwg : w.group s.cur.grp = ((accessesOf s o ps).foldl State.perform (issuing s o ps)).group s.cur.grp := by rw [← hw]; rfl
  have hbusy : w.flightBusy s.cur.grp s.curGroup.nextId = false := by
    have hwp : w.pend = [] := by rw [← hw, hrest]; exact issuing_pend h
    have hwh : w.hops = s.hops := by rw [← hw, hrest]; exact (usePlan_side s o.kind ps).congr State.hops rfl
    have houts : (w.group s.cur.grp).outs.map (fun o => o.flight) = s.curGroup.outs.map (fun o => o.flight) := by
      rw [hwg, hgave.2, hgroup]
      rfl
    have hany : (w.group s.cur.grp).outs.any (fun o => o.flight == s.curGroup.nextId) = s.curGroup.outs.any (fun o => o.flight == s.curGroup.nextId) := by
      have := congrArg (fun l => l.any (fun i => i == s.curGroup.nextId)) houts
      simpa only [List.any_map, Function.comp_def] using this
    unfold State.flightBusy at hfresh ⊢
    rw [hwp, hwh, hany]
    rw [hpend] at hfresh
    exact hfresh
  have hend := group_finishFlight hbusy
  rw [← heq, hwg, hflight] at hend
  refine ⟨?_, ?_⟩
  · rw [heq, finishFlight_rest, ← hw, hrest]
    exact ⟨_, _, _, rfl⟩
  · have hc : (s.issueAccesses o ps).cur = s.cur := by
      rw [heq, finishFlight_cur, ← hw, hrest]
      exact hcur
    rw [State.curGroup, hc, hend, hgave.1, hgroup]
    exact ⟨_, _, _, _, _, _, rfl⟩

end

end Sys2Proof.Proofs
end

section
namespace Sys2Proof.Proofs
open Sys2Proof.Machine Sys2Proof.Says Sys2Proof.Laws

/-! ## A global memory instruction that performs at issue (R49, R54, R109) -/

section

variable {s : State} {o : GOp} {ps : List (Piece × Xlate)}

theorem globalAct_issues (act : DWord) (h : Ready s o ps) (ho : OneKind o) :
    (globalAct s act o (.ok ps)).run s = .next (s.retire act (s.issueAccesses o ps).advance) := by
  obtain ⟨hhold, -, hfresh, hready⟩ := h
  have hfar : ps.find? (fun e => e.2.cl == 3 && s.boot.ddn.isNone) = none := List.find?_eq_none.mpr fun e he => by
    simp [(hready e he).1]
  have hclean : (s.units ps).find? (s.poisonedPiece o) = none := by
    rw [units_whole hfresh fun e he => (hready e he).1]
    refine List.find?_eq_none.mpr fun e he => ?_
    obtain ⟨hcl, -, -, hpz, -⟩ := hready e he
    rw [Bool.not_eq_true, State.poisonedPiece]
    rw [if_pos hcl, Bool.and_eq_false_iff, ← Bool.not_eq_true]
    rcases hpz with hstore | ⟨hpz, -⟩
    · exact .inl fun hr => ho.reads e.1 hr hstore
    · exact .inr hpz
  simp only [globalAct, hhold, Bool.false_eq_true, if_false, hfar, hclean]
  rfl

/-- What the accesses of an instruction leave for its lanes. -/
def leftVals (s : State) (o : GOp) (ps : List (Piece × Xlate)) : List LaneVal := o.pre ++ answers (issuing s o ps) (accessesOf s o ps)

/-- `t` is the state after a ready instruction, whose group was `g` when its accesses left their values. -/
structure Completes (s t : State) (o : GOp) (ps : List (Piece × Xlate)) (act : DWord) (g : Group) : Prop where
  continues : Continues s t
  accounted : Accounted s t act
  caches : ∃ stale groups free, t = { s.usePlan o.kind ps with
    l2 := ((accessesOf s o ps).foldl State.perform (issuing s o ps)).l2, stale := stale, groups := groups, free := free }
  before : g.v = s.curGroup.v ∧ g.p = s.curGroup.p
  vector : t.curGroup.v = ((leftVals s o ps).foldl LaneVal.put g).v
  preds : t.curGroup.p = ((leftVals s o ps).foldl LaneVal.put g).p
  others : t.curGroup.s = s.curGroup.s ∧ t.curGroup.j = s.curGroup.j ∧ t.curGroup.g = s.curGroup.g ∧ t.curGroup.fmode = s.curGroup.fmode ∧
    t.curGroup.xm = s.curGroup.xm ∧ t.curGroup.fi = s.curGroup.fi ∧ t.curGroup.tm = s.curGroup.tm

theorem globalAct_completes (act : DWord) (h : Ready s o ps) (ho : OneKind o) :
    ∃ t g, (globalAct s act o (.ok ps)).run s = .next t ∧ Completes s t o ps act g := by
  obtain ⟨⟨_, _, _, hu⟩, cnt, flights, kept, outs, _, _, hg⟩ := issueAccesses_spec h ho
  generalize hbefore : ({ s.curGroup with cnt := cnt, flights := flights, kept := kept, outs := outs } : Group) = g at hg
  obtain ⟨_, _, _, hputs⟩ := puts_rest (leftVals s o ps) g
  unfold leftVals at hputs
  rw [hputs] at hg
  have hcur : (s.issueAccesses o ps).cur = s.cur := by
    rw [hu]
    exact (usePlan_side s o.kind ps).cur
  have hr := retire_retired (act := act) hcur (by rw [hg, ← hbefore]; exact ⟨rfl, rfl, rfl, rfl, rfl, rfl⟩)
  have hrun := globalAct_issues act h ho
  generalize s.retire act (s.issueAccesses o ps).advance = t at hr hrun
  have hown := hr.own
  have hrest := hr.rest
  rw [hg] at hown
  rw [hu] at hrest
  refine ⟨t, g, hrun, hr.continues, hr.accounted, ⟨_, _, _, hrest⟩, ?_, ?_, ?_, ?_⟩
  · rw [← hbefore]
    exact ⟨rfl, rfl⟩
  · rw [leftVals, hputs, hown]
  · rw [leftVals, hputs, hown]
  · rw [hown, ← hbefore]
    exact ⟨rfl, rfl, rfl, rfl, rfl, rfl, rfl⟩

/-- Every byte keeps its value where the accesses keep it in the L2s' copies of its line. -/
theorem Completes.bytesKept {t : State} {act : DWord} {g : Group} (h : Completes s t o ps act g) {qs : List (Piece × Xlate)}
    (hk : ∀ a, a < 2 ^ 52 → (∀ e ∈ qs, a < e.2.pa ∨ e.2.pa + e.1.w ≤ a) → ∀ b ∈ accessesOf s o ps, ∀ u : State, ∀ d, d < 4 →
      ((u.perform b).l2line d (a / 128)).ow = (u.l2line d (a / 128)).ow ∧
      lineByte ((u.perform b).l2line d (a / 128)).data (a % 128) = lineByte (u.l2line d (a / 128)).data (a % 128)) :
    BytesKept (s.usePlan o.kind ps) t qs := by
  intro kid a ha hm hq
  obtain ⟨stale, groups, free, ht⟩ := h.caches
  rw [ht]
  refine byteNow_lines (s.usePlan o.kind ps) _ stale groups free hm fun d hd => ?_
  exact List.foldlRecOn (motive := fun u : State => (u.l2line d (a / 128)).ow = ((s.usePlan o.kind ps).l2line d (a / 128)).ow ∧
      lineByte (u.l2line d (a / 128)).data (a % 128) = lineByte ((s.usePlan o.kind ps).l2line d (a / 128)).data (a % 128))
    (accessesOf s o ps) State.perform (b := issuing s o ps) ⟨rfl, rfl⟩ fun u hu b hb => by
      obtain ⟨how, hdata⟩ := hk a ha hq b hb u d hd
      exact ⟨how.trans hu.1, hdata.trans hu.2⟩

theorem Completes.mem {t : State} {act : DWord} {g : Group} (h : Completes s t o ps act g) : t.mem = (s.usePlan o.kind ps).mem := by
  obtain ⟨_, _, _, ht⟩ := h.caches
  rw [ht]

end

/-! ## Loads (R118, R226, R227) -/

/-- A load leaves data and owner tokens of lines as they were. -/
theorem load_line {a : Access} {sx : Bool} {d : BitVec 11} (ho : a.op = .load sx d) (s : State) (die la : Nat) :
    ((s.perform a).l2line die la).ow = (s.l2line die la).ow ∧ ((s.perform a).l2line die la).data = (s.l2line die la).data := by
  rw [l2line_perform]
  split
  · unfold lineAfter
    rw [ho]
    exact ⟨rfl, rfl⟩
  · exact ⟨rfl, rfl⟩

/-- Loads that perform one after the other each find what stood in its line. -/
theorem answers_loads {as : List Access} (h : ∀ a ∈ as, ∃ sx d, a.op = .load sx d) (s : State) :
    answers s as = as.map (fun a => a.laneVal (lineNum (s.l2line a.die (a.pa / 128)).data (a.pa % 128) a.w) false) := by
  induction as generalizing s with
  | nil => rfl
  | cons a as ih =>
    obtain ⟨sx, d, ho⟩ := h a List.mem_cons_self
    rw [answers, ih (fun b hb => h b (List.mem_cons_of_mem _ hb)), List.map_cons]
    congr 1
    · unfold State.effect
      rw [ho]
    · exact List.map_congr_left fun b _ => by rw [(load_line ho s b.die (b.pa / 128)).2]

/-- What a load leaves for its lane. -/
def loadVal (s : State) (k : AKind) (ps : List (Piece × Xlate)) (sx : Bool) (d : BitVec 11) (dep : Option (BitVec 4)) (e : Piece × Xlate) : LaneVal :=
  { lane := e.1.lane, d := d.toNat, off := e.1.off, w := e.1.w, sx := sx, val := found s k ps e, flag := dep.map (fun p => (p.toNat, false)) }

/-- An instruction that loads. -/
structure Loads (o : GOp) (sx : Bool) (d : BitVec 11) : Prop where
  inOrder : o.mixed = false
  notHome : o.home = false
  kind : o.kind.writes = false
  op : ∀ p, o.op p = .load sx d

theorem Loads.oneKind {o : GOp} {sx : Bool} {d : BitVec 11} (h : Loads o sx d) : OneKind o where
  inOrder := h.inOrder
  notHome := h.notHome
  writes p := by rw [h.op, h.kind]; rfl
  reads p _ hk := absurd h.kind (by rw [hk]; decide)

section

variable {s : State} {o : GOp} {ps : List (Piece × Xlate)} {sx : Bool} {d : BitVec 11}

theorem accessesOf_loads (ho : Loads o sx d) : ∀ a ∈ accessesOf s o ps, a.op = .load sx d := fun a ha => by
  obtain ⟨i, e, -, rfl⟩ := mem_numbered ha
  exact ho.op e.1

theorem leftVals_loads (ho : Loads o sx d) (hl : ∀ e ∈ ps, e.1.lane < 64) : leftVals s o ps = o.pre ++ ps.map (loadVal s o.kind ps sx d o.dep) := by
  rw [leftVals, answers_loads fun a ha => ⟨sx, d, accessesOf_loads ho a ha⟩]
  refine congrArg (o.pre ++ ·) (numbered_map s _ o _ _ (fun n e he => ?_) _ _)
  have hlane : (BitVec.ofNat 6 e.1.lane).toNat = e.1.lane := by
    rw [BitVec.toNat_ofNat]
    exact Nat.mod_eq_of_lt (hl e he)
  unfold Access.laneVal mkAccess loadVal
  dsimp only
  rw [ho.op]
  dsimp only
  rw [hlane]
  rfl

theorem load_bytesKept (ho : Loads o sx d) {t : State} {act : DWord} {g : Group} (h : Completes s t o ps act g) :
    BytesKept (s.usePlan o.kind ps) t [] :=
  h.bytesKept fun a _ _ b hb u die _ => by
    obtain ⟨how, hdata⟩ := load_line (accessesOf_loads ho b hb) u die (a / 128)
    exact ⟨how, by rw [hdata]⟩

/-- What loads leave for pieces of lanes: each for registers of its own in the operand. -/
theorem loadVals_fit {k : AKind} {dep : Option (BitVec 4)} {act : DWord} {w : Nat} (hp : LanePieces w (lanesOf act) (ps.map Prod.fst)) :
    (∀ v ∈ ps.map (loadVal s k ps sx d dep), FitsLane v ∧ v.w ≠ 0) ∧ (ps.map (loadVal s k ps sx d dep)).Pairwise RegsApart ∧
      ∀ v ∈ ps.map (loadVal s k ps sx d dep), ∀ n l, TakesReg v n l → act.getLsbD l = true ∧ d.toNat ≤ n ∧ n < d.toNat + regCount w := by
  obtain ⟨hin, hpw⟩ := hp
  refine ⟨fun v hv => ?_, ?_, fun v hv n l ht => ?_⟩
  · obtain ⟨e, he, rfl⟩ := List.mem_map.mp hv
    obtain ⟨hlane, hw, hoff, -⟩ := hin e.1 (List.mem_map_of_mem he)
    exact ⟨⟨lt_of_mem_lanesOf hlane, hoff⟩, hw⟩
  · rw [List.pairwise_map] at hpw ⊢
    refine hpw.imp fun {a b} hab n ha hb => ?_
    obtain ⟨-, -, -, hhi⟩ := ha
    obtain ⟨-, hlane, hlo, -⟩ := hb
    rcases hab with hne | hle
    · exact hne hlane
    · have h1 : n < d.toNat + a.1.off / 4 + regCount a.1.w := hhi
      have h2 : d.toNat + b.1.off / 4 ≤ n := hlo
      omega
  · obtain ⟨e, he, rfl⟩ := List.mem_map.mp hv
    obtain ⟨hlane, -, -, hreg⟩ := hin e.1 (List.mem_map_of_mem he)
    obtain ⟨-, rfl, hlo, hhi⟩ := ht
    have h1 : n < d.toNat + e.1.off / 4 + regCount e.1.w := hhi
    have h2 : d.toNat + e.1.off / 4 ≤ n := hlo
    exact ⟨(mem_lanesOf ..).mp hlane, by omega, by omega⟩

end

theorem ldOp_loads (m : Mem) (sx : Bool) : Loads (ldOp m sx) sx m.d := ⟨rfl, rfl, rfl, fun _ => rfl⟩

theorem ld_completes {s : State} {sx : Bool} {m : Mem} {ps : List (Piece × Xlate)}
    (hp : s.plan .load m.ad m.off m.w.bytes (lanesOf (s.active m.g)) = .ok ps) (h : Ready s (ldOp m sx) ps) :
    ∃ t, exec (.ld sx m) s = .next t ∧ Continues s t ∧ Accounted s t (s.active m.g) ∧ OtherRegs s t ∧
      OnlyDest s t (s.active m.g) m.d.toNat m.w.regs ∧ t.mem = (s.usePlan .load ps).mem ∧ BytesKept (s.usePlan .load ps) t [] ∧
      ∀ e ∈ ps, Loaded t.curGroup sx m.d.toNat e.1.lane e.1.off e.1.w (found s .load ps e) := by
  have hexec : exec (.ld sx m) s = execLd sx m s := rfl
  obtain ⟨t, g, hrun, hc⟩ := globalAct_completes (s.active m.g) h (ldOp_loads m sx).oneKind
  have hpieces := planIn_pieces (bytes_ne_zero m.w) (nodup_lanesOf _) hp
  obtain ⟨hfit, hoff, hdest⟩ := loadVals_fit (s := s) (ps := ps) (sx := sx) (d := m.d) (k := .load) (dep := none) hpieces
  have hvals : leftVals s (ldOp m sx) ps = ps.map (loadVal s .load ps sx m.d none) :=
    leftVals_loads (ldOp_loads m sx) fun e he => lt_of_mem_lanesOf (hpieces.1 e.1 (List.mem_map_of_mem he)).1
  have hv := hc.vector
  have hpreds := hc.preds
  rw [hvals] at hv hpreds
  rw [puts_p fun v hv => by obtain ⟨e, -, rfl⟩ := List.mem_map.mp hv; rfl, hc.before.2] at hpreds
  obtain ⟨h1, h2, h3, h4, h5, h6, h7⟩ := hc.others
  refine ⟨t, ?_, hc.continues, hc.accounted, ⟨h1, hpreds, h2, h3, h4, h5, h6, h7⟩, fun n l hl hn => ?_, hc.mem, load_bytesKept (ldOp_loads m sx) hc,
    fun e he => ?_⟩
  · rw [hexec, execLd, hp]
    exact hrun
  · rw [v32_congr hv, v32_puts_ne (fun v hv => (hfit v hv).1) hl fun v hv ht => hn ?_]
    · exact v32_congr hc.before.1 n l
    · rw [← regCount_bytes]
      exact hdest v hv n l ht
  · exact loaded_congr hv (left_puts hfit hoff g (List.mem_map_of_mem he))

/-- LDNR, with what its lanes without a page are left. -/
def ldnrOp (pf : BitVec 4) (m : Mem) (nr : List Nat) : GOp :=
  { ldOp m false with
    kind := .ldnr, dep := some pf, dst := Reg.p pf.toNat :: dstRegs m.d.toNat m.w.regs, pre := nr.map (notResident m.d m.w.bytes pf) }

theorem ldnrOp_loads (pf : BitVec 4) (m : Mem) (nr : List Nat) : Loads (ldnrOp pf m nr) false m.d := ⟨rfl, rfl, rfl, fun _ => rfl⟩

/-- The values that LDNR leaves: each for registers of its own in the operand, with the flag of its lane. -/
theorem ldnr_vals {s : State} {pf : BitVec 4} {m : Mem} {nr : List Nat} {ps : List (Piece × Xlate)}
    (hp : s.planNr m.ad m.off m.w.bytes (lanesOf (s.active m.g)) = .ok (nr, ps)) :
    let vs := leftVals s (ldnrOp pf m nr) ps
    vs = nr.map (notResident m.d m.w.bytes pf) ++ ps.map (loadVal s .ldnr ps false m.d (some pf)) ∧ (∀ v ∈ vs, FitsLane v ∧ v.w ≠ 0) ∧
      vs.Pairwise RegsApart ∧
      (∀ v ∈ vs, ∀ n l, TakesReg v n l → (s.active m.g).getLsbD l = true ∧ m.d.toNat ≤ n ∧ n < m.d.toNat + m.w.regs) ∧
      (∀ l ∈ nr, l < 64 ∧ ∀ e ∈ ps, e.1.lane ≠ l) := by
  obtain ⟨hpieces, -, hnr, hnd⟩ := planNrIn_pieces (bytes_ne_zero m.w) (nodup_lanesOf _) hp
  obtain ⟨hfit, hoff, hdest⟩ := loadVals_fit (s := s) (ps := ps) (sx := false) (d := m.d) (k := .ldnr) (dep := some pf) hpieces
  intro vs
  have hvals : vs = nr.map (notResident m.d m.w.bytes pf) ++ ps.map (loadVal s .ldnr ps false m.d (some pf)) :=
    leftVals_loads (ldnrOp_loads pf m nr) fun e he => lt_of_mem_lanesOf (hpieces.1 e.1 (List.mem_map_of_mem he)).1
  rw [regCount_bytes] at hdest
  clear_value vs
  subst hvals
  refine ⟨rfl, fun v hv => ?_, List.pairwise_append.mpr ⟨?_, hoff, fun a ha b hb n _ ht => ?_⟩, fun v hv n l ht => ?_,
    fun l hl => ⟨lt_of_mem_lanesOf (hnr l hl).1, (hnr l hl).2⟩⟩
  · rcases List.mem_append.mp hv with hv | hv
    · obtain ⟨l, hl, rfl⟩ := List.mem_map.mp hv
      exact ⟨⟨lt_of_mem_lanesOf (hnr l hl).1, fun _ => rfl⟩, bytes_ne_zero m.w⟩
    · exact hfit v hv
  · exact List.pairwise_map.mpr (hnd.imp fun hne _ _ ht => hne ht.2.1)
  · obtain ⟨l, hl, rfl⟩ := List.mem_map.mp ha
    obtain ⟨e, he, rfl⟩ := List.mem_map.mp hb
    exact (hnr l hl).2 e he ht.2.1.symm
  · rcases List.mem_append.mp hv with hv | hv
    · obtain ⟨i, hi, rfl⟩ := List.mem_map.mp hv
      obtain ⟨-, hli, hlo, hhi⟩ := ht
      have hlane : l = i := hli
      have h1 : n < m.d.toNat + 0 / 4 + regCount m.w.bytes := hhi
      have h2 : m.d.toNat + 0 / 4 ≤ n := hlo
      rw [regCount_bytes] at h1
      exact ⟨(mem_lanesOf ..).mp (hlane ▸ (hnr i hi).1), by omega, by omega⟩
    · exact hdest v hv n l ht

theorem pred_zero (g : Group) {l : Nat} (hl : l < 64) : g.pred 0 l = true := by
  rw [Group.pred, Group.pmask, if_pos rfl, BitVec.getLsbD_not, show (0 : DWord).getLsbD l = false from BitVec.getLsbD_zero, decide_eq_true hl]
  rfl

theorem pred_congr {g h : Group} (e : g.p = h.p) (n l : Nat) : g.pred n l = h.pred n l := by
  rw [Group.pred, Group.pred, Group.pmask, Group.pmask, e]

theorem vN_congr {g h : Group} (e : g.v = h.v) (k n l : Nat) : g.vN k n l = h.vN k n l := by
  induction k generalizing n with
  | zero => rfl
  | succ k ih => rw [Group.vN, Group.vN, ih, v32_congr e]

theorem ldnr_completes {s : State} {pf : BitVec 4} {m : Mem} {nr : List Nat} {ps : List (Piece × Xlate)}
    (hp : s.planNr m.ad m.off m.w.bytes (lanesOf (s.active m.g)) = .ok (nr, ps)) (h : Ready s (ldnrOp pf m nr) ps) :
    ∃ t, exec (.ldnr pf m) s = .next t ∧ Continues s t ∧ Accounted s t (s.active m.g) ∧ t.curGroup.s = s.curGroup.s ∧
      OnlyDest s t (s.active m.g) m.d.toNat m.w.regs ∧ t.mem = (s.usePlan .ldnr ps).mem ∧ BytesKept (s.usePlan .ldnr ps) t [] ∧
      (∀ l ∈ nr, t.curGroup.vN m.w.regs m.d.toNat l = 0 ∧ t.curGroup.pred pf.toNat l = true) ∧
      ∀ e ∈ ps, Loaded t.curGroup false m.d.toNat e.1.lane e.1.off e.1.w (found s .ldnr ps e) ∧
        (pf ≠ 0 → t.curGroup.pred pf.toNat e.1.lane = false) := by
  have hexec : exec (.ldnr pf m) s = execLdnr pf m s := rfl
  obtain ⟨t, g, hrun, hc⟩ := globalAct_completes (s.active m.g) h (ldnrOp_loads pf m nr).oneKind
  obtain ⟨hvals, hfit, hoff, hdest, hnr⟩ := ldnr_vals (pf := pf) hp
  have hv := hc.vector
  have hpreds := hc.preds
  generalize leftVals s (ldnrOp pf m nr) ps = vs at hv hpreds hvals hfit hoff hdest
  have hloadVal : ∀ e ∈ ps, loadVal s .ldnr ps false m.d (some pf) e ∈ vs := fun e he =>
    hvals ▸ List.mem_append_right _ (List.mem_map_of_mem he)
  have hnrVal : ∀ l ∈ nr, notResident m.d m.w.bytes pf l ∈ vs := fun l hl => hvals ▸ List.mem_append_left _ (List.mem_map_of_mem hl)
  have hflags : ∀ v ∈ vs, ∃ c, v.flag = some (pf.toNat, c) ∧ (c = true ∧ v.lane ∈ nr ∨ c = false ∧ ∃ e ∈ ps, v.lane = e.1.lane) := fun v hm => by
    rw [hvals] at hm
    rcases List.mem_append.mp hm with hm | hm
    · obtain ⟨l, hl, rfl⟩ := List.mem_map.mp hm
      exact ⟨true, rfl, .inl ⟨rfl, hl⟩⟩
    · obtain ⟨e, he, rfl⟩ := List.mem_map.mp hm
      exact ⟨false, rfl, .inr ⟨rfl, e, he, rfl⟩⟩
  refine ⟨t, ?_, hc.continues, hc.accounted, hc.others.1, fun n l hl hn => ?_, hc.mem, load_bytesKept (ldnrOp_loads pf m nr) hc,
    fun l hl => ⟨?_, ?_⟩, fun e he => ⟨loaded_congr hv (left_puts hfit hoff g (hloadVal e he)), fun hpf => ?_⟩⟩
  · rw [hexec, execLdnr, hp]
    exact hrun
  · rw [v32_congr hv, v32_puts_ne (fun v hv => (hfit v hv).1) hl fun v hv ht => hn (hdest v hv n l ht)]
    exact v32_congr hc.before.1 n l
  · rw [← regCount_bytes]
    exact vN_of_left (loaded_congr hv (left_puts hfit hoff g (hnrVal l hl)))
  · by_cases hpf : pf.toNat = 0
    · rw [hpf]
      exact pred_zero _ (hnr l hl).1
    · rw [pred_congr hpreds]
      refine puts_pred hpf (hnr l hl).1 (fun v hm => ?_) ⟨_, hnrVal l hl, rfl⟩ g
      obtain ⟨c, hc, hcase⟩ := hflags v hm
      refine ⟨c, hc, fun hvl => ?_⟩
      rcases hcase with ⟨hct, -⟩ | ⟨-, e, he, hel⟩
      · exact hct
      · exact absurd (hel.symm.trans hvl) ((hnr l hl).2 e he)
  · rw [pred_congr hpreds]
    have hpf0 : pf.toNat ≠ 0 := fun h0 => hpf (BitVec.eq_of_toNat_eq h0)
    refine puts_pred hpf0 (hfit _ (hloadVal e he)).1.1 (fun v hm => ?_) ⟨_, hloadVal e he, rfl⟩ g
    obtain ⟨c, hc, hcase⟩ := hflags v hm
    refine ⟨c, hc, fun hvl => ?_⟩
    rcases hcase with ⟨-, hin⟩ | ⟨hcf, -⟩
    · exact absurd hvl.symm ((hnr _ hin).2 e he)
    · exact hcf

/-! ## Stores (R54, R98, R226) -/

theorem l2key_inj {d die la lb : Nat} (ha : la < 2 ^ 45) (hb : lb < 2 ^ 45) (h : l2key d la = l2key die lb) : la = lb := by
  unfold l2key at h
  omega

/-- A store leaves nothing for its lane. -/
theorem answers_stores {as : List Access} (h : ∀ a ∈ as, ∃ d, a.op = .store d) (s : State) (g : Group) : (answers s as).foldl LaneVal.put g = g := by
  induction as generalizing s g with
  | nil => rfl
  | cons a as ih =>
    obtain ⟨d, ho⟩ := h a List.mem_cons_self
    rw [answers, List.foldl_cons, put_store _ _ ho]
    exact ih (fun b hb => h b (List.mem_cons_of_mem _ hb)) _ g

/-- A store changes data of its line alone, and keeps its owner token. -/
theorem store_line {a : Access} {x : BitVec 128} (ho : a.op = .store x) (s : State) (die la : Nat) :
    ((s.perform a).l2line die la).ow = (s.l2line die la).ow ∧ ((s.perform a).l2line die la).data =
      if l2key die la = l2key a.die (a.pa / 128) then linePut (s.l2line die la).data (a.pa % 128) (toBytes a.w x.toNat) else (s.l2line die la).data := by
  rw [l2line_perform]
  split
  · unfold lineAfter
    rw [ho]
    exact ⟨rfl, rfl⟩
  · exact ⟨rfl, rfl⟩

/-- The line of a store holds its number, if it lies in one line. -/
def Stored (t : State) (a : Access) : Prop :=
  ∀ x, a.op = .store x → a.pa % 128 + a.w ≤ 128 → lineNum (t.l2line a.die (a.pa / 128)).data (a.pa % 128) a.w = x.toNat % 2 ^ (8 * a.w)
/-- Two stores share no byte. -/
def StoresApart (a b : Access) : Prop :=
  (a.pa + a.w ≤ b.pa ∨ b.pa + b.w ≤ a.pa) ∧ a.pa < 2 ^ 52 ∧ b.pa < 2 ^ 52 ∧ ∃ x, b.op = .store x

theorem stored_perform (t : State) (a : Access) : Stored (t.perform a) a := fun x ho hfit => by
  rw [(store_line ho t _ _).2, if_pos rfl, lineNum_linePut _ _ hfit]

theorem stored_perform_ne (t : State) (a b : Access) (h : StoresApart a b) (hs : Stored t a) : Stored (t.perform b) a := fun x ho hfit => by
  obtain ⟨hapart, ha, hb, y, hy⟩ := h
  rw [(store_line hy t _ _).2]
  split
  · next hkey =>
    have hline : a.pa / 128 = b.pa / 128 := l2key_inj (by omega) (by omega) hkey
    rw [lineNum_linePut_ne _ _ hfit (by rw [toBytes_length]; omega)]
    exact hs x ho hfit
  · exact hs x ho hfit

theorem stOp_oneKind (s : State) (m : Mem) : OneKind (stOp s m) := ⟨rfl, rfl, fun _ => rfl, fun _ h => absurd h Bool.false_ne_true⟩

section

variable {s : State} {m : Mem} {ps : List (Piece × Xlate)}

theorem mem_accessesOf_st {a : Access} (ha : a ∈ accessesOf s (stOp s m) ps) :
    ∃ e ∈ ps, a.die = myDie s ∧ a.pa = e.2.pa ∧ a.w = e.1.w ∧ a.op = .store (storeData s.curGroup m.d m.w e.1) := by
  obtain ⟨i, e, he, rfl⟩ := mem_numbered ha
  exact ⟨e, he, rfl, rfl, rfl, rfl⟩

theorem st_bytesKept {t : State} {act : DWord} {g : Group} (h : Ready s (stOp s m) ps) (hc : Completes s t (stOp s m) ps act g) :
    BytesKept (s.usePlan .store ps) t ps :=
  hc.bytesKept fun a ha hq b hb u die _ => by
    obtain ⟨e, he, -, hpa, hw, ho⟩ := mem_accessesOf_st hb
    obtain ⟨how, hdata⟩ := store_line ho u die (a / 128)
    refine ⟨how, ?_⟩
    rw [hdata]
    split
    · next hkey =>
      obtain ⟨-, -, -, hready⟩ := h
      have hpa52 := (hready e he).2.1
      have hline : a / 128 = b.pa / 128 := l2key_inj (by omega) (by omega) hkey
      have hout := hq e he
      exact lineByte_linePut_ne _ _ (by omega) (by rw [toBytes_length]; omega)
    · rfl

/-- The stores of pieces that share no byte share none. -/
theorem accessesOf_apart (h : Ready s (stOp s m) ps) (hp : ps.Pairwise Apart) : (accessesOf s (stOp s m) ps).Pairwise StoresApart := by
  have hplaces : (accessesOf s (stOp s m) ps).map (fun a => (a.pa, a.w)) = ps.map (fun e => (e.2.pa, e.1.w)) := numbered_map s _ _ _ _ (fun _ _ _ => rfl) _ _
  have hapart : ((accessesOf s (stOp s m) ps).map (fun a => (a.pa, a.w))).Pairwise (fun x y => x.1 + x.2 ≤ y.1 ∨ y.1 + y.2 ≤ x.1) := by
    rw [hplaces, List.pairwise_map]
    exact hp
  rw [List.pairwise_map] at hapart
  obtain ⟨-, -, -, hready⟩ := h
  refine hapart.imp_of_mem fun {a b} ha hb hab => ?_
  obtain ⟨e, he, -, hpa, -, -⟩ := mem_accessesOf_st ha
  obtain ⟨f, hf, -, hpb, -, ho⟩ := mem_accessesOf_st hb
  exact ⟨hab, hpa ▸ (hready e he).2.1, hpb ▸ (hready f hf).2.1, _, ho⟩

theorem st_completes (hp : s.plan .store m.ad m.off m.w.bytes (lanesOf (s.active m.g)) = .ok ps) (h : Ready s (stOp s m) ps) :
    ∃ t, exec (.st m) s = .next t ∧ Continues s t ∧ Accounted s t (s.active m.g) ∧ AllRegs s t ∧
      t.mem = (s.usePlan .store ps).mem ∧ BytesKept (s.usePlan .store ps) t ps ∧
      (ps.Pairwise Apart → ∀ e ∈ ps, e.2.pa % 128 + e.1.w ≤ 128 → Holds t (myDie s) e (storeData s.curGroup m.d m.w e.1).toNat) := by
  have hexec : exec (.st m) s = execSt m s := rfl
  obtain ⟨t, g, hrun, hc⟩ := globalAct_completes (s.active m.g) h (stOp_oneKind s m)
  have hvals : (leftVals s (stOp s m) ps).foldl LaneVal.put g = g := answers_stores (fun a ha => by
    obtain ⟨e, -, -, -, -, ho⟩ := mem_accessesOf_st ha
    exact ⟨_, ho⟩) _ g
  have hv := hc.vector
  have hpreds := hc.preds
  rw [hvals, hc.before.1] at hv
  rw [hvals, hc.before.2] at hpreds
  obtain ⟨h1, h2, h3, h4, h5, h6, h7⟩ := hc.others
  refine ⟨t, ?_, hc.continues, hc.accounted, ⟨⟨h1, hpreds, h2, h3, h4, h5, h6, h7⟩, hv⟩, hc.mem, st_bytesKept h hc, fun hapart e he hfit => ?_⟩
  · rw [hexec, execSt, hp]
    exact hrun
  · have hcores : (accessesOf s (stOp s m) ps).map (fun a => (a.die, a.pa, a.w, a.op)) =
        ps.map (fun e => (myDie s, e.2.pa, e.1.w, AccOp.store (storeData s.curGroup m.d m.w e.1))) := numbered_map s _ _ _ _ (fun _ _ _ => rfl) _ _
    obtain ⟨a, ha, hae⟩ := List.mem_map.mp (hcores ▸ List.mem_map_of_mem he)
    obtain ⟨hdie, hpa, hw, ho⟩ : a.die = myDie s ∧ a.pa = e.2.pa ∧ a.w = e.1.w ∧ a.op = .store (storeData s.curGroup m.d m.w e.1) := by
      simpa using hae
    have hstored := foldl_establish (s := issuing s (stOp s m) ps) stored_perform stored_perform_ne (accessesOf_apart h hapart) ha _ ho
      (by rw [hpa, hw]; exact hfit)
    rw [hdie, hpa, hw] at hstored
    obtain ⟨_, _, _, ht⟩ := hc.caches
    unfold Holds
    rw [ht]
    exact hstored

end

/-- Settles O19: the accesses of a ready instruction all perform at its issue, each on its own registers or its own bytes of a line. -/
theorem loadsAndStores : Obligations.LoadsAndStores := by
  unfold Obligations.LoadsAndStores
  exact ⟨⟨fun s sx m ps hp h => ld_completes hp h, fun s pf m nr ps hp h => ldnr_completes hp h⟩, fun s m ps hp h => st_completes hp h⟩

end Sys2Proof.Proofs
end

section
namespace Sys2Proof.Proofs
open Sys2Proof.Machine Sys2Proof.Says Sys2Proof.Laws

/-! ## Home operations that leave the core (R71, R93, R232, R233) -/

/-- The record of a home operation as its group sends it. -/
def sentHop (s : State) (va : DWord) (x : Xlate) (h : Hop) : Hop :=
  { h with
    id := s.nextHop (myDie s), grp := s.cur.grp, die := myDie s, flight := s.curGroup.nextId, home := homeOf x.pa, la := x.pa / 128,
    pa := x.pa / x.page.size * x.page.size, kid := x.kid, va := va.setWidth 57 }

/-- Sending adds the record, and of the group itself the instruction in flight. -/
theorem sendHop_spec (s : State) (k : AKind) (va : DWord) (x : Xlate) (h : Hop) (beats : Nat) (dst : List Reg) (isLoad : Bool) :
    let u := s.sendHop k va x h beats dst isLoad
    u.cur = s.cur ∧ u.hops = s.hops ++ [sentHop s va x h] ∧ u.curGroup = s.curGroup.raise (s.flight .g s.curGroup.nextId isLoad dst) := by
  have hside := useXlate_side s s.curGroup.job (myDie s) va.toNat k x
  have hhops : (s.useXlate s.curGroup.job (myDie s) va.toNat k x).hops = s.hops := hside.congr _ rfl
  refine ⟨hside.cur, ?_, curGroup_setCurGroup _ _⟩
  rw [← hhops]
  rfl

/-- An instruction whose effect is that its home operation leaves: the issue ends, every register as it was. -/
theorem sendRun_of_exec {i : Instr} {s u : State} {act : DWord} {h : Hop} {isLoad : Bool} {dst : List Reg} {w : GroupWait} {p : Hop → Prop}
    {q : State → Prop} (hi : exec i s = (Act.done act u.advance).run s) (hc : u.cur = s.cur) (hh : u.hops = s.hops ++ [h])
    (hg : u.curGroup = { s.curGroup.raise (s.flight .g s.curGroup.nextId isLoad dst) with wait := w }) (hgrp : h.grp = s.cur.grp) (hp : p h)
    (hq : ∀ t : State, t.curGroup.wait = w → q t) : SendRun i s act p q := by
  have hcnt : u.curGroup.cnt.g = s.curGroup.cnt.g + 1 := by
    rw [hg]
    rfl
  have hr := retire_retired (s := s) (u := u) (act := act) hc (by rw [hg]; exact IssueKept.refl _)
  have hregs : AllRegs s u := by simp [AllRegs, OtherRegs, hg, Group.raise]
  refine ⟨_, h, hi, hr.continues, hr.accounted, hr.allRegs hregs, by rw [hr.rest]; exact hh, hgrp, hp, ?_, hq _ ?_⟩
  · rw [hr.own]
    exact hcnt
  · rw [hr.own, hg]

section

variable {s : State}

/-- Without an active lane an APND goes on. -/
theorem apnd_idle {x : ApndOp} (h : s.active x.g = 0) : LanesRun (.apnd x) s 0 (branched s 0 (fun _ x => x)) := by
  have hexec : exec (.apnd x) s = execApnd x s := rfl
  simp only [execApnd, h, if_true] at hexec
  exact lanesRun_none hexec

theorem apnd_sends {x : ApndOp} {y : Xlate} (ha : s.active x.g ≠ 0)
    (hy : s.xlateAs .apnd (s.curGroup.sget x.base.toNat + offVal x.w.bytes x.off) = .ok y) (hp : s.curGroup.pathFull .g = false)
    (hr : s.ridRoom (myDie s) 1 = true) : SendRun (.apnd x) s (s.active x.g)
      (fun h => h.op = 0x20 ∧ h.len = (lanesOf (s.active x.g)).length * (x.w.bytes * (x.cnt.toNat + 1)) ∧ h.st = x.st ∧ h.pf = x.pf ∧
        h.lanes = s.active x.g ∧ h.data = apndData s.curGroup x.d.toNat (x.w.bytes * (x.cnt.toNat + 1)) (lanesOf (s.active x.g)))
      (fun _ => True) := by
  rw [myDie] at hr
  have hexec : exec (.apnd x) s = execApnd x s := rfl
  simp only [execApnd, ha, if_false, hy, hp, hr, Bool.not_true, Bool.or_self, Bool.false_eq_true] at hexec
  obtain ⟨hcur, hhops, hgroup⟩ := sendHop_spec s .apnd _ y _ _ _ _
  exact sendRun_of_exec hexec hcur hhops hgroup rfl ⟨rfl, rfl, rfl, rfl, rfl, rfl⟩ fun _ _ => trivial

variable {x : PageOp} {y : Xlate}

theorem seal_sends (hy : s.xlateAs .seal (s.curGroup.sget x.base.toNat + offVal 1 x.off) = .ok y) (hp : s.curGroup.pathFull .g = false)
    (hq : s.curGroup.quiet = true) (hr : s.ridRoom (myDie s) 1 = true) :
    SendRun (.seal x) s s.cur.lanes (fun h => h.op = 0x22 ∧ h.st = x.d) (fun _ => True) := by
  rw [myDie] at hr
  have hexec : exec (.seal x) s = execSeal x s := rfl
  simp only [execSeal, hy, hp, hq, hr, Bool.not_true, Bool.or_self, Bool.false_eq_true, if_false] at hexec
  obtain ⟨hcur, hhops, hgroup⟩ := sendHop_spec s .seal _ y _ _ _ _
  exact sendRun_of_exec hexec hcur hhops hgroup rfl ⟨rfl, rfl⟩ fun _ _ => trivial

/-- TAILRD leaves its group waiting for the answer. -/
theorem tailrd_sends (hy : s.xlateAs .tailrd (s.curGroup.sget x.base.toNat + offVal 1 x.off) = .ok y) (hp : s.curGroup.pathFull .g = false)
    (hr : s.ridRoom (myDie s) 1 = true) :
    SendRun (.tailrd x) s s.cur.lanes (fun h => h.op = 0x23 ∧ h.st = x.d) (fun t => t.curGroup.wait = .access s.curGroup.nextId) := by
  rw [myDie] at hr
  have hexec : exec (.tailrd x) s = execTailrd x s := rfl
  simp only [execTailrd, hy, hp, hr, Bool.not_true, Bool.or_self, Bool.false_eq_true, if_false] at hexec
  obtain ⟨hcur, hhops, hgroup⟩ := sendHop_spec s .tailrd _ y _ _ _ _
  exact sendRun_of_exec hexec hcur hhops ((curGroup_setCurGroup _ _).trans (by rw [hgroup])) rfl ⟨rfl, rfl⟩ fun _ h => h

end

/-- Settles O22: what each of the three sends, by what sending a home operation changes. -/
theorem appends : Obligations.Appends := by
  unfold Obligations.Appends
  exact ⟨fun s x h => apnd_idle h, fun s x y ha hy hp hr => apnd_sends ha hy hp hr, fun s x y hy hp hq hr => seal_sends hy hp hq hr,
    fun s x y hy hp hr => tailrd_sends hy hp hr⟩

end Sys2Proof.Proofs
end

section
namespace Sys2Proof.Proofs
open Sys2Proof.Machine Sys2Proof.Says Sys2Proof.Laws

/-! ## Tail words (R73) -/

theorem ite_bit (b : Bool) (n : Nat) : (if b then n else 0) = b.toNat * n := by cases b <;> simp

theorem getLsbD_of_digit {n k : Nat} (b : Bool) (hk : k < 64) (h : n / 2 ^ k % 2 = b.toNat) : (BitVec.ofNat 64 n).getLsbD k = b := by
  rw [BitVec.getLsbD_ofNat, decide_eq_true hk, Bool.true_and, Nat.testBit_eq_decide_div_mod_eq, h]
  cases b <;> rfl

theorem isTail_tailWord (r : PageRec) (fu sd pb ry : Bool) (val : Nat) : IsTail (tailWord r fu sd pb ry val) r fu sd pb ry val := by
  have h1 := r.sl.toNat_le
  have h2 := r.sp.toNat_le
  have h3 := fu.toNat_le
  have h4 := sd.toNat_le
  have h5 := pb.toNat_le
  have h6 := ry.toNat_le
  have h7 := Nat.mod_lt r.rt (Nat.two_pow_pos 22)
  have h8 := Nat.mod_lt val (Nat.two_pow_pos 22)
  simp only [IsTail, tailWord, ite_bit]
  generalize hr : r.rt % 2 ^ 22 = rt at *
  generalize hv : val % 2 ^ 22 = v at *
  refine ⟨getLsbD_of_digit _ (by decide) ?_, getLsbD_of_digit _ (by decide) ?_, getLsbD_of_digit _ (by decide) ?_,
    getLsbD_of_digit _ (by decide) ?_, getLsbD_of_digit _ (by decide) ?_, getLsbD_of_digit _ (by decide) ?_, ?_, ?_, ?_⟩
  iterate 6 omega
  · rw [BitVec.extractLsb'_toNat, BitVec.toNat_ofNat, Nat.shiftRight_eq_div_pow]
    omega
  · rw [BitVec.extractLsb'_toNat, BitVec.toNat_ofNat, Nat.shiftRight_eq_div_pow]
    omega
  · refine BitVec.eq_of_toNat_eq ?_
    rw [BitVec.extractLsb'_toNat, BitVec.toNat_ofNat, Nat.shiftRight_eq_div_pow]
    show _ = 0
    omega

/-- An answer tells the sender of a message its word. -/
theorem tells_answer {s u : State} {k : Nat} {m : Msg} {w : DWord} {p : DWord → Prop} (hu : u.msgs = dropAt s.msgs k) (hp : p w) :
    Tells s (u.answer m w) k m p := by
  refine ⟨_, congrArg (· ++ [_]) hu, rfl, BitVec.ofNat_toNat .., rfl, rfl, ?_⟩
  rwa [show (w.setWidth 1024).extractLsb' 0 64 = w from BitVec.eq_of_getLsbD_eq fun j hj => by simp [hj, show j < 1024 by omega]]

/-! ## Reservations (R72, R74, R75) -/

section

variable {s : State} {k i : Nat} {m : Msg} {r : PageRec}

theorem field_low (m : Msg) : field m.data.toNat 0 22 = (m.data.extractLsb' 0 22).toNat := by
  rw [field, BitVec.extractLsb'_toNat]

/-- A page that is sealed, closing or freed reserves nothing. -/
theorem arsv_refused (h : AsksPage s k 0x20 m i r) (hc : r.sl = true ∨ r.sp = true ∨ r.fr = true) :
    Happens (.arsv k) s (fun t => Tells s t k m (fun w => IsTail w r false true false false 0) ∧ t = { s with msgs := t.msgs }) := by
  have hclosed : (r.sl || r.sp || r.fr) = true := by simpa [or_assoc] using hc
  have hexec : exec (.arsv k) s = execArsv k s := rfl
  simp only [execArsv, asHop_asked _ h, hclosed, if_true, ev] at hexec
  exact ⟨_, hexec, tells_answer rfl (isTail_tailWord ..), rfl⟩

/-- A reservation is asked of a page that takes them: it is neither sealed, nor closing, nor freed. -/
structure AsksOpenPage (s : State) (k : Nat) (m : Msg) (i : Nat) (r : PageRec) : Prop where
  asks : AsksPage s k 0x20 m i r
  sl : r.sl = false
  sp : r.sp = false
  fr : r.fr = false

theorem AsksOpenPage.notClosed (h : AsksOpenPage s k m i r) : (r.sl || r.sp || r.fr) = false := by rw [h.sl, h.sp, h.fr]; rfl

/-- The home's answer to a reservation of nothing. -/
theorem arsv_empty (h : AsksOpenPage s k m i r) (hl : m.data.extractLsb' 0 22 = 0) :
    Happens (.arsv k) s (fun t => Tells s t k m (fun w => IsTail w r false false false false 0) ∧ t = { s with msgs := t.msgs }) := by
  have hexec : exec (.arsv k) s = execArsv k s := rfl
  simp only [execArsv, asHop_asked _ h.asks, h.notClosed, field_low, hl, Bool.false_eq_true, if_false, ev] at hexec
  exact ⟨_, hexec, tells_answer rfl (isTail_tailWord ..), rfl⟩

theorem arsv_unfit (h : AsksOpenPage s k m i r) (hl : (m.data.extractLsb' 0 22).toNat ≠ 0)
    (hfit : asSize r.ps < r.rt + upTo16 (m.data.extractLsb' 0 22).toNat) :
    Happens (.arsv k) s (fun t => Tells s t k m (fun w => IsTail w r true false false false 0) ∧ t = { s with msgs := t.msgs }) := by
  rw [upTo16] at hfit
  have hexec : exec (.arsv k) s = execArsv k s := rfl
  simp only [execArsv, asHop_asked _ h.asks, h.notClosed, field_low, hl, Bool.false_eq_true, if_false, hfit, if_true, ev]
    at hexec
  exact ⟨_, hexec, tells_answer rfl (isTail_tailWord ..), rfl⟩

theorem arsv_full (h : AsksOpenPage s k m i r) (hl : (m.data.extractLsb' 0 22).toNat ≠ 0)
    (hfit : r.rt + upTo16 (m.data.extractLsb' 0 22).toNat ≤ asSize r.ps) (hfull : r.na = 255 ∨ 1024 ≤ s.openAppends (i / 65536)) :
    Happens (.arsv k) s (fun t => Tells s t k m (fun w => IsTail w r false false false true 0) ∧ t = { s with msgs := t.msgs }) := by
  rw [upTo16] at hfit
  have hexec : exec (.arsv k) s = execArsv k s := rfl
  simp only [execArsv, asHop_asked _ h.asks, h.notClosed, field_low, hl, Bool.false_eq_true, if_false, not_lt.mpr hfit, hfull,
    if_true, ev] at hexec
  exact ⟨_, hexec, tells_answer rfl (isTail_tailWord ..), rfl⟩

/-- A reservation is given at the reserve tail. -/
theorem arsv_reserves (h : AsksOpenPage s k m i r) (hl : (m.data.extractLsb' 0 22).toNat ≠ 0)
    (hfit : r.rt + upTo16 (m.data.extractLsb' 0 22).toNat ≤ asSize r.ps) (hna : r.na ≠ 255) (hopen : s.openAppends (i / 65536) < 1024) :
    let r2 := { r with rt := r.rt + upTo16 (m.data.extractLsb' 0 22).toNat, na := r.na + 1 }
    Happens (.arsv k) s (fun t => Tells s t k m (fun w => IsTail w r2 false false false false r.rt) ∧ lookup t.records i = some r2 ∧
      t.mem = s.mem ∧ ∃ a : Append, t.appends = s.appends ++ [a] ∧ a.st = r.rt ∧ a.ln = (m.data.extractLsb' 0 22).toNat ∧ a.rb = 0 ∧
        a.rid = m.rid ∧ a.src = m.src.toNat) := by
  have hroom : ¬(r.na = 255 ∨ 1024 ≤ s.openAppends (i / 65536)) := by omega
  rw [upTo16] at hfit
  have hexec : exec (.arsv k) s = execArsv k s := rfl
  simp only [execArsv, asHop_asked _ h.asks, h.notClosed, field_low, hl, Bool.false_eq_true, if_false, not_lt.mpr hfit, hroom,
    ev] at hexec
  exact ⟨_, hexec, tells_answer rfl (isTail_tailWord ..), lookup_insert_self .., rfl, _, rfl, rfl, rfl, rfl, rfl, rfl⟩

/-- A reserver answered RY asks again. -/
theorem arsvRetry_asks {h : Nat} {x : Hop} (hx : s.hops[h]? = some x) (hop : x.op = 0x20) (hr : x.retry = true) (hst : x.start = none)
    (hrun : s.running x.grp = true) (hstop : s.stopAsked x.grp = false) :
    Happens (.arsvRetry h) s (fun t => t = { s with hops := t.hops, msgs := t.msgs } ∧ t.hops[h]? = some { x with retry := false } ∧
      ∃ m : Msg, t.msgs = s.msgs ++ [m] ∧ m.ty = 10 ∧ m.op = 0x20 ∧ m.rid = x.id % 4096 ∧ m.la = x.la) := by
  have hgo : (x.op == 0x20 && x.retry && x.start.isNone && s.running x.grp && !(s.stopAsked x.grp && s.backable x)) = true := by
    simp [hop, hr, hst, hrun, hstop]
  have hexec : exec (.arsvRetry h) s = execArsvRetry h s := rfl
  simp only [execArsvRetry, hx, hgo, if_true, ev] at hexec
  exact ⟨_, hexec, rfl, getElem_setAt hx, _, rfl, rfl, rfl, rfl, rfl⟩

end

/-! ## Bytes of a line that the home writes (R45, R47) -/

section

variable {s : State} {kid : BitVec 6} {pa x : Nat} {bs : List Byte}

/-- A line that another key wrote holds, after a write, what the writing key read. -/
theorem memByte_memPut_rekeyed (hk : keyed pa = true) (hr : getD 0 s.lineKid (pa / 128) ≠ kid ∨ (lookup s.lineOld (pa / 128)).isSome = true)
    (hl : x / 128 = pa / 128) (ho : x < pa ∨ pa + bs.length ≤ x) : (s.memPut kid pa bs).memByte kid x = s.memByte kid x := by
  have hwrote : (keyed pa && (getD 0 s.lineKid (pa / 128) != kid || (lookup s.lineOld (pa / 128)).isSome)) = true := by simpa [hk] using hr
  have hx : x = pa / 128 * 128 + (x - pa / 128 * 128) := by omega
  have hin : x - pa / 128 * 128 < 128 := by omega
  have hread : Memory.read (s.memPut kid pa bs).mem x = s.memByte kid x := by
    simp only [State.memPut, hwrote, if_true]
    rw [read_writeN_ne _ _ ho]
    conv_lhs => rw [hx]
    rw [read_writeN_at _ _ _ _ (by simpa using hin)]
    simp [hin, ← hx]
  have hkid : (s.memPut kid pa bs).lineKid = setD 0 s.lineKid (pa / 128) kid := by simp [State.memPut, hk]
  have hold : (s.memPut kid pa bs).lineOld = remove s.lineOld (pa / 128) := rfl
  rw [State.memByte, hread]
  simp [keyed_line hl, hk, hl, hkid, hold]

/-- A write within a line keeps what its key reads in the rest of the line. -/
theorem memByte_memPut_off (hl : x / 128 = pa / 128) (ho : x < pa ∨ pa + bs.length ≤ x) : (s.memPut kid pa bs).memByte kid x = s.memByte kid x := by
  cases hk : keyed pa with
  | false => simp only [State.memByte, keyed_line hl, hk, Bool.false_eq_true, if_false, memPut_read_ne s kid pa x bs (.inl hk) ho]
  | true =>
    by_cases hown : getD 0 s.lineKid (pa / 128) = kid ∧ lookup s.lineOld (pa / 128) = none
    · exact memByte_memPut_ne ho hl hown.2 (.inr hown.1)
    · refine memByte_memPut_rekeyed hk ?_ hl ho
      rwa [not_and_or, ← ne_eq, ← ne_eq, Option.ne_none_iff_isSome] at hown

/-- A write within a line, as its key reads memory after it. -/
theorem memByte_memPut (hw : pa % 128 + bs.length ≤ 128) :
    (s.memPut kid pa bs).memByte kid x = if pa ≤ x ∧ x < pa + bs.length then bs.getD (x - pa) 0 else s.memByte kid x := by
  split
  · next h =>
    obtain ⟨i, rfl⟩ := Nat.exists_eq_add_of_le h.1
    rw [memByte_memPut_at (by omega) (by omega), Nat.add_sub_cancel_left]
  · by_cases hl : x / 128 = pa / 128
    · exact memByte_memPut_off hl (by omega)
    · exact memByte_memPut_line hw hl

theorem memByte_homeWrite (s : State) (la : Nat) (kid : BitVec 6) (x : Nat) : (s.homeWrite la).memByte kid x = s.memByte kid x := by
  obtain ⟨_, _, _, h⟩ := homeWrite_rest s la
  rw [h]
  rfl

theorem memByte_homePut (hw : pa % 128 + bs.length ≤ 128) :
    (s.homePut kid pa bs).memByte kid x = if pa ≤ x ∧ x < pa + bs.length then bs.getD (x - pa) 0 else s.memByte kid x := by
  have hput : (s.homePut kid pa bs).memByte kid x = ((s.homeWrite (pa / 128)).memPut kid pa bs).memByte kid x := by
    unfold State.homePut
    dsimp only
    split <;> rfl
  rw [hput, memByte_memPut hw, memByte_homeWrite]

end

/-! ## Append data (R76, R77) -/

/-- The bytes on in a message's mask lie in its span, and the span in the line. -/
theorem span_covers (m : Msg) : m.span.1 + m.span.2 ≤ 128 ∧ ∀ j, j < 128 → m.mask.getLsbD j = true → m.span.1 ≤ j ∧ j < m.span.1 + m.span.2 := by
  unfold Msg.span
  extract_lets on
  have hmem (j : Nat) : j ∈ on ↔ j < 128 ∧ m.mask.getLsbD j = true := by simp [on]
  have hsorted : on.Pairwise (· ≤ ·) := List.pairwise_le_range.filter _
  clear_value on
  cases on with
  | nil => exact ⟨by simp, fun j hj hon => absurd ((hmem j).mpr ⟨hj, hon⟩) List.not_mem_nil⟩
  | cons a l =>
    have hlo (j : Nat) (hj : j ∈ a :: l) : a ≤ j := hsorted.rel_head hj
    have hhi (j : Nat) (hj : j ∈ a :: l) : j ≤ (a :: l).getLast (List.cons_ne_nil a l) := hsorted.rel_getLast hj
    have hlast := List.getLast_mem (List.cons_ne_nil a l)
    have hend := ((hmem _).mp hlast).1
    have hle := hlo _ hlast
    rw [List.getLast?_eq_some_getLast (List.cons_ne_nil a l), List.headD_cons]
    dsimp only
    refine ⟨by omega, fun j hj hon => ?_⟩
    have := hlo j ((hmem j).mpr ⟨hj, hon⟩)
    have := hhi j ((hmem j).mpr ⟨hj, hon⟩)
    omega

section

variable {s : State} {k i : Nat} {m : Msg} {r : PageRec}

theorem masked_length (s : State) (kid : BitVec 6) (m : Msg) : (s.masked kid m).length = m.span.2 := by simp [State.masked]

theorem getD_masked (s : State) (kid : BitVec 6) (m : Msg) {o : Nat} (h : o < m.span.2) :
    (s.masked kid m).getD o 0 = if m.mask.getLsbD (m.span.1 + o) then byteOf m.data (m.span.1 + o) else s.memByte kid (m.la * 128 + (m.span.1 + o)) := by
  simp only [State.masked, List.getD_eq_getElem?_getD, List.getElem?_map, List.getElem?_range h, Option.map_some, Option.getD_some]
  rfl

/-- What the home holds of a line once it has written a message's bytes: those of its mask, and the rest as it was. -/
theorem memByte_putMasked (s : State) (kid : BitVec 6) (m : Msg) {j : Nat} (hj : j < 128) :
    (s.homePut kid (m.la * 128 + m.span.1) (s.masked kid m)).memByte kid (m.la * 128 + j) =
      if m.mask.getLsbD j then byteOf m.data j else s.memByte kid (m.la * 128 + j) := by
  obtain ⟨hfit, hcover⟩ := span_covers m
  rw [memByte_homePut (by rw [masked_length]; omega), masked_length]
  by_cases hin : m.span.1 ≤ j ∧ j < m.span.1 + m.span.2
  · obtain ⟨o, rfl⟩ := Nat.exists_eq_add_of_le hin.1
    rw [if_pos (by omega), show m.la * 128 + (m.span.1 + o) - (m.la * 128 + m.span.1) = o by omega, getD_masked _ _ _ (by omega)]
  · rw [if_neg (by omega), if_neg fun hon => hin (hcover j hj hon)]

theorem sealCheck_rest (s : State) (k : Nat) : ∃ records seals msgs, s.sealCheck k = { s with records := records, seals := seals, msgs := msgs } := by
  unfold State.sealCheck
  split
  · exact ⟨_, _, _, rfl⟩
  · dsimp only
    split
    · obtain ⟨_, hmsgs⟩ := answers_rest _ _ _ _
      rw [hmsgs]
      exact ⟨_, _, _, rfl⟩
    · exact ⟨_, _, _, rfl⟩

theorem publish_rest (s : State) (k : Nat) :
    ∃ records appends seals msgs, s.publish k = { s with records := records, appends := appends, seals := seals, msgs := msgs } := by
  unfold State.publish
  split
  · exact ⟨_, _, _, _, rfl⟩
  · dsimp only
    obtain ⟨_, hmsgs⟩ := answers_rest _ _ _ _
    rw [hmsgs]
    obtain ⟨_, _, _, hseal⟩ := sealCheck_rest _ k
    rw [hseal]
    exact ⟨_, _, _, _, rfl⟩

theorem memByte_publish (s : State) (k : Nat) (kid : BitVec 6) (x : Nat) : (s.publish k).memByte kid x = s.memByte kid x := by
  obtain ⟨_, _, _, _, h⟩ := publish_rest s k
  rw [h]
  rfl

/-- Data of an open append is written under the page's key; what follows writes no memory. -/
theorem adat_writes {a : Append} (h : AsksPage s k 0x21 m i r) (ha : a ∈ s.appends) (hin : Append.takes a i (r.bfn.toNat * 4096) m = true)
    (hst : s.stagingFull (dieOf (m.la * 128)) = false) : Happens (.adat k) s (fun t => ∀ j, j < 128 →
      t.memByte r.kid (m.la * 128 + j) = if m.mask.getLsbD j then byteOf m.data j else s.memByte r.kid (m.la * 128 + j)) := by
  obtain ⟨hsent, hop, hrec⟩ := h
  have hexec : exec (.adat k) s = execAdat k s := rfl
  simp -zeta only [execAdat, msgOf_sent hsent, hop, ne_eq, not_true_eq_false, if_false, State.recOf, hrec, State.stageWaits, hst, Bool.false_and] at hexec
  extract_lets mine t t2 aps fin t3 at hexec
  rw [if_neg (by simpa [mine] using ⟨a, ha, hin⟩), if_neg Bool.false_ne_true] at hexec
  refine ⟨_, hexec, fun j hj => ?_⟩
  have ht2 : t2.memByte r.kid (m.la * 128 + j) = t.memByte r.kid (m.la * 128 + j) := by
    simp only [t2]
    split <;> rfl
  have hdone : t2.memByte r.kid (m.la * 128 + j) = if m.mask.getLsbD j then byteOf m.data j else s.memByte r.kid (m.la * 128 + j) :=
    ht2.trans (memByte_putMasked (s.takeMsg k) r.kid m hj)
  rw [← hdone]
  split
  · exact memByte_publish ..
  · rfl

theorem adat_dropped (h : AsksPage s k 0x21 m i r) (hnone : ∀ a, a ∈ s.appends → Append.takes a i (r.bfn.toNat * 4096) m = false) :
    exec (.adat k) s = .next (s.takeMsg k) := by
  obtain ⟨hsent, hop, hrec⟩ := h
  have hany : s.appends.any (fun a => a.takes i (r.bfn.toNat * 4096) m) = false := List.any_eq_false.mpr fun a ha => by simp [hnone a ha]
  have hexec : exec (.adat k) s = execAdat k s := rfl
  simpa only [execAdat, msgOf_sent hsent, hop, ne_eq, not_true_eq_false, if_false, State.recOf, hrec, hany, Bool.not_false, if_true, ev] using hexec

/-! ## Seals and tail reads (R73, R80) -/

theorem hopSeal_sealed (h : AsksPage s k 0x22 m i r) (hsl : r.sl = true) :
    Happens (.hopSeal k) s (fun t => Tells s t k m (fun w => IsTail w r false false false false r.rt) ∧ t = { s with msgs := t.msgs }) := by
  have hexec : exec (.hopSeal k) s = execHopSeal k s := rfl
  simp only [execHopSeal, asHop_asked _ h, hsl, if_true, ev] at hexec
  exact ⟨_, hexec, tells_answer rfl (isTail_tailWord ..), rfl⟩

theorem hopSeal_freed (h : AsksPage s k 0x22 m i r) (hsl : r.sl = false) (hfr : r.fr = true) :
    Happens (.hopSeal k) s (fun t => Tells s t k m (fun w => IsTail w r false true false false 0) ∧ t = { s with msgs := t.msgs }) := by
  have hexec : exec (.hopSeal k) s = execHopSeal k s := rfl
  simp only [execHopSeal, asHop_asked _ h, hsl, hfr, Bool.false_eq_true, if_false, if_true, ev] at hexec
  exact ⟨_, hexec, tells_answer rfl (isTail_tailWord ..), rfl⟩

/-- A SEAL of a page that is not sealed: it closes the page and waits, unless nothing is outstanding. -/
theorem hopSeal_closes (h : AsksPage s k 0x22 m i r) (hsl : r.sl = false) (hfr : r.fr = false) :
    exec (.hopSeal k) s = .next (State.sealCheck { (s.takeMsg k).setRec i { r with sp := true } with seals := s.seals ++ [(i, m)] } i) := by
  have hexec : exec (.hopSeal k) s = execHopSeal k s := rfl
  rw [execHopSeal, asHop_asked _ h, ev, if_neg (by simp [hsl]), if_neg (by simp [hfr])] at hexec
  exact hexec

/-- A page with appends outstanding is not sealed yet. -/
theorem sealCheck_outstanding (hr : lookup s.records i = some r) (hct : r.ct ≠ r.rt) : s.sealCheck i = s := by
  have hne : (r.sp && r.ct == r.rt) = false := by simp [hct]
  simp only [State.sealCheck, hr, hne, Bool.false_eq_true, if_false]

/-- A closing page with nothing outstanding is sealed, and the one SEAL that waits for it is answered. -/
theorem sealCheck_seals (hr : lookup s.records i = some r) (hsp : r.sp = true) (hct : r.ct = r.rt) (hw : s.seals.filter (fun e => e.1 == i) = [(i, m)]) :
    let r2 := { r with sl := true, sp := false }
    s.sealCheck i = State.answer { s.setRec i r2 with seals := s.seals.filter (fun e => e.1 != i) } m (tailWord r2 false false false false r.rt) := by
  have heq : (r.sp && r.ct == r.rt) = true := by simp [hsp, hct]
  simp only [State.sealCheck, hr, heq, if_true, hw, List.foldl_cons, List.foldl_nil]

theorem hopSeal_waits (h : AsksPage s k 0x22 m i r) (hsl : r.sl = false) (hfr : r.fr = false) (hct : r.ct ≠ r.rt) :
    Happens (.hopSeal k) s (fun t => t.msgs = dropAt s.msgs k ∧ t.mem = s.mem ∧ lookup t.records i = some { r with sp := true } ∧ (i, m) ∈ t.seals) := by
  have hexec := hopSeal_closes h hsl hfr
  rw [sealCheck_outstanding (r := { r with sp := true }) (lookup_insert_self ..) hct] at hexec
  exact ⟨_, hexec, rfl, rfl, lookup_insert_self .., List.mem_append_right _ (List.mem_singleton_self _)⟩

theorem hopSeal_seals (h : AsksPage s k 0x22 m i r) (hsl : r.sl = false) (hfr : r.fr = false) (hct : r.ct = r.rt) (hnone : ∀ e, e ∈ s.seals → e.1 ≠ i) :
    let r2 := { r with sl := true, sp := false }
    Happens (.hopSeal k) s (fun t => lookup t.records i = some r2 ∧ Tells s t k m (fun w => IsTail w r2 false false false false r.rt) ∧ t.mem = s.mem) := by
  have hwait : (s.seals ++ [(i, m)]).filter (fun e => e.1 == i) = [(i, m)] := by
    rw [List.filter_append, List.filter_eq_nil_iff.mpr fun e he => by simpa using hnone e he]
    simp
  have hexec := hopSeal_closes h hsl hfr
  rw [sealCheck_seals (r := { r with sp := true }) (lookup_insert_self ..) rfl hct hwait] at hexec
  exact ⟨_, hexec, lookup_insert_self .., tells_answer rfl (isTail_tailWord ..), rfl⟩

theorem hopTailrd_answers (h : AsksPage s k 0x23 m i r) :
    Happens (.hopTailrd k) s (fun t => Tells s t k m (fun w => IsTail w r false false false false r.ct) ∧ t = { s with msgs := t.msgs }) := by
  have hexec : exec (.hopTailrd k) s = execHopTailrd k s := rfl
  simp only [execHopTailrd, asHop_asked _ h, ev] at hexec
  exact ⟨_, hexec, tells_answer rfl (isTail_tailWord ..), rfl⟩

end

/-- Settles O40, request by request; append data by what a write within a line leaves under its key. -/
theorem reservationsAppendsSeals : Obligations.ReservationsAppendsSeals := by
  unfold Obligations.ReservationsAppendsSeals
  exact ⟨⟨fun s k m i r h hc => arsv_refused h hc, fun s k m i r h hsl hsp hfr hl hfit => arsv_unfit ⟨h, hsl, hsp, hfr⟩ hl (by simpa using hfit),
      fun s k m i r h hsl hsp hfr hl hfit hfull => arsv_full ⟨h, hsl, hsp, hfr⟩ hl hfit hfull,
      fun s k m i r h hsl hsp hfr hl hfit hna hopen => arsv_reserves ⟨h, hsl, hsp, hfr⟩ hl hfit hna hopen,
      fun s k m i r h hsl hsp hfr hl => arsv_empty ⟨h, hsl, hsp, hfr⟩ hl,
      fun s h x hx hop hr hst hrun hstop => arsvRetry_asks hx hop hr hst hrun hstop⟩,
    fun s k m i r a h ha ht hst => adat_writes h ha ht hst, fun s k m i r h hnone => adat_dropped h hnone,
    fun s k m i r h hsl => hopSeal_sealed h hsl, fun s k m i r h hsl hfr => hopSeal_freed h hsl hfr,
    fun s k m i r h hsl hfr hct => hopSeal_waits h hsl hfr hct, fun s k m i r h hsl hfr hct hnone => hopSeal_seals h hsl hfr hct hnone,
    fun s k m i r h => hopTailrd_answers h⟩

end Sys2Proof.Proofs
end

section
namespace Sys2Proof.Proofs
open Sys2Proof.Machine Sys2Proof.Says Sys2Proof.Laws

/-! ## Ranges that the homes store (R45, R47) -/

theorem cells_at (a : Nat) (bs : List Byte) {i : Nat} (hi : i < bs.length) : (lookup (Memory.cells a bs) (a + i)).getD 0 = bs.getD i 0 := by
  induction bs generalizing a i with
  | nil => simp at hi
  | cons b bs ih =>
    rw [cells_cons, lookup_append]
    cases i with
    | zero =>
      have hrest : lookup (Memory.cells (a + 1) bs) a = none := lookup_eq_none fun e he => by
        have := (mem_cells he).1
        omega
      by_cases hb : b = memDefault
      · rw [Nat.add_zero, hrest, if_pos hb, hb]
        rfl
      · simp [hb, lookup]
    | succ i =>
      have hhead : lookup (if b = memDefault then [] else [(a, b)]) (a + (i + 1)) = none := by
        split <;> simp [lookup]
      rw [hhead, Option.none_or, show a + (i + 1) = a + 1 + i by omega, ih (a + 1) (by simpa using hi), List.getD_cons_succ]

/-- A long run written is read back byte by byte. -/
theorem read_put_at (m : List Host.Cell) (a : Nat) {bs : List Byte} {i : Nat} (hi : i < bs.length) :
    Memory.read (Memory.put m a bs) (a + i) = bs.getD i 0 := by
  have hlow := lookup_filter (fun y => decide (y < a)) m (a + i)
  have hhigh := lookup_filter (fun y => decide (a + bs.length ≤ y)) m (a + i)
  simp only [decide_eq_true_eq] at hlow hhigh
  rw [if_neg (by omega)] at hlow hhigh
  rw [Memory.read, getD, Memory.put, lookup_append, lookup_append, hlow, hhigh, Option.none_or, Option.or_none]
  exact cells_at a bs hi

theorem storeRange_side (s : State) (kid : BitVec 6) (a : Nat) (bs : List Byte) : MemorySide s (s.storeRange kid a bs) := by
  unfold State.storeRange
  extract_lets la n t whole
  have ht : MemorySide s t := .foldl (fun v i => (recall_side v (la + i)).trans (homeWrite_side _ _)) (List.range n) s
  refine ht.trans ?_
  clear_value t
  split
  · exact .of_fields ..
  · split
    · exact .of_fields ..
    · exact .foldl (fun u i => homePut_side u kid _ _) (List.range n) t

/-- Bytes that a range stores line by line read back under its key. -/
theorem memByte_storeLines (kid : BitVec 6) (a : Nat) (bs : List Byte) (n : Nat) (t : State) {x : Nat} (hlo : a ≤ x) (hhi : x < a + bs.length)
    (hn : x / 128 < a / 128 + n) :
    ((List.range n).foldl (fun (u : State) i =>
      let lo := if i = 0 then a else (a / 128 + i) * 128
      let hi := if (a / 128 + i) * 128 + 128 < a + bs.length then (a / 128 + i) * 128 + 128 else a + bs.length
      u.homePut kid lo ((bs.drop (lo - a)).take (hi - lo))) t).memByte kid x = bs.getD (x - a) 0 := by
  refine foldl_establish (P := fun (u : State) i => x / 128 = a / 128 + i → u.memByte kid x = bs.getD (x - a) 0) (R := fun i j => i ≠ j)
    (fun u i hx => ?_) (fun u i j hij hu hx => ?_) List.nodup_range (a := x / 128 - a / 128) (List.mem_range.mpr (by omega)) (by omega)
  · extract_lets lo hi
    have hlo' : a ≤ lo ∧ lo ≤ x ∧ lo / 128 = a / 128 + i := by
      simp only [lo]
      split <;> omega
    have hhi' : x < hi ∧ hi ≤ a + bs.length ∧ hi ≤ (a / 128 + i) * 128 + 128 := by
      simp only [hi]
      split <;> omega
    have hlen : ((bs.drop (lo - a)).take (hi - lo)).length = hi - lo := by
      rw [List.length_take, List.length_drop]
      omega
    rw [memByte_homePut (by rw [hlen]; omega), if_pos (by rw [hlen]; omega)]
    have hin : x - lo < hi - lo := by omega
    simp only [List.getD_eq_getElem?_getD, List.getElem?_take, hin, if_true, List.getElem?_drop]
    rw [show lo - a + (x - lo) = x - a by omega]
  · extract_lets lo hi
    have hline : lo / 128 = a / 128 + j := by
      simp only [lo]
      split <;> omega
    have hhi' : hi ≤ (a / 128 + j) * 128 + 128 := by
      simp only [hi]
      split <;> omega
    have hlen : ((bs.drop (lo - a)).take (hi - lo)).length ≤ hi - lo := List.length_take_le ..
    rw [memByte_homePut (by omega), if_neg (by omega)]
    exact hu hx

/-- Bytes that the homes of a range store read back under their key. -/
theorem memByte_storeRange (s : State) (kid : BitVec 6) {a : Nat} {bs : List Byte} {x : Nat} (hlo : a ≤ x) (hhi : x < a + bs.length) :
    (s.storeRange kid a bs).memByte kid x = bs.getD (x - a) 0 := by
  have hput (m : List Host.Cell) : Memory.read (Memory.put m a bs) x = bs.getD (x - a) 0 := by
    have := read_put_at m a (bs := bs) (i := x - a) (by omega)
    rwa [Nat.add_sub_cancel' hlo] at this
  by_cases hwhole : a % 128 = 0 ∧ bs.length % 128 = 0
  · obtain ⟨-, hkey, m, hm, -⟩ := storeRange_lines s kid hwhole.1 hwhole.2
    rw [memByte_underKey hkey (by omega) (by omega), hm, hput]
  · unfold State.storeRange
    extract_lets la n t whole
    clear_value t
    split
    · next hkey =>
      have hkey' : ({ t with mem := Memory.put t.mem a bs, poison := t.poison.filter (fun e => !whole e.1) } : State).underKey kid la n = true := hkey
      rw [memByte_underKey hkey' (by omega) (by omega)]
      exact hput _
    · exact memByte_storeLines kid a bs n t hlo hhi (by omega)

end Sys2Proof.Proofs
end

section
namespace Sys2Proof.Proofs
open Sys2Proof.Machine Sys2Proof.Says Sys2Proof.Laws

/-! ## Requests of a close (R282, R285, R327) -/

/-- Asking for a close leaves one, at the interval that is open. -/
theorem askClose_spec (j : Job) (stop isMove : Bool) (by_ : List Joiner) :
    (j.askClose stop isMove by_).iv = j.iv ∧ ∃ c, (j.askClose stop isMove by_).close = some c ∧ (isMove = true → c.isMove = true) := by
  unfold Job.askClose
  split
  · exact ⟨rfl, _, rfl, fun h => by simp [h]⟩
  · exact ⟨rfl, _, rfl, fun h => h⟩

section

variable {s : State} {job : Nat}

theorem checkpointTimer_requests (hl : (s.job job).live = true) (hc : (s.job job).jd.ckp = 2) :
    Happens (.checkpointTimer job) s (fun t => t = { s with jobs := t.jobs } ∧
      ((s.job job).opn = false → (t.job job).opn = true ∧ (t.job job).iv = (s.job job).iv + 1 ∧ (t.job job).close = (s.job job).close) ∧
      ((s.job job).opn = true → (t.job job).close.isSome = true ∧ (t.job job).iv = (s.job job).iv)) := by
  have hexec : exec (.checkpointTimer job) s = execCheckpointTimer job s := rfl
  simp only [execCheckpointTimer, hl, hc, beq_self_eq_true, Bool.and_self, if_true, ev] at hexec
  refine ⟨_, hexec, rfl, fun ho => ?_, fun ho => ?_⟩
  · simp [job_setJob, Job.ckRequest, Job.open_, ho]
  · obtain ⟨hiv, c, hclose, -⟩ := askClose_spec (s.job job) false false []
    simp [job_setJob, Job.ckRequest, ho, hiv, hclose]

theorem move_requests (hl : (s.job job).live = true) : Happens (.move job) s (fun t => t = { s with jobs := t.jobs } ∧
    ∃ c, (t.job job).close = some c ∧ c.isMove = true) := by
  have hexec : exec (.move job) s = execMove job s := rfl
  simp only [execMove, hl, if_true, ev] at hexec
  obtain ⟨-, c, hclose, hmove⟩ := askClose_spec (s.job job).open_ false true []
  exact ⟨_, hexec, rfl, c, by rw [job_setJob, hclose], hmove rfl⟩

/-! ## The steps of a close (R285, R322) -/

variable {c : Close}

theorem closeStop_asks (h : ClosesNow s job c) (ha : c.asked = false) :
    Happens (.closeStop job) s (fun t => t = { s with jobs := t.jobs } ∧ (t.job job).close = some { c with asked := true }) := by
  obtain ⟨hl, hc, hs⟩ := h
  have hexec : exec (.closeStop job) s = execCloseStop job s := rfl
  simp only [execCloseStop, hl, hc, hs, Option.isSome_none, Bool.not_true, Bool.or_self, Bool.false_eq_true, if_false, ha, Bool.not_false, if_true,
    ev] at hexec
  exact ⟨_, hexec, rfl, by rw [job_setJob]⟩

theorem closeStop_halts (h : ClosesNow s job c) (ha : c.asked = true) (hh : c.halted = false) (hr : s.teamsRest (s.closeTeams job) = true) :
    Happens (.closeStop job) s (fun t => t.mem = s.mem ∧ (t.job job).close = some { c with halted := true }) := by
  obtain ⟨hl, hc, hs⟩ := h
  have hexec : exec (.closeStop job) s = execCloseStop job s := rfl
  simp only [execCloseStop, hl, hc, hs, Option.isSome_none, Bool.not_true, Bool.or_self, Bool.false_eq_true, if_false, ha, hh, Bool.not_false, hr,
    if_true, ev] at hexec
  exact ⟨_, hexec, (haltTeams_clusters s (s.closeTeams job)).mem, by rw [job_setJob, ha]⟩

/-- With nothing of it waiting a close captures; what it stopped then goes on, or leaves its cores for a move. -/
theorem closeStop_captures (h : CloseReady s job c) :
    let t := s.capture job c (s.groupsIn (s.closeTeams job))
    let u := t.afterClose job (s.closeTeams job)
    exec (.closeStop job) s = .next (if c.isMove then t.moveOut job (s.closeTeams job)
      else if (s.job job).clusters.any (fun x => x.st == .stopping) then u.pass (s.job job).jd.rdie else u) := by
  obtain ⟨⟨hl, hc, hs⟩, ha, hh, hready, hdirty⟩ := h
  have hexec : exec (.closeStop job) s = execCloseStop job s := rfl
  simpa only [execCloseStop, hl, hc, hs, Option.isSome_none, Bool.not_true, Bool.or_self, Bool.false_eq_true, if_false, ha, hh, hready, hdirty,
    List.any_nil, List.isEmpty_nil, ev] using hexec

end

/-! ## What a capture leaves of the interval (R282, R322) -/

/-- Two states of a job stand at one interval, with one close and one record that streams. -/
structure IntervalAs (j k : Job) : Prop where
  opn : k.opn = j.opn
  iv : k.iv = j.iv
  close : k.close = j.close
  stream : k.stream = j.stream

theorem IntervalAs.trans {j k l : Job} (h : IntervalAs j k) (g : IntervalAs k l) : IntervalAs j l :=
  ⟨g.opn.trans h.opn, g.iv.trans h.iv, g.close.trans h.close, g.stream.trans h.stream⟩

theorem IntervalAs.of_jobs {s t : State} (h : t.jobs = s.jobs) (job : Nat) : IntervalAs (s.job job) (t.job job) := by
  have hj : t.job job = s.job job := by rw [State.job, State.job, h]
  rw [hj]
  exact ⟨rfl, rfl, rfl, rfl⟩

/-- The interval of a close is over: no close stands, and its record streams. -/
structure IntervalOver (c : Close) (j : Job) : Prop where
  close : j.close = none
  stops : c.stop = true → j.opn = false
  next : c.stop = false → j.iv = c.n + 1
  streams : ∃ r, j.stream = some r ∧ r.iv = c.n ∧ r.complete = false ∧ (c.isMove = true → r.kind = 2)

theorem IntervalOver.congr {c : Close} {j k : Job} (h : IntervalOver c j) (e : IntervalAs j k) : IntervalOver c k where
  close := e.close.trans h.close
  stops hs := e.opn.trans (h.stops hs)
  next hs := e.iv.trans (h.next hs)
  streams := by
    rw [e.stream]
    exact h.streams

theorem clearMarks_interval (s : State) (j : Nat) : IntervalAs (s.job j) ((s.clearMarks j).job j) := by
  unfold State.clearMarks
  extract_lets ts t u src
  have ht : t.jobs = s.jobs := List.foldlRecOn (motive := fun v : State => v.jobs = s.jobs) (s.groupsIn ts) _ rfl fun _ hv _ _ => hv
  have hu : u.jobs = s.jobs := List.foldlRecOn (motive := fun v : State => v.jobs = s.jobs) ts _ ht fun _ hv _ _ => hv
  have hsrc : IntervalAs (s.job j) src := .of_jobs hu j
  rw [job_setJob]
  exact hsrc.trans ⟨rfl, rfl, rfl, rfl⟩

theorem capture_over (s : State) (job : Nat) (c : Close) (ks : List Nat) : IntervalOver c ((s.capture job c ks).job job) := by
  unfold State.capture
  extract_lets s0 s1 jb full jb2 s2 set units ctx r s3 s4 src
  have h4 : s4.job job = jb2 := by
    have hs4 : s4.jobs = s2.jobs := by
      simp only [s4]
      split
      · exact (storeRange_side s3 _ _ _).jobs
      · rfl
    rw [State.job, hs4]
    exact job_setJob ..
  have hsrc : IntervalAs jb2 src := h4 ▸ clearMarks_interval s4 job
  obtain ⟨hopn, hiv, hclose, -⟩ := hsrc
  rw [job_setJob]
  refine ⟨hclose.trans ?_, fun hs => hopn.trans ?_, fun hs => hiv.trans ?_, r, rfl, rfl, rfl, fun hm => ?_⟩
  · simp only [jb2]
    split <;> rfl
  · simp only [jb2, hs, if_true]
  · simp only [jb2, hs, Bool.false_eq_true, if_false]
  · simp only [r, hm, if_true]

/-! ## What goes on after a close (R327, R328) -/

theorem wakeGroup_jobs (s : State) (k : Nat) : (s.wakeGroup k).jobs = s.jobs :=
  List.foldlRecOn (motive := fun v : State => v.jobs = s.jobs) _ _ rfl fun v hv i _ => (finishFlight_jobs v k i).trans hv

theorem restartTeams_jobs (s : State) (tks : List Nat) : (s.restartTeams false tks).jobs = s.jobs :=
  List.foldlRecOn (motive := fun v : State => v.jobs = s.jobs) (s.groupsIn tks) _ rfl fun v hv k _ => (wakeGroup_jobs v k).trans hv

theorem setJst_job (s : State) (j : Nat) (st : JState) : (s.setJst j st).job j = { s.job j with st := st } := job_setJob ..

theorem endStop_interval (s : State) (job cl : Nat) : IntervalAs (s.job job) ((s.endStop job cl).job job) := by
  unfold State.endStop
  extract_lets u v
  have hv : IntervalAs (s.job job) (v.job job) := by
    rw [show v.job job = _ from job_setJob ..]
    exact ⟨rfl, rfl, rfl, rfl⟩
  split
  · rw [setJst_job]
    exact hv.trans ⟨rfl, rfl, rfl, rfl⟩
  · exact hv

theorem afterClose_interval (s : State) (job : Nat) (tks : List Nat) : IntervalAs (s.job job) ((s.afterClose job tks).job job) := by
  unfold State.afterClose
  extract_lets cs is t
  have ht : IntervalAs (s.job job) (t.job job) := .of_jobs (restartTeams_jobs s _) job
  exact List.foldlRecOn (motive := fun u : State => IntervalAs (s.job job) (u.job job)) _ _ ht fun u hu cl _ => hu.trans (endStop_interval u job cl)

theorem moveOut_job (s : State) (job : Nat) (tks : List Nat) : IntervalAs (s.job job) ((s.moveOut job tks).job job) ∧
    ((s.moveOut job tks).job job).st = .stopped ∧ ((s.moveOut job tks).job job).held = true := by
  unfold State.moveOut
  extract_lets src u
  have hu : IntervalAs (s.job job) (u.job job) ∧ (u.job job).held = true := by
    rw [show u.job job = _ from job_setJob ..]
    exact ⟨⟨rfl, rfl, rfl, rfl⟩, rfl⟩
  have hv : ((({ u with agenda := u.agenda ++ [Instr.jsbUpdate job] } : State).setJst job .stopped).freeCores (tks.flatMap s.coresOf)).job job =
      { u.job job with st := .stopped } := setJst_job ..
  rw [hv]
  exact ⟨hu.1.trans ⟨rfl, rfl, rfl, rfl⟩, rfl, hu.2⟩

theorem closeStop_closes {s : State} {job : Nat} {c : Close} (h : CloseReady s job c) : ∃ t : State, exec (.closeStop job) s =
      .next (if (s.job job).clusters.any (fun x => x.st == .stopping) && !c.isMove then t.pass (s.job job).jd.rdie else t) ∧
    (t.job job).close = none ∧ (c.stop = true → (t.job job).opn = false) ∧ (c.stop = false → (t.job job).iv = c.n + 1) ∧
    (∃ r, (t.job job).stream = some r ∧ r.iv = c.n ∧ r.complete = false ∧ (c.isMove = true → r.kind = 2)) ∧
    (c.isMove = true → (t.job job).st = .stopped ∧ (t.job job).held = true) := by
  have hexec := closeStop_captures h
  have hover := capture_over s job c (s.groupsIn (s.closeTeams job))
  generalize s.capture job c (s.groupsIn (s.closeTeams job)) = w at hexec hover
  cases hm : c.isMove with
  | false =>
    simp only [hm, Bool.false_eq_true, if_false] at hexec
    obtain ⟨hc, hstop, hiv, hr⟩ := hover.congr (afterClose_interval w job (s.closeTeams job))
    refine ⟨w.afterClose job (s.closeTeams job), ?_, hc, hstop, hiv, by rwa [hm] at hr, fun hf => absurd hf Bool.false_ne_true⟩
    rw [hexec, Bool.not_false, Bool.and_true]
  | true =>
    simp only [hm, if_true] at hexec
    obtain ⟨hint, hst, hheld⟩ := moveOut_job w job (s.closeTeams job)
    obtain ⟨hc, hstop, hiv, hr⟩ := hover.congr hint
    refine ⟨w.moveOut job (s.closeTeams job), ?_, hc, hstop, hiv, by rwa [hm] at hr, fun _ => ⟨hst, hheld⟩⟩
    rw [hexec, Bool.not_true, Bool.and_false, if_neg Bool.false_ne_true]

/-! ## Log pages (R91, R324) -/

section

variable {s : State} {job : Nat} {r : Record}

/-- A record that has begun has its parts before the units. -/
theorem logFront_begun (h : r.keys ≠ []) : s.logFront job r = some (s, r) := by
  unfold State.logFront
  rw [if_pos (by simpa using h)]

theorem logPart_room {bs : List Byte} {bad : List Nat} {k : Nat} {p : PageRec} (h : LogRoom s r bs.length k p) :
    s.logPart job r bs bad = some (s.logWrite k p bs bad, r) := by
  obtain ⟨hk, hp, hv, hsl, hfit⟩ := h
  simp only [State.logPart, hk, hp, hv, hsl, hfit, Option.bind_some, Bool.not_false, Bool.and_self, decide_true, if_true]

/-- With no room left and no frame for a page the log is exhausted. -/
theorem logPart_full {bs : List Byte} {bad : List Nat} (h : LogFull s r bs.length) : s.logPart job r bs bad = none := by
  obtain ⟨-, hroom, hpool⟩ := h
  have hnone : r.keys.getLast?.bind (fun k => (lookup s.records k).bind (fun p =>
      if p.v && !p.sl && decide (p.ct + bs.length ≤ asSize p.ps) then some (k, p) else none)) = none := by
    simp only [Option.bind_eq_none_iff]
    intro k hk p hp
    rw [if_neg fun hgo => hroom k p ?_]
    simp only [Bool.and_eq_true, Bool.not_eq_true', decide_eq_true_eq] at hgo
    exact ⟨hk, hp, hgo.1.1, hgo.1.2, hgo.2⟩
  simp only [State.logPart, hnone, hpool]

/-- An append to a log page writes the bytes at its commit tail under the page's key, and moves its tails. -/
theorem logWrite_spec (s : State) (k : Nat) (p : PageRec) (bs : List Byte) (bad : List Nat) :
    (s.logWrite k p bs bad).records = mapInsert s.records k { p with rt := p.rt + bs.length, ct := p.ct + bs.length } ∧
      InMemory (s.logWrite k p bs bad) p.kid (p.bfn.toNat * 4096 + p.ct) bs := by
  have hside := storeRange_side s p.kid (p.bfn.toNat * 4096 + p.ct) bs
  have hrec : (s.storeRange p.kid (p.bfn.toNat * 4096 + p.ct) bs).records = s.records := hside.congr _ rfl
  refine ⟨?_, fun i b hb => ?_⟩
  · rw [← hrec]
    rfl
  · obtain ⟨hi, -⟩ := List.getElem?_eq_some_iff.mp hb
    have hread := memByte_storeRange s p.kid (a := p.bfn.toNat * 4096 + p.ct) (bs := bs) (Nat.le_add_right _ i) (by omega)
    rw [Nat.add_sub_cancel_left, List.getD_eq_getElem?_getD, hb] at hread
    exact hread

/-! ## Records that stream, complete or fail (R323 to R325) -/

theorem recordFails_of_exec {i : Instr} (h : exec i s = .next (s.recordFails job r)) : RecordFails i s job := by
  have hjob : (s.recordFails job r).job job = { s.job job with stream := none, todo := [], ckf := true, full := true } := job_setJob ..
  refine ⟨_, h, rfl, ?_, ?_, ?_, ?_, fun e he => ?_⟩
  iterate 4 rw [hjob]
  simpa using (List.mem_filter.mp he).2

theorem unitStreamed_streams {u k : Nat} {p : PageRec} (hs : (s.job job).stream = some r) (hu : s.nextUnit (s.job job).todo = some u)
    (h : LogRoom s r (unitEntry (u, s.unitBytes r u)).length k p) :
    let bs := unitEntry (u, s.unitBytes r u)
    Happens (.unitStreamed job) s (fun t => lookup t.frozen u = none ∧ u ∉ (t.job job).todo ∧
      (∃ r2, (t.job job).stream = some r2 ∧ (u, s.unitBytes r u) ∈ r2.units ∧ r2.img = r.img ∧ r2.keys = r.keys) ∧
      lookup t.records k = some { p with rt := p.rt + bs.length, ct := p.ct + bs.length } ∧ InMemory t p.kid (p.bfn.toNat * 4096 + p.ct) bs) := by
  have hkeys : r.keys ≠ [] := fun hk => by simp [LogRoom, hk] at h
  have hexec : exec (.unitStreamed job) s = execUnitStreamed job s := rfl
  simp only [execUnitStreamed, hs, hu, logFront_begun hkeys, Option.bind_some, logPart_room h, ev] at hexec
  obtain ⟨hrec, hmem⟩ := logWrite_spec s k p (unitEntry (u, s.unitBytes r u)) ((s.unitBad u).map (fun la => 16 + (la * 128 - u * 65536)))
  generalize s.logWrite k p (unitEntry (u, s.unitBytes r u)) _ = w at hexec hrec hmem
  generalize s.unitBytes r u = x at hexec hrec hmem ⊢
  refine ⟨_, hexec, lookup_remove_self .., ?_, ⟨_, congrArg Job.stream (job_setJob ..), by simp, rfl, rfl⟩, ?_, hmem⟩
  · have hleft : u ∉ (s.job job).todo.filter (fun x => x != u) := by simp
    exact Eq.mpr (congrArg (fun j : Job => u ∉ j.todo) (job_setJob ..)) hleft
  · exact (congrArg (fun l => lookup l k) hrec).trans (lookup_insert_self ..)

theorem unitStreamed_fails {u : Nat} (hs : (s.job job).stream = some r) (hu : s.nextUnit (s.job job).todo = some u) (h : LogFull s r 65552) :
    RecordFails (.unitStreamed job) s job := by
  have hkeys := h.1
  rw [← unitEntry_length s r u u] at h
  have hexec : exec (.unitStreamed job) s = execUnitStreamed job s := rfl
  simp only [execUnitStreamed, hs, hu, logFront_begun hkeys, Option.bind_some, logPart_full h, ev] at hexec
  exact recordFails_of_exec hexec

theorem trailer_length (d : BitVec 256) (n : Nat) : (Record.trailer d n).length = 64 := by simp [Record.trailer, toBytes_length, zeros]

theorem sealLog_records {k : Nat} {p : PageRec} (h : lookup s.records k = some p) : lookup (s.sealLog k).records k = some { p with sl := true } := by
  simp only [State.sealLog, h]
  exact lookup_insert_self ..

theorem recordComplete_completes {k : Nat} {p : PageRec} (hs : (s.job job).stream = some r) (ht : (s.job job).todo = []) (hkind : r.kind ≠ 2)
    (h : LogRoom s r 64 k p) :
    let d := r.digest job (s.job job).part
    Happens (.recordComplete job) s (fun t => (t.job job).log = (s.job job).log ++ [{ r with dig := d, complete := true }] ∧ (t.job job).liv = r.iv ∧
      (t.job job).ldig = d ∧ (t.job job).ckdig = d ∧ (t.job job).ckf = false ∧ (t.job job).stream = none ∧
      lookup t.records k = some { p with rt := p.rt + 64, ct := p.ct + 64, sl := true }) := by
  have hkeys : r.keys ≠ [] := fun hk => by simp [LogRoom, hk] at h
  have hlast : r.keys.getLast? = some k := h.1
  have hexec : exec (.recordComplete job) s = execRecordComplete job s := rfl
  rw [← trailer_length (r.digest job (s.job job).part) (r.bytes job (s.job job).part).length] at h
  simp only [execRecordComplete, hs, ht, List.isEmpty_nil, Bool.not_true, Bool.false_eq_true, if_false, logFront_begun hkeys, Option.bind_some,
    logPart_room h, hlast, hkind, ev] at hexec
  obtain ⟨hrec, -⟩ := logWrite_spec s k p (Record.trailer (r.digest job (s.job job).part) (r.bytes job (s.job job).part).length) []
  rw [trailer_length] at hrec
  have hsealed := sealLog_records (by rw [hrec]; exact lookup_insert_self ..)
  generalize (s.logWrite k p (Record.trailer (r.digest job (s.job job).part) (r.bytes job (s.job job).part).length) []).sealLog k = w at hexec hsealed
  generalize r.digest job (s.job job).part = d at hexec ⊢
  refine ⟨_, hexec, congrArg Job.log (job_setJob ..), congrArg Job.liv (job_setJob ..), congrArg Job.ldig (job_setJob ..),
    congrArg Job.ckdig (job_setJob ..), congrArg Job.ckf (job_setJob ..), congrArg Job.stream (job_setJob ..), hsealed⟩

theorem recordComplete_fails (hs : (s.job job).stream = some r) (ht : (s.job job).todo = []) (h : LogFull s r 64) :
    RecordFails (.recordComplete job) s job := by
  have hkeys := h.1
  rw [← trailer_length (r.digest job (s.job job).part) (r.bytes job (s.job job).part).length] at h
  have hexec : exec (.recordComplete job) s = execRecordComplete job s := rfl
  simp only [execRecordComplete, hs, ht, List.isEmpty_nil, Bool.not_true, Bool.false_eq_true, if_false, logFront_begun hkeys, Option.bind_some,
    logPart_full h, ev] at hexec
  exact recordFails_of_exec hexec

theorem recordFailed_fails (hs : (s.job job).stream = some r) : RecordFails (.recordFailed job) s job := by
  have hexec : exec (.recordFailed job) s = execRecordFailed job s := rfl
  simp only [execRecordFailed, hs, Option.map_some, ev] at hexec
  exact recordFails_of_exec hexec

end

/-- Settles O47: requests and steps of a close by what each leaves of the job's interval, records by what an append to a log page writes. -/
theorem closes : Obligations.Closes := by
  unfold Obligations.Closes
  exact ⟨fun s job hl hc => checkpointTimer_requests hl hc, fun s job hl => move_requests hl, fun s job c h ha => closeStop_asks h ha,
    fun s job c h ha hh hr => closeStop_halts h ha hh hr, fun s job c h => closeStop_closes h,
    fun s job r u k p hs hu h => unitStreamed_streams hs hu h, fun s job r u hs hu h => unitStreamed_fails hs hu h,
    fun s job r k p hs ht hkind h => recordComplete_completes hs ht hkind h, fun s job r hs ht h => recordComplete_fails hs ht h,
    fun s job r hs => recordFailed_fails hs⟩

end Sys2Proof.Proofs
end

section
namespace Sys2Proof.Proofs
open Sys2Proof.Machine Sys2Proof.Says Sys2Proof.Laws

/-! ## What a step keeps of the issue that it takes (R99, R107) -/

/-- A FENCE stands at the PC of the only group, which has an access of path G to perform. -/
def fenceWaits : State :=
  let s := State.withFetchWord State.reset 64 0x1A9
  s.setGroup 0 { s.group 0 with flights := [s.flight .g 1 true []] }

/-- An issue of the word of a FENCE, which nothing stops before its meaning and the group's access holds. -/
def holdsAtFence (i : Issue) : Bool :=
  (match i.c.w with | .word w => w == 0x1A9 | _ => false) && i.s.stopTrap.isNone && (i.s.dupError .fence).isNone && !i.s.curGroup.quiet

/-- The issue begins without holds, and with the choice of its sail noted. -/
def notesSail (s : State) (i : Issue) : Bool := i.s.holds.isEmpty && i.s.sails.length != s.sails.length

theorem fenceWaits_moves : fenceWaits.boot.fatal = false ∧ fenceWaits.boot.rom = false ∧ fenceWaits.turn = none ∧
    fenceWaits.eventMoves.length = 0 ∧ fenceWaits.agenda = [] ∧ fenceWaits.threadMoves.length = 0 ∧
    fenceWaits.sailKeys.filter (fun k => (fenceWaits.sailIssue k).isSome) = [0] ∧ fenceWaits.holds = [] := by decide +kernel

theorem fenceWaits_issues : (fenceWaits.sailIssue 0).any (fun i => holdsAtFence i && notesSail fenceWaits i) = true := by decide +kernel

theorem decode_fence : decode 0x1A9 = .ok .fence := by decide +kernel

/-- Where one issue is all that may happen, a step runs what it fetched, within the state before the issue. -/
theorem step_onlyIssue {s : State} {key : Nat} {i : Issue} {w : IWord} (h : OnlyIssue s key i w) :
    step s = keepHolds s (s.finishIssue (i.s.runFetched (.word w))) := by
  obtain ⟨hfatal, hrom, hturn, hev, hag, hth, hkeys, hi, hw⟩ := h
  have hmoves : s.nextMoves = [issueOn key] := by
    simp only [State.nextMoves, State.issueMoves, hev, hag, hth, hkeys, List.isEmpty_nil, Bool.true_or, if_true, List.map_cons, List.map_nil,
      List.nil_append, List.append_nil]
  simp only [step, hfatal, hrom, hturn, State.moveOn, hmoves, issueOn, hi, hw, Bool.false_eq_true, if_false]

theorem of_holdsAtFence {i : Issue} (h : holdsAtFence i = true) :
    i.c.w = .word 0x1A9 ∧ i.s.stopTrap = none ∧ i.s.dupError .fence = none ∧ i.s.curGroup.quiet = false := by
  simp only [holdsAtFence, Bool.and_eq_true, Option.isNone_iff_eq_none, Bool.not_eq_true'] at h
  obtain ⟨⟨⟨hw, hstop⟩, hdup⟩, hq⟩ := h
  refine ⟨?_, hstop, hdup, hq⟩
  cases hf : i.c.w with
  | word w => rw [hf] at hw; rw [beq_iff_eq.mp hw]
  | fault x va len => rw [hf] at hw; exact absurd hw Bool.false_ne_true
  | poison pa len => rw [hf] at hw; exact absurd hw Bool.false_ne_true

theorem exec_fence_holds {s : State} (hq : s.curGroup.quiet = false) : exec .fence s = .next s.holdCur := by
  change execFence s = _
  rw [execFence, hq]
  rfl

/-- A step whose issue holds leaves of its outcome the holds alone. -/
theorem keepHolds_hold {r s t : State} (hr : r.holds = s.holds) (ht : t.holds = s.holds) :
    keepHolds r (s.finishIssue (.next t.holdCur)) = .next { s with holds := t.holdCur.holds } := by
  simp [keepHolds, State.finishIssue, State.holdCur, hr, ht]

/-- An issue that holds at a FENCE. -/
theorem runFetched_fence {s : State} (hstop : s.stopTrap = none) (hdup : s.dupError .fence = none) (hq : s.curGroup.quiet = false) :
    s.runFetched (.word 0x1A9) = .next s.holdCur := by
  have hfits : Instr.fits .fence s.curGroup.vr = true := rfl
  simp only [State.runFetched, hstop, decode_fence, hfits, if_true, hdup, exec_fence_holds hq]

/-- Refutes O58: where the instruction holds, the step leaves the machine as it was before the issue (`State.finishIssue` of the state
before it), and not as the issue began: the choice that the sail noted is dropped with it. At a FENCE that an access holds, the two
differ in the table of sails. -/
theorem not_stepRuns : ¬ Obligations.StepRuns := by
  unfold Obligations.StepRuns
  rintro ⟨hruns, -⟩
  obtain ⟨hfatal, hrom, hturn, hev, hag, hth, hkeys, hnone⟩ := fenceWaits_moves
  obtain ⟨i, hi, hat⟩ := (Option.any_eq_true _ _).mp fenceWaits_issues
  obtain ⟨hfence, hnotes⟩ := Bool.and_eq_true_iff.mp hat
  obtain ⟨hw, hstop, hdup, hq⟩ := of_holdsAtFence hfence
  simp only [notesSail, Bool.and_eq_true, List.isEmpty_iff, bne_iff_ne] at hnotes
  obtain ⟨hholds, hsails⟩ := hnotes
  have honly : OnlyIssue fenceWaits 0 i 0x1A9 :=
    ⟨hfatal, hrom, hturn, List.length_eq_zero_iff.mp hev, hag, List.length_eq_zero_iff.mp hth, hkeys, hi, hw⟩
  have hstep := hruns fenceWaits 0 i 0x1A9 .fence honly hstop decode_fence rfl hdup
  have hsame : i.s.holds = fenceWaits.holds := hholds.trans hnone.symm
  rw [step_onlyIssue honly, runFetched_fence hstop hdup hq, exec_fence_holds hq, keepHolds_hold rfl hsame, keepHolds_hold hsame.symm rfl] at hstep
  exact hsails (congrArg (fun t : State => t.sails.length) (Host.Outcome.next.inj hstep)).symm

end Sys2Proof.Proofs
end

section
namespace Sys2Proof.Proofs
open Sys2Proof.Machine Sys2Proof.Says Sys2Proof.Laws

/-! ## Changes of the own group alone (R132) -/

theorem ownGroupOnly_setCurGroup (s : State) (g : Group) : OwnGroupOnly s (s.setCurGroup g) :=
  ⟨rfl, fun _ hk => group_setGroup_ne _ _ hk, fun _ => rfl⟩

theorem ownGroupOnly_advance (s : State) : OwnGroupOnly s s.advance := ownGroupOnly_setCurGroup ..

theorem ownGroupOnly_trans {s t u : State} (h : OwnGroupOnly s t) (k : OwnGroupOnly t u) : OwnGroupOnly s u := by
  obtain ⟨hrest, hother, hmem⟩ := h
  obtain ⟨krest, kother, kmem⟩ := k
  have hcur : t.cur = s.cur := by rw [hrest]
  exact ⟨by rw [krest, hrest], fun k hk => (kother k (hcur ▸ hk)).trans (hother k hk), fun a => (kmem a).trans (hmem a)⟩

theorem ownGroupOnly_setCurGroup_advance (s : State) (g : Group) : OwnGroupOnly s (s.setCurGroup g).advance :=
  ownGroupOnly_trans (ownGroupOnly_setCurGroup s g) (ownGroupOnly_advance _)

theorem advance_curGroup (s : State) : s.advance.curGroup = s.curGroup.mapLanes s.cur.lanes (fun x => { x with pc := s.nextPc }) :=
  curGroup_setCurGroup ..

/-- The lanes of the issue state changed, in the words of `branched`. -/
theorem lane_mapLanes_issue {s : State} (f : Lane → Lane) {l : Nat} (h : l < s.curGroup.lanes.length) :
    (s.curGroup.mapLanes s.cur.lanes f).lane l = branched s s.cur.lanes (fun _ => f) l := by
  rw [lane_mapLanes, branched]
  by_cases hl : s.cur.lanes.getLsbD l = true
  · rw [if_pos ⟨hl, h⟩, if_pos hl]
  · rw [if_neg (fun hc => hl hc.1), if_neg hl, if_neg hl]

theorem lanesRun_advance {i : Instr} {s : State} (hi : exec i s = (Act.done s.cur.lanes s.advance).run s) :
    LanesRun i s s.cur.lanes (branched s 0 (fun _ x => x)) := by
  obtain ⟨hrest, hother, -⟩ := ownGroupOnly_advance s
  refine lanesRun_of_exec hi hrest hother (by rw [advance_curGroup]; rfl) fun l hl => ?_
  rw [advance_curGroup, lane_mapLanes]
  simp [branched, hl]

/-- An instruction that writes one scalar. -/
theorem scalarRun_of_exec {i : Instr} {s : State} {d : BitVec 7} {v : DWord} (hi : exec i s = scalarWrite s d v) : ScalarRun i s d v := by
  obtain ⟨t, ht, hdone, hg, hread⟩ := scalarWrite_run s d v
  exact ⟨t, hi.trans ht, hdone, hg, hread⟩

/-! ## The barrier's word (R263) -/

theorem wakeAll_teams (l : List Nat) (b : BwKind) (s : State) : (s.wakeAll l b).teams = s.teams :=
  List.foldlRecOn (motive := fun t : State => t.teams = s.teams) l _ rfl fun _ h _ _ => h

theorem bar_setBar (t : Team) (b : Nat) (x : Barrier) (n : Nat) : (t.setBar b x).bar n = if n = b then x else t.bar n := by
  by_cases h : n = b
  · subst h
    rw [if_pos rfl]
    exact getD_setD_self ..
  · rw [if_neg h]
    exact getD_setD_ne _ _ _ h

theorem team_setTeam_ne (s : State) {k j : Nat} (t : Team) (h : j ≠ k) : (s.setTeam k t).team j = s.team j := getD_insert_ne _ _ _ h

theorem complete_iff (x : Barrier) : x.complete = true ↔ x.ac = x.ec ∧ x.pb = 0 ∧ x.rv = 0 := by
  simp [Barrier.complete, and_assoc]

theorem bar_barCheck (s : State) (tk b n : Nat) :
    ((s.barCheck tk b).team tk).bar n = if n = b then checked ((s.team tk).bar b) else (s.team tk).bar n := by
  by_cases hc : ((s.team tk).bar b).complete = true
  · have hflip : checked ((s.team tk).bar b) = ((s.team tk).bar b).flip := if_pos ((complete_iff _).mp hc)
    have hteam : (s.barCheck tk b).team tk = (s.team tk).setBar b ((s.team tk).bar b).flip := by
      rw [State.barCheck, if_pos hc, State.team, wakeAll_teams]
      exact team_setTeam ..
    rw [hteam, hflip, bar_setBar]
  · have hkeep : checked ((s.team tk).bar b) = (s.team tk).bar b := if_neg fun h => hc ((complete_iff _).mpr h)
    rw [State.barCheck, if_neg hc, hkeep]
    split_ifs with hn
    · rw [hn]
    · rfl

/-- A barrier changed and checked; the team's others stay. -/
theorem bar_updBar (s : State) (tk b : Nat) (f : Barrier → Barrier) (n : Nat) :
    ((s.updBar tk b f).team tk).bar n = if n = b then checked (f ((s.team tk).bar b)) else (s.team tk).bar n := by
  rw [State.updBar, bar_barCheck, team_setTeam, bar_setBar, bar_setBar, if_pos rfl]
  split_ifs <;> rfl

/-- An instruction that changes a barrier of its team: its issue is accounted for, of its group the lanes alone change beyond what its effect
`w` has, the barrier is checked, the other barriers stay. -/
theorem updBar_runs {i : Instr} {s w : State} {b : Nat} {f : Barrier → Barrier} (hi : exec i s = (Act.done s.cur.lanes (w.updBar s.curGroup.tk b f)).run s)
    (hcur : w.cur = s.cur) (hteams : w.teams = s.teams)
    (hg : w.curGroup = { s.curGroup with lanes := w.curGroup.lanes, s := w.curGroup.s }) :
    ∃ t, exec i s = .next t ∧ Accounted s t s.cur.lanes ∧ t.mem = w.mem ∧
      t.curGroup = { w.curGroup with
        lanes := t.curGroup.lanes, perf := t.curGroup.perf, sk := t.curGroup.sk, sc := t.curGroup.sc, skip := t.curGroup.skip,
        stepPend := t.curGroup.stepPend } ∧
      ∀ n, t.curTeam.bar n = if n = b then checked (f (s.curTeam.bar b)) else s.curTeam.bar n := by
  obtain ⟨hrest, hwoken⟩ := updBar_woken w s.curGroup.tk b f
  have hbar := bar_updBar w s.curGroup.tk b f
  generalize w.updBar s.curGroup.tk b f = u at hi hrest hwoken hbar
  have hcur' : u.cur = s.cur := by rw [hrest]; exact hcur
  have hown : u.curGroup = { w.curGroup with lanes := u.curGroup.lanes } := by
    rw [State.curGroup, State.curGroup, hcur', ← hcur]
    exact hwoken _
  obtain ⟨hacc, -, hown'⟩ := retire_accounted (s := s) (act := s.cur.lanes) hcur' (by rw [hown, hg]) (by rw [hown, hg]) (by rw [hown, hg])
    (by rw [hown, hg]) (by rw [hown, hg])
  have hteam : w.team s.curGroup.tk = s.curTeam := by rw [State.team, hteams]; rfl
  refine ⟨_, hi, hacc, by rw [stateRetire_mem, hrest], by rw [hown', hown], fun n => ?_⟩
  have htk : (s.retire s.cur.lanes u).curGroup.tk = s.curGroup.tk := by rw [hown', hown, hg]; rfl
  rw [State.curTeam, htk, ← hteam]
  exact hbar n

/-! ## BARINIT, BAREXP, BARARR (R264) -/

section

variable {s : State} {d : BitVec 4} {a : BitVec 7}

theorem setWidth_eq_zero_iff (x : DWord) : x.setWidth 16 = 0 ↔ x.toNat % 2 ^ 16 = 0 := by
  rw [← BitVec.toNat_inj, BitVec.toNat_setWidth]
  rfl

theorem barinit_inits (hec : (s.curGroup.sget a.toNat).toNat % 2 ^ 16 ≠ 0) (hw : s.barWaited s.curGroup.tk d.toNat = false)
    (hc : s.barCounted s.curGroup.tk d.toNat = false) :
    TeamRun (.barinit d a) s s.cur.lanes (fun t => t.mem = s.curTeam.mem ∧ ∀ n, t.bar n = if n = d.toNat then
      { Barrier.zero with ec := (s.curGroup.sget a.toNat).setWidth 16 } else s.curTeam.bar n) := by
  have hi : exec (.barinit d a) s = execBarinit d a s := rfl
  simp only [execBarinit, if_neg (fun h => hec ((setWidth_eq_zero_iff _).mp h)), hw, hc, Bool.false_eq_true, if_false] at hi
  generalize hx : s.curTeam.setBar d.toNat { Barrier.zero with ec := (s.curGroup.sget a.toNat).setWidth 16 } = x at hi
  have h := retire_retired (s := s) (u := s.setCurTeam x) (act := s.cur.lanes) rfl (IssueKept.refl _)
  have htk : (s.retire s.cur.lanes (s.setCurTeam x).advance).curGroup.tk = s.curGroup.tk := by rw [h.own]; rfl
  have hteam : (s.retire s.cur.lanes (s.setCurTeam x).advance).curTeam = x := by
    rw [State.curTeam, htk]
    exact team_setTeam ..
  refine ⟨_, hi, ⟨h.rest, h.others, fun tk htk => team_setTeam_ne s x htk⟩, h.continues, h.accounted,
    h.allRegs ⟨⟨rfl, rfl, rfl, rfl, rfl, rfl, rfl, rfl⟩, rfl⟩, ?_⟩
  rw [hteam, ← hx]
  exact ⟨rfl, fun n => bar_setBar ..⟩

theorem barexp_expects (hec : (s.curTeam.bar d.toNat).ec ≠ 0)
    (hrv : (s.curTeam.bar d.toNat).rv.toNat + (s.curGroup.sget a.toNat).toNat < 2 ^ 64) :
    ∃ t, exec (.barexp d a) s = .next t ∧ Accounted s t s.cur.lanes ∧ AllRegs s t ∧ t.mem = s.mem ∧
      ∀ n, t.curTeam.bar n = if n = d.toNat then checked { s.curTeam.bar d.toNat with rv := (s.curTeam.bar d.toNat).rv + s.curGroup.sget a.toNat }
        else s.curTeam.bar n := by
  have hi : exec (.barexp d a) s = execBarexp d a s := rfl
  simp only [execBarexp, if_neg hec, if_neg (Nat.not_le.mpr hrv)] at hi
  obtain ⟨t, ht, hacc, hmem, hown, hbar⟩ := updBar_runs hi rfl rfl (by rw [advance_curGroup]; rfl)
  refine ⟨t, ht, hacc, ?_, hmem, hbar⟩
  unfold AllRegs OtherRegs
  rw [hown, advance_curGroup]
  exact ⟨⟨rfl, rfl, rfl, rfl, rfl, rfl, rfl, rfl⟩, rfl⟩

end

theorem sset_advance_curGroup (s : State) (d : Nat) (v : DWord) : let w := (s.setCurGroup (s.curGroup.sset d v)).advance
    w.curGroup = { s.curGroup with lanes := w.curGroup.lanes, s := (s.curGroup.sset d v).s } := by
  intro w
  have hw : w.curGroup = (s.curGroup.sset d v).mapLanes s.cur.lanes (fun x => { x with pc := s.nextPc }) := by
    rw [show w.curGroup = _ from advance_curGroup .., curGroup_setCurGroup]
    rfl
  rw [hw]
  unfold Group.sset
  split <;> rfl

theorem bararr_arrives {s : State} {d : BitVec 7} {a : BitVec 4} (hec : (s.curTeam.bar a.toNat).ec ≠ 0) (hq : s.curGroup.quiet = true)
    (hac : (s.curTeam.bar a.toNat).ac ≠ (s.curTeam.bar a.toNat).ec) :
    ∃ t, exec (.bararr d a) s = .next t ∧ Accounted s t s.cur.lanes ∧ t.mem = s.mem ∧ t.curGroup.v = s.curGroup.v ∧ t.curGroup.p = s.curGroup.p ∧
      (∀ n, t.curGroup.sget n = withScalar s d.toNat (if (s.curTeam.bar a.toNat).ph then 1 else 0) n) ∧
      ∀ n, t.curTeam.bar n = if n = a.toNat then checked { s.curTeam.bar a.toNat with ac := (s.curTeam.bar a.toNat).ac + 1 } else s.curTeam.bar n := by
  have hi : exec (.bararr d a) s = execBararr d a s := rfl
  have hgo : (!s.curGroup.quiet || (s.curTeam.bar a.toNat).ac == (s.curTeam.bar a.toNat).ec) = false := by simp [hq, hac]
  simp only [execBararr, if_neg hec, hgo, Bool.false_eq_true, if_false] at hi
  have hw := sset_advance_curGroup s d.toNat (if (s.curTeam.bar a.toNat).ph then 1 else 0)
  obtain ⟨t, ht, hacc, hmem, hown, hbar⟩ := updBar_runs hi rfl rfl (by rw [hw])
  rw [hw] at hown
  refine ⟨t, ht, hacc, hmem, by rw [hown], by rw [hown], fun n => ?_, hbar⟩
  rw [withScalar, ← sget_sset, hown]
  rfl

/-! ## Waits (R264, R265) -/

/-- An instruction whose effect is lanes changed, and what follows a change of lane status. -/
theorem lanesThen_of_exec {i : Instr} {s u : State} {act : DWord} {p : State → Prop}
    (hi : exec i s = (Act.done act (u.afterLanes s.cur.grp)).run s) (hown : OwnGroupOnly s u) (hp : p u) : LanesThen i s act p :=
  ⟨u, hown, hp, hi⟩

theorem bwRun_of_exec {i : Instr} {s : State} {b : BwKind} (hi : exec i s = (Act.done s.cur.lanes (s.waitBw b)).run s) : BwRun i s b := by
  refine lanesThen_of_exec hi (ownGroupOnly_setCurGroup ..) ?_
  rw [curGroup_setCurGroup]
  exact ⟨rfl, fun l hl => lane_mapLanes_issue _ hl⟩

section

variable {s : State} {d : BitVec 7} {a : BitVec 4} {b : BitVec 7}

theorem phaseOpen_iff : phaseOpen s a b = true ↔ (s.curTeam.bar a.toNat).ph = (s.curGroup.sget b.toNat).getLsbD 0 := beq_iff_eq

theorem barwait_waits (hec : (s.curTeam.bar a.toNat).ec ≠ 0) (hph : (s.curTeam.bar a.toNat).ph = (s.curGroup.sget b.toNat).getLsbD 0) :
    BwRun (.barwait a b) s (.bar a) := by
  have hi : exec (.barwait a b) s = execBarwait a b s := rfl
  rw [execBarwait, if_neg hec, if_pos (phaseOpen_iff.mpr hph)] at hi
  exact bwRun_of_exec hi

theorem barwait_passes (hec : (s.curTeam.bar a.toNat).ec ≠ 0) (hph : (s.curTeam.bar a.toNat).ph ≠ (s.curGroup.sget b.toNat).getLsbD 0) :
    LanesRun (.barwait a b) s s.cur.lanes (branched s 0 (fun _ x => x)) := by
  have hi : exec (.barwait a b) s = execBarwait a b s := rfl
  rw [execBarwait, if_neg hec, if_neg (fun h => hph (phaseOpen_iff.mp h))] at hi
  exact lanesRun_advance hi

theorem bartry_reads (hec : (s.curTeam.bar a.toNat).ec ≠ 0) : ScalarRun (.bartry d a b) s d
    (if (s.curTeam.bar a.toNat).ph = (s.curGroup.sget b.toNat).getLsbD 0 then 0 else 1) := by
  have hi : exec (.bartry d a b) s = execBartry d a b s := rfl
  simp only [execBartry, if_neg hec, phaseOpen_iff] at hi
  exact scalarRun_of_exec hi

theorem barwait_uninit (hec : (s.curTeam.bar a.toNat).ec = 0) : Traps (.barwait a b) s (fun t => t.cause = 2) :=
  ⟨_, rfl, by rw [show exec (.barwait a b) s = execBarwait a b s from rfl, execBarwait, if_pos hec]; rfl⟩
theorem bartry_uninit (hec : (s.curTeam.bar a.toNat).ec = 0) : Traps (.bartry d a b) s (fun t => t.cause = 2) :=
  ⟨_, rfl, by rw [show exec (.bartry d a b) s = execBartry d a b s from rfl, execBartry, if_pos hec]; rfl⟩
theorem bararr_uninit (hec : (s.curTeam.bar a.toNat).ec = 0) : Traps (.bararr d a) s (fun t => t.cause = 2) :=
  ⟨_, rfl, by rw [show exec (.bararr d a) s = execBararr d a s from rfl, execBararr, if_pos hec]; rfl⟩

end

theorem barinit_zero {s : State} {d : BitVec 4} {a : BitVec 7} (h : (s.curGroup.sget a.toNat).toNat % 2 ^ 16 = 0) :
    Traps (.barinit d a) s (fun t => t.cause = 2) :=
  ⟨_, rfl, by rw [show exec (.barinit d a) s = execBarinit d a s from rfl, execBarinit, if_pos ((setWidth_eq_zero_iff _).mpr h)]; rfl⟩

theorem tbar_waits {s : State} (hq : s.curGroup.quiet = true) : BwRun .tbar s .team := by
  have hi : exec .tbar s = execTbar s := rfl
  rw [execTbar, if_pos hq] at hi
  exact bwRun_of_exec hi

theorem cbar_waits {s : State} (hq : s.curGroup.quiet = true) : BwRun .cbar s .cluster := by
  have hi : exec .cbar s = execCbar s := rfl
  rw [execCbar, if_pos hq] at hi
  exact bwRun_of_exec hi

/-- Settles O29: each instruction's own lemma; the barrier's new word by `bar_updBar`. -/
theorem barriers : Obligations.Barriers := by
  unfold Obligations.Barriers
  exact ⟨fun s d a hec hw hc => barinit_inits hec hw hc, fun s d a => barexp_expects, fun s d a => bararr_arrives,
    fun s a b hec hph => barwait_waits hec hph, fun s a b hec hph => barwait_passes hec hph, fun s d a b hec => bartry_reads hec,
    fun s hq => tbar_waits hq, fun s hq => cbar_waits hq, fun s d a b hec => ⟨barwait_uninit hec, bartry_uninit hec, bararr_uninit hec⟩,
    fun s d a h => barinit_zero h⟩

end Sys2Proof.Proofs
end

section
namespace Sys2Proof.Proofs
open Sys2Proof.Machine Sys2Proof.Says Sys2Proof.Laws

/-! ## What a change of lane status leaves alone (R108, R134, R194, R243, R263) -/

/-- A group's vector, scalar and predicate registers and its FMODE are as they were. -/
def RegsKept (g h : Group) : Prop := h.v = g.v ∧ h.s = g.s ∧ h.p = g.p ∧ h.fmode = g.fmode

theorem RegsKept.refl (g : Group) : RegsKept g g := ⟨rfl, rfl, rfl, rfl⟩
theorem RegsKept.trans {g h k : Group} (x : RegsKept g h) (y : RegsKept h k) : RegsKept g k :=
  ⟨y.1.trans x.1, y.2.1.trans x.2.1, y.2.2.1.trans x.2.2.1, y.2.2.2.trans x.2.2.2⟩

/-- Memory, the lines of the L2s, the messages and every group's registers are as they were. -/
structure DataKept (s t : State) : Prop where
  mem : t.mem = s.mem
  l2 : t.l2 = s.l2
  msgs : t.msgs = s.msgs
  regs : ∀ j, RegsKept (s.group j) (t.group j)

namespace DataKept

variable {s t u : State}

theorem refl (s : State) : DataKept s s := ⟨rfl, rfl, rfl, fun _ => .refl _⟩
theorem trans (h : DataKept s t) (k : DataKept t u) : DataKept s u :=
  ⟨k.mem.trans h.mem, k.l2.trans h.l2, k.msgs.trans h.msgs, fun j => (h.regs j).trans (k.regs j)⟩
theorem foldl {α : Type} {f : State → α → State} (hf : ∀ t a, DataKept t (f t a)) (l : List α) (s : State) : DataKept s (l.foldl f s) :=
  List.foldlRecOn (motive := DataKept s) l f (.refl s) fun t h a _ => h.trans (hf t a)
theorem of_groups (hm : t.mem = s.mem) (hl : t.l2 = s.l2) (hs : t.msgs = s.msgs) (hg : t.groups = s.groups) : DataKept s t :=
  ⟨hm, hl, hs, fun j => by rw [show t.group j = s.group j by rw [State.group, hg]; rfl]; exact .refl _⟩
theorem setGroup (s : State) (k : Nat) {g : Group} (h : RegsKept (s.group k) g) : DataKept s (s.setGroup k g) :=
  ⟨rfl, rfl, rfl, fun j => by
    by_cases hj : j = k
    · subst hj
      rw [group_setGroup_self]
      exact h
    · rw [group_setGroup_ne _ _ hj]
      exact .refl _⟩
theorem of_woken (h : LanesWoken s t) : DataKept s t := by
  obtain ⟨hrest, hg⟩ := h
  exact ⟨by rw [hrest], by rw [hrest], by rw [hrest], fun j => by rw [hg]; exact .refl _⟩

end DataKept

theorem joinCheck_regs (g : Group) : RegsKept g g.joinCheck := by
  refine List.foldlRecOn (motive := RegsKept g) (List.range 8) _ (.refl g) fun h hk r _ => ?_
  split
  · exact hk
  · exact hk

theorem parkEnd_regs (g : Group) : RegsKept g g.parkEnd := by
  unfold Group.parkEnd
  split <;> exact .refl g

theorem settle_regs (g : Group) : RegsKept g g.settle := by
  have h := (joinCheck_regs g).trans (parkEnd_regs g.joinCheck)
  unfold Group.settle
  dsimp only
  split <;> exact h

theorem endCheck_kept (s : State) (k : Nat) : DataKept s (s.endCheck k) := by
  unfold State.endCheck
  dsimp only
  split
  · refine .setGroup s k ?_
    exact ⟨rfl, rfl, rfl, rfl⟩
  · exact .refl s

theorem tbarCheck_woken (s : State) (tk : Nat) : LanesWoken s (s.tbarCheck tk) := by
  unfold State.tbarCheck
  dsimp only
  split
  · exact wakeAll_woken ..
  · exact ⟨rfl, fun _ => rfl⟩

theorem cbarCheck_woken (s : State) (j team : Nat) : LanesWoken s (s.cbarCheck j team) := by
  unfold State.cbarCheck
  dsimp only
  split
  · exact wakeAll_woken ..
  · exact ⟨rfl, fun _ => rfl⟩

theorem trapStop_kept (s : State) (k n : Nat) : DataKept s (s.trapStop k n) := .of_groups rfl rfl rfl rfl

theorem debugStop_kept (s : State) (k : Nat) : DataKept s (s.debugStop k) := by
  generalize hu : (s.stopJob (s.group k).job true).postJob (s.group k).job 0x09 (s.job (s.group k).job).tag.toNat (s.group k).team
    (Config.free64 s.free) (Config.free64 (s.free + 1)) = u
  have hk : DataKept s u := by
    rw [← hu]
    exact .of_groups rfl rfl rfl rfl
  have he : s.debugStop k = (u.setGroup k { u.group k with skip := true }).spend.spend := by rw [← hu]; rfl
  rw [he]
  refine (hk.trans (.setGroup u k ?_)).trans (.of_groups rfl rfl rfl rfl)
  exact ⟨rfl, rfl, rfl, rfl⟩

theorem takeTrap_kept (s : State) (k : Nat) (lanes : DWord) (pc : VAddr) (len : Nat) (t : Trap) : DataKept s (s.takeTrap k lanes pc len t) := by
  unfold State.takeTrap
  dsimp only
  split
  · refine .trans ?_ (debugStop_kept _ _)
    exact .setGroup s k ⟨rfl, rfl, rfl, rfl⟩
  · split
    · refine .trans ?_ (trapStop_kept _ _ _)
      exact .setGroup s k ⟨rfl, rfl, rfl, rfl⟩
    · split
      · refine .trans ?_ (trapStop_kept _ _ _)
        exact .setGroup s k ⟨rfl, rfl, rfl, rfl⟩
      · exact .setGroup s k ⟨rfl, rfl, rfl, rfl⟩

theorem trapIssue_kept (s : State) (k : Nat) (lanes act : DWord) (pc : VAddr) (len : Nat) (t : Trap) :
    DataKept s (s.trapIssue k lanes act pc len t) := by
  refine (takeTrap_kept s k lanes pc len t).trans (.setGroup _ k ?_)
  rw [retire_rest]
  exact ⟨rfl, rfl, rfl, rfl⟩

theorem discard_regs (g : Group) (id : Nat) : RegsKept g (g.discard id) := by
  unfold Group.discard
  split <;> exact .refl g

theorem latchTrap_kept (s : State) (tk : Nat) (l : Latch) (t : Trap) : DataKept s (s.latchTrap tk l t) := by
  refine .trans (t := s.setTeam tk ((s.team tk).setLatch { l with arr := [] })) (.of_groups rfl rfl rfl rfl) (.foldl (fun u a => ?_) l.arr _)
  refine .trans (.setGroup u (tk * 64 + a.q) ?_) (trapIssue_kept ..)
  exact discard_regs ..

theorem latchCheck_kept (s : State) (tk : Nat) : DataKept s (s.latchCheck tk) := .foldl (fun u l => latchTrap_kept u tk l _) _ s

/-- What follows a change of lane status leaves data alone. -/
theorem afterLanes_kept (s : State) (k : Nat) : DataKept s (s.afterLanes k) := by
  unfold State.afterLanes
  exact (((DataKept.setGroup s k (settle_regs _)).trans (endCheck_kept ..)).trans (.of_woken (tbarCheck_woken ..))).trans
    ((DataKept.of_woken (cbarCheck_woken ..)).trans (latchCheck_kept ..))

end Sys2Proof.Proofs
end

section
namespace Sys2Proof.Proofs
open Sys2Proof.Machine Sys2Proof.Says Sys2Proof.Laws

/-! ## Masks of lanes -/

theorem getLsbD_laneBit (i : Nat) {l : Nat} (hl : l < 64) : (laneBit i).getLsbD l = decide (l = i) := by
  unfold laneBit
  by_cases h : l < i
  · simp [hl, h, Nat.ne_of_lt h]
  · by_cases he : l = i
    · simp [he]; omega
    · have : l - i ≠ 0 := by omega
      simp [hl, h, he, this]

theorem getLsbD_maskOf (ls : List Nat) {l : Nat} (hl : l < 64) : (maskOf ls).getLsbD l = decide (l ∈ ls) := by
  have h : ∀ (ls : List Nat) (m : BitVec 64), (ls.foldl (fun m i => m ||| laneBit i) m).getLsbD l = (m.getLsbD l || decide (l ∈ ls)) := by
    intro ls
    induction ls with
    | nil => simp
    | cons i ls ih =>
      intro m
      rw [List.foldl_cons, ih, BitVec.getLsbD_or, getLsbD_laneBit i hl]
      simp [Bool.or_assoc]
  rw [maskOf, h]
  simp

theorem getLsbD_full (g : Group) {l : Nat} (hl : l < 64) : g.full.getLsbD l = decide (l < g.width) := by
  rw [Group.full, maskBelow, getLsbD_maskOf _ hl]
  simp

theorem getLsbD_lanesWith (g : Group) (f : Lane → Bool) {l : Nat} (hl : l < 64) :
    (g.lanesWith f).getLsbD l = (decide (l < g.lanes.length) && f (g.lane l)) := by
  rw [Group.lanesWith, getLsbD_maskOf _ hl]
  simp

theorem active_and_lanes (s : State) (gd : Guard) : s.active gd &&& s.cur.lanes = s.active gd := by
  rw [State.active, BitVec.and_assoc, BitVec.and_comm _ s.cur.lanes, ← BitVec.and_assoc, BitVec.and_self]

/-! ## JSET and JOIN (R197, R198) -/

theorem jget_jset (g : Group) (d n : Nat) (x : DWord) : (g.jset d x).jget n = if n = d then x else g.jget n := by
  by_cases h : n = d
  · subst h
    rw [if_pos rfl]
    exact getD_setD_self ..
  · rw [if_neg h]
    exact getD_setD_ne _ _ _ h

theorem joinMask_setCurGroup (s : State) (d : BitVec 3) (m : DWord) :
    JoinMask s (s.setCurGroup (s.curGroup.jset d.toNat (m &&& s.curGroup.full))).advance d m := by
  unfold JoinMask Continues
  rw [advance_curGroup, curGroup_setCurGroup]
  exact ⟨fun l => lane_mapLanes .., rfl, fun n => jget_jset ..⟩

theorem jset_joins {i : Instr} {s : State} {act m : DWord} {d : BitVec 3} (hi : exec i s = (Act.done act (s.setJoin d m)).run s) :
    LanesThen i s act (fun u => JoinMask s u d m) :=
  ⟨(s.setCurGroup (s.curGroup.jset d.toNat (m &&& s.curGroup.full))).advance, ownGroupOnly_setCurGroup_advance .., joinMask_setCurGroup .., hi⟩

theorem join_waits (s : State) (a : BitVec 3) (disp : BitVec 33) : LanesThen (.join a disp) s s.cur.lanes (fun u =>
    u.curGroup = { s.curGroup with lanes := u.curGroup.lanes } ∧
    ∀ l, l < s.curGroup.lanes.length → u.curGroup.lane l =
      branched s s.cur.lanes (fun _ x => { x with st := .jw, jr := a, nxt := dest s disp.toInt }) l) := by
  have hi : exec (.join a disp) s = execJoin a disp s := rfl
  rw [execJoin, target_eq_dest] at hi
  refine lanesThen_of_exec hi (ownGroupOnly_setCurGroup ..) ?_
  rw [curGroup_setCurGroup]
  exact ⟨rfl, fun l hl => lane_mapLanes_issue _ hl⟩

/-! ## EXIT and EXITCHAIN (R203, R204) -/

/-- The state in which lanes have ended, before what follows a change of lane status. -/
def endedLanes (s : State) (m : DWord) : State :=
  s.advance.setCurGroup { s.advance.curGroup.mapLanes m (fun x => { x with pc := s.cur.pc, st := .ex, jr := 0, bw := .none }) with
    xm := s.advance.curGroup.xm &&& ~~~m }

theorem endedLanes_own (s : State) (m : DWord) : OwnGroupOnly s (endedLanes s m) :=
  ownGroupOnly_trans (ownGroupOnly_advance s) (ownGroupOnly_setCurGroup s.advance _)

theorem endedLanes_ended {s : State} {m : DWord} (hm : m &&& s.cur.lanes = m) : Ended s (endedLanes s m) m := by
  have hg : (endedLanes s m).curGroup = { s.advance.curGroup.mapLanes m (fun x => { x with pc := s.cur.pc, st := .ex, jr := 0, bw := .none }) with
    xm := s.advance.curGroup.xm &&& ~~~m } := curGroup_setCurGroup ..
  rw [Ended, hg, advance_curGroup, hm]
  refine ⟨rfl, fun l hl => ?_⟩
  simp only [Group.lane, Group.mapLanes, branched]
  cases hml : m.getLsbD l <;> cases hcl : s.cur.lanes.getLsbD l <;> simp [hl, hml, hcl]

theorem exit_ends {i : Instr} {s : State} {m : DWord} (hi : exec i s = (Act.done m (s.exitLanes m)).run s) (hm : m &&& s.cur.lanes = m) :
    LanesThen i s m (fun u => Ended s u m) :=
  ⟨endedLanes s m, endedLanes_own s m, endedLanes_ended hm, hi⟩

/-- The argument that EXITCHAIN passes. -/
def chainArg (g : Group) : SLit → DWord
  | .reg r => g.sget r.toNat
  | .lit x => Config.exitchainHigh x ++ x

section

variable {s : State} {gd : Guard} {a : BitVec 7} {b : SLit}

theorem exitchain_idle (h : s.active gd = 0) : LanesRun (.exitchain gd a b) s 0 (branched s 0 (fun _ x => x)) := by
  have hi : exec (.exitchain gd a b) s = execExitchain gd a b s := rfl
  simp only [execExitchain, h, if_true] at hi
  exact lanesRun_none hi

theorem exitchain_refuses (hm : s.active gd ≠ 0) (h : 2 ^ 57 ≤ (s.curGroup.sget a.toNat).toNat ∨ (s.curGroup.sget a.toNat).toNat % 4 ≠ 0) :
    Traps (.exitchain gd a b) s (fun e => e.cause = 2) := by
  have hi : exec (.exitchain gd a b) s = execExitchain gd a b s := rfl
  have hbad : (s.curGroup.sget a.toNat).toNat / 2 ^ 57 ≠ 0 ∨ (s.curGroup.sget a.toNat).toNat % 4 ≠ 0 := h.imp (fun h => by omega) id
  simp only [execExitchain, if_neg hm, if_pos hbad] at hi
  exact ⟨_, rfl, hi⟩

theorem exitchain_ends (hm : s.active gd ≠ 0) (hlt : (s.curGroup.sget a.toNat).toNat < 2 ^ 57) (h4 : (s.curGroup.sget a.toNat).toNat % 4 = 0)
    (hv : s.curTeam.chain.v = false) : exec (.exitchain gd a b) s = (Act.done (s.active gd) ((s.setCurTeam { s.curTeam with
      chain := { v := true, e := (s.curGroup.sget a.toNat).setWidth 57, a := chainArg s.curGroup b } }).exitLanes (s.active gd))).run s := by
  have hi : exec (.exitchain gd a b) s = execExitchain gd a b s := rfl
  have hgood : ¬((s.curGroup.sget a.toNat).toNat / 2 ^ 57 ≠ 0 ∨ (s.curGroup.sget a.toNat).toNat % 4 ≠ 0) := by omega
  simp only [execExitchain, if_neg hm, if_neg hgood, hv, Bool.false_eq_true, false_and, if_false] at hi
  exact hi

theorem exitchain_chains (hm : s.active gd ≠ 0) (hlt : (s.curGroup.sget a.toNat).toNat < 2 ^ 57) (h4 : (s.curGroup.sget a.toNat).toNat % 4 = 0)
    (hv : s.curTeam.chain.v = false) : ∃ u : State,
      u.curTeam = { s.curTeam with chain := { v := true, e := (s.curGroup.sget a.toNat).setWidth 57, a := chainArg s.curGroup b } } ∧
      Ended s u (s.active gd) ∧ exec (.exitchain gd a b) s = .next (s.retire (s.active gd) (u.afterLanes s.cur.grp)) := by
  generalize hT : ({ s.curTeam with chain := { v := true, e := (s.curGroup.sget a.toNat).setWidth 57, a := chainArg s.curGroup b } } : Team) = T
  have hends : Ended s (endedLanes (s.setCurTeam T) (s.active gd)) (s.active gd) := endedLanes_ended (s := s.setCurTeam T) (active_and_lanes s gd)
  refine ⟨endedLanes (s.setCurTeam T) (s.active gd), ?_, hends, ?_⟩
  · have htk : (endedLanes (s.setCurTeam T) (s.active gd)).curGroup.tk = s.curGroup.tk := by rw [hends.1]; rfl
    rw [State.curTeam, htk]
    exact team_setTeam ..
  · rw [exitchain_ends hm hlt h4 hv, hT]
    rfl

end

/-! ## YIELD and the execution mask (R194, R205) -/

theorem yieldCur_curGroup (s : State) : s.yieldCur.curGroup = { s.curGroup with run := 64 } := curGroup_setCurGroup ..

theorem yield_gives (s : State) : ∃ t, exec .yield s = .next t ∧ Continues s t ∧ Accounted s t s.cur.lanes ∧ t.curGroup.run = 64 ∧
    (t.sail s.curGroup.place.key).yielded =
      ((s.sail s.curGroup.place.key).yielded || (s.sail s.curGroup.place.key).cur == some s.cur.grp) ∧ t.mem = s.mem := by
  have hg : s.advance.yieldCur.curGroup = { s.advance.curGroup with run := 64 } := yieldCur_curGroup _
  rw [advance_curGroup] at hg
  have hkey : s.advance.curGroup.place.key = s.curGroup.place.key := by rw [advance_curGroup]; rfl
  have hsail : (s.advance.yieldCur).sail s.curGroup.place.key = { s.sail s.curGroup.place.key with
      yielded := (s.sail s.curGroup.place.key).yielded || (s.sail s.curGroup.place.key).cur == some s.cur.grp } := by
    rw [← hkey]
    exact getD_insert_self ..
  have hi : exec .yield s = .next (s.retire s.cur.lanes s.advance.yieldCur) := rfl
  have hcur : s.advance.yieldCur.cur = s.cur := rfl
  have hmem : s.advance.yieldCur.mem = s.mem := rfl
  generalize s.advance.yieldCur = u at hg hsail hi hcur hmem
  obtain ⟨hacc, -, hown⟩ := retire_accounted (s := s) (u := u) (act := s.cur.lanes) hcur (by rw [hg]; rfl) (by rw [hg]; rfl)
    (by rw [hg]; rfl) (by rw [hg]; rfl) (by rw [hg]; rfl)
  rw [hg] at hown
  refine ⟨_, hi, fun l => ?_, hacc, by rw [hown], congrArg Sail.yielded hsail, hmem⟩
  rw [hown]
  exact lane_mapLanes ..

theorem xmrd_reads (s : State) (d : BitVec 7) : ∃ m : DWord,
    (∀ l, l < 64 → m.getLsbD l = (s.curGroup.xm.getLsbD l && decide (l < s.curGroup.width))) ∧ ScalarRun (.xmrd d) s d m :=
  ⟨s.curGroup.xm &&& s.curGroup.full, fun l hl => by rw [BitVec.getLsbD_and, getLsbD_full _ hl], scalarRun_of_exec rfl⟩

theorem st_xm (b : Bool) (x : Lane) : (x.xm b).st = xmStatus b x.st := by
  unfold Lane.xm
  cases hst : x.st <;> cases b <;> simp [xmStatus, hst]

theorem lane_setXm (g : Group) (x : DWord) {l : Nat} (h : l < g.lanes.length) : (g.setXm x).lane l = (g.lane l).xm (x.getLsbD l) := by
  simp [Group.setXm, Group.lane, h]

theorem xm_setXm (g : Group) (x : DWord) {l : Nat} (hl : l < 64) : (g.setXm x).xm.getLsbD l =
    (x.getLsbD l && decide (l < g.width) && decide (l < g.lanes.length) && (g.lane l).st != .ex) := by
  have h := getLsbD_lanesWith g (fun y => y.st != .ex) hl
  simp only [Group.setXm, BitVec.getLsbD_and, getLsbD_full g hl, h, Bool.and_assoc]

/-- The status of a lane does not change as its issue state goes on. -/
theorem st_advance (s : State) (l : Nat) : (s.advance.curGroup.lane l).st = (s.curGroup.lane l).st := by
  rw [advance_curGroup, lane_mapLanes]
  split <;> rfl

theorem length_advance (s : State) : s.advance.curGroup.lanes.length = s.curGroup.lanes.length := by
  rw [advance_curGroup]
  exact List.length_mapIdx

/-- XMWR, and CSRWR to XM: each lane's status follows its new bit. -/
theorem writeXm_writes {i : Instr} {s : State} {x : DWord} (hi : exec i s = (Act.done s.cur.lanes (s.writeXm x)).run s) :
    LanesThen i s s.cur.lanes (fun u => XmWritten s u x) := by
  refine lanesThen_of_exec hi (ownGroupOnly_trans (ownGroupOnly_advance s) (ownGroupOnly_setCurGroup s.advance _)) ?_
  unfold XmWritten
  rw [curGroup_setCurGroup]
  refine ⟨fun l hl => ?_, fun l hl => ?_⟩
  · rw [lane_setXm _ _ (by rwa [length_advance]), st_xm, st_advance]
  · rw [xm_setXm _ _ hl, st_advance, length_advance, advance_curGroup]
    rfl

/-- Settles O17: joins, ends and the execution mask by the lanes that each leaves, what follows a change of lane status by `afterLanes_kept`. -/
theorem joinsAndEnds : Obligations.JoinsAndEnds := by
  unfold Obligations.JoinsAndEnds
  refine ⟨⟨fun s gd d => jset_joins rfl, fun s d a => jset_joins rfl, join_waits, fun s => exit_ends rfl (BitVec.and_self ..),
    fun s gd => exit_ends rfl (active_and_lanes s gd), fun s gd a b h => exitchain_idle h, fun s gd a b hm h => exitchain_refuses hm h,
    fun s gd a b hm hlt h4 hv => ?_, yield_gives, xmrd_reads, fun s a => writeXm_writes rfl⟩, fun s k => ?_⟩
  · obtain ⟨u, hu⟩ := exitchain_chains (b := b) hm hlt h4 hv
    refine ⟨u, chainArg s.curGroup b, ?_, hu⟩
    cases b with
    | reg r => rfl
    | lit x => exact BitVec.setWidth_append_eq_right
  · obtain ⟨hmem, hl2, hmsgs, hregs⟩ := afterLanes_kept s k
    exact ⟨hmem, hl2, hmsgs, hregs⟩

end Sys2Proof.Proofs
end

section
namespace Sys2Proof.Proofs
open Sys2Proof.Machine Sys2Proof.Says Sys2Proof.Laws

/-! ## The number of a copy (R258) -/

theorem nextFree_fold (l : List Nat) (n : Nat) :
    n ≤ l.foldl (fun m i => if m ≤ i then i + 1 else m) n ∧ ∀ i ∈ l, i < l.foldl (fun m i => if m ≤ i then i + 1 else m) n := by
  induction l generalizing n with
  | nil => simp
  | cons x l ih =>
    obtain ⟨hn, hl⟩ := ih (if n ≤ x then x + 1 else n)
    rw [List.foldl_cons]
    have hx : n ≤ (if n ≤ x then x + 1 else n) ∧ x < (if n ≤ x then x + 1 else n) := by split <;> omega
    refine ⟨hx.1.trans hn, fun i hi => ?_⟩
    rcases List.mem_cons.mp hi with rfl | hi
    · exact hx.2.trans_le hn
    · exact hl i hi

/-- The next number is above those of the copies in the engine. -/
theorem id_lt_nextCopy {s : State} {c : Copy} (h : c ∈ s.copies) : c.id < s.nextCopy :=
  (nextFree_fold _ 1).2 _ (List.mem_append_left _ (List.mem_append_left _ (List.mem_map_of_mem h)))

/-! ## The lines that a copy asks for (R94) -/

/-- A copy with a number notes a line that it asks for. -/
def notesLine (id la : Nat) (write : Bool) (x : Copy) : Copy :=
  if x.id == id && !x.wants.contains (la, write) then { x with wants := x.wants ++ [(la, write)] } else x

theorem notesLine_wants (id la : Nat) (write : Bool) (x : Copy) : ∃ w, notesLine id la write x = { x with wants := w } := by
  unfold notesLine
  split
  · exact ⟨_, rfl⟩
  · exact ⟨x.wants, rfl⟩

theorem needLine_cases (s : State) (c : Copy) (write : Bool) (va : Nat) : s.needLine c write va = s ∨
    ∃ la kid, s.needLine c write va = { s with copies := s.copies.map (notesLine c.id la write) }.request c.die la write kid := by
  unfold State.needLine
  split
  · next pa kid cl _ =>
    dsimp only
    generalize (if write = true then s.canWrite c.die (pa / 128) else s.canRead c.die (pa / 128)) = allowed
    split_ifs
    · exact .inl rfl
    · exact .inl rfl
    · exact .inr ⟨pa / 128, kid, rfl⟩
  · exact .inl rfl

/-- Asking for a line touches the memory side and the copies alone. -/
theorem needLine_side (s : State) (c : Copy) (write : Bool) (va : Nat) : ∃ l, MemorySide { s with copies := l } (s.needLine c write va) := by
  rcases needLine_cases s c write va with h | ⟨la, kid, h⟩ <;> rw [h]
  · exact ⟨s.copies, .refl s⟩
  · exact ⟨_, request_side ..⟩

/-- Of the copies, the newest alone notes the line that it asks for. -/
theorem needLine_copies {s : State} {c x : Copy} {l : List Copy} (write : Bool) (va : Nat) (hs : s.copies = l ++ [x])
    (hl : ∀ y ∈ l, y.id ≠ c.id) : ∃ w, (s.needLine c write va).copies = l ++ [{ x with wants := w }] := by
  rcases needLine_cases s c write va with h | ⟨la, kid, h⟩ <;> rw [h]
  · exact ⟨x.wants, hs⟩
  · obtain ⟨w, hw⟩ := notesLine_wants c.id la write x
    have hold : l.map (notesLine c.id la write) = l := 
      (List.map_congr_left (g := id) fun y hy => by simp [notesLine, hl y hy]).trans l.map_id
    refine ⟨w, ?_⟩
    rw [(request_side _ _ _ _ _).congr (fun t => t.copies) rfl]
    simp only [hs, List.map_append, hold, List.map_cons, List.map_nil, hw]

/-! ## A copy that enters the engine (R258) -/

/-- The barrier with the copy's bytes counted in PB, and out of RV under PD. -/
def countedBar (s : State) (c : Copy) (pd : Bool) : Barrier :=
  { s.curTeam.bar c.bar.toNat with
    rv := if pd then (s.curTeam.bar c.bar.toNat).rv - BitVec.ofNat 64 (c.rows * c.len) else (s.curTeam.bar c.bar.toNat).rv,
    pb := (s.curTeam.bar c.bar.toNat).pb + BitVec.ofNat 64 (c.rows * c.len) }

/-- The state with the copy's pages pinned and its bytes counted. -/
def copyCounted (s : State) (c : Copy) (pd : Bool) : State :=
  (s.pin s.curGroup.job s.curGroup.place.die s.nextCopy (s.copyCover (engineCopy s c pd))).setCurTeam
    (s.curTeam.setBar c.bar.toNat (countedBar s c pd))

section

variable {s : State} {c : Copy} {pd : Bool}

theorem copyCounted_congr {α : Type} (f : State → α) (hf : ∀ t pins tm, f { withMemorySide s t with pins := pins, teams := tm } = f s) :
    f (copyCounted s c pd) = f s := by
  obtain ⟨u, hu, hp⟩ := pin_side s s.curGroup.job s.curGroup.place.die s.nextCopy (s.copyCover (engineCopy s c pd))
  rw [copyCounted, State.setCurTeam, State.setTeam, hp, hu.eq]
  exact hf ..

theorem copyCounted_curTeam : (copyCounted s c pd).team s.curGroup.tk = s.curTeam.setBar c.bar.toNat (countedBar s c pd) := by
  have hg : (s.pin s.curGroup.job s.curGroup.place.die s.nextCopy (s.copyCover (engineCopy s c pd))).curGroup = s.curGroup :=
    pin_congr State.curGroup fun _ _ => rfl
  rw [copyCounted, State.setCurTeam, hg, team_setTeam]

/-- The engine runs a copy, in a state whose teams are those where its bytes are counted and whose group has one more copy in flight. -/
theorem engineRun_of_counted {i : Instr} {p : State → Copy → Prop} {t : State} {c2 : Copy} (ht : exec i s = .next t)
    (hteams : t.teams = (copyCounted s c pd).teams) (hjobs : t.jobs = s.jobs) (hcopies : t.copies = s.copies ++ [c2])
    (hg : t.curGroup = { s.curGroup.raise (s.flight .c s.curGroup.nextId false []) with
      flights := t.curGroup.flights, wait := t.curGroup.wait, lanes := t.curGroup.lanes, perf := t.curGroup.perf, sk := t.curGroup.sk,
      sc := t.curGroup.sc, skip := t.curGroup.skip, stepPend := t.curGroup.stepPend }) (hp : p t c2) : EngineRun i s c pd p := by
  have htk : t.curGroup.tk = s.curGroup.tk := by rw [hg]; rfl
  have hjob : t.curGroup.job = s.curGroup.job := by rw [hg]; rfl
  have hteam : t.curTeam = s.curTeam.setBar c.bar.toNat (countedBar s c pd) := by
    rw [State.curTeam, htk, State.team, hteams]
    exact copyCounted_curTeam
  refine ⟨t, c2, ht, ?_, hcopies, hp, by rw [hteam]; rfl, ?_, by rw [hg]; rfl, ?_⟩
  · unfold AllRegs OtherRegs
    rw [hg]
    exact ⟨⟨rfl, rfl, rfl, rfl, rfl, rfl, rfl, rfl⟩, rfl⟩
  · rw [State.curJob, hjob, State.job, hjobs]
    rfl
  · rw [hteam, bar_setBar, if_pos rfl, countedBar]
    cases pd <;> simp

end

/-- The group that a copy enters from: one more in flight on path C. -/
def copyGroup (s : State) : Group := s.curGroup.raise (s.flight .c s.curGroup.nextId false [])

/-! ## BCOPY, BCOPY2D (R259, R260) -/

/-- The state with the copy in the engine, before it has asked for a line. -/
def copyQueued (s : State) (c : Copy) (pd : Bool) : State :=
  let u := (copyCounted s c pd).setCurGroup (copyGroup s)
  { u with copies := u.copies ++ [engineCopy s c pd] }

/-- The state after a BCOPY or BCOPY2D has entered the engine. -/
def copyEntered (s : State) (c : Copy) (pd : Bool) : State :=
  ((copyQueued s c pd).needLine (engineCopy s c pd) false c.src.toNat).needLine (engineCopy s c pd) true c.dst.toNat

section

variable {s : State} {c : Copy} {pd : Bool}

/-- PD holds no copy back that finds its bytes in RV. -/
theorem rv_covers {n : Nat} {rv : DWord} (h : pd = true → n ≤ rv.toNat) : (pd && decide (rv.toNat < n)) = false := by
  cases pd with
  | false => rfl
  | true => simpa using h rfl

/-- A copy of at least one byte that nothing refuses or holds. -/
theorem copyAct_enters {b : BitVec 7} (hk : c.kind ≠ .bapnd) (hn : c.rows * c.len ≠ 0) (hok : CopyOk s c pd) (hfree : CopyFree s c pd)
    (hblk : s.combBlocked (engineCopy s c pd) = none) : copyAct s c pd b = .done s.cur.lanes (copyEntered s c pd).advance := by
  obtain ⟨hal, hec, hsrc, hdst, hcov, hcount⟩ := hok
  obtain ⟨hrv, hready, hroom, hbusy⟩ := hfree
  have hkind : (c.kind == CopyKind.bapnd) = false := by simpa using hk
  unfold engineCopy at hal hcov hcount hroom hbusy hblk
  simp only [copyAct, hal, hec, hn, hkind, hsrc, hdst.resolve_left hk, hcov, hblk, rv_covers hrv, hready, hroom, hbusy, Nat.not_lt.mpr hcount,
    if_false, decide_false, Bool.false_and, Bool.false_eq_true, Bool.not_true, Bool.or_self]
  rfl

theorem copyEntered_congr {α : Type} (f : State → α) (hf : ∀ u t l, f (withMemorySide { u with copies := l } t) = f u) :
    f (copyEntered s c pd) = f (copyQueued s c pd) := by
  obtain ⟨l, hl⟩ := needLine_side (copyQueued s c pd) (engineCopy s c pd) false c.src.toNat
  obtain ⟨l', hl'⟩ := needLine_side ((copyQueued s c pd).needLine (engineCopy s c pd) false c.src.toNat) (engineCopy s c pd) true c.dst.toNat
  rw [copyEntered, hl'.eq, hf, hl.eq, hf]

theorem copyQueued_spec (s : State) (c : Copy) (pd : Bool) : let t := copyQueued s c pd
    t.cur = s.cur ∧ t.teams = (copyCounted s c pd).teams ∧ t.jobs = s.jobs ∧ t.copies = s.copies ++ [engineCopy s c pd] ∧
      t.curGroup = copyGroup s := by
  have hcur : (copyCounted s c pd).cur = s.cur := copyCounted_congr (fun t => t.cur) fun _ _ _ => rfl
  have hcopies : (copyCounted s c pd).copies = s.copies := copyCounted_congr (fun t => t.copies) fun _ _ _ => rfl
  have hjobs : (copyCounted s c pd).jobs = s.jobs := copyCounted_congr (fun t => t.jobs) fun _ _ _ => rfl
  unfold copyQueued
  generalize copyCounted s c pd = v at *
  exact ⟨hcur, rfl, hjobs, congrArg (· ++ [_]) hcopies, curGroup_setCurGroup ..⟩

theorem copyEntered_copies : ∃ w, (copyEntered s c pd).copies = s.copies ++ [{ engineCopy s c pd with wants := w }] := by
  have hold : ∀ y ∈ s.copies, y.id ≠ (engineCopy s c pd).id := fun y hy => Nat.ne_of_lt (id_lt_nextCopy hy)
  obtain ⟨-, -, -, hcopies, -⟩ := copyQueued_spec s c pd
  obtain ⟨w, hw⟩ := needLine_copies false c.src.toNat hcopies hold
  obtain ⟨w', hw'⟩ := needLine_copies true c.dst.toNat hw hold
  exact ⟨w', hw'⟩

theorem engineRun_of_enters {i : Instr} (hi : exec i s = (Act.done s.cur.lanes (copyEntered s c pd).advance).run s) :
    EngineRun i s c pd (fun t c2 => Continues s t ∧ Accounted s t s.cur.lanes ∧ c2 = { engineCopy s c pd with wants := c2.wants }) := by
  obtain ⟨qcur, qteams, qjobs, -, qg⟩ := copyQueued_spec s c pd
  have hcur : (copyEntered s c pd).cur = s.cur := (copyEntered_congr (fun t => t.cur) fun _ _ _ => rfl).trans qcur
  have hg : (copyEntered s c pd).curGroup = copyGroup s := (copyEntered_congr State.curGroup fun _ _ _ => rfl).trans qg
  have hjobs : (copyEntered s c pd).jobs = s.jobs := (copyEntered_congr (fun t => t.jobs) fun _ _ _ => rfl).trans qjobs
  have hteams : (copyEntered s c pd).teams = (copyCounted s c pd).teams := (copyEntered_congr (fun t => t.teams) fun _ _ _ => rfl).trans qteams
  obtain ⟨w, hcopies⟩ := copyEntered_copies (s := s) (c := c) (pd := pd)
  generalize copyEntered s c pd = u at hi hcur hg hjobs hteams hcopies
  have h := retire_retired (act := s.cur.lanes) hcur (by rw [hg]; exact IssueKept.refl s.curGroup)
  have hrest := h.rest
  refine engineRun_of_counted hi (by rw [hrest]; exact hteams) (by rw [hrest]; exact hjobs) (by rw [hrest]; exact hcopies) ?_
    ⟨h.continues, h.accounted, rfl⟩
  rw [h.own, hg]
  rfl

/-- A copy of no byte that nothing refuses is complete at once. -/
theorem copyAct_empty {b : BitVec 7} (hk : c.kind ≠ .bapnd) (hn : c.rows * c.len = 0) (hal : copyAlign (engineCopy s c pd) = none)
    (hec : (s.curTeam.bar c.bar.toNat).ec ≠ 0) (hroom : s.curGroup.pathFull .c = false) :
    copyAct s c pd b = regAct s s.cur.lanes (.ok (s.curGroup.raiseDone s .c false)) := by
  have hkind : (c.kind != CopyKind.bapnd) = true := by simpa using hk
  unfold engineCopy at hal
  simp only [copyAct, hal, hec, hn, hkind, hroom, if_false, if_true, decide_true, Bool.and_self, Bool.false_eq_true]

theorem copyRun_of_exec {i : Instr} (hk : c.kind ≠ .bapnd) (hi : exec i s = (copyAct s c pd 0).run s) : CopyRun i s c pd := by
  refine ⟨fun hn hok hfree hblk => ?_, fun hn hal hec hroom => ?_⟩
  · exact engineRun_of_enters (hi.trans (by rw [copyAct_enters hk hn hok hfree hblk]))
  · obtain ⟨t, ht, ⟨hown, hcont, hacc⟩, hg⟩ := finish_done s s.cur.lanes (s.curGroup.raiseDone s .c false) rfl rfl rfl rfl rfl rfl
    refine ⟨t, hi.trans (by rw [copyAct_empty hk hn hal hec hroom]; exact ht), hown, hcont, hacc, ?_⟩
    unfold AllRegs OtherRegs
    rw [hg]
    exact ⟨⟨rfl, rfl, rfl, rfl, rfl, rfl, rfl, rfl⟩, rfl⟩

end

/-! ## Descriptors (R258) -/

theorem descCopy_descriptor (g : Group) (k : CopyKind) (d : BitVec 4) (a : BitVec 7) (c : Copy)
    (hc : c = { descCopy g k d a with rows := c.rows, sstr := c.sstr, dstr := c.dstr }) : Descriptor g a c := by
  rw [hc]
  refine ⟨rfl, rfl, rfl, ?_, ?_⟩ <;> simp [descCopy, field, Nat.shiftRight_eq_div_pow]

/-- An instruction that traps where a check of its words fails, and else runs its copy. -/
theorem copyIssue_cases {i : Instr} {s : State} {c : Copy} {pd bad : Bool} {b : BitVec 7} {p : Prop} [Decidable p]
    (hi : exec i s = (if bad then Act.trap (Trap.illegalOperand 0) else copyAct s c pd b).run s) (hb : bad = true ↔ p) :
    if p then Traps i s (fun t => t.cause = 2) else exec i s = (copyAct s c pd b).run s := by
  split_ifs with h
  · exact ⟨_, rfl, by rw [hi, if_pos (hb.mpr h)]; rfl⟩
  · rw [hi, if_neg (fun hbad => h (hb.mp hbad))]

theorem bcopy_begins (s : State) (d : BitVec 4) (a : BitVec 7) : ∃ c, Descriptor s.curGroup a c ∧ c.kind = .bcopy ∧ c.bar = d ∧ c.rows = 1 ∧
    if ctlOk (s.curGroup.sget (a.toNat + 3)) = false ∨ 2 ^ 40 ≤ c.len then Traps (.bcopy d a) s (fun t => t.cause = 2)
    else CopyRun (.bcopy d a) s c (descPd s.curGroup a) := by
  refine ⟨descCopy s.curGroup .bcopy d a, descCopy_descriptor _ _ _ _ _ rfl, rfl, rfl, rfl, ?_⟩
  have h := copyIssue_cases (p := ctlOk (s.curGroup.sget (a.toNat + 3)) = false ∨ 2 ^ 40 ≤ (descCopy s.curGroup .bcopy d a).len)
    (show exec (.bcopy d a) s = execBcopy d a s from rfl) (by simp)
  split_ifs at h ⊢
  · exact h
  · exact copyRun_of_exec (fun hk => CopyKind.noConfusion hk) h

/-- The copy of a BCOPY2D: its rows and strides beside the words of its descriptor (R260). -/
def descCopy2d (g : Group) (d : BitVec 4) (a b : BitVec 7) : Copy :=
  { descCopy g .bcopy2d d a with
    rows := if (g.sget b.toNat).toNat = 0 then 2 ^ 32 else (g.sget b.toNat).toNat,
    sstr := field (g.sget (b.toNat + 1)).toNat 0 32, dstr := field (g.sget (b.toNat + 1)).toNat 32 32 }

theorem descCopy2d_rows (g : Group) (d : BitVec 4) (a b : BitVec 7) :
    (descCopy2d g d a b).rows = if g.sget b.toNat = 0 then 2 ^ 32 else (g.sget b.toNat).toNat := by
  have h : (g.sget b.toNat).toNat = 0 ↔ g.sget b.toNat = 0 := BitVec.toNat_inj (y := 0)
  simp only [descCopy2d, h]

theorem descCopy2d_dstr (g : Group) (d : BitVec 4) (a b : BitVec 7) : (descCopy2d g d a b).dstr = (g.sget (b.toNat + 1)).toNat / 2 ^ 32 := by
  have hw := (g.sget (b.toNat + 1)).isLt
  dsimp only [descCopy2d, field]
  omega

theorem bcopy2d_begins (s : State) (d : BitVec 4) (a b : BitVec 7) : ∃ c, Descriptor s.curGroup a c ∧ c.kind = .bcopy2d ∧ c.bar = d ∧
    c.rows = (if s.curGroup.sget b.toNat = 0 then 2 ^ 32 else (s.curGroup.sget b.toNat).toNat) ∧
    c.sstr = (s.curGroup.sget (b.toNat + 1)).toNat % 2 ^ 32 ∧ c.dstr = (s.curGroup.sget (b.toNat + 1)).toNat / 2 ^ 32 ∧
    if ctlOk (s.curGroup.sget (a.toNat + 3)) = false ∨ 2 ^ 40 ≤ c.len ∨ 2 ^ 32 ≤ (s.curGroup.sget b.toNat).toNat ∨ 2 ^ 64 ≤ c.rows * c.len then
      Traps (.bcopy2d d a b) s (fun t => t.cause = 2)
    else CopyRun (.bcopy2d d a b) s c (descPd s.curGroup a) := by
  refine ⟨descCopy2d s.curGroup d a b, descCopy_descriptor _ .bcopy2d d _ _ rfl, rfl, rfl, descCopy2d_rows .., rfl, descCopy2d_dstr .., ?_⟩
  have hi : exec (.bcopy2d d a b) s = execBcopy2d d a b s := rfl
  rw [execBcopy2d] at hi
  have h := copyIssue_cases (c := descCopy2d s.curGroup d a b) (p := ctlOk (s.curGroup.sget (a.toNat + 3)) = false ∨
    2 ^ 40 ≤ (descCopy2d s.curGroup d a b).len ∨ 2 ^ 32 ≤ (s.curGroup.sget b.toNat).toNat ∨
    2 ^ 64 ≤ (descCopy2d s.curGroup d a b).rows * (descCopy2d s.curGroup d a b).len) hi
    (by simp only [Bool.or_eq_true, Bool.not_eq_true', decide_eq_true_eq, or_assoc]; rfl)
  split_ifs at h ⊢
  · exact h
  · exact copyRun_of_exec (fun hk => CopyKind.noConfusion hk) h

/-! ## BAPND (R261) -/

/-- The hop that reserves an append: its number, the path to the home of the record, the length and the status register. -/
def appendHop (s : State) (c : Copy) (pd : Bool) (b : BitVec 7) (x : Xlate) : Hop :=
  { Hop.zero with
    id := (copyCounted s c pd).nextHop s.curGroup.place.die, grp := s.cur.grp, die := s.curGroup.place.die, flight := s.curGroup.nextId,
    home := homeOf x.pa, la := x.pa / 128, op := 0x20, pa := x.pa / x.page.size * x.page.size, kid := x.kid, len := c.len, st := b,
    copy := some s.nextCopy, va := c.dst.setWidth 57 }

/-- The state after a BAPND has sent its reservation, its group waiting for it. -/
def appendEntered (s : State) (c : Copy) (pd : Bool) (b : BitVec 7) (x : Xlate) : State :=
  let h := appendHop s c pd b x
  let u := (copyCounted s c pd).setCurGroup
    { s.curGroup.raise (s.flight .c s.curGroup.nextId false [Reg.s b.toNat]) with wait := .hop s.nextCopy }
  { u with hops := u.hops ++ [h], copies := u.copies ++ [{ engineCopy s c pd with hop := some h.id }] }.send
    { mkMsg 10 s.curGroup.place.die h.home h.la with
      rid := h.id % 4096, kid := x.kid, op := 0x20, d := true, data := BitVec.ofNat 1024 (c.len + 2 ^ 22) }

/-- An append that nothing refuses or holds, where its destination's page holds a record. -/
theorem copyAct_appends {s : State} {c : Copy} {pd : Bool} {b : BitVec 7} {x : Xlate} (hk : c.kind = .bapnd) (hok : CopyOk s c pd)
    (hfree : CopyFree s c pd)
    (hx : ((s.copyCover (engineCopy s c pd)).pins.find? (fun p => p.2.2.2.1 == .bapnd)).map (fun p => p.2.2.2.2) = some x)
    (hrec : (s.recordAt x.pa).isSome = true) (hrid : s.ridRoom (myDie s) 1 = true) : copyAct s c pd b = .wait (appendEntered s c pd b x) := by
  obtain ⟨hal, hec, hsrc, -, hcov, hcount⟩ := hok
  obtain ⟨hrv, hready, hroom, hbusy⟩ := hfree
  have hkind : (c.kind == CopyKind.bapnd) = true := by simpa using hk
  have hkind' : (c.kind != CopyKind.bapnd) = false := by simpa using hk
  have hrec' : (s.recordAt x.pa).isNone = false := by simpa using hrec
  unfold engineCopy at hal hcov hcount hroom hbusy hx
  unfold myDie at hrid
  simp only [copyAct, hal, hec, hkind, hkind', hsrc, hcov, hx, rv_covers hrv, hready, hroom, hbusy, hrec', hrid, Nat.not_lt.mpr hcount,
    if_false, if_true, Bool.and_false, Bool.false_eq_true, Bool.not_true, Bool.or_self]
  rfl

theorem appendEntered_spec (s : State) (c : Copy) (pd : Bool) (b : BitVec 7) (x : Xlate) : let t := appendEntered s c pd b x
    t.teams = (copyCounted s c pd).teams ∧ t.jobs = s.jobs ∧ t.hops = s.hops ++ [appendHop s c pd b x] ∧
      t.copies = s.copies ++ [{ engineCopy s c pd with hop := some (appendHop s c pd b x).id }] ∧
      t.curGroup = { s.curGroup.raise (s.flight .c s.curGroup.nextId false [Reg.s b.toNat]) with wait := .hop s.nextCopy } := by
  have hhops : (copyCounted s c pd).hops = s.hops := copyCounted_congr (fun t => t.hops) fun _ _ _ => rfl
  have hcopies : (copyCounted s c pd).copies = s.copies := copyCounted_congr (fun t => t.copies) fun _ _ _ => rfl
  have hjobs : (copyCounted s c pd).jobs = s.jobs := copyCounted_congr (fun t => t.jobs) fun _ _ _ => rfl
  unfold appendEntered
  generalize copyCounted s c pd = v at *
  exact ⟨rfl, hjobs, congrArg (· ++ [_]) hhops, congrArg (· ++ [_]) hcopies, curGroup_setCurGroup ..⟩

theorem engineRun_of_appends {i : Instr} {s : State} {c : Copy} {pd : Bool} {b : BitVec 7} {x : Xlate}
    (hi : exec i s = .next (appendEntered s c pd b x)) :
    EngineRun i s c pd (fun t c2 => t.curGroup.lanes = s.curGroup.lanes ∧ t.curGroup.wait = .hop c2.id ∧
      ∃ h : Hop, t.hops = s.hops ++ [h] ∧ c2 = { engineCopy s c pd with hop := some h.id } ∧ h.op = 0x20 ∧ h.len = c.len ∧ h.st = b ∧
        h.copy = some c2.id) := by
  obtain ⟨hteams, hjobs, hhops, hcopies, hg⟩ := appendEntered_spec s c pd b x
  generalize appendEntered s c pd b x = t at *
  refine engineRun_of_counted hi hteams hjobs hcopies (by rw [hg]; rfl) ⟨by rw [hg]; rfl, by rw [hg]; rfl, appendHop s c pd b x, hhops, ?_⟩
  exact ⟨rfl, rfl, rfl, rfl, rfl⟩

theorem bapnd_begins (s : State) (d : BitVec 4) (a b : BitVec 7) : ∃ c, Descriptor s.curGroup a c ∧ c.kind = .bapnd ∧ c.bar = d ∧ c.rows = 1 ∧
    if ctlOk (s.curGroup.sget (a.toNat + 3)) = false ∨ c.ds ≠ .global ∨ 2 ^ 22 ≤ c.len then Traps (.bapnd d a b) s (fun t => t.cause = 2)
    else ∀ x, CopyOk s c (descPd s.curGroup a) → CopyFree s c (descPd s.curGroup a) →
      ((s.copyCover (engineCopy s c (descPd s.curGroup a))).pins.find? (fun p => p.2.2.2.1 == .bapnd)).map (fun p => p.2.2.2.2) = some x →
      (s.recordAt x.pa).isSome = true → s.ridRoom (myDie s) 1 = true →
      EngineRun (.bapnd d a b) s c (descPd s.curGroup a) (fun t c2 => t.curGroup.lanes = s.curGroup.lanes ∧ t.curGroup.wait = .hop c2.id ∧
        ∃ h : Hop, t.hops = s.hops ++ [h] ∧ c2 = { engineCopy s c (descPd s.curGroup a) with hop := some h.id } ∧ h.op = 0x20 ∧ h.len = c.len ∧ h.st = b ∧
          h.copy = some c2.id) := by
  have hi : exec (.bapnd d a b) s = execBapnd d a b s := rfl
  rw [execBapnd] at hi
  refine ⟨descCopy s.curGroup .bapnd d a, descCopy_descriptor _ .bapnd d _ _ rfl, rfl, rfl, rfl, ?_⟩
  have hkind : (descCopy s.curGroup .bapnd d a).kind = .bapnd := rfl
  generalize descCopy s.curGroup .bapnd d a = c at *
  have h := copyIssue_cases (p := ctlOk (s.curGroup.sget (a.toNat + 3)) = false ∨ c.ds ≠ .global ∨ 2 ^ 22 ≤ c.len) hi
    (by simp only [Bool.or_eq_true, Bool.not_eq_true', bne_iff_ne, decide_eq_true_eq, or_assoc])
  split_ifs at h ⊢
  · exact h
  · exact fun x hok hfree hx hrec hrid => engineRun_of_appends (h.trans (by rw [copyAct_appends hkind hok hfree hx hrec hrid]; rfl))

/-- Settles O26: each instruction's own lemma; what a copy does at its issue by `copyAct_enters`, `copyAct_empty`, `copyAct_appends`. -/
theorem copiesBegin : Obligations.CopiesBegin := by
  unfold Obligations.CopiesBegin
  exact ⟨bcopy_begins, bcopy2d_begins, bapnd_begins⟩

end Sys2Proof.Proofs
end

section
namespace Sys2Proof.Proofs
open Sys2Proof.Machine Sys2Proof.Says Sys2Proof.Laws

/-! ## A value read and written to a scalar (R279, R292) -/

/-- The end of an instruction that read a value `v` in a state `u` and wrote it to a scalar. -/
structure ValueRead (s u t : State) (d : BitVec 7) (v : DWord) : Prop where
  rest : t = { u with groups := t.groups }
  others : ∀ k, k ≠ s.cur.grp → t.group k = u.group k
  continues : Continues s t
  accounted : Accounted s t s.cur.lanes
  own : t.curGroup = { u.curGroup with
    s := t.curGroup.s, lanes := t.curGroup.lanes, perf := t.curGroup.perf, sk := t.curGroup.sk, sc := t.curGroup.sc, skip := t.curGroup.skip,
    stepPend := t.curGroup.stepPend }
  reads : ∀ n, t.curGroup.sget n = withScalar s d.toNat v n

theorem valueRead_run {s u : State} (d : BitVec 7) (v : DWord) (hcur : u.cur = s.cur) (hk : IssueKept s.curGroup u.curGroup)
    (hs : u.curGroup.s = s.curGroup.s) : ∃ t, (valueAct s d (u, v)).run s = .next t ∧ ValueRead s u t d v := by
  have hset := sset_rest u.curGroup d.toNat v
  have hg : (u.setCurGroup (u.curGroup.sset d.toNat v)).curGroup = u.curGroup.sset d.toNat v := curGroup_setCurGroup ..
  have h := retire_retired (s := s) (u := u.setCurGroup (u.curGroup.sset d.toNat v)) (act := s.cur.lanes) hcur (by rw [hg, hset]; exact hk)
  have hown := h.own
  rw [hg] at hown
  refine ⟨_, rfl, ⟨?_, fun k hne => ?_, h.continues, h.accounted, by rw [hown, hset], fun n => ?_⟩⟩
  · rw [h.rest]
    rfl
  · rw [h.others k hne, State.setCurGroup, hcur, group_setGroup_ne _ _ hne]
  · have hread : u.curGroup.sget n = s.curGroup.sget n := by rw [Group.sget, Group.sget, hs]
    rw [withScalar, ← hread, ← sget_sset, hown]
    rfl

/-! ## CLOCK, CLOCK.C (R279) -/

theorem timeRun_of_read {i : Instr} {s u t : State} {d : BitVec 7} {v : DWord} {p : State → DWord → Prop} (ht : exec i s = .next t)
    (h : ValueRead s u t d v) (hu : u.mem = s.mem ∧ u.l2 = s.l2 ∧ u.teams = s.teams)
    (hg : u.curGroup = { s.curGroup with ccnt := u.curGroup.ccnt }) (hp : p t v) : TimeRun i s d p := by
  obtain ⟨hmem, hl2, hteams⟩ := hu
  have hrest := h.rest
  refine ⟨t, v, ht, h.continues, h.accounted, ?_, ?_, ?_, ?_, ?_, ?_, h.reads, hp⟩
  · rw [hrest]; exact hmem
  · rw [hrest]; exact hl2
  · rw [hrest]; exact hteams
  · rw [h.own, hg]
  · rw [h.own, hg]
  · rw [h.own, hg]

/-- A group's read of its job's timer. -/
theorem readTimer_spec (s : State) : let u := s.readTimer.1
    u.cur = s.cur ∧ u.curGroup = s.curGroup ∧ u.mem = s.mem ∧ u.l2 = s.l2 ∧ u.teams = s.teams ∧ s.timer.toNat ≤ u.timer.toNat ∧
      s.readTimer.2 = u.timer + s.curJob.toff ∧ u.curJob.tlast = s.readTimer.2 := by
  refine ⟨rfl, rfl, rfl, rfl, rfl, passTime_le s, rfl, ?_⟩
  exact congrArg Job.tlast (job_setJob ..)

theorem clock_reads (s : State) (d : BitVec 7) : TimeRun (.clock d) s d (TimerRead s) := by
  obtain ⟨hcur, hg, hmem, hl2, hteams, htime, hval, hlast⟩ := readTimer_spec s
  have hi : exec (.clock d) s = (valueAct s d s.readTimer).run s := rfl
  generalize s.readTimer = r at *
  obtain ⟨u, v⟩ := r
  dsimp only at *
  obtain ⟨t, ht, h⟩ := valueRead_run d v hcur (by rw [hg]; exact IssueKept.refl _) (by rw [hg])
  refine timeRun_of_read (hi.trans ht) h ⟨hmem, hl2, hteams⟩ (by rw [hg]) ?_
  have htimer : t.timer = u.timer := by rw [h.rest]
  have hjob : t.curJob = u.curJob := by
    rw [State.curJob, h.own, State.job, h.rest]
    rfl
  exact ⟨by rw [htimer]; exact htime, by rw [htimer]; exact hval, by rw [hjob]; exact hlast, by rw [h.own, hg]⟩

/-- A group's read of its cycle count; the count does not wrap, by the sum that the timer has too. -/
theorem readCcnt_spec (s : State) : let u := s.readCcnt.1
    u.cur = s.cur ∧ u.curGroup = { s.curGroup with ccnt := s.readCcnt.2 } ∧ u.mem = s.mem ∧ u.l2 = s.l2 ∧ u.teams = s.teams ∧
      u.timer = s.timer ∧ s.curGroup.ccnt.toNat ≤ s.readCcnt.2.toNat :=
  ⟨rfl, curGroup_setCurGroup .., rfl, rfl, rfl, rfl, passTime_le { s with timer := s.curGroup.ccnt }⟩

theorem clockC_reads (s : State) (d : BitVec 7) : TimeRun (.clockC d) s d (CcntRead s) := by
  have hi : exec (.clockC d) s = (valueAct s d s.readCcnt).run s := rfl
  obtain ⟨hcur, hg, hmem, hl2, hteams, htime, hle⟩ := readCcnt_spec s
  generalize s.readCcnt = r at *
  obtain ⟨u, v⟩ := r
  dsimp only at *
  obtain ⟨t, ht, h⟩ := valueRead_run d v hcur (by rw [hg]; exact IssueKept.refl s.curGroup) (by rw [hg])
  refine timeRun_of_read (hi.trans ht) h ⟨hmem, hl2, hteams⟩ (by rw [hg]) ⟨hle, by rw [h.own, hg], ?_⟩
  rw [h.rest]
  exact htime

/-! ## SLEEP (R280) -/

/-- The time to wake at: the timer's value and the ticks, at most all ones. -/
theorem wakeTime_eq (x y : DWord) :
    (if 2 ^ 64 ≤ x.toNat + y.toNat then (~~~ 0 : DWord) else x + y) = BitVec.ofNat 64 (min (2 ^ 64 - 1) (x.toNat + y.toNat)) := by
  rw [← BitVec.toNat_inj]
  split_ifs with h
  · rw [Nat.min_eq_left (by omega)]
    rfl
  · rw [Nat.min_eq_right (by omega), BitVec.toNat_add, BitVec.toNat_ofNat]

theorem sleepRun_of_exec {i : Instr} {s : State} {ticks : DWord} (hi : exec i s = (sleepAct s ticks).run s) : SleepRun i s ticks := by
  refine ⟨fun h => lanesRun_advance ?_, fun h => ?_⟩
  · rwa [sleepAct, if_pos h] at hi
  obtain ⟨hcur, hg, hmem, -, -, htime, hval, -⟩ := readTimer_spec s
  simp only [sleepAct, if_neg h, wakeTime_eq] at hi
  generalize s.readTimer = r at *
  obtain ⟨u, v⟩ := r
  dsimp only at *
  have hnext : u.nextPc = s.nextPc := by rw [State.nextPc, hcur]; rfl
  rw [State.sleepUntil, hcur, hg, hnext] at hi
  refine ⟨_, hi, hmem, htime, ?_, fun l hl => ?_⟩
  · rw [curGroup_setCurGroup]
    rfl
  · rw [curGroup_setCurGroup, lane_mapLanes_issue _ hl, hval]
    rfl

theorem immVal_unsigned (i : Imm) : immVal false i = immOf false i := by
  cases i with
  | i16 x => exact BitVec.eq_of_toNat_eq (by simp [immVal, immOf, extImm, zext64, Nat.mod_eq_of_lt x.isLt])
  | i32 x => exact BitVec.eq_of_toNat_eq (by simp [immVal, immOf, extImm, zext64, Nat.mod_eq_of_lt x.isLt])

theorem lane_wakeSl (g : Group) (t : DWord) (l : Nat) (h : l < g.lanes.length) : (g.wakeSl t).lane l =
    if (g.lane l).st = .sl ∧ (g.lane l).wake.toNat ≤ t.toNat then { g.lane l with st := .run, pc := (g.lane l).nxt, nxt := 0, wake := 0 }
    else g.lane l := by
  simp [Group.lane, Group.wakeSl, h, BitVec.le_def]

theorem sleepWake_wakes {s : State} {k : Nat} {w : DWord} (hw : (s.group k).firstWake = some w) (hr : s.resident k = true) :
    ∃ u : State, exec (.sleepWake k) s = .next (u.afterLanes k) ∧ u.mem = s.mem ∧ (u.group k) = { s.group k with lanes := (u.group k).lanes } ∧
      ∀ l, l < (s.group k).lanes.length → (u.group k).lane l =
        if ((s.group k).lane l).st = .sl ∧ ((s.group k).lane l).wake.toNat ≤ (u.timer + (s.job (s.group k).job).toff).toNat then
          { (s.group k).lane l with st := .run, pc := ((s.group k).lane l).nxt, nxt := 0, wake := 0 }
        else (s.group k).lane l := by
  have hi : exec (.sleepWake k) s = execSleepWake k s := rfl
  simp only [execSleepWake, hw, hr, Bool.not_true, Bool.false_eq_true, if_false, ev] at hi
  generalize ht : (if s.jobTimer (s.group k).job < w then { s with timer := w - (s.job (s.group k).job).toff } else s) = t at hi
  obtain ⟨hmem, hg, hj⟩ : t.mem = s.mem ∧ t.group k = s.group k ∧ t.job (s.group k).job = s.job (s.group k).job := by
    rw [← ht]
    split <;> exact ⟨rfl, rfl, rfl⟩
  refine ⟨_, hi, hmem, ?_, fun l hl => ?_⟩
  · rw [group_setGroup_self, hg]
    rfl
  · rw [group_setGroup_self, hg, lane_wakeSl _ _ _ hl, State.jobTimer, hj]
    rfl

/-! ## EVSIG (R281) -/

theorem evsig_adds {s : State} {a b : BitVec 7} (hq : s.curGroup.quiet = true) (hb : s.curJob.evbuf.length < 64) :
    ∃ t, exec (.evsig a b) s = .next t ∧ Continues s t ∧ Accounted s t s.cur.lanes ∧ AllRegs s t ∧ t.mem = s.mem ∧
      t.curJob = { s.curJob with evbuf := s.curJob.evbuf ++
        [((s.curGroup.sget a.toNat).setWidth 32, s.curGroup.sget b.toNat, s.curGroup.team, s.groupId s.curGroup)] } := by
  have hi : exec (.evsig a b) s = execEvsig a b s := rfl
  simp only [execEvsig, hq, Nat.not_le.mpr hb, decide_false, Bool.not_true, Bool.or_self, Bool.false_eq_true, if_false] at hi
  generalize { s.curJob with evbuf := s.curJob.evbuf ++ [((s.curGroup.sget a.toNat).setWidth 32, s.curGroup.sget b.toNat, s.curGroup.team,
    s.groupId s.curGroup)] } = j at *
  have h := retire_retired (s := s) (u := s.setCurJob j) (act := s.cur.lanes) rfl (IssueKept.refl s.curGroup)
  refine ⟨_, hi, h.continues, h.accounted, h.allRegs ⟨⟨rfl, rfl, rfl, rfl, rfl, rfl, rfl, rfl⟩, rfl⟩, by rw [h.rest]; rfl, ?_⟩
  rw [State.curJob, h.own]
  exact job_setJob ..

theorem evsig_holds {s : State} {a b : BitVec 7} (h : s.curGroup.quiet = false ∨ 64 ≤ s.curJob.evbuf.length) :
    exec (.evsig a b) s = .next s.holdCur := by
  have hc : (!s.curGroup.quiet || decide (64 ≤ s.curJob.evbuf.length)) = true := by simpa using h
  change execEvsig a b s = _
  simp only [execEvsig, hc, if_true]
  rfl

/-! ## Checkpoint intervals (R283, R284) -/

theorem traps_illegalOperand {i : Instr} {s : State} (h : exec i s = (Act.trap (Trap.illegalOperand 0)).run s) : Traps i s (fun t => t.cause = 2) :=
  ⟨Trap.illegalOperand 0, rfl, h⟩

theorem ckopen_needs {s : State} {d : BitVec 7} (h : s.curJob.jd.ckp = 0) : Traps (.ckopen d) s (fun t => t.cause = 2) := by
  refine traps_illegalOperand ?_
  change execCkopen d s = _
  simp only [execCkopen, h, if_true]

theorem open_opens (j : Job) : j.open_.opn = true ∧ j.open_.iv = if j.opn then j.iv else j.iv + 1 := by
  unfold Job.open_
  split
  · next h => exact ⟨h, rfl⟩
  · exact ⟨rfl, rfl⟩

theorem ckopen_opens {s : State} {d : BitVec 7} (h : s.curJob.jd.ckp ≠ 0) (hc : s.curJob.close = none) :
    ∃ t, exec (.ckopen d) s = .next t ∧ Continues s t ∧ Accounted s t s.cur.lanes ∧ t.mem = s.mem ∧ t.curJob.opn = true ∧
      t.curJob.iv = (if s.curJob.opn then s.curJob.iv else s.curJob.iv + 1) ∧
      ∀ n, t.curGroup.sget n = withScalar s d.toNat (t.curJob.iv.setWidth 64) n := by
  have hi : exec (.ckopen d) s = execCkopen d s := rfl
  simp only [execCkopen, if_neg h, hc, Option.isSome_none, Bool.false_eq_true, if_false] at hi
  obtain ⟨t, ht, hr⟩ := valueRead_run (s := s) (u := s.setCurJob s.curJob.open_) d (s.curJob.open_.iv.setWidth 64) rfl
    (IssueKept.refl s.curGroup) rfl
  have hjob : t.curJob = s.curJob.open_ := by
    rw [State.curJob, hr.own, State.job, hr.rest]
    exact job_setJob ..
  obtain ⟨hopn, hiv⟩ := open_opens s.curJob
  refine ⟨t, hi.trans ht, hr.continues, hr.accounted, by rw [hr.rest]; rfl, by rw [hjob, hopn], by rw [hjob, hiv], fun n => ?_⟩
  rw [hjob]
  exact hr.reads n

section

variable {s : State} {d a : BitVec 7}

theorem ckclose_refuses (h : s.curJob.jd.ckp = 0 ∨ 2 ≤ (s.curGroup.sget a.toNat).toNat) : Traps (.ckclose d a) s (fun t => t.cause = 2) := by
  have hx : 2 ≤ (s.curGroup.sget a.toNat).toNat ↔ (s.curGroup.sget a.toNat).toNat / 2 ≠ 0 := by omega
  refine traps_illegalOperand ?_
  change execCkclose d a s = _
  rw [hx] at h
  by_cases hckp : s.curJob.jd.ckp = 0
  · simp only [execCkclose, if_pos hckp]
  · simp only [execCkclose, if_neg hckp, if_pos (h.resolve_left hckp)]

/-- A word of CKCLOSE that it takes. -/
theorem ckclose_word (hx : (s.curGroup.sget a.toNat).toNat < 2) : ¬(s.curGroup.sget a.toNat).toNat / 2 ≠ 0 := by omega

theorem ckclose_closed (h : s.curJob.jd.ckp ≠ 0) (hx : (s.curGroup.sget a.toNat).toNat < 2) (ho : s.curJob.opn = false) :
    ScalarRun (.ckclose d a) s d 0 := by
  have hi : exec (.ckclose d a) s = execCkclose d a s := rfl
  simp only [execCkclose, if_neg h, if_neg (ckclose_word hx), ho, Bool.not_false, if_true] at hi
  exact scalarRun_of_exec hi

theorem askClose_asks (j : Job) (stop isMove : Bool) (w : Joiner) :
    ∃ c, (j.askClose stop isMove [w]).close = some c ∧ w ∈ c.joined ∧ (stop = true → c.stop = true) := by
  unfold Job.askClose
  split
  · exact ⟨_, rfl, List.mem_append_right _ (List.mem_singleton_self w), fun h => by simp [h]⟩
  · exact ⟨_, rfl, List.mem_singleton_self w, id⟩

theorem ckclose_asks (h : s.curJob.jd.ckp ≠ 0) (hx : (s.curGroup.sget a.toNat).toNat < 2) (ho : s.curJob.opn = true) :
    ∃ t c, exec (.ckclose d a) s = .next t ∧ AllRegs s t ∧ t.mem = s.mem ∧ t.curGroup.wait = .close ∧ t.curJob.close = some c ∧
      { grp := s.cur.grp, d := d, lanes := s.cur.lanes, pc := s.cur.pc, len := s.cur.len } ∈ c.joined ∧
      ((s.curGroup.sget a.toNat).getLsbD 0 = true → c.stop = true) := by
  have hi : exec (.ckclose d a) s = execCkclose d a s := rfl
  simp only [execCkclose, if_neg h, if_neg (ckclose_word hx), ho, Bool.not_true, Bool.false_eq_true, if_false] at hi
  obtain ⟨c, hclose, hmem, hstop⟩ := askClose_asks s.curJob ((s.curGroup.sget a.toNat).getLsbD 0) false
    { grp := s.cur.grp, d := d, lanes := s.cur.lanes, pc := s.cur.pc, len := s.cur.len }
  generalize s.curJob.askClose ((s.curGroup.sget a.toNat).getLsbD 0) false
    [{ grp := s.cur.grp, d := d, lanes := s.cur.lanes, pc := s.cur.pc, len := s.cur.len }] = j at *
  have hg : ((s.setCurJob j).setCurGroup { s.curGroup with wait := .close }).curGroup = { s.curGroup with wait := .close } := curGroup_setCurGroup ..
  refine ⟨_, c, hi, ?_, rfl, by rw [hg], ?_, hmem, hstop⟩
  · unfold AllRegs OtherRegs
    rw [hg]
    exact ⟨⟨rfl, rfl, rfl, rfl, rfl, rfl, rfl, rfl⟩, rfl⟩
  · rw [State.curJob, hg, ← hclose]
    exact congrArg Job.close (job_setJob ..)

end

/-! ## CKCOST (R286) -/

theorem ckcost_reads (s : State) (d : BitVec 7) : ScalarStep (.ckcost d) s s.cur.lanes (fun n =>
    if n = d.toNat + 1 then BitVec.ofNat 64 (s.costAc s.curGroup.job) else withScalar s d.toNat (BitVec.ofNat 64 (s.costBytes s.curGroup.job)) n) := by
  have hi : exec (.ckcost d) s = execCkcost d s := rfl
  rw [execCkcost] at hi
  generalize BitVec.ofNat 64 (s.costBytes s.curGroup.job) = x at *
  generalize BitVec.ofNat 64 (s.costAc s.curGroup.job) = y at *
  have hset : (s.curGroup.sset d.toNat x).sset (d.toNat + 1) y =
      { s.curGroup with s := ((s.curGroup.sset d.toNat x).sset (d.toNat + 1) y).s } := by
    rw [sset_rest, sset_rest s.curGroup]
  obtain ⟨t, ht, hdone, hg⟩ := finish_done s s.cur.lanes ((s.curGroup.sset d.toNat x).sset (d.toNat + 1) y) (by rw [hset]) (by rw [hset])
    (by rw [hset]) (by rw [hset]) (by rw [hset]) (by rw [hset])
  refine ⟨t, hi.trans ht, hdone, by rw [hg, hset], fun n => ?_⟩
  have hread : t.curGroup.sget n = ((s.curGroup.sset d.toNat x).sset (d.toNat + 1) y).sget n := by
    rw [hg]
    rfl
  rw [hread, sget_sset, sget_sset]
  dsimp only
  by_cases hn : n = d.toNat + 1
  · rw [if_pos ⟨hn, by omega⟩, if_pos hn]
  · rw [if_neg fun h => hn h.1, if_neg hn]
    rfl

/-! ## PERFRD (R292) -/

section

variable {s : State} {d a : BitVec 7}

theorem perfrd_over (h : 11 < (s.curGroup.sget a.toNat).toNat) : Traps (.perfrd d a) s (fun t => t.cause = 2) := by
  refine traps_illegalOperand ?_
  change execPerfrd d a s = _
  simp only [execPerfrd, if_pos h]

theorem perfReady_of_ne {k : Nat} (h8 : k ≠ 8) (h10 : k ≠ 10) : s.perfReady k = true := by
  simp [State.perfReady, h8, h10]

theorem perfExact_iff {k : Nat} : perfExact k = true ↔ k ∈ [0, 1, 7, 8, 10, 11] := by
  simp [perfExact, or_assoc]

theorem perfrd_holds (h : s.perfReady (s.curGroup.sget a.toNat).toNat = false) : exec (.perfrd d a) s = .next s.holdCur := by
  have hk : ¬11 < (s.curGroup.sget a.toNat).toNat := fun hlt =>
    absurd h (by simp [perfReady_of_ne (s := s) (k := (s.curGroup.sget a.toNat).toNat) (by omega) (by omega)])
  change execPerfrd d a s = _
  simp only [execPerfrd, if_neg hk, h, Bool.not_false, if_true]
  rfl

/-- PERFRD of a counter that is ready reads it. -/
theorem exec_perfrd (hk : (s.curGroup.sget a.toNat).toNat ≤ 11) (hr : s.perfReady (s.curGroup.sget a.toNat).toNat = true) :
    exec (.perfrd d a) s = (valueAct s d (s.readPerf (s.curGroup.sget a.toNat).toNat)).run s := by
  change execPerfrd d a s = _
  simp only [execPerfrd, if_neg (Nat.not_lt.mpr hk), hr, Bool.not_true, Bool.false_eq_true, if_false]

theorem perfrd_exact (hk : (s.curGroup.sget a.toNat).toNat ∈ [0, 1, 7, 8, 10, 11]) (hr : s.perfReady (s.curGroup.sget a.toNat).toNat = true) :
    ScalarRun (.perfrd d a) s d (getD 0 s.curGroup.perf (s.curGroup.sget a.toNat).toNat) := by
  have hle : (s.curGroup.sget a.toNat).toNat ≤ 11 := by
    simp only [List.mem_cons, List.not_mem_nil, or_false] at hk
    omega
  have hi := exec_perfrd (d := d) hle hr
  rw [State.readPerf, if_pos (perfExact_iff.mpr hk)] at hi
  exact scalarRun_of_exec hi

/-- The end of an issue reads of the group before it nothing that a counter holds. -/
theorem valueAct_counted {s : State} {g : Group} (hg : g = { s.curGroup with perf := g.perf }) (d : BitVec 7) (r : State × DWord) :
    (valueAct (s.setCurGroup g) d r).run (s.setCurGroup g) = (valueAct s d r).run s := by
  have hret : ∀ act u, (s.setCurGroup g).retire act u = s.retire act u := by
    intro act u
    rw [State.retire, State.curJob, curGroup_setCurGroup, hg]
    rfl
  exact congrArg Host.Outcome.next (hret _ _)

/-- A counter that depends on timing has grown by the read. -/
theorem readPerf_free {k : Nat} (h : ¬perfExact k = true) : ∃ g, g = { s.curGroup with perf := g.perf } ∧
    s.readPerf k = (s.spend.setCurGroup g, getD 0 g.perf k) := by
  refine ⟨s.curGroup.count k (Config.ticks s.free), rfl, ?_⟩
  simp only [State.readPerf, if_neg h]

theorem perfrd_free (hk : (s.curGroup.sget a.toNat).toNat ∈ [2, 3, 4, 5, 6, 9]) :
    ∃ (t : State) (v : DWord), exec (.perfrd d a) s = .next t ∧ Continues s t ∧ t.mem = s.mem ∧
      getD 0 t.curGroup.perf (s.curGroup.sget a.toNat).toNat = v ∧ ∀ n, t.curGroup.sget n = withScalar s d.toNat v n := by
  have hnot : (s.curGroup.sget a.toNat).toNat ∉ [0, 1, 7, 8, 10, 11] ∧ (s.curGroup.sget a.toNat).toNat ≤ 11 := by
    simp only [List.mem_cons, List.not_mem_nil, or_false] at hk ⊢
    omega
  obtain ⟨hnot, hle⟩ := hnot
  have hne : ∀ m ∈ [0, 1, 7, 8, 10, 11], (s.curGroup.sget a.toNat).toNat ≠ m := fun m hm he => hnot (he ▸ hm)
  have hi := exec_perfrd (d := d) hle (perfReady_of_ne (hne 8 (by decide)) (hne 10 (by decide)))
  obtain ⟨g, hgperf, hread⟩ := readPerf_free (s := s) (fun h => hnot (perfExact_iff.mp h))
  rw [hread, ← valueAct_counted hgperf] at hi
  generalize (s.curGroup.sget a.toNat).toNat = k at *
  have hcount : (s.setCurGroup g).curGroup = g := curGroup_setCurGroup ..
  have hspent : (s.spend.setCurGroup g).curGroup = g := curGroup_setCurGroup ..
  obtain ⟨t, ht, h⟩ := valueRead_run (s := s.setCurGroup g) (u := s.spend.setCurGroup g) d (getD 0 g.perf k) rfl
    (by rw [hcount, hspent]; exact IssueKept.refl g) (by rw [hcount, hspent])
  obtain ⟨hperf, -⟩ := h.accounted
  refine ⟨t, getD 0 g.perf k, hi.trans ht, fun l => ?_, by rw [h.rest]; rfl, ?_, fun n => ?_⟩
  · rw [h.continues l, hcount, hgperf]
    rfl
  · rw [hperf, hcount, if_neg (hne 0 (by decide)), if_neg (hne 1 (by decide))]
    exact BitVec.add_zero _
  · rw [h.reads n, withScalar, withScalar, hcount, hgperf]
    rfl

end

/-! ## The oldest access of a path (R93) -/

theorem counters_get_set (c : Counters) (x : BitVec 8) (p : Path) : (c.set x p).get p = x := by cases p <;> rfl

theorem endCheck_group (s : State) (k : Nat) : let t := s.endCheck k
    t.mem = s.mem ∧ t.group k = { s.group k with live := (t.group k).live, hand := (t.group k).hand, wait := (t.group k).wait } := by
  unfold State.endCheck
  dsimp only
  split
  · exact ⟨rfl, by rw [group_setGroup_self]⟩
  · exact ⟨rfl, rfl⟩

theorem groupEnd_group (s : State) (k : Nat) : let t := s.groupEnd k
    t.mem = s.mem ∧ t.group k = { s.group k with
      live := (t.group k).live, hand := (t.group k).hand, wait := (t.group k).wait, lanes := (t.group k).lanes } := by
  obtain ⟨hmem, hg⟩ := endCheck_group s k
  unfold State.groupEnd
  dsimp only
  generalize s.endCheck k = u at *
  split
  · exact ⟨hmem, by rw [hg]⟩
  · obtain ⟨trest, tg⟩ := tbarCheck_woken u (s.group k).tk
    obtain ⟨crest, cg⟩ := cbarCheck_woken (u.tbarCheck (s.group k).tk) (s.group k).job (s.group k).team
    exact ⟨by rw [crest, trest]; exact hmem, by rw [cg, tg, hg]⟩

theorem accessComplete_lowers {s : State} {k : Nat} {p : Path} {f : Flight} (ho : (s.group k).oldest p = some f) (hf : f.done = true) :
    ∃ t, exec (.accessComplete k p) s = .next t ∧ t.mem = s.mem ∧ ((t.group k).cnt.get p) = (s.group k).cnt.get p - 1 ∧
      (t.group k).flights = (s.group k).flights.filter (fun x => x.id != f.id) ∧
      (t.group k).v = (s.group k).v ∧ (t.group k).s = (s.group k).s ∧ (t.group k).p = (s.group k).p := by
  have hi : exec (.accessComplete k p) s = execAccessComplete k p s := rfl
  simp only [execAccessComplete, Group.lower, ho, hf, if_true, Option.map_some, ev] at hi
  generalize hg : { s.group k with
    cnt := (s.group k).cnt.set ((s.group k).cnt.get p - 1) p, flights := (s.group k).flights.filter (fun x => x.id != f.id) } = g at hi
  obtain ⟨hmem, hgroup⟩ := groupEnd_group (s.setGroup k g) k
  rw [group_setGroup_self] at hgroup
  refine ⟨_, hi, hmem, ?_, ?_, ?_, ?_, ?_⟩ <;> rw [hgroup, ← hg]
  exact counters_get_set ..

/-- Settles O34: each instruction's own lemma; a value read from a free source is written by `valueRead_run`. -/
theorem timeSleepEvents : Obligations.TimeSleepEvents := by
  unfold Obligations.TimeSleepEvents
  exact ⟨⟨clock_reads, clockC_reads, fun s a => sleepRun_of_exec rfl, fun s i => immVal_unsigned i ▸ sleepRun_of_exec rfl,
      fun s k w => sleepWake_wakes⟩,
    fun s a b => evsig_adds, fun s a b => evsig_holds, fun s d => ckopen_needs, fun s d => ckopen_opens, fun s d a => ckclose_refuses,
    fun s d a => ckclose_closed, fun s d a => ckclose_asks, ckcost_reads, fun s d a => perfrd_over, fun s d a => perfrd_holds,
    fun s d a => perfrd_exact, fun s d a => perfrd_free, fun s k p f => accessComplete_lowers⟩

end Sys2Proof.Proofs
end

section
namespace Sys2Proof.Proofs
open Sys2Proof.Machine Sys2Proof.Says Sys2Proof.Laws

/-! ## Steps of the members of an operation (R244, R245) -/

/-- Groups alone may differ. -/
def GroupsOnly (s t : State) : Prop := t = { s with groups := t.groups }

theorem GroupsOnly.refl (s : State) : GroupsOnly s s := rfl
theorem GroupsOnly.trans {s t u : State} (h : GroupsOnly s t) (k : GroupsOnly t u) : GroupsOnly s u := by
  unfold GroupsOnly at *
  rw [k, h]
theorem GroupsOnly.foldl {α : Type} {f : State → α → State} (hf : ∀ t a, GroupsOnly t (f t a)) (l : List α) (s : State) :
    GroupsOnly s (l.foldl f s) :=
  List.foldlRecOn (motive := GroupsOnly s) l f (.refl s) fun t h a _ => h.trans (hf t a)
theorem GroupsOnly.setGroup (s : State) (k : Nat) (g : Group) : GroupsOnly s (s.setGroup k g) := rfl
theorem GroupsOnly.mem {s t : State} (h : GroupsOnly s t) : t.mem = s.mem := by rw [h]
theorem GroupsOnly.team {s t : State} (h : GroupsOnly s t) (k : Nat) : t.team k = s.team k := by
  rw [h]
  rfl

/-! ## A latch completes (R103, R244) -/

/-- The operation of a latch that completes. -/
def latchOp (mask : DWord) (a : Arrival) (rest : List Arrival) (fb : BitVec 512) (gt : List (BitVec 16)) : MillOp :=
  { kind := .mma, opc := a.opc, z := a.z, mask := mask, mem := a :: rest, fb := fb, gt := gt, shape := a.hs, kb := shKb a.hs, slab := 0, side := [],
    pin := 0, buf := [], fl := 0, mode := 0, sat := false, free := 0 }

theorem latchComplete_enters {s : State} {job team : Nat} {mask : DWord} {a : Arrival} {rest : List Arrival} {r : Xlate × BitVec 512}
    (hm : ((s.team (tkey job team)).latch mask).members = a :: rest)
    (hready : s.latchReady (tkey job team) ((s.team (tkey job team)).latch mask) = true) (hplaced : s.teamPlaced job team = true)
    (hblock : s.readBlock (tkey job team * 64 + a.q) a.hb = .ok r)
    (hcopies : s.latchCopies (tkey job team) (a :: rest) (latchRuns (s.team (tkey job team)).mem a.opc r.2 (a :: rest) a.hs) r.1.pa = false)
    (hpoison : s.poisonNow (r.1.pa / 128) = false)
    (hfault : latchFault s (tkey job team) (s.job job).jd a.opc r.2 (a :: rest) a.hs
      (groupTable (s.team (tkey job team)).mem a.opc a.hs (rest.length + 1)) = none) :
    ∃ t o, exec (.latchComplete job team mask) s = .next t ∧ (t.team (tkey job team)).mill = (s.team (tkey job team)).mill ++ [o] ∧
      o.mask = mask ∧ o.slab = 0 ∧ o.fb = r.2 ∧ o.mem = a :: rest ∧ (t.team (tkey job team)).acc = (s.team (tkey job team)).acc ∧
      (t.team (tkey job team)).mem = (s.team (tkey job team)).mem := by
  have hi : exec (.latchComplete job team mask) s = execLatchComplete job team mask s := rfl
  simp only [execLatchComplete, hm, hready, hplaced, hblock, hcopies, hpoison, List.length_cons, hfault, Bool.not_true, Bool.or_self,
    Bool.false_eq_true, if_false, ev] at hi
  generalize tkey job team = tk at *
  have hread : MemorySide s ((s.useXlate job (s.group (tk * 64 + a.q)).place.die a.hb.toNat .mill r.1).readVia
      (s.group (tk * 64 + a.q)).place.die (r.1.pa / 128)) := (useXlate_side ..).trans (readVia_side ..)
  generalize (s.useXlate job (s.group (tk * 64 + a.q)).place.die a.hb.toNat .mill r.1).readVia
    (s.group (tk * 64 + a.q)).place.die (r.1.pa / 128) = u at *
  have hteam : u.team tk = s.team tk := hread.congr (fun v => v.team tk) rfl
  have hgroups : ∀ v : State, GroupsOnly v ((a :: rest).foldl (fun (w : State) x => w.release (tk * 64 + x.q) x) v) := by
    refine fun v => .foldl (fun w x => ?_) _ v
    exact releaseFlight_rest ..
  refine ⟨_, latchOp mask a rest r.2 (groupTable (s.team tk).mem a.opc a.hs (rest.length + 1)), hi, ?_, rfl, rfl, rfl, rfl, ?_, ?_⟩ <;>
    rw [(hgroups _).team, team_setTeam, hteam] <;> rfl

/-! ## One slab (R161 to R163, R245, R249) -/

/-- Accumulators and the notes of the tiles written alone may differ. -/
def AccOnly (t u : Team) : Prop := u = { t with acc := u.acc, dirtyT := u.dirtyT }

theorem AccOnly.refl (t : Team) : AccOnly t t := rfl
theorem AccOnly.trans {t u v : Team} (h : AccOnly t u) (k : AccOnly u v) : AccOnly t v := by
  unfold AccOnly at *
  rw [k, h]
theorem AccOnly.foldl {α β : Type} {f : Team × β → α → Team × β} (hf : ∀ e a, AccOnly e.1 (f e a).1) (l : List α) (e : Team × β) :
    AccOnly e.1 (l.foldl f e).1 :=
  List.foldlRecOn (motive := fun x => AccOnly e.1 x.1) l f (.refl e.1) fun x h a _ => h.trans (hf x a)

/-- A slab changes accumulators alone. -/
theorem slabTeam_acc (s : State) (tk : Nat) (seed : DWord) (o : MillOp) : AccOnly (s.team tk) (s.slabTeam tk seed o).1 := by
  unfold State.slabTeam
  refine AccOnly.foldl (fun e m => ?_) _ (s.team tk, o.side)
  refine AccOnly.foldl (fun e r => ?_) _ e
  refine AccOnly.foldl (fun e n => ?_) _ e
  rfl

/-- An operation that leaves the mill takes its place alone away. -/
theorem millDone_team (s : State) (tk i : Nat) (o : MillOp) : let t := s.millDone tk i o
    t.mem = s.mem ∧ t.team tk = { s.team tk with mill := (s.team tk).mill.eraseIdx i } := by
  have hgroups : ∀ v : State, GroupsOnly v (o.mem.foldl (fun (u : State) a =>
      u.setGroup (tk * 64 + a.q) ((u.group (tk * 64 + a.q)).flightDone a.id)) v) := by
    refine fun v => .foldl (fun w a => ?_) _ v
    exact .setGroup ..
  rw [List.eraseIdx_eq_take_drop_succ]
  refine ⟨(hgroups _).mem.trans ?_, ((hgroups _).team tk).trans ?_⟩
  · split <;> rfl
  · split <;> exact team_setTeam ..

theorem slabCommit_commits {s : State} {job team i : Nat} {o : MillOp} (hget : (s.team (tkey job team)).mill[i]? = some o) (hk : o.kind = .mma)
    (hruns : s.teamRuns job team = true) (hfirst : (s.team (tkey job team)).millFirst i o = true)
    (hbad : (s.team (tkey job team)).badRun o = none) :
    ∃ t, exec (.slabCommit job team i) s = .next t ∧ t.mem = s.mem ∧ (t.team (tkey job team)).mem = (s.team (tkey job team)).mem ∧
      (t.team (tkey job team)).acc = (s.slabTeam (tkey job team) (s.job job).jd.seed o).1.acc ∧
      if o.slab + 1 = o.kb then (t.team (tkey job team)).mill = (s.team (tkey job team)).mill.eraseIdx i
      else ∃ o2, (t.team (tkey job team)).mill[i]? = some o2 ∧ o2.slab = o.slab + 1 ∧ o2.mem = o.mem := by
  have hi : exec (.slabCommit job team i) s = execSlabCommit job team i s := rfl
  have hmma : o.isMma = true := by simp [MillOp.isMma, hk]
  simp only [execSlabCommit, hget, hmma, hruns, hfirst, hbad, Bool.not_true, Bool.or_self, Bool.false_eq_true, if_false, ev] at hi
  generalize tkey job team = tk at *
  have hslab := slabTeam_acc s tk (s.job job).jd.seed o
  generalize s.slabTeam tk (s.job job).jd.seed o = e at *
  have hmem : e.1.mem = (s.team tk).mem := by rw [hslab]
  have hmill : e.1.mill = (s.team tk).mill := by rw [hslab]
  have hcounted : GroupsOnly s (o.mem.foldl (fun (u : State) a => u.setGroup (tk * 64 + a.q) ((u.group (tk * 64 + a.q)).count 8 1)) s) := by
    refine .foldl (fun w a => ?_) _ s
    exact .setGroup ..
  generalize o.mem.foldl (fun (u : State) a => u.setGroup (tk * 64 + a.q) ((u.group (tk * 64 + a.q)).count 8 1)) s = u at *
  split_ifs at hi ⊢ with hlast
  · obtain ⟨dmem, dteam⟩ := millDone_team (u.setTeam tk e.1) tk i o
    rw [team_setTeam] at dteam
    exact ⟨_, hi, dmem.trans hcounted.mem, by rw [dteam, hmem], by rw [dteam], by rw [dteam, hmill]⟩
  · refine ⟨_, hi, hcounted.mem, ?_, ?_, o.next e.2 0, ?_, rfl, rfl⟩ <;> rw [team_setTeam]
    · exact hmem
    · rw [hmill]
      exact getElem_setAt hget

/-- Settles O24: `latchComplete_enters` and `slabCommit_commits`. -/
theorem millSteps : Obligations.MillSteps := by
  unfold Obligations.MillSteps
  exact ⟨fun s job team mask a rest r => latchComplete_enters, fun s job team i o => slabCommit_commits⟩

end Sys2Proof.Proofs
end

section
namespace Sys2Proof.Proofs
open Sys2Proof.Machine Sys2Proof.Says Sys2Proof.Laws

/-! ## Elements of vector operands (R143, R207) -/

theorem ITy.width_eq (ty : ITy) : ty.width = iWidth ty := by cases ty <;> rfl
theorem ITy.count_eq (ty : ITy) : ty.count = iCount ty := by cases ty <;> rfl
theorem ITy.regs_eq (ty : ITy) : ty.regs = iRegs ty := by cases ty <;> rfl
theorem ITy.signed_eq (ty : ITy) : ty.signed = iSigned ty := by cases ty <;> rfl
theorem BTy.regs_eq (ty : BTy) : ty.regs = bRegs ty := by cases ty <;> rfl
theorem FTy.width_eq (ty : FTy) : ty.width = fWidth ty := by cases ty <;> rfl
theorem FTy.count_eq (ty : FTy) : ty.count = fCount ty := by cases ty <;> rfl
theorem FTy.regs_eq (ty : FTy) : ty.regs = fRegs ty := by cases ty <;> rfl

theorem part_zero (n x : Nat) : part n x 0 = BitVec.ofNat n x := by simp [part]

theorem part_succ (n x e : Nat) : part n x (e + 1) = part n (x / 2 ^ n) e := by
  rw [part, part, Nat.div_div_eq_div_mul, ← Nat.pow_add, Nat.mul_succ, Nat.add_comm]

/-- An operand by its lowest element and the others. -/
theorem pack_succ_low (n k : Nat) (f : Nat → BitVec n) : pack n (k + 1) f = (f 0).toNat + 2 ^ n * pack n k (fun e => f (e + 1)) := by
  induction k with
  | zero => simp [pack]
  | succ k ih => rw [pack, ih, pack, Nat.mul_succ, Nat.pow_add]; ring

theorem pack_congr {n k : Nat} {f g : Nat → BitVec n} (h : ∀ e, e < k → f e = g e) : pack n k f = pack n k g := by
  induction k with
  | zero => rfl
  | succ k ih => rw [pack, pack, ih fun e he => h e (he.trans k.lt_succ_self), h k k.lt_succ_self]

theorem mapElems_eq_pack (n k : Nat) (f : Nat → Nat → Nat → Nat) (x y z : Nat) : mapElems n k f x y z =
    pack n k (fun e => BitVec.ofNat n (f (part n x e).toNat (part n y e).toNat (part n z e).toNat)) := by
  induction k generalizing x y z with
  | zero => rfl
  | succ k ih =>
    rw [mapElems, pack_succ_low, ih]
    simp only [part_zero, part_succ, BitVec.toNat_ofNat]

theorem elems_eq_map (n k x : Nat) : elems n k x = (List.range k).map (fun e => (part n x e).toNat) := by
  induction k generalizing x with
  | zero => rfl
  | succ k ih =>
    rw [elems, ih, List.range_succ_eq_map, List.map_cons, List.map_map, part_zero, BitVec.toNat_ofNat]
    simp only [Function.comp_def, Nat.succ_eq_add_one, part_succ]

theorem packElems_map (n k : Nat) (f : Nat → Nat) : packElems n ((List.range k).map f) = pack n k (fun e => BitVec.ofNat n (f e)) := by
  induction k generalizing f with
  | zero => rfl
  | succ k ih =>
    rw [List.range_succ_eq_map, List.map_cons, List.map_map, packElems, ih, pack_succ_low, BitVec.toNat_ofNat]
    rfl

theorem part_rep {n k e : Nat} (v : Nat) (h : e < k) : part n (rep n k v) e = BitVec.ofNat n v := by
  induction k generalizing e with
  | zero => omega
  | succ k ih =>
    cases e with
    | zero => rw [part_zero, rep]; exact BitVec.eq_of_toNat_eq (by simp)
    | succ e =>
      have hrest : rep n (k + 1) v / 2 ^ n = rep n k v := by
        rw [rep, Nat.add_mul_div_left _ _ (Nat.two_pow_pos n), Nat.div_eq_of_lt (Nat.mod_lt _ (Nat.two_pow_pos n)), Nat.zero_add]
      rw [part_succ, hrest, ih (Nat.lt_of_succ_lt_succ h)]

/-! ## Immediates as elements (R159, R207) -/

theorem extImm_eImm (sx : Bool) (n : Nat) {w : Nat} (x : BitVec w) : BitVec.ofNat n (extImm sx w x.toNat) = eImm sx n x := by
  unfold extImm eImm
  rw [BitVec.ofNat_toNat]
  cases sx
  · simp only [Bool.false_eq_true, if_false, zext64, Nat.mod_eq_of_lt x.isLt, BitVec.ofNat_toNat]
  · simp only [if_true, sext64, toSigned_eq_toInt, BitVec.ofNat_toNat, BitVec.setWidth_eq, BitVec.signExtend]

section

variable {n k e : Nat} (g : Group) (regs : Nat) (sx : Bool) (l : Nat)

theorem part_vsrc (b : VSrc) (h : e < k) : part n (vsrc g regs n k sx l b) e = vPart g regs n sx l e b := by
  cases b with
  | reg b => rfl
  | imm x => exact (part_rep _ h).trans (extImm_eImm sx n x)
  | rlit x => exact (part_rep _ h).trans (extImm_eImm sx n x)
  | ilit x => exact (part_rep _ h).trans (extImm_eImm sx n x)

theorem part_vlit (b : VLit) (h : e < k) : part n (vlit g regs n k sx l b) e = vLitPart g regs n sx l e b := by
  cases b with
  | reg b => rfl
  | lit x => exact (part_rep _ h).trans (extImm_eImm sx n x)

end

/-! ## The integer of an element (R207, R209) -/

theorem tval_toNat (sg : Bool) {n : Nat} (x : BitVec n) : tval sg n x.toNat = eInt sg x := by
  cases sg
  · simp [tval, eInt, Nat.mod_eq_of_lt x.isLt]
  · simp [tval, eInt, toSigned_eq_toInt]

theorem ofNat_wrap (n : Nat) (r : Int) : BitVec.ofNat n (wrap n r) = BitVec.ofInt n r := by
  apply BitVec.eq_of_toNat_eq
  have hlt : wrap n r < 2 ^ n := by
    have := Int.emod_lt_of_pos r (show (0 : Int) < ((2 ^ n : Nat) : Int) by positivity)
    have := Int.emod_nonneg r (show ((2 ^ n : Nat) : Int) ≠ 0 by positivity)
    unfold wrap
    omega
  rw [BitVec.toNat_ofNat, BitVec.toNat_ofInt, Nat.mod_eq_of_lt hlt]
  rfl

theorem tlo_eq (sg : Bool) (n : Nat) : tlo sg n = eMin sg n := by cases sg <;> simp [tlo, eMin]
theorem thi_eq (sg : Bool) (n : Nat) : thi sg n = eMax sg n := by cases sg <;> simp [thi, eMax]
theorem eMin_le_eMax (sg : Bool) (n : Nat) : eMin sg n ≤ eMax sg n := by
  have h1 : (0 : Int) < 2 ^ (n - 1) := by positivity
  have h2 : (0 : Int) < 2 ^ n := by positivity
  cases sg <;> simp only [eMin, eMax, if_true, Bool.false_eq_true, if_false] <;> omega

theorem clampIf_eq (sat sg : Bool) (n : Nat) (r : Int) : clampIf sat sg n r = eLimit sat sg n r := by
  have h := eMin_le_eMax sg n
  unfold clampIf eLimit
  rw [tlo_eq, thi_eq]
  split
  · split
    · omega
    · split <;> omega
  · rfl

/-! ## Vector instructions that complete (R138) -/

theorem withVector_congr {s : State} {act : DWord} {f v : Nat → Nat} (h : ∀ l ∈ lanesOf act, f l = v l) (d k : Nat) :
    withVector s act d k f = withVector s act d k v := by
  funext n l
  unfold withVector
  split_ifs with hc
  · rw [h l ((mem_lanesOf act l).mpr hc.1)]
  · rfl

/-- An instruction that writes one vector operand in the active lanes. -/
theorem vectorRun_of_exec {i : Instr} {s : State} {gd : Guard} {k : Nat} {d : BitVec 11} {f v : Nat → Nat} (hi : exec i s = vecWrite s gd k d f)
    (hv : ∀ l ∈ lanesOf (s.active gd), f l = v l) : VectorRun i s gd d k v := by
  obtain ⟨t, ht, hdone, hg, hread⟩ := vecWrite_run s gd k d f
  rw [withVector_congr hv] at hread
  exact ⟨t, hi.trans ht, hdone, hg, hread⟩

section

variable {i : Instr} {s : State}

/-- An operation on the elements of two sources. -/
theorem vElemRun_of_exec {x : VBin} {sx : Bool} {f : Nat → Nat → Nat} {h : BitVec (iWidth x.ty) → BitVec (iWidth x.ty) → BitVec (iWidth x.ty)}
    (hi : exec i s = vecI s x sx f) (hf : ∀ a b, BitVec.ofNat _ (f a.toNat b.toNat) = h a b) : VElemRun i s x sx h := by
  unfold VElemRun
  rw [← ITy.regs_eq]
  refine vectorRun_of_exec hi fun l _ => ?_
  rw [mapElems_eq_pack, ITy.width_eq, ITy.count_eq]
  refine pack_congr fun e he => ?_
  rw [hf, part_vsrc _ _ _ _ _ he]

/-- An operation on the elements of one source. -/
theorem vElem1Run_of_exec {x : VUn} {f : Nat → Nat} {h : BitVec (iWidth x.ty) → BitVec (iWidth x.ty)}
    (hi : exec i s = vecI1 s x f) (hf : ∀ a, BitVec.ofNat _ (f a.toNat) = h a) : VElem1Run i s x h := by
  unfold VElem1Run
  rw [← ITy.regs_eq]
  refine vectorRun_of_exec hi fun l _ => ?_
  rw [mapElems_eq_pack, ITy.width_eq, ITy.count_eq]
  exact pack_congr fun e _ => hf _

/-- An exact integer operation of R210. -/
theorem vIntRun_of_exec {f : VArith} {sat : Bool} {x : VBin} {h : Int → Int → Int} (hi : exec i s = execVArith f sat x s)
    (hf : ∀ a b, vArith f (iSigned x.ty) (iWidth x.ty) a b = h a b) : VIntRun i s sat x h := by
  unfold VIntRun
  rw [← ITy.signed_eq]
  refine vElemRun_of_exec hi fun a b => ?_
  rw [vArithElem, ITy.width_eq, ofNat_wrap, clampIf_eq, tval_toNat, tval_toNat, ITy.signed_eq, hf]

end

theorem vArith_mulHi (sg : Bool) (n : Nat) (a b : Int) : vArith .mulHi sg n a b = (a * b).fdiv (2 ^ n) := by simp [vArith]
theorem vArith_div (sg : Bool) (n : Nat) (a b : Int) : vArith .div sg n a b = eQuot sg n a b := by rw [vArith, eQuot, thi_eq]
theorem vArith_min (sg : Bool) (n : Nat) (a b : Int) : vArith .min sg n a b = min a b := (min_def a b).symm
theorem vArith_max (sg : Bool) (n : Nat) (a b : Int) : vArith .max sg n a b = max a b := (max_def a b).symm

theorem vabs_run (s : State) (x : VUn) : VElem1Run (.vabs x) s x (fun a => BitVec.ofInt _ (eInt (iSigned x.ty) a).natAbs) := by
  refine vElem1Run_of_exec (i := .vabs x) rfl fun a => ?_
  rw [ITy.width_eq, ITy.signed_eq, ofNat_wrap, tval_toNat]

theorem vneg_run (s : State) (x : VUn) : VElem1Run (.vneg x) s x (fun a => -a) := by
  refine vElem1Run_of_exec (i := .vneg x) rfl fun a => ?_
  rw [ITy.width_eq, ofNat_wrap, BitVec.ofInt_neg, BitVec.ofInt_natCast, BitVec.ofNat_toNat, BitVec.setWidth_eq]

theorem vmad_run (s : State) (x : VTri) : VectorRun (.vmad x) s x.g x.d (iRegs x.ty) (fun l => pack (iWidth x.ty) (iCount x.ty) (fun e =>
    part (iWidth x.ty) (s.curGroup.vN (iRegs x.ty) x.a.toNat l) e * vLitPart s.curGroup (iRegs x.ty) (iWidth x.ty) (iSigned x.ty) l e x.b
      + part (iWidth x.ty) (s.curGroup.vN (iRegs x.ty) x.c.toNat l) e)) := by
  rw [← ITy.regs_eq]
  refine vectorRun_of_exec rfl fun l _ => ?_
  rw [mapElems_eq_pack, ITy.width_eq, ITy.count_eq, ITy.signed_eq]
  refine pack_congr fun e he => ?_
  rw [ofNat_wrap, BitVec.ofInt_natCast, BitVec.ofNat_add, BitVec.ofNat_mul, part_vlit _ _ _ _ _ he]
  simp only [BitVec.ofNat_toNat, BitVec.setWidth_eq]

theorem vmulSr_exec {fn : BitVec 2} (h : fn ≠ 2) (r : SR3) (s : State) : exec (.vmulSr fn r) s = execVArith .mul (fn == 1) (srI r) s := if_neg h

/-- Settles O6: each instruction by the operation on elements that it is, exact integers through `vArith`. -/
theorem vectorIntegers : Obligations.VectorIntegers := by
  unfold Obligations.VectorIntegers
  exact ⟨fun s sat x => vIntRun_of_exec (f := .add) rfl fun _ _ => rfl,
    fun s sat x => vIntRun_of_exec (f := .sub) rfl fun _ _ => rfl,
    fun s sat x => vIntRun_of_exec (f := .mul) rfl fun _ _ => rfl,
    fun s x => vIntRun_of_exec (f := .mulHi) rfl (vArith_mulHi _ _),
    fun s x => vIntRun_of_exec (f := .div) rfl (vArith_div _ _),
    fun s x => vIntRun_of_exec (f := .rem) rfl fun _ _ => rfl,
    fun s x => vIntRun_of_exec (f := .min) rfl (vArith_min _ _),
    fun s x => vIntRun_of_exec (f := .max) rfl (vArith_max _ _),
    fun s sat r => vIntRun_of_exec (x := srI r) (f := .add) rfl fun _ _ => rfl,
    fun s sat r => vIntRun_of_exec (x := srI r) (f := .sub) rfl fun _ _ => rfl,
    fun s r => vIntRun_of_exec (vmulSr_exec (by decide) r s) fun _ _ => rfl,
    fun s r => vIntRun_of_exec (vmulSr_exec (by decide) r s) fun _ _ => rfl,
    fun s r => vIntRun_of_exec (x := srI r) (f := .mulHi) rfl (vArith_mulHi _ _), vabs_run, vneg_run, vmad_run⟩

end Sys2Proof.Proofs
end

section
namespace Sys2Proof.Proofs
open Sys2Proof.Machine Sys2Proof.Says Sys2Proof.Laws

/-! ## The uniform operand (R139, R379) -/

theorem traps_of_exec {i : Instr} {s : State} {t : Trap} {p : Trap → Prop} (hi : exec i s = (Act.trap t).run s) (hp : p t) : Traps i s p :=
  ⟨t, hp, hi⟩

section

variable {s : State} {act : DWord}

/-- The value that a register holds in every active lane; with none active it is of no lane. -/
theorem uniformV_ok {n : Nat} {k : Word} (h : ∀ l ∈ lanesOf act, s.curGroup.v32 n l = k) :
    ∃ w, uniformV s.curGroup act n = .ok w ∧ ∀ l ∈ lanesOf act, w = k := by
  unfold uniformV
  cases hl : lanesOf act with
  | nil => exact ⟨0, rfl, nofun⟩
  | cons l ls =>
    rw [hl] at h
    have hsame : ls.find? (fun i => s.curGroup.v32 n i != s.curGroup.v32 n l) = none := by
      rw [List.find?_eq_none]
      intro i hi
      rw [h i (List.mem_cons_of_mem _ hi), h l List.mem_cons_self]
      simp
    dsimp only
    rw [hsame]
    exact ⟨_, rfl, fun _ _ => h l List.mem_cons_self⟩

/-- Where two active lanes differ, one differs from the lowest. -/
theorem uniformV_error {n : Nat} (h : ∃ l ∈ lanesOf act, ∃ k ∈ lanesOf act, s.curGroup.v32 n l ≠ s.curGroup.v32 n k) :
    ∃ t, uniformV s.curGroup act n = .error t ∧ t.cause = 5 := by
  obtain ⟨l, hl, k, hk, hne⟩ := h
  unfold uniformV
  cases hls : lanesOf act with
  | nil => rw [hls] at hl; cases hl
  | cons a ls =>
    dsimp only
    cases hf : ls.find? (fun i => s.curGroup.v32 n i != s.curGroup.v32 n a) with
    | some i => exact ⟨_, rfl, rfl⟩
    | none =>
      have hall : ∀ i ∈ lanesOf act, s.curGroup.v32 n i = s.curGroup.v32 n a := by
        rw [hls]
        intro i hi
        rcases List.mem_cons.mp hi with rfl | hi
        · rfl
        · simpa using List.find?_eq_none.mp hf i hi
      exact absurd ((hall l hl).trans (hall k hk).symm) hne

theorem usrc_ok {k : Word} {b : USrc} (h : Uniform s act k b) : ∃ w, usrc s.curGroup act b = .ok w ∧ ∀ l ∈ lanesOf act, w = k := by
  cases b with
  | reg b => exact ⟨_, rfl, fun _ _ => (show k = _ from h).symm⟩
  | lit x => exact ⟨x, rfl, fun _ _ => (show k = x from h).symm⟩
  | vu r => exact uniformV_ok h

theorem usrc_error {r : BitVec 11} (h : Differs s act r) : ∃ t, usrc s.curGroup act (.vu r) = .error t ∧ t.cause = 5 := uniformV_error h

end

theorem lanesOf_ne_nil {m : DWord} (h : m ≠ 0) : lanesOf m ≠ [] := by
  intro hnil
  refine h (BitVec.eq_of_getLsbD_eq fun l _ => ?_)
  cases hl : m.getLsbD l
  · simp
  · have := (mem_lanesOf m l).mpr hl
    rw [hnil] at this
    cases this

/-! ## Shuffles, permutes, broadcasts (R221, R222, R379) -/

section

variable {s : State}

/-- Copying lanes is the write of one vector operand, with every read before it. -/
theorem vectorRun_of_laneCopy {i : Instr} {gd : Guard} {ty : BTy} {d a : BitVec 11} {src v : Nat → Nat}
    (hi : exec i s = (laneCopy s gd ty d a src).run s) (hv : ∀ l ∈ lanesOf (s.active gd), src l = v l) :
    VectorRun i s gd d (bRegs ty) (fun l => s.curGroup.vN (bRegs ty) a.toNat (v l)) := by
  rw [← BTy.regs_eq]
  exact vectorRun_of_exec hi fun l hl => by rw [hv l hl]

theorem shufRun_of_exec {i : Shuf → Instr} {src src' : Nat → Nat → Nat → Nat} (hi : ∀ s x, exec (i x) s = execShuf x src s)
    (hs : ∀ w l k, src w l k = src' w l k) : ShufRun i src' := by
  refine ⟨fun s x k hk => ?_, fun s x r hb hd => ?_⟩
  · obtain ⟨w, hw, hwk⟩ := usrc_ok hk
    have hx := hi s x
    simp only [execShuf, hw] at hx
    exact vectorRun_of_laneCopy hx fun l hl => by rw [hs, hwk l hl]
  · obtain ⟨t, ht, hcause⟩ := usrc_error hd
    have hx := hi s x
    simp only [execShuf, hb, ht] at hx
    exact traps_of_exec hx hcause

theorem vbcast_uniform {gd : Guard} {ty : BTy} {d a r : BitVec 11} {k : Word} (h : Uniform s (s.active gd) k (.vu r)) :
    VectorRun (.vbcast gd ty d a (.vu r)) s gd d (bRegs ty) (fun _ =>
      s.curGroup.vN (bRegs ty) a.toNat (k.toNat % s.curGroup.width)) := by
  obtain ⟨w, hw, hwk⟩ := uniformV_ok h
  have hi : exec (.vbcast gd ty d a (.vu r)) s = execVbcast gd ty d a (.vu r) s := rfl
  simp only [execVbcast, hw, Except.map] at hi
  exact vectorRun_of_laneCopy hi fun l hl => by rw [hwk l hl]

theorem vbcast_differs {gd : Guard} {ty : BTy} {d a r : BitVec 11} (h : Differs s (s.active gd) r) :
    Traps (.vbcast gd ty d a (.vu r)) s (fun t => t.cause = 5) := by
  obtain ⟨t, ht, hcause⟩ := uniformV_error h
  have hi : exec (.vbcast gd ty d a (.vu r)) s = execVbcast gd ty d a (.vu r) s := rfl
  simp only [execVbcast, ht, Except.map] at hi
  exact traps_of_exec hi hcause

/-! ## Ballots and lane reads (R224) -/

/-- An instruction that writes one scalar, active in lanes of its own. -/
theorem scalarStep_of_finish {i : Instr} {act : DWord} {d : Nat} {v : DWord} (hi : exec i s = s.finish act (s.curGroup.sset d v)) :
    ScalarStep i s act (withScalar s d v) := by
  have hset := sset_rest s.curGroup d v
  obtain ⟨t, ht, hdone, hg⟩ := finish_done s act (s.curGroup.sset d v) (by rw [hset]) (by rw [hset]) (by rw [hset]) (by rw [hset])
    (by rw [hset]) (by rw [hset])
  refine ⟨t, hi.trans ht, hdone, by rw [hg, hset], fun n => ?_⟩
  have hread : t.curGroup.sget n = (s.curGroup.sset d v).sget n := by
    rw [hg]
    rfl
  rw [hread, sget_sset]
  rfl

theorem vballot_gathers (gd : Guard) (d : BitVec 7) (a : BitVec 4) :
    ∃ m : DWord, (∀ l, l < 64 → m.getLsbD l = ((s.active gd).getLsbD l && s.curGroup.pred a.toNat l)) ∧
      ScalarStep (.vballot gd d a) s (s.active gd) (withScalar s d.toNat m) :=
  ⟨s.active gd &&& s.curGroup.pmask a.toNat, fun _ _ => BitVec.getLsbD_and, scalarStep_of_finish rfl⟩

theorem popcount_and_pmask (m : DWord) (g : Group) (n : Nat) :
    popcount 64 (m &&& g.pmask n).toNat = ((lanesOf m).filter (fun l => g.pred n l)).length := by
  have hbit : bitAt (m &&& g.pmask n).toNat = fun l => g.pred n l && m.getLsbD l := funext fun l =>
    (BitVec.getLsbD_and (x := m) (y := g.pmask n) (i := l)).trans (Bool.and_comm ..)
  rw [popcount, lanesOf, List.filter_filter, hbit]

theorem vballotCnt_counts (gd : Guard) (d : BitVec 7) (a : BitVec 4) : ScalarStep (.vballotCnt gd d a) s (s.active gd) (withScalar s d.toNat
    (BitVec.ofNat 64 ((lanesOf (s.active gd)).filter (fun l => s.curGroup.pred a.toNat l)).length)) := by
  rw [← popcount_and_pmask]
  exact scalarStep_of_finish rfl

theorem vlane_reads {ty : BTy} {d : BitVec 7} {a : BitVec 11} {b : USrc} {k : Word} (hl : s.cur.lanes ≠ 0) (h : Uniform s s.cur.lanes k b) :
    ScalarRun (.vlane ty d a b) s d (BitVec.ofNat 64 (s.curGroup.vN (bRegs ty) a.toNat (k.toNat % s.curGroup.width))) := by
  obtain ⟨w, hw, hwk⟩ := usrc_ok h
  obtain ⟨l, hmem⟩ := List.exists_mem_of_ne_nil _ (lanesOf_ne_nil hl)
  have hi : exec (.vlane ty d a b) s = execVlane ty d a b s := rfl
  simp only [execVlane, hw, hwk l hmem, BTy.regs_eq] at hi
  exact scalarStep_of_finish hi

theorem vlane_differs {ty : BTy} {d : BitVec 7} {a r : BitVec 11} (h : Differs s s.cur.lanes r) :
    Traps (.vlane ty d a (.vu r)) s (fun t => t.cause = 5) := by
  obtain ⟨t, ht, hcause⟩ := usrc_error h
  have hi : exec (.vlane ty d a (.vu r)) s = execVlane ty d a (.vu r) s := rfl
  simp only [execVlane, ht] at hi
  exact traps_of_exec hi hcause

end

theorem srcXor_eq (w l k : Nat) : srcXor w l k = if l ^^^ k < w then l ^^^ k else l := by unfold srcXor; split_ifs <;> omega
theorem srcUp_eq (w l k : Nat) : srcUp w l k = if k ≤ l then l - k else l := by unfold srcUp; split_ifs <;> omega
theorem srcDn_eq (w l k : Nat) : srcDn w l k = if l + k < w then l + k else l := by unfold srcDn; split_ifs <;> omega

/-- Settles O13: copies between lanes as one vector write, the uniform operand by its common value or the lanes that differ, ballots and
lane reads as one scalar write. -/
theorem crossLane : Obligations.CrossLane := by
  unfold Obligations.CrossLane
  refine ⟨⟨shufRun_of_exec (fun _ _ => rfl) srcXor_eq, shufRun_of_exec (fun _ _ => rfl) srcUp_eq, shufRun_of_exec (fun _ _ => rfl) srcDn_eq,
    shufRun_of_exec (src := srcRot) (fun _ _ => rfl) (fun _ _ _ => rfl), fun s gd ty d a b => ?_, fun s gd ty d a r => ?_,
    fun s gd ty d a x => ?_, fun s gd ty d a x => ?_, fun s gd ty d a x => ?_, fun s gd ty d a r k => vbcast_uniform,
    fun s gd ty d a r => vbcast_differs⟩, fun s => vballot_gathers, fun s => vballotCnt_counts, fun s ty d a b k => vlane_reads,
    fun s ty d a r => vlane_differs, fun s gd d => ?_⟩
  · exact vectorRun_of_laneCopy rfl fun l _ => rfl
  · exact vectorRun_of_laneCopy rfl fun l _ => by rw [BitVec.toNat_setWidth]
  · exact vectorRun_of_laneCopy rfl fun l _ => rfl
  · exact vectorRun_of_laneCopy rfl fun l _ => rfl
  · exact vectorRun_of_laneCopy rfl fun l _ => rfl
  · exact vectorRun_of_exec rfl fun l _ => rfl

end Sys2Proof.Proofs
end

section
namespace Sys2Proof.Proofs
open Sys2Proof.Machine Sys2Proof.Says Sys2Proof.Laws

/-! ## The marker check (R140) -/

theorem regRun_eq (n k : Nat) : regRun n k = regsOf n k := by
  induction k generalizing n with
  | zero => rfl
  | succ k ih =>
    rw [regRun, ih, regsOf, regsOf, List.range_succ_eq_map, List.map_cons, List.map_map]
    simp only [Function.comp_def, Nat.succ_eq_add_one, Nat.add_zero, Nat.add_assoc, Nat.add_comm 1]

theorem vsrcRegs_eq (k : Nat) (b : VSrc) : vsrcRegs k b = vRegsOf k b := by
  cases b with
  | reg b => exact regRun_eq ..
  | imm x => rfl
  | rlit x => rfl
  | ilit x => rfl

theorem vlitRegs_eq (k : Nat) (b : VLit) : vlitRegs k b = litRegsOf k b := by
  cases b with
  | reg b => exact regRun_eq ..
  | lit x => rfl

theorem foldl_least_mem (r : Nat) (l : List Nat) : l.foldl (fun a b => if b < a then b else a) r ∈ r :: l := by
  induction l generalizing r with
  | nil => exact List.mem_cons_self
  | cons x l ih =>
    rw [List.foldl_cons]
    split_ifs
    · exact List.mem_cons_of_mem _ (ih x)
    · rcases List.mem_cons.mp (ih r) with h | h
      · rw [h]
        exact List.mem_cons_self
      · exact List.mem_cons_of_mem _ (List.mem_cons_of_mem _ h)

section

variable {s : State} {act : DWord} {rs : List Nat}

/-- The registers of a list that hold their marker in an active lane. -/
def marked (s : State) (act : DWord) (rs : List Nat) : List Nat :=
  rs.filter (fun n => (lanesOf act).any (fun l => s.curGroup.v32 n l == marker n))

theorem unwritten_iff : Unwritten s act rs ↔ fmUit s.curGroup.fmode = true ∧ marked s act rs ≠ [] := by
  have hmarked : marked s act rs ≠ [] ↔ ∃ l ∈ lanesOf act, ∃ n ∈ rs, s.curGroup.v32 n l = marker n := by
    simp only [marked, ne_eq, List.filter_eq_nil_iff, List.any_eq_true, beq_iff_eq, not_forall, not_not]
    exact ⟨fun ⟨n, hn, l, hl, h⟩ => ⟨l, hl, n, hn, h⟩, fun ⟨l, hl, n, hn, h⟩ => ⟨n, hn, l, hl, h⟩⟩
  rw [Unwritten, hmarked]

theorem uninit_none (h : ¬Unwritten s act rs) : uninit s.curGroup act rs = none := by
  unfold uninit
  split_ifs with hu
  · have hnil : marked s act rs = [] := by
      by_contra hne
      exact h (unwritten_iff.mpr ⟨hu, hne⟩)
    unfold marked at hnil
    dsimp only
    rw [hnil]
  · rfl

theorem uninit_some (h : Unwritten s act rs) : ∃ t, uninit s.curGroup act rs = some t ∧ t.cause = 3 ∧ t.code ∈ rs := by
  obtain ⟨hu, hne⟩ := unwritten_iff.mp h
  unfold uninit
  rw [if_pos hu]
  unfold marked at hne
  dsimp only
  split
  · next hm => exact absurd hm hne
  · next r l hm =>
    have hleast := foldl_least_mem r l
    rw [← hm] at hleast
    exact ⟨_, rfl, rfl, List.mem_of_mem_filter hleast⟩

end

/-! ## Flags and the end of a floating-point instruction (R147, R208) -/

theorem fmRaise_or (w : Word) (a b : Nat) : fmRaise w (a ||| b) = fmRaise (fmRaise w a) b := by
  have hshift : ∀ n : Nat, n * 8 = n <<< 3 := fun n => (Nat.shiftLeft_eq n 3).symm
  have hfield : BitVec.ofNat 32 ((a ||| b) % 32 * 8) = BitVec.ofNat 32 (a % 32 * 8) ||| BitVec.ofNat 32 (b % 32 * 8) := by
    rw [show (32 : Nat) = 2 ^ 5 from rfl, Nat.or_mod_two_pow, hshift, Nat.shiftLeft_or_distrib, ← hshift, ← hshift, BitVec.ofNat_or]
  rw [fmRaise, hfield, fmRaise, fmRaise, BitVec.or_assoc]

theorem fmRaise_orFlags (w : Word) (ls : List Nat) (fl : Nat → Nat) : fmRaise w (orFlags ls fl) = raised w ls fl := by
  have hfold : ∀ a, fmRaise w (ls.foldl (fun a l => a ||| fl l) a) = raised (fmRaise w a) ls fl := by
    induction ls with
    | nil => exact fun a => rfl
    | cons l ls ih => exact fun a => by rw [List.foldl_cons, ih, fmRaise_or]; rfl
  rw [orFlags, hfold, fmRaise]
  simp

section

variable {i : Instr} {s : State} {act : DWord} {ls rs : List Nat} {draws k d : Nat} {fl v : Nat → Nat}

/-- The group with one vector operand written in the active lanes, flags raised and the draw count advanced. -/
def floatWritten (g : Group) (act : DWord) (ls : List Nat) (draws k d : Nat) (fl v : Nat → Nat) : Group :=
  { g with
    v := (g.setLanes k d (lanesOf act) v).v, dirtyV := (g.setLanes k d (lanesOf act) v).dirtyV, fmode := raised g.fmode ls fl,
    draw := g.draw + BitVec.ofNat 48 draws }

/-- An instruction that leaves its group so. -/
theorem floatStep_of_finish (hi : exec i s = s.finish act (floatWritten s.curGroup act ls draws k d fl v)) :
    FloatStep i s act ls draws fl (withVector s act d k v) s.curGroup.pred := by
  obtain ⟨t, ht, hdone, hg⟩ := finish_done s act (floatWritten s.curGroup act ls draws k d fl v) rfl rfl rfl rfl rfl rfl
  refine ⟨t, hi.trans ht, hdone, by rw [hg]; rfl, fun n l hl => ?_, fun n l _ => by rw [hg]; rfl⟩
  have hread : t.curGroup.v32 n l = (s.curGroup.setLanes k d (lanesOf act) v).v32 n l := by
    rw [hg]
    rfl
  rw [hread, v32_setLanes_mask _ _ _ _ _ _ _ hl]
  rfl

theorem fpLanes_excepts (write : Group → Group) (h : Excepts s ls fl) :
    ∃ t, fpLanes s act ls draws fl write = .trap t ∧ t.cause = 4 ∧ t.lane ∈ ls ∧ fl t.lane &&& fmFe s.curGroup.fmode ≠ 0 := by
  obtain ⟨l, hl, hfl⟩ := h
  unfold fpLanes
  dsimp only
  cases hf : ls.find? (fun l => (fl l) &&& fmFe s.curGroup.fmode != 0) with
  | none => exact absurd hfl (by simpa using List.find?_eq_none.mp hf l hl)
  | some l =>
    have hfl : fl l &&& fmFe s.curGroup.fmode ≠ 0 := by simpa using List.find?_some hf
    exact ⟨_, rfl, rfl, List.mem_of_find?_eq_some hf, hfl⟩

theorem fpLanes_completes (write : Group → Group) (h : ¬Excepts s ls fl) : fpLanes s act ls draws fl write =
    regAct s act (.ok { write s.curGroup with
      fmode := raised (write s.curGroup).fmode ls fl, draw := (write s.curGroup).draw + BitVec.ofNat 48 draws }) := by
  have hnone : ls.find? (fun l => (fl l) &&& fmFe s.curGroup.fmode != 0) = none := by
    rw [List.find?_eq_none]
    intro l hl hfl
    exact h ⟨l, hl, by simpa using hfl⟩
  unfold fpLanes
  dsimp only
  rw [hnone, ← fmRaise_orFlags]

/-- An instruction that checks its sources for markers and then ends as one of floating point does. -/
theorem floatRun_of_exec (htrap : ∀ t, uninit s.curGroup act rs = some t → exec i s = (Act.trap t).run s)
    (hrun : uninit s.curGroup act rs = none →
      exec i s = (fpLanes s act ls draws fl (fun h => h.setLanes k d (lanesOf act) v)).run s) :
    FloatRun i s act ls rs draws fl (withVector s act d k v) s.curGroup.pred := by
  refine ⟨fun hu => ?_, fun hu he => ?_, fun hu he => ?_⟩
  · obtain ⟨t, ht, hcause⟩ := uninit_some hu
    exact traps_of_exec (htrap t ht) hcause
  · obtain ⟨t, ht, hcause⟩ := fpLanes_excepts (fun h => h.setLanes k d (lanesOf act) v) he
    exact traps_of_exec (ht ▸ hrun (uninit_none hu)) hcause
  · have hi := hrun (uninit_none hu)
    rw [fpLanes_completes _ he, setLanes_rest] at hi
    exact floatStep_of_finish hi

end

/-! ## Results by element (R208, R213, R214) -/

theorem fElems_map (n k : Nat) (f : Nat → Nat × Nat) :
    fElems n ((List.range k).map f) = (pack n k (fun e => BitVec.ofNat n (f e).1), orOf k (fun e => (f e).2)) := by
  rw [fElems, List.map_map, List.foldl_map, orOf]
  exact Prod.ext (packElems_map n k _) rfl

/-- The elements of three operands with their numbers. -/
theorem zip_elems (n k x y z : Nat) :
    ((elems n k x).zip ((elems n k y).zip (elems n k z))).zip (List.range k) =
      (List.range k).map (fun e => (((part n x e).toNat, (part n y e).toNat, (part n z e).toNat), e)) := by
  rw [elems_eq_map, elems_eq_map, elems_eq_map, List.zip_map', List.zip_map']
  conv_lhs => rw [← List.map_id (List.range k), List.map_map, List.zip_map']
  rfl

/-- A floating-point instruction that rounds: each element is the rounding of the exact result. -/
theorem fElemRun_of_fRound {i : Instr} {s : State} {gd : Guard} {rm : Rm} {ty : FTy} {d : BitVec 11} {rs : List Nat} {extra : Nat}
    {a b c : Nat → Nat} {op : Nat → Machine.Num → Machine.Num → Machine.Num → Res}
    (hi : exec i s = fRound s gd rm ty d rs extra a b c op) :
    FElemRun i s gd ty d rs (drawsOf s rm) extra (fun l e => rounded s ty rm l e
      (op (rmode s.curGroup.fmode true rm) (num s ty (a l) e) (num s ty (b l) e) (num s ty (c l) e))) := by
  simp only [fRound, fpAct, zip_elems, List.map_map, Function.comp_def, fElems_map, FTy.width_eq, FTy.count_eq, FTy.regs_eq, beq_iff_eq] at hi
  refine floatRun_of_exec (fun t ht => ?_) (fun ht => ?_)
  · rw [hi, ht]
  · rw [hi, ht]
    rfl

theorem fBinRun_of_fBin {i : Instr} {s : State} {x : FBin} {op : Nat → Machine.Num → Machine.Num → Res} (hi : exec i s = fBin x op s) :
    FBinRun i s x op := by
  unfold FBinRun
  rw [← regRun_eq, ← vsrcRegs_eq, ← FTy.regs_eq]
  exact fElemRun_of_fRound (op := fun m p q _ => op m p q) hi

theorem vfma_run (s : State) (x : FTri) :
    let b := flit s.curGroup x.ty x.rm x.b
    FElemRun (.vfma x) s x.g x.ty x.d
      (regsOf x.a.toNat (fRegs x.ty) ++ litRegsOf (fRegs x.ty) x.b ++ regsOf x.c.toNat (fRegs x.ty)) (drawsOf s x.rm) b.2 (fun l e =>
      rounded s x.ty x.rm l e (fFma (rmode s.curGroup.fmode true x.rm) (num s x.ty (s.curGroup.vN (fRegs x.ty) x.a.toNat l) e)
        (num s x.ty (b.1 l) e) (num s x.ty (s.curGroup.vN (fRegs x.ty) x.c.toNat l) e))) := by
  rw [← regRun_eq, ← regRun_eq, ← vlitRegs_eq, ← FTy.regs_eq]
  exact fElemRun_of_fRound rfl

theorem vfsqrt_run (s : State) (x : FUn) : FElemRun (.vfsqrt x) s x.g x.ty x.d (regsOf x.a.toNat (fRegs x.ty)) (drawsOf s x.rm) 0 (fun l e =>
    rounded s x.ty x.rm l e (fSqrt (num s x.ty (s.curGroup.vN (fRegs x.ty) x.a.toNat l) e))) := by
  rw [← regRun_eq, ← FTy.regs_eq]
  exact fElemRun_of_fRound (op := fun _ a _ _ => fSqrt a) rfl

/-- Settles O9: each instruction as an exact operation on its elements that `fRound` rounds; markers and enabled flags by `floatRun_of_exec`. -/
theorem floatArithmetic : Obligations.FloatArithmetic := by
  unfold Obligations.FloatArithmetic
  exact ⟨fun s x => fBinRun_of_fBin rfl, fun s x => fBinRun_of_fBin rfl, fun s x => fBinRun_of_fBin rfl, fun s x => fBinRun_of_fBin rfl,
    fun s r => fBinRun_of_fBin rfl, fun s r => fBinRun_of_fBin rfl, fun s r => fBinRun_of_fBin rfl, vfma_run, vfsqrt_run⟩

end Sys2Proof.Proofs
end

section
namespace Sys2Proof.Proofs
open Sys2Proof.Machine Sys2Proof.Says Sys2Proof.Laws

/-! ## Draws of a stream (R160, R220) -/

/-- The four words of a stream's draw in a lane, each through `f`, as an operand of four registers. -/
def drawnWords (s : State) (f : Nat → Nat) (t l : Nat) : Nat :=
  pack 32 4 (fun j => BitVec.ofNat 32 (f (pick4 (drawWords (s.job s.curGroup.job).jd.seed (s.groupId s.curGroup) s.curGroup.draw l t) j)))

/-- A draw of the stream that an operand names. -/
def drawAct (s : State) (gd : Guard) (d : BitVec 11) (f : Nat → Nat) (v : DWord) : Act :=
  if 0xFF00 ≤ v.toNat % 2 ^ 16 then .trap (Trap.illegalOperand 0)
  else regAct s (s.active gd) (.ok (floatWritten s.curGroup (s.active gd) [] 1 4 d.toNat (fun _ => 0) (drawnWords s f (v.toNat % 2 ^ 16))))

section

variable {i : Instr} {s : State} {gd : Guard} {d a : BitVec 11} {f : Nat → Nat} {v : DWord}

theorem packElems_draw (f : Nat → Nat) (w : Nat × Nat × Nat × Nat) :
    packElems 32 [f w.1, f w.2.1, f w.2.2.1, f w.2.2.2] = pack 32 4 (fun j => BitVec.ofNat 32 (f (pick4 w j))) :=
  packElems_map 32 4 (fun j => f (pick4 w j))

theorem vrandAct_reg (r : BitVec 7) : vrandAct s gd d (.reg r) f = drawAct s gd d f (s.curGroup.sget r.toNat) := by
  simp only [vrandAct, Bool.false_eq_true, if_false, packElems_draw]
  rw [setLanes_rest]
  rfl

theorem vrandAct_uniform {x : Word} (hm : s.active gd ≠ 0) (hu : uniformV s.curGroup (s.active gd) a.toNat = .ok x) :
    vrandAct s gd d (.vu a) f = drawAct s gd d f (x.setWidth 64) := by
  simp only [vrandAct, hm, decide_false, Bool.false_eq_true, if_false, hu, Except.map, packElems_draw]
  rw [setLanes_rest]
  rfl

theorem vrandAct_differs {t : Trap} (hm : s.active gd ≠ 0) (hu : uniformV s.curGroup (s.active gd) a.toNat = .error t) :
    vrandAct s gd d (.vu a) f = .trap t := by
  simp only [vrandAct, hm, decide_false, Bool.false_eq_true, if_false, hu, Except.map]

theorem drawAct_refuses (hi : exec i s = (drawAct s gd d f v).run s) (hv : 0xFF00 ≤ v.toNat % 2 ^ 16) : Traps i s (fun t => t.cause = 2) := by
  rw [drawAct, if_pos hv] at hi
  exact traps_illegalOperand hi

theorem drawAct_draws (hi : exec i s = (drawAct s gd d f v).run s) (hv : v.toNat % 2 ^ 16 < 0xFF00) :
    FloatStep i s (s.active gd) [] 1 (fun _ => 0) (withVector s (s.active gd) d.toNat 4 (drawnWords s f (v.toNat % 2 ^ 16))) s.curGroup.pred := by
  rw [drawAct, if_neg (Nat.not_le.mpr hv)] at hi
  exact floatStep_of_finish hi

end

section

variable {s : State} {gd : Guard} {d a : BitVec 11}

theorem exec_vrand (x : RandSrc) : exec (.vrand gd d x) s = (vrandAct s gd d x id).run s := rfl
theorem exec_vrandUnif (x : RandSrc) : exec (.vrandUnif gd d x) s = (vrandAct s gd d x unifWord).run s := rfl

theorem vrand_uniform {x : Word} (hm : s.active gd ≠ 0) (hu : ∀ l ∈ lanesOf (s.active gd), s.curGroup.v32 a.toNat l = x)
    (hx : x.toNat % 2 ^ 16 < 0xFF00) :
    FloatStep (.vrand gd d (.vu a)) s (s.active gd) [] 1 (fun _ => 0)
      (withVector s (s.active gd) d.toNat 4 (drawnWords s id (x.toNat % 2 ^ 16))) s.curGroup.pred := by
  obtain ⟨w, hw, hwx⟩ := uniformV_ok hu
  obtain ⟨l, hl⟩ := List.exists_mem_of_ne_nil _ (lanesOf_ne_nil hm)
  have hwide : (x.setWidth 64).toNat = x.toNat := by
    rw [BitVec.toNat_setWidth, Nat.mod_eq_of_lt (x.isLt.trans (by decide))]
  rw [hwx l hl] at hw
  rw [← hwide] at hx ⊢
  exact drawAct_draws (by rw [exec_vrand, vrandAct_uniform hm hw]) hx

theorem vrand_differs {l k : Nat} (hl : (s.active gd).getLsbD l = true) (hk : (s.active gd).getLsbD k = true)
    (hne : s.curGroup.v32 a.toNat l ≠ s.curGroup.v32 a.toNat k) :
    Traps (.vrand gd d (.vu a)) s (fun t => t.cause = 5) ∧ Traps (.vrandUnif gd d (.vu a)) s (fun t => t.cause = 5) := by
  have hm : s.active gd ≠ 0 := by
    intro h
    rw [h] at hl
    simp at hl
  obtain ⟨t, ht, hcause⟩ := uniformV_error ⟨l, (mem_lanesOf _ _).mpr hl, k, (mem_lanesOf _ _).mpr hk, hne⟩
  exact ⟨traps_of_exec (by rw [exec_vrand, vrandAct_differs hm ht]) hcause, traps_of_exec (by rw [exec_vrandUnif, vrandAct_differs hm ht]) hcause⟩

end

/-! ## VRSEED (R220) -/

theorem immVal_eq (sx : Bool) (i : Imm) : immVal sx i = immOf sx i := by
  cases i with
  | i16 x => cases sx <;> exact (extImm_eImm _ 64 x).trans (BitVec.setWidth_eq _)
  | i32 x => cases sx <;> exact (extImm_eImm _ 64 x).trans (BitVec.setWidth_eq _)

theorem vrseed_sets {s : State} {x : SeedSrc} {v : BitVec 48} (hi : exec (.vrseed x) s = s.finish s.cur.lanes { s.curGroup with draw := v }) :
    ∃ t, exec (.vrseed x) s = .next t ∧ Done s t s.cur.lanes ∧ t.curGroup.draw = v := by
  obtain ⟨t, ht, hdone, hg⟩ := finish_done s s.cur.lanes { s.curGroup with draw := v } rfl rfl rfl rfl rfl rfl
  exact ⟨t, hi.trans ht, hdone, by rw [hg]⟩

/-- Settles O12: a draw by `drawAct`, whichever operand names the stream. -/
theorem randomDraws : Obligations.RandomDraws := by
  unfold Obligations.RandomDraws
  refine ⟨fun s gd d a => ?_, fun s gd d a x hm hu hx => vrand_uniform hm hu hx, fun s gd d a l k => vrand_differs, fun s a => vrseed_sets rfl,
    fun s i => vrseed_sets ?_⟩
  · have hword : exec (.vrand gd d (.reg a)) s = (drawAct s gd d id (s.curGroup.sget a.toNat)).run s := by rw [exec_vrand, vrandAct_reg]
    have hunif : exec (.vrandUnif gd d (.reg a)) s = (drawAct s gd d unifWord (s.curGroup.sget a.toNat)).run s := by
      rw [exec_vrandUnif, vrandAct_reg]
    dsimp only
    split_ifs with hv
    · exact ⟨drawAct_refuses hword hv, drawAct_refuses hunif hv⟩
    · exact ⟨drawAct_draws (f := id) hword (Nat.not_le.mp hv), drawAct_draws (f := unifWord) hunif (Nat.not_le.mp hv)⟩
  · rw [← immVal_eq]
    rfl

end Sys2Proof.Proofs
end

section
namespace Sys2Proof.Proofs
open Sys2Proof.Machine Sys2Proof.Says Sys2Proof.Laws

/-! ## What launching and restoring teams changes (R126, R309, R326) -/

/-- Groups, teams and copies alone differ. -/
def TeamsMove (s t : State) : Prop := t = { s with groups := t.groups, teams := t.teams, copies := t.copies }

namespace TeamsMove
variable {s t u : State}

theorem of_fields (s : State) (groups teams copies) : TeamsMove s { s with groups := groups, teams := teams, copies := copies } := rfl
theorem refl (s : State) : TeamsMove s s := rfl
theorem trans (h : TeamsMove s t) (k : TeamsMove t u) : TeamsMove s u := by
  unfold TeamsMove at *
  rw [k, h]
theorem foldl {α : Type} {f : State → α → State} (hf : ∀ t a, TeamsMove t (f t a)) (l : List α) (s : State) : TeamsMove s (l.foldl f s) :=
  List.foldlRecOn l f (refl s) fun t ht a _ => ht.trans (hf t a)
theorem jobs (h : TeamsMove s t) : t.jobs = s.jobs := (congrArg State.jobs h :)
theorem timer (h : TeamsMove s t) : t.timer = s.timer := (congrArg State.timer h :)

end TeamsMove

theorem seatTeam_moves (s : State) (j team core : Nat) (yet : List Nat) : TeamsMove s (s.seatTeam j team core yet) :=
  TeamsMove.trans (t := s.setTeam (tkey j team) { s.team (tkey j team) with die := (s.job j).jd.rdie, core := core }) (.of_fields ..)
    (.foldl (fun _ _ => .of_fields ..) _ _)

theorem launchGroups_moves (s : State) (j team : Nat) (e : VAddr) (a : DWord) : TeamsMove s (s.launchGroups j team e a) :=
  .foldl (fun _ _ => .of_fields ..) _ s

theorem launchTeam_moves (s : State) (j team core : Nat) : TeamsMove s (s.launchTeam j team core) :=
  TeamsMove.trans (t := s.setTeam (tkey j team) { Team.dead with live := true, die := (s.job j).jd.rdie, core := core }) (.of_fields ..)
    (launchGroups_moves ..)

theorem rankRestored_moves (s : State) (ks : List Nat) : TeamsMove s (s.rankRestored ks) := .foldl (fun _ _ => .of_fields ..) _ s

theorem wakeGroup_moves (s : State) (k : Nat) : TeamsMove s (s.wakeGroup k) := by
  refine TeamsMove.trans (t := s.setGroup k { s.group k with outs := [] }) (.of_fields ..) (.foldl (fun u i => ?_) _ _)
  rw [finishFlight_rest]
  exact .of_fields ..

theorem restartTeams_moves (s : State) (reload : Bool) (tks : List Nat) : TeamsMove s (s.restartTeams reload tks) := by
  unfold State.restartTeams
  extract_lets ks s1 s2
  have hreload : TeamsMove s s1 := by
    simp only [s1]
    split
    · refine .foldl (fun t tk => ?_) _ s
      split
      · exact .foldl (fun _ _ => .of_fields ..) _ t
      · exact .refl t
    · exact .refl s
  have hwake : TeamsMove s1 s2 := .foldl wakeGroup_moves ks s1
  exact (hreload.trans hwake).trans (.of_fields ..)

/-! ## What a distributor's pass keeps (R302 to R305) -/

/-- The timer does not run backwards, a cluster that holds its cores still holds them, and a deadline job keeps its standing. -/
structure PassKeeps (s t : State) : Prop where
  timer : s.timer.toNat ≤ t.timer.toNat
  holds : ∀ j c, ClusterIs s j c (fun x => x.holds = true) → ClusterIs t j c (fun x => x.holds = true)
  accepted : ∀ j, (t.job j).accepted = (s.job j).accepted
  standing : ∀ j, (t.job j).standing = (s.job j).standing

namespace PassKeeps
variable {s t u : State}

theorem refl (s : State) : PassKeeps s s := ⟨le_rfl, fun _ _ h => h, fun _ => rfl, fun _ => rfl⟩
theorem trans (h : PassKeeps s t) (k : PassKeeps t u) : PassKeeps s u :=
  ⟨h.timer.trans k.timer, fun j c hc => k.holds j c (h.holds j c hc), fun j => (k.accepted j).trans (h.accepted j),
    fun j => (k.standing j).trans (h.standing j)⟩
theorem foldl {α : Type} {f : State → α → State} (hf : ∀ t a, PassKeeps t (f t a)) (l : List α) (s : State) : PassKeeps s (l.foldl f s) :=
  List.foldlRecOn l f (refl s) fun t ht a _ => ht.trans (hf t a)
theorem of_jobs (ht : s.timer.toNat ≤ t.timer.toNat) (hj : t.jobs = s.jobs) : PassKeeps s t := by
  have hjob : ∀ j, t.job j = s.job j := fun j => by rw [State.job, hj]; rfl
  exact ⟨ht, fun j c h => by rwa [ClusterIs, hjob], fun j => by rw [hjob], fun j => by rw [hjob]⟩
theorem of_same (ht : t.timer = s.timer) (hj : t.jobs = s.jobs) : PassKeeps s t := of_jobs (by rw [ht]) hj
theorem of_moves (h : TeamsMove s t) : PassKeeps s t := of_same h.timer h.jobs
theorem setJob (s : State) (k : Nat) {j : Job}
    (hc : ∀ (c : Nat) (x : Cluster), (s.job k).clusters[c]? = some x → x.holds = true → ∃ y : Cluster, j.clusters[c]? = some y ∧ y.holds = true)
    (ha : j.accepted = (s.job k).accepted) (hs : j.standing = (s.job k).standing) : PassKeeps s (s.setJob k j) := by
  refine ⟨le_rfl, fun n c h => ?_, fun n => ?_, fun n => ?_⟩ <;> by_cases hn : n = k
  · subst hn
    obtain ⟨x, hx, hh⟩ := h
    rw [ClusterIs, job_setJob]
    exact hc c x hx hh
  · rwa [ClusterIs, job_setJob_ne _ _ hn]
  · subst hn
    rw [job_setJob, ha]
  · rw [job_setJob_ne _ _ hn]
  · subst hn
    rw [job_setJob, hs]
  · rw [job_setJob_ne _ _ hn]
theorem setJst (s : State) (j : Nat) (st : JState) : PassKeeps s (s.setJst j st) :=
  (setJob s j (j := { s.job j with st := st }) (fun _ x hx hh => ⟨x, hx, hh⟩) rfl rfl).trans (of_same rfl rfl)
theorem setCluster (s : State) (j c : Nat) {f : Cluster → Cluster} (hf : ∀ x, (f x).holds = true) : PassKeeps s (s.setCluster j c f) := by
  refine setJob s j (fun n x hx hh => ?_) rfl rfl
  rw [List.getElem?_mapIdx, hx]
  refine ⟨_, rfl, ?_⟩
  split
  · exact hf x
  · exact hh
theorem passTime (s : State) : PassKeeps s s.passTime := of_jobs (passTime_le s) rfl

end PassKeeps

theorem placeCluster_keeps (s : State) (j c : Nat) (cores : List Nat) : PassKeeps s (s.placeCluster j c cores) := by
  unfold State.placeCluster
  extract_lets saved teams t jb t1 t2 pairs yet t3 boot t4 tks ks src t5
  have h1 : PassKeeps s t1 := (PassKeeps.passTime s).trans (.setCluster t j c fun _ => rfl)
  have h2 : PassKeeps t1 t2 := by
    simp only [t2]
    split
    · exact .refl t1
    · exact .setJst ..
  have h3 : TeamsMove t2 t3 := by
    simp only [t3]
    split
    · exact .foldl (fun _ _ => seatTeam_moves ..) pairs t2
    · exact .foldl (fun _ _ => launchTeam_moves ..) pairs t2
  have h4 : PassKeeps s t4 := ((h1.trans h2).trans (.of_moves h3)).trans (.of_same rfl rfl)
  split
  · have h5 : PassKeeps t4 t5 := .setJob t4 j (fun _ x hx hh => ⟨x, hx, hh⟩) rfl rfl
    exact (h4.trans h5).trans (.of_moves ((rankRestored_moves ..).trans (restartTeams_moves ..)))
  · exact h4

theorem refuseResume_keeps (s : State) (job reason : Nat) (iv : Word) : PassKeeps s (s.refuseResume job reason iv) := by
  unfold State.refuseResume
  dsimp only
  split
  · exact (PassKeeps.setJst s job .stopped).trans (.of_same rfl rfl)
  · exact .of_same rfl rfl

theorem placeHead_keeps (s : State) (h : Nat × Nat) (cores : List Nat) : PassKeeps s (s.placeHead h cores) := by
  unfold State.placeHead
  dsimp only
  split
  · exact (PassKeeps.setJob s h.1 (j := { s.job h.1 with saved := remove (s.job h.1).saved h.2 }) (fun _ x hx hh => ⟨x, hx, hh⟩) rfl rfl).trans
      (refuseResume_keeps ..)
  · exact placeCluster_keeps ..

theorem preempt_keeps (s : State) (j c : Nat) : PassKeeps s (s.preempt j c) := by
  have hstop : PassKeeps s (s.setCluster j c (fun x => { x with st := .stopping })) := .setCluster s j c fun _ => rfl
  unfold State.preempt
  split
  · split
    · dsimp only
      split
      · exact hstop.trans (.setJst ..)
      · exact hstop
    · exact .refl s
  · exact .refl s

theorem preemptFor_keeps (s : State) (h : Nat × Nat) : PassKeeps s (s.preemptFor h) := by
  refine .foldl (fun t v => ?_) _ s
  dsimp only
  split
  · exact preempt_keeps ..
  · exact .refl t

theorem blockHead_keeps (s : State) (h : Nat × Nat) : PassKeeps s (s.blockHead h) := by
  unfold State.blockHead
  extract_lets mine t
  have hreserve : PassKeeps s t := by
    simp only [t]
    split
    · exact .of_same rfl rfl
    · exact .refl s
  split
  · exact hreserve.trans (preemptFor_keeps ..)
  · exact hreserve

theorem classPreempt_keeps (s : State) (die : Nat) : PassKeeps s (s.classPreempt die) := by
  unfold State.classPreempt
  extract_lets owed
  exact .foldl (fun t (v : Nat × Nat) => preempt_keeps t v.1 v.2) owed.eraseDups s

/-- The cores that a head finds, where the heads that it would pass allow it. -/
def fitOf (s : State) (h : Nat × Nat) (blocked : List (Nat × Nat)) : Option (List (List Nat)) :=
  (s.choose (s.heldCores.map (fun e => e.1)) h.1 h.2).filter (fun l => s.backfillOk h l blocked)

theorem passGo_nil (s : State) (die n : Nat) (blocked : List (Nat × Nat)) : s.passGo die n [] blocked = s := by cases n <;> rfl

theorem passGo_fits {s : State} {h : Nat × Nat} {blocked : List (Nat × Nat)} {l : List (List Nat)} (hl : fitOf s h blocked = some l) (die n : Nat)
    (hs : List (Nat × Nat)) : ∃ hs', s.passGo die (n + 1) (h :: hs) blocked =
      (s.placeHead h (l.filterMap (fun x => x.head?))).passGo die n hs' blocked := by
  unfold fitOf at hl
  rw [State.passGo]
  dsimp only
  rw [hl]
  exact ⟨_, rfl⟩

theorem passGo_blocks {s : State} {h : Nat × Nat} {blocked : List (Nat × Nat)} (hl : fitOf s h blocked = none) (die n : Nat) (hs : List (Nat × Nat)) :
    s.passGo die (n + 1) (h :: hs) blocked = (s.blockHead h).passGo die n hs (blocked ++ [h]) := by
  unfold fitOf at hl
  rw [State.passGo]
  dsimp only
  rw [hl]

theorem passGo_keeps (die n : Nat) (hs blocked : List (Nat × Nat)) (s : State) : PassKeeps s (s.passGo die n hs blocked) := by
  induction n generalizing hs blocked s with
  | zero => exact .refl s
  | succ n ih =>
    cases hs with
    | nil => exact .refl s
    | cons h hs =>
      cases hfit : fitOf s h blocked with
      | some l =>
        obtain ⟨hs', hgo⟩ := passGo_fits hfit die n hs
        rw [hgo]
        exact (placeHead_keeps ..).trans (ih ..)
      | none =>
        rw [passGo_blocks hfit]
        exact (blockHead_keeps ..).trans (ih ..)

theorem pass_keeps (s : State) (die : Nat) : PassKeeps s (s.pass die) := (classPreempt_keeps s die).trans (passGo_keeps ..)

/-! ## Passes (R301, R302) -/

/-- No partition owns an enabled deadline class. -/
def NoClasses (s : State) : Prop := ∀ p, p ∈ s.parts → ∀ c, c ∈ p.2.rcd.classes → c.getLsbD 63 = false

theorem cls_disabled {p : Part} (h : ∀ c, c ∈ p.rcd.classes → c.getLsbD 63 = false) (k : Nat) : bitAt (p.cls k).toNat 63 = false := by
  change (p.rcd.classes.getD (k - 1) 0).getLsbD 63 = false
  rw [List.getD_eq_getElem?_getD]
  cases hk : p.rcd.classes[k - 1]? with
  | none => rfl
  | some c => exact h c (List.mem_of_getElem? hk)

theorem classPreempt_noClasses {s : State} (h : NoClasses s) (die : Nat) : s.classPreempt die = s := by
  have howed : ∀ p ∈ s.parts, ∀ i, bitAt (p.2.cls (i + 1)).toNat 63 = false := fun p hp i => cls_disabled (h p hp) _
  unfold State.classPreempt
  extract_lets owed
  have hnone : owed = [] := by
    refine List.flatMap_eq_nil_iff.mpr fun p hp => List.flatMap_eq_nil_iff.mpr fun i _ => ?_
    dsimp only
    rw [howed p hp i]
    rfl
  rw [hnone]
  rfl

theorem pass_nothingWaits {s : State} (h : NothingWaits s) (die : Nat) : s.pass die = s := by
  obtain ⟨hheads, hclasses⟩ := h
  have hnone : s.queues.filterMap (fun e => s.headOf e.1) = [] := List.filterMap_eq_nil_iff.mpr hheads
  rw [State.pass, classPreempt_noClasses hclasses]
  rw [hnone]
  exact passGo_nil ..

theorem waits_cluster {j : Job} {c : Nat} {st : ClState} (h : j.waits c st = true) : ∃ x, j.clusters[c]? = some x := by
  unfold Job.waits at h
  split at h
  · next x hx => exact ⟨x, hx⟩
  · cases h

/-- A head is a cluster of its job. -/
theorem headOf_cluster {s : State} {q j c : Nat} (h : s.headOf q = some (j, c)) : ClusterIs s j c (fun _ => True) := by
  have hnext : (s.job j).nextCluster = some c := by
    unfold State.headOf at h
    split at h
    · cases h
    · split at h
      · cases h
      · obtain ⟨n, hn, he⟩ := Option.map_eq_some_iff.mp h
        cases he
        exact hn
  have hwaits : ∃ st, (s.job j).waits c st = true := by
    unfold Job.nextCluster at hnext
    dsimp only at hnext
    split at hnext
    · next n hn =>
      cases hnext
      exact ⟨_, List.find?_some (p := fun c => (s.job j).waits c .saved) hn⟩
    · exact ⟨_, List.find?_some (p := fun c => (s.job j).waits c .waiting) hnext⟩
  obtain ⟨st, hst⟩ := hwaits
  obtain ⟨x, hx⟩ := waits_cluster hst
  exact ⟨x, hx, trivial⟩

theorem placeHead_places {s : State} {j c : Nat} (h : (s.job j).waits c .saved = true → s.imageGood j c = true) (cores : List Nat) :
    s.placeHead (j, c) cores = s.placeCluster j c cores := by
  cases hw : (s.job j).waits c .saved with
  | true => exact placeHead_good cores (h hw)
  | false => simp [State.placeHead, hw]

theorem le_foldl_add {α : Type} (f : α → Nat) (l : List α) (n : Nat) : n ≤ l.foldl (fun n a => n + f a) n :=
  List.foldlRecOn (motive := fun m => n ≤ m) l _ le_rfl fun _ h _ _ => h.trans (Nat.le_add_right ..)

/-- A pass over one head that finds its cores. -/
theorem pass_oneHead {s : State} {die j c : Nat} (h : OneHead s die j c) : ClusterIs (s.pass die) j c (fun x => x.holds = true) := by
  obtain ⟨hclasses, ⟨q, x, hq, hhead⟩, hgood, hdie, hsome⟩ := h
  obtain ⟨l, hl⟩ := Option.isSome_iff_exists.mp hsome
  have hfit : fitOf s (j, c) [] = some l := by
    rw [fitOf, hl]
    rfl
  obtain ⟨n, hn⟩ : ∃ n, s.jobs.foldl (fun n e => n + e.2.clusters.length) 1 = n + 1 :=
    Nat.exists_eq_add_of_le' (le_foldl_add (fun e : Nat × Job => e.2.clusters.length) s.jobs 1)
  have hpass : s.pass die = s.passGo die (n + 1) [(j, c)] [] := by
    rw [State.pass, classPreempt_noClasses hclasses]
    simp only [hq, List.filterMap_cons, List.filterMap_nil, hhead, List.filter_cons, List.filter_nil, hdie, beq_self_eq_true, if_true,
      List.foldl_cons, List.foldl_nil, State.insHead, List.length_cons, List.length_nil, Nat.zero_add, hn]
  obtain ⟨hs', hgo⟩ := passGo_fits hfit die n []
  rw [hpass, hgo, placeHead_places hgood]
  exact (passGo_keeps ..).holds j c (placeCluster_holds _ (headOf_cluster hhead))

theorem coreFree_places {s : State} {die core j c : Nat} (h : OneHead s die j c) :
    Happens (.coreFree die core) s (fun t => ClusterIs t j c (fun x => x.holds = true)) := ⟨_, rfl, pass_oneHead h⟩

/-- The state in which a time unit's pass runs. -/
def unitElapsed (s : State) : State := ({ s with timer := s.timer + 147 } : State).passTime

theorem exec_distributorTimeUnit (s : State) (die : Nat) : exec (.distributorTimeUnit die) s = .next ((unitElapsed s).pass die) := rfl

theorem unitElapsed_timeUnit {s t : State} (h : (unitElapsed s).timer.toNat ≤ t.timer.toNat) : TimeUnit s t := by
  intro hmax
  have hadd : (s.timer + 147).toNat = s.timer.toNat + 147 := by
    rw [BitVec.toNat_add]
    exact Nat.mod_eq_of_lt hmax
  exact (hadd.symm.trans_le (passTime_le { s with timer := s.timer + 147 })).trans h

theorem distributorTimeUnit_idle {s : State} (h : NothingWaits s) (die : Nat) :
    Happens (.distributorTimeUnit die) s (fun t => TimeUnit s t ∧ t = { s with timer := t.timer, free := t.free }) := by
  have hidle : NothingWaits (unitElapsed s) := h
  refine ⟨unitElapsed s, ?_, unitElapsed_timeUnit le_rfl, rfl⟩
  rw [exec_distributorTimeUnit, pass_nothingWaits hidle]

/-! ## Deadline jobs (R299, R300, R359) -/

section

variable {s : State} {job : Nat}

/-- Of its queue's head, a deadline job that shares no core with an accepted one (R299). -/
structure MayAccept (s : State) (job : Nat) : Prop where
  live : (s.job job).live = true
  classed : (s.job job).jd.dc ≠ 0
  waits : (s.job job).accepted = false
  head : s.headJob (s.job job).queue = some job
  alone : ∀ e, e ∈ s.jobs → e.2.live = true → e.2.accepted = true → ∀ k, k ∈ e.2.jd.coreKeys → k ∉ (s.job job).jd.coreKeys

theorem deadlineAccept_accepts (h : MayAccept s job) :
    Happens (.deadlineAccept job) s (fun t => (t.job job).accepted = true ∧ (t.job job).standing = true) := by
  obtain ⟨hlive, hdc, hwaits, hhead, halone⟩ := h
  have hexec : exec (.deadlineAccept job) s = execDeadlineAccept job s := rfl
  unfold execDeadlineAccept at hexec
  extract_lets j ks t lost u vs at hexec
  rw [if_neg] at hexec
  case hnc =>
    simp only [j, ks, hlive, hdc, hwaits, hhead, bne_self_eq_false, Bool.not_true, decide_false, Bool.or_self, Bool.false_or, List.any_eq_true,
      Bool.and_eq_true, List.contains_iff_mem]
    rintro ⟨e, he, ⟨hl, ha⟩, k, hk, hin⟩
    exact halone e he hl ha k hk hin
  have hkeeps : PassKeeps t ((vs.eraseDups.foldl (fun (t : State) v => t.preempt v.1 v.2) u).pass j.jd.rdie) :=
    (PassKeeps.of_same (s := t) (t := u) rfl rfl).trans
      ((PassKeeps.foldl (fun t (v : Nat × Nat) => preempt_keeps t v.1 v.2) vs.eraseDups u).trans (pass_keeps ..))
  have hjob : t.job job = { s.job job with accepted := true, standing := true } := job_setJob ..
  exact ⟨_, hexec, by rw [hkeeps.accepted, hjob], by rw [hkeeps.standing, hjob]⟩

theorem deadlineOverrun_reports {c : Cluster} (hlive : (s.job job).live = true) (hst : (s.job job).standing = true)
    (hc : (s.job job).clusters.find? (fun c => c.holds) = some c) :
    Happens (.deadlineOverrun job) s (fun t => (t.job job).standing = false ∧ (t.job job).ovr = true ∧ t.mem = s.mem ∧
      (c.placedAt + ((s.job job).jd.brt * 1024 + 6) / 7 < 2 ^ 64 →
        c.placedAt + ((s.job job).jd.brt * 1024 + 6) / 7 ≤ t.timer.toNat)) := by
  have hexec : exec (.deadlineOverrun job) s = execDeadlineOverrun job s := rfl
  simp only [execDeadlineOverrun, hc, hlive, hst, Bool.not_true, Bool.or_self, Bool.false_eq_true, if_false, ev] at hexec
  generalize c.placedAt + ((s.job job).jd.brt * 1024 + 6) / 7 = due at *
  refine ⟨_, hexec, ?_, ?_, ?_, fun hmax => ?_⟩
  · exact congrArg Job.standing (job_setJob ..)
  · exact congrArg Job.ovr (job_setJob ..)
  · change (if s.timer.toNat < due then { s with timer := BitVec.ofNat 64 due } else s).mem = s.mem
    split <;> rfl
  · change due ≤ (if s.timer.toNat < due then { s with timer := BitVec.ofNat 64 due } else s).timer.toNat
    split
    · exact (Nat.mod_eq_of_lt hmax).ge
    · next h => exact Nat.not_lt.mp h

theorem dieIdle_notes {die : Nat} (hcores : ∀ e, e ∈ s.heldCores → e.1.1 ≠ die) (hidle : die ∉ s.boot.idle) :
    Happens (.dieIdle die) s (fun t => t = { s with boot := { s.boot with idle := s.boot.idle ++ [die] } }) := by
  have hheld : s.heldCores.any (fun e => e.1.1 == die) = false := by simpa using hcores
  have hnoted : s.boot.idle.contains die = false := by simpa using hidle
  have hexec : exec (.dieIdle die) s = execDieIdle die s := rfl
  simp only [execDieIdle, hheld, hnoted, Bool.or_self, Bool.false_eq_true, if_false, ev] at hexec
  exact ⟨_, hexec, rfl⟩

end
end Sys2Proof.Proofs
end

section
namespace Sys2Proof.Proofs
open Sys2Proof.Machine Sys2Proof.Says Sys2Proof.Laws

/-! ## Launched groups (R126) -/

/-- Of groups written in order under keys that differ, each is as its own step wrote it. -/
theorem group_foldl_setGroup {key : Nat → Nat} (hkey : ∀ a b, key a = key b → a = b) (f : State → Nat → Group) (s : State) {n q : Nat} (hq : q < n) :
    ∃ u, ((List.range n).foldl (fun (t : State) i => t.setGroup (key i) (f t i)) s).group (key q) = f u q := by
  induction n with
  | zero => cases hq
  | succ n ih =>
    rw [List.range_succ, List.foldl_append, List.foldl_cons, List.foldl_nil]
    by_cases hn : q = n
    · subst hn
      exact ⟨_, group_setGroup_self ..⟩
    · rw [group_setGroup_ne _ _ fun h => hn (hkey _ _ h)]
      exact ih (by omega)

theorem launchGroups_rest (s : State) (j team : Nat) (e : VAddr) (a : DWord) :
    ∃ groups, s.launchGroups j team e a = { s with groups := groups } := setGroups_rest (fun q => gkey j team q) _ _ s

theorem launchGroups_group (s : State) (j team : Nat) (e : VAddr) (a : DWord) {q : Nat} (hq : q < (s.job j).jd.gpt) :
    ∃ p age slot, (s.launchGroups j team e a).group (gkey j team q) = { launchGroup (s.job j).jd j team q p age e a with slot := slot } := by
  have hkey : ∀ a b, gkey j team a = gkey j team b → a = b := fun a b h => Nat.add_left_cancel h
  obtain ⟨u, hu⟩ := group_foldl_setGroup hkey (fun t i =>
    { launchGroup (s.job j).jd j team i ((s.job j).jd.placeOf (s.team (tkey j team)).die (s.team (tkey j team)).core i) s.nextAge e a with
      slot := t.freeGs ((s.job j).jd.placeOf (s.team (tkey j team)).die (s.team (tkey j team)).core i) [] }) s hq
  exact ⟨_, _, _, hu⟩

section

variable (d : JobDesc) (j team q : Nat) (p : Place) (age slot : Nat) (e : VAddr) (a : DWord)

theorem launchGroup_sget : ({ launchGroup d j team q p age e a with slot := slot } : Group).sget 1 = a := getD_setD_self ..

theorem launchGroup_lane {l : Nat} (hl : l < d.width) :
    ({ launchGroup d j team q p age e a with slot := slot } : Group).lane l = { Lane.dead with pc := e, st := .run } := by
  change (List.replicate d.width { Lane.dead with pc := e, st := .run }).getD l Lane.dead = _
  rw [List.getD_eq_getElem?_getD, List.getElem?_replicate, if_pos hl]
  rfl

end

/-! ## The end of teams (R131, R204) -/

/-- The team that starts in another's place: it keeps its memory, barriers, tiles and stones. -/
def successor (x : Team) : Team := { x with chain := Chain.clear, latches := [], mill := [] }

theorem teamEnd_chains {s : State} {job tm : Nat} (hruns : s.teamRuns job tm = true) (hover : s.teamOver (tkey job tm) = true)
    (hchain : (s.team (tkey job tm)).chain.v = true) :
    let x := s.team (tkey job tm)
    Happens (.teamEnd job tm) s (fun t => t.mem = s.mem ∧ (t.team (tkey job tm)).mem = x.mem ∧ (t.team (tkey job tm)).bars = x.bars ∧
      (t.team (tkey job tm)).acc = x.acc ∧ (t.team (tkey job tm)).chain.v = false ∧
      ∀ q, q < (s.job job).jd.gpt → (t.group (gkey job tm q)).live = true ∧ (t.group (gkey job tm q)).sget 1 = x.chain.a ∧
        ∀ l, l < (s.job job).jd.width → (t.group (gkey job tm q)).lane l = { Lane.dead with pc := x.chain.e, st := .run }) := by
  intro x
  have hexec : exec (.teamEnd job tm) s = execTeamEnd job tm s := rfl
  simp only [execTeamEnd, hruns, hover, hchain, Bool.not_true, Bool.or_self, Bool.false_eq_true, if_false, if_true, ev] at hexec
  have hteam : (s.setTeam (tkey job tm) (successor x)).team (tkey job tm) = successor x := team_setTeam ..
  have hlaunched := fun q => launchGroups_group (s.setTeam (tkey job tm) (successor x)) job tm x.chain.e x.chain.a (q := q)
  obtain ⟨groups, hrest⟩ := launchGroups_rest (s.setTeam (tkey job tm) (successor x)) job tm x.chain.e x.chain.a
  refine ⟨(s.setTeam (tkey job tm) (successor x)).launchGroups job tm x.chain.e x.chain.a, hexec, ?_⟩
  have hkept : ((s.setTeam (tkey job tm) (successor x)).launchGroups job tm x.chain.e x.chain.a).team (tkey job tm) = successor x := by
    rw [hrest]
    exact hteam
  refine ⟨by rw [hrest]; rfl, by rw [hkept]; rfl, by rw [hkept]; rfl, by rw [hkept]; rfl, by rw [hkept]; rfl, fun q hq => ?_⟩
  obtain ⟨p, age, slot, hg⟩ := hlaunched q hq
  rw [hg]
  exact ⟨rfl, launchGroup_sget .., fun l hl => launchGroup_lane _ _ _ _ _ _ _ _ _ hl⟩

/-- Nothing of a job's teams stands once it has ended. -/
theorem endJob_team (s : State) (j : Nat) (st : JState) {tk : Nat} (h : tk / 65536 = j) : (s.endJob j st).team tk = Team.dead := by
  unfold State.endJob
  extract_lets jb s0 ofJob mine engines s1 idx s2 recs s3 s4 cores
  change getD Team.dead (s3.teams.filter (fun e => !(e.1 / 65536 == j))) tk = Team.dead
  rw [getD, lookup_filter (fun k => !(k / 65536 == j)), h, beq_self_eq_true]
  rfl

theorem team_postJob (s : State) (j kind low team : Nat) (x y : DWord) (k : Nat) : (s.postJob j kind low team x y).team k = s.team k := rfl

theorem endTeam_team (s : State) (j : Nat) {team : Nat} (h : team < 65536) : (s.endTeam j team).team (tkey j team) = Team.dead := by
  unfold State.endTeam
  extract_lets tk cs c t u
  have ht : t.team tk = Team.dead := team_setTeam ..
  split
  · split
    · rw [team_postJob]
      exact endJob_team _ _ _ (by unfold tkey; omega)
    · exact ht
  · exact ht

theorem teamEnd_gone {s : State} {job tm : Nat} (h : tm < 65536) (hruns : s.teamRuns job tm = true) (hover : s.teamOver (tkey job tm) = true)
    (hchain : (s.team (tkey job tm)).chain.v = false) : Happens (.teamEnd job tm) s (fun t => t.team (tkey job tm) = Team.dead) := by
  have hexec : exec (.teamEnd job tm) s = execTeamEnd job tm s := rfl
  simp only [execTeamEnd, hruns, hover, hchain, Bool.not_true, Bool.or_self, Bool.false_eq_true, if_false, ev] at hexec
  exact ⟨_, hexec, endTeam_team s job h⟩

/-- Settles O48: passes by what each of their moves keeps, a head with cores by its placement, deadline jobs and ends of teams by their own lemmas. -/
theorem scheduling : Obligations.Scheduling := by
  unfold Obligations.Scheduling
  refine ⟨⟨⟨fun s die core h => congrArg Host.Outcome.next (pass_nothingWaits h die), fun s die core j c => coreFree_places,
      fun s die h => distributorTimeUnit_idle h die, fun s die => ?_⟩,
    fun s job hlive hdc hwaits hhead halone => deadlineAccept_accepts ⟨hlive, hdc, hwaits, hhead, halone⟩,
    fun s job c => deadlineOverrun_reports, fun s die => dieIdle_notes⟩,
    fun s job tm hruns hover hchain _ => teamEnd_chains hruns hover hchain, fun s job tm => teamEnd_gone⟩
  exact ⟨_, exec_distributorTimeUnit s die, unitElapsed_timeUnit (pass_keeps _ die).timer⟩

end Sys2Proof.Proofs
end
